-- ==== Sys2Proof/Word.lean ====
section
/-!
DEFINITION. Sys2Proof/Word.lean: the byte, and the status codes of Table 0.5 that every request ends with.
-/
namespace Sys2Proof

/-- One byte. -/
abbrev Byte := BitVec 8

/-- The status codes of R14, Table 0.5. -/
inductive Status where
  | ok | bounds | indexRange | uncorrectable | aborted | format | epochStale | timeout | permission | peerLost
  | checkMismatch | degradedRefused
  deriving DecidableEq, Repr

/-- The code of a status (Table 0.5). -/
def Status.code : Status → Nat
  | .ok => 0 | .bounds => 1 | .indexRange => 2 | .uncorrectable => 3 | .aborted => 4 | .format => 5 | .epochStale => 6
  | .timeout => 7 | .permission => 8 | .peerLost => 9 | .checkMismatch => 10 | .degradedRefused => 11

/-- The status a code names; codes 0x0C to 0xFF are treated as failed requests (R15), read here as UNCORRECTABLE. -/
def Status.ofCode : Nat → Status
  | 0 => .ok | 1 => .bounds | 2 => .indexRange | 3 => .uncorrectable | 4 => .aborted | 5 => .format | 6 => .epochStale
  | 7 => .timeout | 8 => .permission | 9 => .peerLost | 10 => .checkMismatch | 11 => .degradedRefused
  | _ => .uncorrectable

end Sys2Proof
end

