-- ==== Sys2Proof/Syntax.lean ====
section
/-!
DEFINITION. Sys2Proof/Syntax.lean: the commands the block takes, one constructor of Instr for each row of the opcode table, and
the operand types that carry what comes from outside (packets, flits, register readers, results of analogue units).
-/
namespace Sys2Proof

/-- A packet: the header fields of Table 11.4 and the payload. len is the header's LEN; rsv collects the reserved bits. -/
structure Pkt where
  ptype : Nat
  vc : Nat := 0
  dclass : Bool := false
  retx : Bool := false
  detour : Bool := false
  dirlock : Bool := false
  detourDim : Nat := 0
  len : Nat := 0
  dst : Nat := 0
  src : Nat := 0
  job : Nat := 0
  ctx : Nat := 0
  tag : Nat := 0
  status : Nat := 0
  epoch : Nat := 0
  step : Nat := 0
  psn : Nat := 0
  hops : Nat := 0
  addr : Nat := 0
  aux : Nat := 0
  rsv : Nat := 0
  payload : List Byte := []
  deriving DecidableEq, Repr

/-- The three readers of CSR space that hold a latch each (R507): the host, Pip, and the scalar unit of a logical core. -/
inductive Reader where
  | host
  | pip
  | core (l : Nat)
  deriving DecidableEq, Repr

/-- What each end of a link sends its partner (R300, R519). dims is laid out as DIM_SIZE_M1. -/
structure PortIdent where
  serial : Nat
  dev : Nat
  idValid : Bool
  torusValid : Bool
  port : Nat
  variant : Nat
  dims : Nat
  deriving DecidableEq, Repr

/-- How a training attempt ends (Table 11.3): no signal, no lane locks, or the identity of the partner and the lanes that work at
both ends. -/
inductive TrainResult where
  | noPartner
  | noLanes
  | linked (id : PortIdent) (lanes : Nat)
  deriving DecidableEq, Repr

/-- Why a trained port loses its link (R307). -/
inductive LossCause where
  | laneLock
  | signal
  deriving DecidableEq, Repr

/-- A flit as it arrives: its 2,048 data bytes and the 8-byte trailer of Table 11.2, put together from the lanes, and how many of its codewords were
corrected and how many could not be. -/
structure Flit where
  data : List (BitVec 8)
  trailer : List (BitVec 8)
  corrected : Nat := 0
  uncorrectable : Nat := 0
  deriving DecidableEq, Repr

/-- How a management command reaches Pip (R327): the fabric block's mailbox, the sideband, or a MGMT packet. -/
inductive MgmtRoute where
  | mailbox
  | sideband
  | packet (src tag : Nat)
  deriving DecidableEq, Repr

/-- A management command at Pip: its route, the management context whose secured message it arrived in, its parameters, and the sequence number of
that message (R328). A command of the mailbox takes its parameters from MBOX_BUF. -/
structure MgmtReq where
  route : MgmtRoute
  session : Option Nat
  params : List Byte
  seq : Nat := 0
  deriving DecidableEq, Repr

/-- What host memory answers to a ring fetch (R376). -/
inductive RingData where
  | entry (d : List Byte)
  | poison
  | error
  deriving DecidableEq, Repr

/-- A read of the device's own that can time out (R386): of a ring, or of a load's or staging's source. -/
inductive HostReqId where
  | ring (queue : Nat)
  | source
  deriving DecidableEq, Repr

/-- How a bring-up stage ends (Tables 15.1, 15.2): passed; in stage 2 with the certificate chain that the certificate area holds for the DeviceID
key; where VCORE is trimmed, with the trims in mV that the monitors of dies 0 to 3 come to (R489); or with a failure of its analogue side. -/
inductive StageResult where
  | passed
  | identity (chain : Option (List Byte))
  | trimmed (trim : List Nat)
  | timeout
  | fault
  | format
  | stacks (failed : Nat)
  deriving DecidableEq, Repr

/-- A unit of the known-answer run (R435). -/
inductive KatUnit where
  /-- Engine of a physical core: 0 scalar, 1 vector, 2 dense, 3 sparse, 4 DMA. -/
  | engine (phys engine : Nat)
  /-- Unit of a cluster: 0 sampler, 1 sorter, 2 gather engine, 3 reduction unit. -/
  | unit (cluster unit : Nat)
  /-- Router adder or I/O-die unit. -/
  | adder (n : Nat)
  deriving DecidableEq, Repr

/-- A message of the MCTP sideband to the control or PLDM endpoint: instance number, and the bytes after the command code (R478, R479). -/
structure SbReq where
  inst : Nat
  data : List Byte
  deriving DecidableEq, Repr

/-- The paths on which Pip answers SPDM (R464). -/
inductive SpdmPath where
  | doe
  | sideband
  | mailbox
  | packet (src tag : Nat)
  deriving DecidableEq, Repr

/-- An SPDM request: its path, the session of the secured message it came in, the request's two parameters and what follows them; and what the
cryptography of the standard found in it: the requester's key (X then Y), the hash of its certificate, and whether it verifies; and the sequence
number of the secured message (R328). -/
structure SpdmReq where
  path : SpdmPath
  session : Option Nat
  param1 : Nat
  param2 : Nat
  body : List Byte
  key : List Byte
  certHash : List Byte
  verifies : Bool
  seq : Nat := 0
  deriving DecidableEq, Repr

/-- What the factory and the board put into a device before a power-on: the silicon, its fuses, and ranges of the flash (Tables 16.2, 16.3). -/
structure Fitting where
  variant : Nat
  stepping : Nat
  serial : Nat
  uds : List Byte
  lc : Nat
  fwKey : List Byte
  mfgKey : List Byte
  damsonKey : List Byte
  flash : List (Nat × List Byte)
  deriving DecidableEq, Repr

/-- The reference clocks (R496). -/
inductive RefClk where
  | cxl
  | fabric (ioDie : Nat)
  | hbm
  deriving DecidableEq, Repr

/-- The commands of the block, one constructor a row of the spec's table, in its order. -/
inductive Instr where
  /-- QIMG_START (R66). -/
  | qimgStart (vector : Nat)
  /-- QIMG_VERIFY_ONLY (R74). -/
  | qimgVerifyOnly (vector : Nat)
  /-- LOAD_VERIFY_PASS_END (R62). -/
  | loadVerifyPassEnd (src : Option (List Byte))
  /-- LOAD_FEED_QUERY_TIMEOUT (R64). -/
  | loadFeedQueryTimeout
  /-- LOAD_APPLY_PASS_END (R72). -/
  | loadApplyPassEnd (src : Option (List Byte))
  /-- SCALAR_INSTRUCTION (R77). -/
  | scalarInstruction (core : Nat)
  /-- ECALL (R81). -/
  | ecall (core : Nat)
  /-- PROG_DONE_SET (R81). -/
  | progDoneSet (core : Nat)
  /-- TD_ISSUE (R89). -/
  | tdIssue (core : Nat)
  /-- TD_FENCE (R81). -/
  | tdFence (core : Nat)
  /-- TD_RESUME (R105). -/
  | tdResume (core : Nat)
  /-- TD_STAT (R82). -/
  | tdStat (core : Nat)
  /-- TK_READ (R82). -/
  | tkRead (core : Nat)
  /-- TK_SET (R82). -/
  | tkSet (core : Nat)
  /-- TK_ADD (R82). -/
  | tkAdd (core : Nat)
  /-- TK_WAIT (R96). -/
  | tkWait (core : Nat)
  /-- TK_WAIT_TIMEOUT (R98). -/
  | tkWaitTimeout (core : Nat)
  /-- NS_READ (R82). -/
  | nsRead (core : Nat)
  /-- COPY (R91). -/
  | copy (core : Nat) (ctx : Nat)
  /-- GATHER (R175). -/
  | gather (core : Nat) (ctx : Nat)
  /-- SCATTER_ADD (R179). -/
  | scatterAdd (core : Nat) (ctx : Nat)
  /-- MATMUL (R196). -/
  | matmul (core : Nat) (ctx : Nat)
  /-- VECTOR (R109). -/
  | vector (core : Nat) (ctx : Nat)
  /-- SYNC (R88). -/
  | sync (core : Nat) (ctx : Nat)
  /-- TILE_WAIT_TIMEOUT (R98). -/
  | tileWaitTimeout (core : Nat) (ctx : Nat)
  /-- PARAM_HOLD_TIMEOUT (R256). -/
  | paramHoldTimeout (core : Nat) (ctx : Nat)
  /-- PROBE_HOLD_RELEASE (R518). -/
  | probeHoldRelease (index : Nat)
  /-- REMOTE_EXCHANGE_TIMEOUT (R518). -/
  | remoteExchangeTimeout (tag : Nat)
  /-- MATMUL_BLOCK (R200). -/
  | matmulBlock (core : Nat) (ctx : Nat) (seq : Nat)
  /-- SHADOW_DONE (R215). -/
  | shadowDone (core : Nat) (ctx : Nat) (seq : Nat)
  /-- SPARSE_FALLBACK (R210). -/
  | sparseFallback (core : Nat) (ctx : Nat) (seq : Nat)
  /-- TILE_COMPLETE (R104). -/
  | tileComplete (core : Nat) (ctx : Nat) (seq : Nat)
  /-- TOKEN_SIGNAL_APPLY (R100). -/
  | tokenSignalApply (index : Nat)
  /-- C0_RESUME (R105). -/
  | c0Resume (core : Nat)
  /-- C0_FLUSH (R105). -/
  | c0Flush (core : Nat)
  /-- C1_RESUME (R105). -/
  | c1Resume (core : Nat)
  /-- C1_FLUSH (R105). -/
  | c1Flush (core : Nat)
  /-- C0_CRING_TAIL_WRITE (R105). -/
  | c0CringTailWrite (core : Nat) (tail : Nat)
  /-- C0_CRING_CONFIG_WRITE (R107). -/
  | c0CringConfigWrite (core : Nat) (base : Nat) (log2 : Nat)
  /-- PRED_CLEAR (R213). -/
  | predClear (core : Nat)
  /-- NOP (R109). -/
  | nop (core : Nat)
  /-- END (R112). -/
  | endProg (core : Nat)
  /-- SLI (R109). -/
  | sli (core : Nat)
  /-- SADDI (R109). -/
  | saddi (core : Nat)
  /-- SADD (R109). -/
  | sadd (core : Nat)
  /-- SMUL (R109). -/
  | smul (core : Nat)
  /-- SSHLI (R109). -/
  | sshli (core : Nat)
  /-- SSHRI (R109). -/
  | sshri (core : Nat)
  /-- SBNZ (R113). -/
  | sbnz (core : Nat)
  /-- SBLT (R113). -/
  | sblt (core : Nat)
  /-- SLD (R129). -/
  | sld (core : Nat)
  /-- SCNT (R116). -/
  | scnt (core : Nat)
  /-- SVEXT (R115). -/
  | svext (core : Nat)
  /-- PWHILE (R116). -/
  | pwhile (core : Nat)
  /-- PAND (R117). -/
  | pand (core : Nat)
  /-- POR (R117). -/
  | por (core : Nat)
  /-- PXOR (R117). -/
  | pxor (core : Nat)
  /-- PNOT (R117). -/
  | pnot (core : Nat)
  /-- VCMP (R121). -/
  | vcmp (core : Nat)
  /-- VADD (R119). -/
  | vadd (core : Nat)
  /-- VSUB (R119). -/
  | vsub (core : Nat)
  /-- VMUL (R119). -/
  | vmul (core : Nat)
  /-- VFMA (R119). -/
  | vfma (core : Nat)
  /-- VFNMA (R119). -/
  | vfnma (core : Nat)
  /-- VDIV (R120). -/
  | vdiv (core : Nat)
  /-- VSQRT (R120). -/
  | vsqrt (core : Nat)
  /-- VMIN (R121). -/
  | vmin (core : Nat)
  /-- VMAX (R121). -/
  | vmax (core : Nat)
  /-- VABS (R120). -/
  | vabs (core : Nat)
  /-- VNEG (R120). -/
  | vneg (core : Nat)
  /-- VFMAWL (R119). -/
  | vfmawl (core : Nat)
  /-- VFMAWH (R119). -/
  | vfmawh (core : Nat)
  /-- VDOT4 (R119). -/
  | vdot4 (core : Nat)
  /-- VMOV (R115). -/
  | vmov (core : Nat)
  /-- VSEL (R117). -/
  | vsel (core : Nat)
  /-- VPERM (R115). -/
  | vperm (core : Nat)
  /-- VDUPS (R115). -/
  | vdups (core : Nat)
  /-- VIOTA (R115). -/
  | viota (core : Nat)
  /-- VIADD (R115). -/
  | viadd (core : Nat)
  /-- VISUB (R115). -/
  | visub (core : Nat)
  /-- VIMUL (R115). -/
  | vimul (core : Nat)
  /-- VIAND (R115). -/
  | viand (core : Nat)
  /-- VIOR (R115). -/
  | vior (core : Nat)
  /-- VIXOR (R115). -/
  | vixor (core : Nat)
  /-- VISHL (R115). -/
  | vishl (core : Nat)
  /-- VISHR (R115). -/
  | vishr (core : Nat)
  /-- VCVT (R122). -/
  | vcvt (core : Nat)
  /-- VCVTFI (R120). -/
  | vcvtfi (core : Nat)
  /-- VCVTIF (R119). -/
  | vcvtif (core : Nat)
  /-- VRSUM (R124). -/
  | vrsum (core : Nat)
  /-- VRSSQ (R124). -/
  | vrssq (core : Nat)
  /-- VRMV (R125). -/
  | vrmv (core : Nat)
  /-- VMVMERGE (R125). -/
  | vmvmerge (core : Nat)
  /-- VSEGSUM (R126). -/
  | vsegsum (core : Nat)
  /-- VRMAXI (R127). -/
  | vrmaxi (core : Nat)
  /-- VRMINI (R127). -/
  | vrmini (core : Nat)
  /-- VSMROW (R128). -/
  | vsmrow (core : Nat)
  /-- VSMEXP (R128). -/
  | vsmexp (core : Nat)
  /-- VSMSUM (R128). -/
  | vsmsum (core : Nat)
  /-- VEXP2 (R123). -/
  | vexp2 (core : Nat)
  /-- VLOG2 (R123). -/
  | vlog2 (core : Nat)
  /-- VRCP (R123). -/
  | vrcp (core : Nat)
  /-- VRSQRT (R123). -/
  | vrsqrt (core : Nat)
  /-- VTANH (R123). -/
  | vtanh (core : Nat)
  /-- VERF (R123). -/
  | verf (core : Nat)
  /-- VLD (R129). -/
  | vld (core : Nat)
  /-- VST (R112). -/
  | vst (core : Nat)
  /-- VLDB (R129). -/
  | vldb (core : Nat)
  /-- VGATHER (R129). -/
  | vgather (core : Nat)
  /-- VSCATTER (R130). -/
  | vscatter (core : Nat)
  /-- VSCATADD (R130). -/
  | vscatadd (core : Nat)
  /-- VSTC (R130). -/
  | vstc (core : Nat)
  /-- PLD (R129). -/
  | pld (core : Nat)
  /-- PST (R129). -/
  | pst (core : Nat)
  /-- VINSTR_BUDGET_EXCEEDED (R113). -/
  | vinstrBudgetExceeded (core : Nat)
  /-- SAMPLE (R144). -/
  | sample (queue : Nat)
  /-- HELD_SAMPLE_ACCEPT (R144). -/
  | heldSampleAccept (queue : Nat)
  /-- SAMPLE_COMMIT (R161). -/
  | sampleCommit (cluster : Nat) (block : Nat)
  /-- RELEASE (R145). -/
  | release (queue : Nat)
  /-- DRAW_REQ (R158). -/
  | drawReq (pkt : Pkt)
  /-- REMOTE_DRAW_TIMEOUT (R159). -/
  | remoteDrawTimeout (tag : Nat)
  /-- QENTRY_BAD_OP (R166). -/
  | qentryBadOp (queue : Nat)
  /-- SORT (R169). -/
  | sort (queue : Nat)
  /-- SORT_COMPLETE (R170). -/
  | sortComplete (cluster : Nat)
  /-- FETCH (R177). -/
  | fetch (queue : Nat)
  /-- FETCH_COMPLETE (R177). -/
  | fetchComplete (run : Nat)
  /-- ROW_REQ (R175). -/
  | rowReq (pkt : Pkt)
  /-- PEER_ROW_TIMEOUT (R176). -/
  | peerRowTimeout (tag : Nat)
  /-- CONTRIB (R181). -/
  | contrib (pkt : Pkt)
  /-- UPDATE_HOLD_TIMEOUT (R182). -/
  | updateHoldTimeout (index : Nat)
  /-- UPDATE_STEP_CLOSE (R184). -/
  | updateStepClose (table : Nat) (step : Nat)
  /-- UPDATE_CLOSE_TIMEOUT (R184). -/
  | updateCloseTimeout (table : Nat)
  /-- MIG_START (R189). -/
  | migStart (vector : Nat)
  /-- MIG_DRAIN_DONE (R190). -/
  | migDrainDone
  /-- MIG_COPY_DONE (R190). -/
  | migCopyDone
  /-- MIG_FENCE_HOLD_TIMEOUT (R191). -/
  | migFenceHoldTimeout (index : Nat)
  /-- PARAM_PREFETCH (R259). -/
  | paramPrefetch (core : Nat)
  /-- APPLY (R264). -/
  | apply (doorbell : Nat)
  /-- OPEN (R263). -/
  | openRegions (doorbell : Nat)
  /-- CLOSE (R263). -/
  | closeRegions (doorbell : Nat)
  /-- CLOSE_READERS_DONE (R263). -/
  | closeReadersDone (job : Nat)
  /-- APPLY_SLICE_START (R264). -/
  | applySliceStart (core : Nat) (job : Nat)
  /-- APPLY_SLICE_COMMIT (R264). -/
  | applySliceCommit (core : Nat)
  /-- PATROL_SCRUB (R284). -/
  | patrolScrub (unit : Nat)
  /-- STACK_LOST (R287). -/
  | stackLost (stack : Nat)
  /-- WIPE_DONE (R289). -/
  | wipeDone (bad : List Nat)
  /-- HDM_READ (R293). -/
  | hdmRead (addr : Nat) (len : Nat) (bar2 : Bool)
  /-- HDM_WRITE (R293). -/
  | hdmWrite (addr : Nat) (data : List Byte) (enables : List Bool) (poison : Bool) (bar2 : Bool)
  /-- INJECT_ARM (R295). -/
  | injectArm (word : Nat)
  /-- TRAINING_ATTEMPT (R304). -/
  | trainingAttempt (port : Nat)
  /-- TRAINING_END (R305). -/
  | trainingEnd (port : Nat) (result : TrainResult)
  /-- DOWN_PORT_RETRY (R304). -/
  | downPortRetry (port : Nat)
  /-- LINK_LOSS (R307). -/
  | linkLoss (port : Nat) (cause : LossCause)
  /-- PORT_RECORD_TIMER (R308). -/
  | portRecordTimer (port : Nat)
  /-- FLIT_RECEIVE (R303). -/
  | flitReceive (port : Nat) (flit : Flit)
  /-- FLIT_ACK_TIMEOUT (R303). -/
  | flitAckTimeout (port : Nat)
  /-- FLIT_ACK_TIMER (R303). -/
  | flitAckTimer (port : Nat)
  /-- CREDIT_RETURN_TIMER (R318). -/
  | creditReturnTimer (port : Nat)
  /-- LINK_CTRL (R318). -/
  | linkCtrl (port : Nat) (pkt : Pkt)
  /-- IDENT (R519). -/
  | ident (port : Nat) (pkt : Pkt)
  /-- PACKET_TRANSIT (R313). -/
  | packetTransit (port : Nat) (pkt : Pkt) (path : Nat)
  /-- WRITE (R310). -/
  | write (pkt : Pkt)
  /-- READ (R310). -/
  | read (pkt : Pkt)
  /-- PROBE (R90). -/
  | probe (pkt : Pkt)
  /-- TOKEN (R99). -/
  | token (pkt : Pkt)
  /-- QPOST (R326). -/
  | qpost (pkt : Pkt)
  /-- RESP (R325). -/
  | resp (pkt : Pkt)
  /-- CTX_ACK (R322). -/
  | ctxAck (pkt : Pkt)
  /-- CTX_RETX_TIMEOUT (R322). -/
  | ctxRetxTimeout (pctx : Nat)
  /-- PEER_OPEN (R320). -/
  | peerOpen (vector : Nat)
  /-- PEER_CLOSE (R324). -/
  | peerClose (vector : Nat)
  /-- CTX_OPEN (R320). -/
  | ctxOpen (pkt : Pkt)
  /-- CTX_OPEN_ACK (R320). -/
  | ctxOpenAck (pkt : Pkt)
  /-- CTX_OPEN_RESEND_TIMEOUT (R320). -/
  | ctxOpenResendTimeout (pctx : Nat)
  /-- PEER_CLOSE_DRAIN_DONE (R324). -/
  | peerCloseDrainDone (pctx : Nat)
  /-- PEER_CLOSE_TIMEOUT (R324). -/
  | peerCloseTimeout (pctx : Nat)
  /-- CTX_CLOSE (R324). -/
  | ctxClose (pkt : Pkt)
  /-- TAG_QUARANTINE_END (R325). -/
  | tagQuarantineEnd (tag : Nat)
  /-- MBOX_START (R327). -/
  | mboxStart (vector : Nat)
  /-- MBOX_TIMEOUT (R327). -/
  | mboxTimeout
  /-- MGMT_RESPONSE (R327). -/
  | mgmtResponse (pkt : Pkt)
  /-- MGMT_SESSION_IDLE_TIMEOUT (R328). -/
  | mgmtSessionIdleTimeout (session : Nat)
  /-- IDENTIFY (R517). -/
  | identify (req : MgmtReq)
  /-- FEED_QUERY (R517). -/
  | feedQuery (req : MgmtReq)
  /-- SPDM (R464). -/
  | spdm (req : MgmtReq)
  /-- PORT_REPORT (R517). -/
  | portReport (req : MgmtReq)
  /-- SET_TORUS (R312). -/
  | setTorus (req : MgmtReq)
  /-- SET_ID (R312). -/
  | setId (req : MgmtReq)
  /-- IMAGE_LOAD (R331). -/
  | imageLoad (req : MgmtReq)
  /-- RESET (R330). -/
  | reset (req : MgmtReq)
  /-- PORT_CTRL_RETRAIN (R307). -/
  | portCtrlRetrain (req : MgmtReq)
  /-- PORT_CTRL_DISABLE (R307). -/
  | portCtrlDisable (req : MgmtReq)
  /-- PORT_CTRL_ENABLE (R304). -/
  | portCtrlEnable (req : MgmtReq)
  /-- IMAGE_READ (R331). -/
  | imageRead (req : MgmtReq)
  /-- RED_POST (R337). -/
  | redPost (core : Nat)
  /-- RED_LEAF_READ (R337). -/
  | redLeafRead (cluster : Nat)
  /-- RED (R344). -/
  | red (pkt : Pkt)
  /-- FAIL (R343). -/
  | fail (pkt : Pkt)
  /-- NACK (R351). -/
  | nack (pkt : Pkt)
  /-- MARKER (R353). -/
  | marker (pkt : Pkt)
  /-- BACKUP_TIMEOUT (R347). -/
  | backupTimeout (index : Nat)
  /-- RED_WAIT_TIMEOUT (R348). -/
  | redWaitTimeout (index : Nat) (own : Bool)
  /-- EPOCH_SW_START (R350). -/
  | epochSwStart (word : Nat)
  /-- SUSPECT (R357). -/
  | suspect (pkt : Pkt)
  /-- SUSPECT_ENTRY_TIMER (R357). -/
  | suspectEntryTimer (entry : Nat)
  /-- SUSPECT_ENTRY_EXPIRY (R357). -/
  | suspectEntryExpiry (entry : Nat)
  /-- SUS_VALID_CLEAR (R357). -/
  | susValidClear (entry : Nat)
  /-- QUEUE_ENABLE (R371). -/
  | queueEnable (queue : Nat)
  /-- QUEUE_DISABLE (R371). -/
  | queueDisable (queue : Nat)
  /-- SUBMISSION_DOORBELL (R372). -/
  | submissionDoorbell (queue : Nat) (value : Nat)
  /-- COMPLETION_DOORBELL (R373). -/
  | completionDoorbell (queue : Nat) (value : Nat)
  /-- RING_FETCH (R372). -/
  | ringFetch (queue : Nat) (entry : RingData)
  /-- INT_HOLDOFF_EXPIRY (R374). -/
  | intHoldoffExpiry (vector : Nat)
  /-- EVQ_ENABLE (R378). -/
  | evqEnable (word : Nat)
  /-- EVQ_HEAD_WRITE (R378). -/
  | evqHeadWrite (value : Nat)
  /-- HDM_DECODER_COMMIT (R380). -/
  | hdmDecoderCommit (decoder : Nat) (base : Nat) (size : Nat) (ways : Nat) (skip : Nat) (lock : Bool)
  /-- DOE_REQUEST (R384). -/
  | doeRequest (inst : Nat) (object : List Byte)
  /-- DOE_ABORT (R384). -/
  | doeAbort (inst : Nat)
  /-- CXL_LINK_UP (R366). -/
  | cxlLinkUp (cxl : Bool) (width : Nat) (speed : Nat)
  /-- DL_ACTIVE_LOSS (R387). -/
  | dlActiveLoss
  /-- PERST_N_FALL (R440). -/
  | perstNFall
  /-- PERST_N_RISE (R430). -/
  | perstNRise
  /-- COMPLETION_TIMEOUT (R386). -/
  | completionTimeout (target : HostReqId)
  /-- CUT (R396). -/
  | cut (slot : Nat)
  /-- FRAME_BEGIN (R400). -/
  | frameBegin (pkt : Pkt)
  /-- FRAME_END (R400). -/
  | frameEnd (pkt : Pkt)
  /-- FRAME_ACK (R400). -/
  | frameAck (pkt : Pkt)
  /-- HEARTBEAT (R399). -/
  | heartbeat (pkt : Pkt)
  /-- HEARTBEAT_TIMER (R399). -/
  | heartbeatTimer (slot : Nat)
  /-- PARTNER_SILENCE_TIMEOUT (R404). -/
  | partnerSilenceTimeout (slot : Nat)
  /-- REBIND (R405). -/
  | rebind (slot : Nat)
  /-- REFILL_START (R406). -/
  | refillStart (slot : Nat)
  /-- REFILL_REQ (R406). -/
  | refillReq (pkt : Pkt)
  /-- REFILL_GRANT (R407). -/
  | refillGrant (pkt : Pkt)
  /-- REFILL_COMPLETE (R408). -/
  | refillComplete (pkt : Pkt)
  /-- REFILL_DONE (R406). -/
  | refillDone (pkt : Pkt)
  /-- CKPT_ACK (R412). -/
  | ckptAck (slot : Nat) (step : Nat)
  /-- REPLAY_ARM (R414). -/
  | replayArm (slot : Nat)
  /-- ZEST_REPORT (R422). -/
  | zestReport (pkt : Pkt)
  /-- ZEST_VERDICT (R423). -/
  | zestVerdict (pkt : Pkt)
  /-- ZEST_HOLD_TIMEOUT (R424). -/
  | zestHoldTimeout (slot : Nat)
  /-- DAMSON_LOAD (R418). -/
  | damsonLoad (vector : Nat) (src : Option (List Byte))
  /-- DAMSON_PATTERN (R419). -/
  | damsonPattern (core : Nat) (result : Option Nat)
  /-- POWER_ON (R429). -/
  | powerOn (feed : Nat) (smb : Nat) (fit : Option Fitting)
  /-- BRINGUP_STAGE_DONE (R429). -/
  | bringupStageDone (result : StageResult)
  /-- FW_CHUNK_REPORT (R433). -/
  | fwChunkReport (phys : Nat) (missing : Nat) (digestOk : Bool)
  /-- FW_REPORT_TIMEOUT (R433). -/
  | fwReportTimeout (phys : Nat)
  /-- KAT_DONE (R435). -/
  | katDone (unit : KatUnit) (crc : Nat)
  /-- KAT_TIMEOUT (R435). -/
  | katTimeout (phys : Nat)
  /-- CORE_RESET (R445). -/
  | coreReset (target : Nat) (reason : Nat)
  /-- CLUSTER_RESET (R445). -/
  | clusterReset (target : Nat) (reason : Nat)
  /-- PARTITION_RESET (R445). -/
  | partitionReset (target : Nat) (reason : Nat)
  /-- DEVICE_WARM_RESET (R448). -/
  | deviceWarmReset (reason : Nat)
  /-- DEVICE_COLD_RESET (R448). -/
  | deviceColdReset (reason : Nat)
  /-- QUIESCE_DONE (R445). -/
  | quiesceDone
  /-- QUIESCE_TIMEOUT (R445). -/
  | quiesceTimeout
  /-- FORCE_ACK_TIMEOUT (R445). -/
  | forceAckTimeout (block : Nat)
  /-- BOUNDARY_DRAIN_DONE (R445). -/
  | boundaryDrainDone
  /-- SYS_RST_N_INPUT (R443). -/
  | sysRstNInput
  /-- SYS_RST_N_STRETCH_END (R443). -/
  | sysRstNStretchEnd
  /-- PIP_WATCHDOG (R454). -/
  | pipWatchdog
  /-- THERM_TRIP (R494). -/
  | thermTrip
  /-- PWR_GOOD_FALL (R444). -/
  | pwrGoodFall
  /-- FW_STAGE_START (R458). -/
  | fwStageStart (vector : Nat) (src : Option (List Byte))
  /-- RECOVERY_WRITE (R459). -/
  | recoveryWrite (req : MgmtReq)
  /-- RECOVERY_COMMIT (R459). -/
  | recoveryCommit (req : MgmtReq)
  /-- STONE_INFO (R477). -/
  | stoneInfo (req : MgmtReq)
  /-- STONE_READ (R477). -/
  | stoneRead (req : MgmtReq)
  /-- STONE_RD_INDEX_WRITE (R477). -/
  | stoneRdIndexWrite (index : Nat)
  /-- STONE_RECORD_WRITE (R471). -/
  | stoneRecordWrite
  /-- KEY_ENROLL (R468). -/
  | keyEnroll (req : SpdmReq)
  /-- KEY_REVOKE (R468). -/
  | keyRevoke (req : SpdmReq)
  /-- SET_SIG_REQUIRED (R468). -/
  | setSigRequired (req : SpdmReq)
  /-- RAISE_MIN_SVN (R468). -/
  | raiseMinSvn (req : SpdmReq)
  /-- LC_TRANSITION (R467). -/
  | lcTransition (req : SpdmReq)
  /-- GET_SEALED_DEVID (R468). -/
  | getSealedDevid (req : SpdmReq)
  /-- GET_VERSION (R464). -/
  | getVersion (req : SpdmReq)
  /-- GET_CAPABILITIES (R464). -/
  | getCapabilities (req : SpdmReq)
  /-- NEGOTIATE_ALGORITHMS (R464). -/
  | negotiateAlgorithms (req : SpdmReq)
  /-- GET_DIGESTS (R464). -/
  | getDigests (req : SpdmReq)
  /-- GET_CERTIFICATE (R464). -/
  | getCertificate (req : SpdmReq)
  /-- CHALLENGE (R464). -/
  | challenge (req : SpdmReq)
  /-- GET_MEASUREMENTS (R464). -/
  | getMeasurements (req : SpdmReq)
  /-- KEY_EXCHANGE (R464). -/
  | keyExchange (req : SpdmReq)
  /-- FINISH (R328). -/
  | finish (req : SpdmReq)
  /-- HEARTBEAT_SPDM (R464). -/
  | heartbeatSpdm (req : SpdmReq)
  /-- KEY_UPDATE (R464). -/
  | keyUpdate (req : SpdmReq)
  /-- END_SESSION (R328). -/
  | endSession (req : SpdmReq)
  /-- CHUNK_SEND (R464). -/
  | chunkSend (req : SpdmReq)
  /-- CHUNK_GET (R464). -/
  | chunkGet (req : SpdmReq)
  /-- SET_ENDPOINT_ID (R478). -/
  | setEndpointId (req : SbReq)
  /-- GET_ENDPOINT_ID (R478). -/
  | getEndpointId (req : SbReq)
  /-- GET_MCTP_VERSION_SUPPORT (R478). -/
  | getMctpVersionSupport (req : SbReq)
  /-- GET_MESSAGE_TYPE_SUPPORT (R478). -/
  | getMessageTypeSupport (req : SbReq)
  /-- GET_VENDOR_DEFINED_MESSAGE_SUPPORT (R478). -/
  | getVendorDefinedMessageSupport (req : SbReq)
  /-- GETTID (R479). -/
  | gettid (req : SbReq)
  /-- SETTID (R479). -/
  | settid (req : SbReq)
  /-- GETPLDMVERSION (R479). -/
  | getpldmversion (req : SbReq)
  /-- GETPLDMTYPES (R479). -/
  | getpldmtypes (req : SbReq)
  /-- GETPLDMCOMMANDS (R479). -/
  | getpldmcommands (req : SbReq)
  /-- GETPDRREPOSITORYINFO (R479). -/
  | getpdrrepositoryinfo (req : SbReq)
  /-- GETPDR (R479). -/
  | getpdr (req : SbReq)
  /-- GETSENSORREADING (R479). -/
  | getsensorreading (req : SbReq)
  /-- GETSTATESENSORREADINGS (R479). -/
  | getstatesensorreadings (req : SbReq)
  /-- SETEVENTRECEIVER (R479). -/
  | seteventreceiver (req : SbReq)
  /-- EVENTMESSAGESUPPORTED (R479). -/
  | eventmessagesupported (req : SbReq)
  /-- EVENTMESSAGEBUFFERSIZE (R479). -/
  | eventmessagebuffersize (req : SbReq)
  /-- POLLFORPLATFORMEVENTMESSAGE (R479). -/
  | pollforplatformeventmessage (req : SbReq)
  /-- SENSOR_SAMPLE (R480). -/
  | sensorSample (sensor : Nat) (reading : Nat)
  /-- OP_REQ (R490). -/
  | opReq (value : Nat)
  /-- POWER_LIMIT (R492). -/
  | powerLimit (value : Nat)
  /-- OP_MOVE_STEP (R490). -/
  | opMoveStep (confirmed : Bool)
  /-- PACE_MONITOR_READ (R489). -/
  | paceMonitorRead (slack : List Nat) (second : Bool)
  /-- POWER_WINDOW_END (R493). -/
  | powerWindowEnd (watts : Nat)
  /-- RAIL_FAULT_ALERT (R487). -/
  | railFaultAlert (rail : Nat)
  /-- REFCLK_LOSS (R496). -/
  | refclkLoss (clock : RefClk)
  /-- RC_READ (R508). -/
  | rcRead (reader : Reader) (offset : Nat) (width : Nat)
  /-- CSR_HALF_READ (R507). -/
  | csrHalfRead (reader : Reader) (offset : Nat)
  /-- CSR_WRITE (R506). -/
  | csrWrite (reader : Reader) (offset : Nat) (width : Nat) (value : Nat)
  /-- CTX_ACK_TIMER (R322). -/
  | ctxAckTimer (pctx : Nat)
  /-- IMAGE_READ_TIMEOUT (R331). -/
  | imageReadTimeout (tag : Nat)
  /-- REBIND_FEED_QUERY_TIMEOUT (R405). -/
  | rebindFeedQueryTimeout (slot : Nat)
  /-- COMPUTE_DIE_LOST (R403). -/
  | computeDieLost (die : Nat)
  deriving DecidableEq, Repr

end Sys2Proof
end

