-- ==== Sys2Proof/Decode.lean ====
section
/-!
DEFINITION. Sys2Proof/Decode.lean: the command a word of the opcode table spells. The table gives no row any bits: commands reach the
block through register accesses, packets, rings and pins, not as words, so no word spells one.
-/
namespace Sys2Proof

/-- The command that an nbits-bit word spells by the table's bits: none, since no row of the table has bits. -/
def decodeTableWord (_nbits _w : Nat) : Option Instr := none

end Sys2Proof
end

