-- ==== Sys2Proof/Machine/Bits.lean ====
section
/-!
DEFINITION. Sys2Proof/Machine/Bits.lean: bit fields, byte order and the arithmetic helpers every table is read with.
R8 makes every multi-byte value little-endian unless a rule says otherwise.
-/
namespace Sys2Proof.Machine

/-- Bits [hi:lo] of v, numbered as the spec numbers them. -/
def bits (v hi lo : Nat) : Nat := v / 2 ^ lo % 2 ^ (hi + 1 - lo)

/-- Bit i of v. -/
def bit (v i : Nat) : Bool := v / 2 ^ i % 2 == 1

/-- A Bool as a bit. -/
def b2n (b : Bool) : Nat := if b then 1 else 0

/-- v with bits [lo+w-1:lo] replaced by x. -/
def setBits (v lo w x : Nat) : Nat :=
  v / 2 ^ (lo + w) * 2 ^ (lo + w) + x % 2 ^ w * 2 ^ lo + v % 2 ^ lo

/-- The unsigned value of bytes, lowest address first (R8). -/
def leNat : List Byte → Nat
  | [] => 0
  | b :: t => b.toNat + 256 * leNat t

/-- The n bytes of v, lowest address first (R8). -/
def toLE : Nat → Nat → List Byte
  | 0, _ => []
  | n + 1, v => BitVec.ofNat 8 v :: toLE n (v / 256)

/-- The unsigned value of bytes, highest first (the signature values of R59). -/
def beNat (l : List Byte) : Nat := l.foldl (fun a b => a * 256 + b.toNat) 0

/-- The n bytes of v, highest first. -/
def toBE (n v : Nat) : List Byte := (toLE n v).reverse

/-- n bytes of l from offset off. -/
def slice (l : List Byte) (off n : Nat) : List Byte := (l.drop off).take n

/-- The little-endian field of n bytes at offset off. -/
def fld (l : List Byte) (off n : Nat) : Nat := leNat (slice l off n)

/-- Bits [hi:lo] of the little-endian field of n bytes at offset off. -/
def fbits (l : List Byte) (off n hi lo : Nat) : Nat := bits (fld l off n) hi lo

/-- Bit i of the little-endian field of n bytes at offset off. -/
def fbit (l : List Byte) (off n i : Nat) : Bool := bit (fld l off n) i

/-- n zero bytes. -/
def zeros (n : Nat) : List Byte := List.replicate n 0

/-- Every byte is zero. -/
def allZero (l : List Byte) : Bool := l.all (· == 0)

/-- l with the bytes at offset off replaced by d. -/
def patch (l : List Byte) (off : Nat) (d : List Byte) : List Byte :=
  l.take off ++ d ++ l.drop (off + d.length)

/-- l cut or filled with zeros to n bytes. -/
def fit (l : List Byte) (n : Nat) : List Byte := l.take n ++ zeros (n - l.length)

/-- The signed value of the low w bits of v. -/
def signed (w v : Nat) : Int :=
  let x := v % 2 ^ w
  if x < 2 ^ (w - 1) then (x : Int) else (x : Int) - (2 ^ w : Nat)

/-- The w-bit two's complement of an integer. -/
def wrap (w : Nat) (i : Int) : Nat := (i % ((2 ^ w : Nat) : Int)).toNat

/-- v rounded up to a multiple of m. -/
def roundUp (v m : Nat) : Nat := (v + m - 1) / m * m

/-- The ranges [a, a+n) and [b, b+m) share an address. -/
def overlaps (a n b m : Nat) : Bool := max a b < min (a + n) (b + m)

/-- [a, a+n) lies wholly in [b, b+m). -/
def within (a n b m : Nat) : Bool := b ≤ a && a + n ≤ b + m

/-- The number of one bits among the low n bits of v. -/
def popcount : Nat → Nat → Nat
  | 0, _ => 0
  | n + 1, v => v % 2 + popcount n (v / 2)

/-- The indices below n of the one bits of v, ascending. -/
def onesOf (n v : Nat) : List Nat := (List.range n).filter (fun i => bit v i)

/-- Exclusive or, and, or of numbers as bit strings. -/
def bxor (a b : Nat) : Nat := Nat.xor a b

/-- l cut into pieces of n elements; the last may be shorter. -/
def chunksAux {α : Type} (n : Nat) : Nat → List α → List (List α)
  | 0, _ => []
  | _ + 1, [] => []
  | k + 1, l => l.take n :: chunksAux n k (l.drop n)

/-- l cut into pieces of n elements (n positive). -/
def chunks {α : Type} (n : Nat) (l : List α) : List (List α) := chunksAux n (l.length + 1) l

/-- The numbers of two lists have no repeat. -/
def noDup : List Nat → Bool
  | [] => true
  | a :: t => !t.contains a && noDup t

end Sys2Proof.Machine
end

