-- ==== Sys2Proof/Machine/Crypto.lean ====
section
/-!
DEFINITION. Sys2Proof/Machine/Crypto.lean: the checks and generators the spec names by their standards: CRC-32C, CRC-64,
SHA-384, HMAC, ECDSA on P-384 and Philox4x32-10 (R41, R59, R147 and the CRC rules of chapters 11, 12, 14 and 15).
-/
namespace Sys2Proof.Machine

/-- One bit step of a reflected CRC with polynomial p. -/
def crcBit (p c : Nat) : Nat := if c % 2 = 1 then bxor (c / 2) p else c / 2

/-- Eight bit steps. -/
def crcByte (p c : Nat) (b : Byte) : Nat :=
  let x := bxor c b.toNat
  crcBit p (crcBit p (crcBit p (crcBit p (crcBit p (crcBit p (crcBit p (crcBit p x)))))))

/-- CRC-32C (Castagnoli), reflected, initial value and final inversion all ones. -/
def crc32c (l : List Byte) : Nat := bxor (l.foldl (crcByte 0x82F63B78) 0xFFFFFFFF) 0xFFFFFFFF

/-- One bit step of the unreflected CRC-64 of R354. -/
def crc64Bit (c : Nat) : Nat :=
  if c / 2 ^ 63 % 2 = 1 then bxor (c * 2 % 2 ^ 64) 0x42F0E1EBA9EA3693 else c * 2 % 2 ^ 64

/-- One byte into the CRC-64. -/
def crc64Byte (c : Nat) (b : Byte) : Nat :=
  let x := bxor c (b.toNat * 2 ^ 56)
  crc64Bit (crc64Bit (crc64Bit (crc64Bit (crc64Bit (crc64Bit (crc64Bit (crc64Bit x)))))))

/-- The CRC-64 of R354: polynomial 0x42F0_E1EB_A9EA_3693, initial value 0, no reflection, no final inversion. -/
def crc64 (l : List Byte) : Nat := l.foldl crc64Byte 0

/-- The integer root of degree k of x, found bit by bit from bit n - 1 down; r holds the bits found. -/
def rootBits (k x : Nat) : Nat → Nat → Nat
  | 0, r => r
  | n + 1, r => rootBits k x n (if (r + 2 ^ n) ^ k ≤ x then r + 2 ^ n else r)

/-- The first 64 bits of the fractional part of the root of degree k of p, for a root below 32. -/
def rootFrac (k p : Nat) : BitVec 64 := BitVec.ofNat 64 (rootBits k (p * 2 ^ (64 * k)) 69 0)

/-- The primes below n, ascending. -/
def primesBelow (n : Nat) : List Nat := (List.range n).filter (fun p => 2 ≤ p && !(List.range p).any (fun d => 2 ≤ d && p % d == 0))

/-- The 80 round constants of SHA-384, as FIPS 180-4 defines them: from the cube roots of the first 80 primes, of which 409 is the last. -/
def shaK : List (BitVec 64) := (primesBelow 410).map (rootFrac 3)

/-- The message schedule: each new word from the last sixteen, newest first. -/
def shaSched : Nat → List (BitVec 64) → List (BitVec 64)
  | 0, w => w
  | n + 1, w =>
    let a := w.getD 1 0
    let b := w.getD 14 0
    let s1 := a.rotateRight 19 ^^^ a.rotateRight 61 ^^^ (a >>> 6)
    let s0 := b.rotateRight 1 ^^^ b.rotateRight 8 ^^^ (b >>> 7)
    shaSched n ((s1 + w.getD 6 0 + s0 + w.getD 15 0) :: w)

/-- The eight working words. -/
structure ShaSt where
  a : BitVec 64
  b : BitVec 64
  c : BitVec 64
  d : BitVec 64
  e : BitVec 64
  f : BitVec 64
  g : BitVec 64
  h : BitVec 64
  deriving DecidableEq, Repr

/-- One round. -/
def shaRound (s : ShaSt) (kw : BitVec 64 × BitVec 64) : ShaSt :=
  let S1 := s.e.rotateRight 14 ^^^ s.e.rotateRight 18 ^^^ s.e.rotateRight 41
  let ch := (s.e &&& s.f) ^^^ (~~~s.e &&& s.g)
  let t1 := s.h + S1 + ch + kw.1 + kw.2
  let S0 := s.a.rotateRight 28 ^^^ s.a.rotateRight 34 ^^^ s.a.rotateRight 39
  let mj := (s.a &&& s.b) ^^^ (s.a &&& s.c) ^^^ (s.b &&& s.c)
  ⟨t1 + (S0 + mj), s.a, s.b, s.c, s.d + t1, s.e, s.f, s.g⟩

/-- One 128-byte block. -/
def shaBlock (s : ShaSt) (blk : List Byte) : ShaSt :=
  let w0 := ((chunks 8 blk).map (fun x => BitVec.ofNat 64 (beNat x))).reverse
  let w := (shaSched 64 w0).reverse
  let r := (shaK.zip w).foldl shaRound s
  ⟨s.a + r.a, s.b + r.b, s.c + r.c, s.d + r.d, s.e + r.e, s.f + r.f, s.g + r.g, s.h + r.h⟩

/-- The initial words of SHA-384, as FIPS 180-4 defines them: from the square roots of the ninth to the sixteenth prime. -/
def shaInit : ShaSt :=
  ⟨rootFrac 2 23, rootFrac 2 29, rootFrac 2 31, rootFrac 2 37, rootFrac 2 41, rootFrac 2 43, rootFrac 2 47, rootFrac 2 53⟩

/-- SHA-384, 48 bytes. -/
def sha384 (m : List Byte) : List Byte :=
  let pad := (111 + 128 - m.length % 128) % 128
  let msg := m ++ [0x80] ++ zeros pad ++ toBE 16 (8 * m.length)
  let s := (chunks 128 msg).foldl shaBlock shaInit
  toBE 8 s.a.toNat ++ toBE 8 s.b.toNat ++ toBE 8 s.c.toNat ++ toBE 8 s.d.toNat ++ toBE 8 s.e.toNat ++ toBE 8 s.f.toNat

/-- HMAC with SHA-384. -/
def hmac384 (key msg : List Byte) : List Byte :=
  let k := fit (if key.length > 128 then sha384 key else key) 128
  sha384 (k.map (· ^^^ 0x5C) ++ sha384 (k.map (· ^^^ 0x36) ++ msg))

/-- b to the e modulo m, by the bits of e. -/
def powMod (m : Nat) : Nat → Nat → Nat → Nat
  | 0, _, _ => 1 % m
  | n + 1, b, e =>
    let r := powMod m n (b * b % m) (e / 2)
    if e % 2 = 1 then b * r % m else r

/-- The prime of P-384. -/
def p384P : Nat := 2 ^ 384 - 2 ^ 128 - 2 ^ 96 + 2 ^ 32 - 1
/-- The order of P-384's base point. -/
def p384N : Nat := 0xffffffffffffffffffffffffffffffffffffffffffffffffc7634d81f4372ddf581a0db248b0a77aecec196accc52973
/-- The curve constant b. -/
def p384B : Nat := 0xb3312fa7e23ee7e4988e056be3f82d19181d9c6efe8141120314088f5013875ac656398d8a2ed19d2a85c8edd3ec2aef
/-- The base point, x. -/
def p384Gx : Nat := 0xaa87ca22be8b05378eb1c71ef320ad746e1d3b628ba79b9859f741e082542a385502f25dbf55296c3a545e3872760ab7
/-- The base point, y. -/
def p384Gy : Nat := 0x3617de4a96262c6f5d9e98bf9292dc29f8f41dbd289a147ce9da3113b5f0b8c00a60b1ce1d7e819d7a431d7c90ea0e5f

/-- A point; none is the point at infinity. -/
abbrev EcPt := Option (Nat × Nat)

/-- The inverse modulo the prime m. -/
def invMod (m a : Nat) : Nat := powMod m 384 (a % m) (m - 2)

/-- The sum of two points of P-384. -/
def ecAdd : EcPt → EcPt → EcPt
  | none, q => q
  | p, none => p
  | some (x1, y1), some (x2, y2) =>
    let P := p384P
    if x1 = x2 ∧ (y1 + y2) % P = 0 then none
    else
      let l := if x1 = x2 then (3 * x1 * x1 + (P - 3)) * invMod P (2 * y1) % P
               else (y2 + P - y1) * invMod P (x2 + P - x1) % P
      let x3 := (l * l + 2 * P - x1 - x2) % P
      some (x3, (l * (x1 + P - x3) + P - y1) % P)

/-- k times a point, by the n low bits of k. -/
def ecMul : Nat → Nat → EcPt → EcPt
  | 0, _, _ => none
  | n + 1, k, p => let r := ecMul n (k / 2) (ecAdd p p); if k % 2 = 1 then ecAdd p r else r

/-- ECDSA on P-384 with SHA-384: the signature (r, s) of message msg verifies under the key (x, y). -/
def ecdsaVerify (x y r s : Nat) (msg : List Byte) : Bool :=
  let n := p384N
  let onCurve := x < p384P && y < p384P && (y * y) % p384P == (x * x * x + (p384P - 3) * x + p384B) % p384P
  if !onCurve || r = 0 || s = 0 || n ≤ r || n ≤ s then false
  else
    let e := beNat (sha384 msg)
    let w := powMod n 384 s (n - 2)
    match ecAdd (ecMul 384 (e * w % n) (some (p384Gx, p384Gy))) (ecMul 384 (r * w % n) (some (x, y))) with
    | none => false
    | some (px, _) => px % n == r

/-- One round of Philox4x32. -/
def philoxRound (c : Nat × Nat × Nat × Nat) (k0 k1 : Nat) : Nat × Nat × Nat × Nat :=
  let p0 := 0xD2511F53 * c.1
  let p1 := 0xCD9E8D57 * c.2.2.1
  (bxor (bxor (p1 / 2 ^ 32) c.2.1) k0, p1 % 2 ^ 32, bxor (bxor (p0 / 2 ^ 32) c.2.2.2) k1, p0 % 2 ^ 32)

/-- n rounds of Philox4x32, the key bumped after each. -/
def philoxRounds : Nat → Nat → Nat → Nat × Nat × Nat × Nat → Nat × Nat × Nat × Nat
  | 0, _, _, c => c
  | n + 1, k0, k1, c =>
    philoxRounds n ((k0 + 0x9E3779B9) % 2 ^ 32) ((k1 + 0xBB67AE85) % 2 ^ 32) (philoxRound c k0 k1)

/-- Philox4x32-10 of a 64-bit key and a 128-bit counter given as four words, lowest first (R147). -/
def philox (key : Nat) (c0 c1 c2 c3 : Nat) : Nat × Nat × Nat × Nat :=
  philoxRounds 10 (key % 2 ^ 32) (key / 2 ^ 32 % 2 ^ 32) (c0 % 2 ^ 32, c1 % 2 ^ 32, c2 % 2 ^ 32, c3 % 2 ^ 32)

end Sys2Proof.Machine
end

