-- ==== Sys2Proof/Machine/Float.lean ====
section
/-!
DEFINITION. Sys2Proof/Machine/Float.lean: the four formats, exact values, the two rounding modes and the function operations
(R222 to R230, R119 to R123).
-/
namespace Sys2Proof.Machine

/-- Element formats, Table 3.6; raw (code 0) is 32-bit integers or bytes. -/
inductive Fmt where
  | raw | e8m7 | f16 | f32 | e4m3
  deriving DecidableEq, Repr

/-- The format of a code of Table 3.6. -/
def Fmt.ofCode : Nat → Option Fmt
  | 0 => some .raw | 1 => some .e8m7 | 2 => some .f16 | 3 => some .f32 | 4 => some .e4m3
  | _ => none

/-- The code of a format. -/
def Fmt.code : Fmt → Nat
  | .raw => 0 | .e8m7 => 1 | .f16 => 2 | .f32 => 3 | .e4m3 => 4

/-- Element bytes (Table 3.6; raw operations of the vector engine move 4-byte lanes). -/
def Fmt.bytes : Fmt → Nat
  | .raw => 4 | .e8m7 => 2 | .f16 => 2 | .f32 => 4 | .e4m3 => 1

/-- Exponent bits (Table 8.1). -/
def Fmt.eb : Fmt → Nat
  | .raw => 8 | .e8m7 => 8 | .f16 => 5 | .f32 => 8 | .e4m3 => 4

/-- Fraction bits F (Table 8.1). -/
def Fmt.fb : Fmt → Nat
  | .raw => 23 | .e8m7 => 7 | .f16 => 10 | .f32 => 23 | .e4m3 => 3

/-- The exponent bias (Table 8.1). -/
def Fmt.bias (f : Fmt) : Nat := 2 ^ (f.eb - 1) - 1

/-- The code of the largest finite value (Table 4.5). -/
def Fmt.largest : Fmt → Nat
  | .raw => 0x7F7FFFFF | .e8m7 => 0x7F7F | .f16 => 0x7BFF | .f32 => 0x7F7FFFFF | .e4m3 => 0x7E

/-- The canonical NaN (Table 4.5). -/
def Fmt.nan : Fmt → Nat
  | .raw => 0x7FC00000 | .e8m7 => 0x7FC0 | .f16 => 0x7E00 | .f32 => 0x7FC00000 | .e4m3 => 0x7F

/-- The sign bit's place. -/
def Fmt.signBit (f : Fmt) : Nat := f.eb + f.fb

/-- A number held exactly: (-1)^neg * m * 2^e, or with sticky a magnitude strictly between m and m + 1 units of 2^e. -/
structure Exact where
  neg : Bool
  m : Nat
  e : Int
  sticky : Bool := false
  deriving DecidableEq, Repr

/-- A value read from a format: a NaN or a number. -/
inductive FVal where
  | nan
  | num (x : Exact)
  deriving DecidableEq, Repr

/-- The value of code c in format f (R222); an infinity is read as the largest finite value (R223). -/
def Fmt.decode (f : Fmt) (c : Nat) : FVal :=
  let neg := bit c f.signBit
  let mag := c % 2 ^ f.signBit
  let val := fun (g : Nat) =>
    let ex := g / 2 ^ f.fb
    let fr := g % 2 ^ f.fb
    if ex = 0 then FVal.num ⟨neg, fr, 1 - (f.bias : Int) - f.fb, false⟩
    else FVal.num ⟨neg, fr + 2 ^ f.fb, (ex : Int) - f.bias - f.fb, false⟩
  if mag ≤ f.largest then val mag
  else if f ≠ .e4m3 ∧ mag % 2 ^ f.fb = 0 then val f.largest
  else .nan

/-- Code c is an infinity of format f. -/
def Fmt.isInf (f : Fmt) (c : Nat) : Bool :=
  let mag := c % 2 ^ f.signBit
  f != .e4m3 && f != .raw && mag == (2 ^ f.eb - 1) * 2 ^ f.fb

/-- A written element: its code, the saturations counted and the NaNs counted. -/
structure Elem where
  code : Nat
  sat : Nat := 0
  nan : Nat := 0
  deriving DecidableEq, Repr

/-- The canonical NaN, counted. -/
def Fmt.nanElem (f : Fmt) : Elem := ⟨f.nan, 0, 1⟩

/-- The bit length of m. -/
def bitLen (m : Nat) : Nat := if m = 0 then 0 else Nat.log2 m + 1

/-- Rounding modes of the VV form. -/
inductive RMode where
  | rne
  | sr (key : Nat) (ctr : Nat × Nat × Nat × Nat)
  deriving DecidableEq, Repr

/-- The magnitude code of sig * 2^q, sig holding at most F + 1 bits once normalised. -/
def Fmt.magCode (f : Fmt) (sig : Nat) (q : Int) : Nat :=
  let norm := if 2 ^ (f.fb + 1) ≤ sig then (sig / 2, q + 1) else (sig, q)
  if norm.1 < 2 ^ f.fb then norm.1
  else ((norm.2 + f.fb + f.bias).toNat) * 2 ^ f.fb + (norm.1 - 2 ^ f.fb)

/-- One rounding of an exact number to format f (R226, R227): the quantum is the spacing at the number's exponent, at least
the subnormal spacing; RNE breaks ties to even, SR compares w0 of the generator with the part cut off. -/
def Fmt.round (f : Fmt) (rm : RMode) (v : Exact) : Elem :=
  let s := if v.neg then 2 ^ f.signBit else 0
  if v.m = 0 ∧ v.sticky = false then ⟨s, 0, 0⟩
  else
    let q : Int := max ((bitLen v.m : Int) - 1 + v.e - f.fb) (1 - (f.bias : Int) - f.fb)
    let big : Elem := ⟨s + f.largest, 1, 0⟩
    if q ≤ v.e then
      -- representable exactly but for the exponent range
      let c := f.magCode (v.m * 2 ^ (v.e - q).toNat) q
      if f.largest < c then big
      else if v.sticky = false then ⟨s + c, 0, 0⟩
      else match rm with
        | .rne => ⟨s + c, 0, 0⟩
        | .sr _ _ => if c = f.largest then big else ⟨s + c, 0, 0⟩
    else
      let k := (q - v.e).toNat
      let sig := v.m / 2 ^ k
      let rem := v.m % 2 ^ k
      let exact := rem == 0 && !v.sticky
      match rm with
      | .rne =>
        let up := 2 ^ (k - 1) < rem || (rem == 2 ^ (k - 1) && (v.sticky || sig % 2 == 1))
        let c := f.magCode (if up then sig + 1 else sig) q
        if f.largest < c then big else ⟨s + c, 0, 0⟩
      | .sr key ctr =>
        let c := f.magCode sig q
        if f.largest < c ∨ (c = f.largest ∧ exact = false) then big
        else if exact then ⟨s + c, 0, 0⟩
        else
          let t := rem * 2 ^ 32 / 2 ^ k
          let w0 := (philox key ctr.1 ctr.2.1 ctr.2.2.1 ctr.2.2.2).1
          if w0 < t then ⟨s + f.magCode (sig + 1) q, 0, 0⟩ else ⟨s + c, 0, 0⟩

/-- The rounding of a value: a NaN gives the canonical NaN, counted (R120). -/
def Fmt.roundV (f : Fmt) (rm : RMode) : FVal → Elem
  | .nan => f.nanElem
  | .num x => f.round rm x

/-- The key and counter of R229 and Table 8.2 for tensor t, step s, element index i and position p. -/
def srMode (seed tensor step i p : Nat) : RMode :=
  .sr (bxor (seed % 2 ^ 64) (tensor % 2 ^ 32 * 2 ^ 32))
    (step % 2 ^ 32, i % 2 ^ 32, bits i 55 32 + bits p 7 0 * 2 ^ 24, bits p 23 8 + 5 * 2 ^ 28)

/-- The sum of two exact numbers; an exact zero sum is +0 but for (-0) + (-0) (R120, R228). -/
def Exact.add (a b : Exact) : Exact :=
  let e := min a.e b.e
  let x : Int := (if a.neg then -1 else 1) * ((a.m * 2 ^ (a.e - e).toNat : Nat) : Int)
  let y : Int := (if b.neg then -1 else 1) * ((b.m * 2 ^ (b.e - e).toNat : Nat) : Int)
  let z := x + y
  ⟨if z = 0 then a.m == 0 && b.m == 0 && a.neg && b.neg else z < 0, z.natAbs, e, false⟩

/-- The product. -/
def Exact.mul (a b : Exact) : Exact := ⟨a.neg != b.neg, a.m * b.m, a.e + b.e, false⟩

/-- The negated number. -/
def Exact.negate (a : Exact) : Exact := ⟨!a.neg, a.m, a.e, a.sticky⟩

/-- The quotient of numbers, b not zero. -/
def Exact.div (a b : Exact) : Exact :=
  let s := 128 + bitLen b.m
  ⟨a.neg != b.neg, a.m * 2 ^ s / b.m, a.e - b.e - s, a.m * 2 ^ s % b.m != 0⟩

/-- The integer square root, bit by bit from bit n - 1. -/
def isqrtAux (m : Nat) : Nat → Nat → Nat
  | 0, r => r
  | n + 1, r => let c := r + 2 ^ n; isqrtAux m n (if c * c ≤ m then c else r)

/-- The largest r with r * r at most m. -/
def isqrt (m : Nat) : Nat := isqrtAux m (bitLen m / 2 + 1) 0

/-- The square root of a number that is not negative. -/
def Exact.sqrt (a : Exact) : Exact :=
  let odd := a.e % 2 == 1
  let m := (if odd then 2 * a.m else a.m) * 2 ^ 256
  let e := (if odd then a.e - 1 else a.e) - 256
  let r := isqrt m
  ⟨a.neg, r, e / 2, r * r != m⟩

/-- Two-operand lifting: a NaN operand gives a NaN. -/
def FVal.lift2 (f : Exact → Exact → FVal) : FVal → FVal → FVal
  | .num a, .num b => f a b
  | _, _ => .nan

/-- Exact sum of values. -/
def FVal.add : FVal → FVal → FVal := FVal.lift2 (fun a b => .num (a.add b))
/-- Exact product of values. -/
def FVal.mul : FVal → FVal → FVal := FVal.lift2 (fun a b => .num (a.mul b))
/-- The value negated. -/
def FVal.negate : FVal → FVal
  | .nan => .nan
  | .num a => .num a.negate

/-- The order of R121 as an integer key for numbers: -0 below +0. -/
def Fmt.orderKey (f : Fmt) (c : Nat) : Int :=
  let mag := min (c % 2 ^ f.signBit) f.largest
  if bit c f.signBit then -(mag : Int) - 1 else (mag : Int)

/-- Code c is a NaN. -/
def Fmt.isNan (f : Fmt) (c : Nat) : Bool := f.decode c == .nan

/-- A zero quotient or an infinite one, or the quotient (R120). -/
def FVal.div (f : Fmt) (rm : RMode) : FVal → FVal → Elem
  | .num a, .num b =>
    if b.m = 0 then
      if a.m = 0 then f.nanElem
      else ⟨(if a.neg != b.neg then 2 ^ f.signBit else 0) + f.largest, 1, 0⟩
    else f.round rm (if a.m = 0 then ⟨a.neg != b.neg, 0, 0, false⟩ else a.div b)
  | _, _ => f.nanElem

/-- The square root by R120. -/
def FVal.sqrt (f : Fmt) (rm : RMode) : FVal → Elem
  | .num a => if a.m = 0 then f.round rm a else if a.neg then f.nanElem else f.round rm a.sqrt
  | .nan => f.nanElem

/-- Working precision of the function operations: 2^-256. -/
def fxP : Nat := 256
/-- ln 2 in units of 2^-256. -/
def fxLn2 : Nat := 80260960185991308862233904206310070533990667611589946606122867505419956976171
/-- 2 / sqrt pi in units of 2^-256. -/
def fxErf : Nat := 130657381209852114387528029350014196574164286124850014242073919076264802271585

/-- The Taylor sum of e^r for 0 <= r < 1, terms from the k-th, in units of 2^-256. -/
def expTaylor : Nat → Nat → Nat → Nat → Nat
  | 0, _, _, acc => acc
  | n + 1, r, k, acc =>
    -- acc starts at the last term and is folded from the inside: 1 + r/k * acc
    expTaylor n r (k - 1) (2 ^ fxP + r * acc / 2 ^ fxP / k)

/-- e^r, r in units of 2^-256 and below 1. -/
def fxExp (r : Nat) : Nat := expTaylor 64 r 64 (2 ^ fxP)

/-- The sum of z^(2i+1)/(2i+1) for i below n, folded from the inside, z in units of 2^-256. -/
def atanhSum : Nat → Nat → Nat → Nat
  | 0, _, acc => acc
  | n + 1, z2, acc => atanhSum n z2 (2 ^ fxP / (2 * n + 1) + z2 * acc / 2 ^ fxP)

/-- ln t for 1 <= t < 2, t and the result in units of 2^-256. -/
def fxLn (t : Nat) : Nat :=
  let z := (t - 2 ^ fxP) * 2 ^ fxP / (t + 2 ^ fxP)
  2 * (z * atanhSum 96 (z * z / 2 ^ fxP) 0 / 2 ^ fxP)

/-- The terms of erf: term k is t_k / (2k+1), t_(k+1) = -t_k x^2 / (k+1). -/
def erfTerms : Nat → Nat → Int → Int → Int → Int
  | 0, _, _, _, acc => acc
  | n + 1, k, x2, t, acc => erfTerms n (k + 1) x2 (-(t * x2) / 2 ^ fxP / ((k : Int) + 1)) (acc + t / (2 * k + 1))

/-- A number's magnitude in units of 2^-256, rounded down. -/
def Exact.fx (a : Exact) : Nat :=
  let e := a.e + fxP
  if 0 ≤ e then a.m * 2 ^ e.toNat else a.m / 2 ^ (-e).toNat

/-- 2^x for a number of magnitude below 512, correctly located with a sticky bit. -/
def numExp2 (a : Exact) : Exact :=
  let fx := a.fx
  let n : Int := (fx / 2 ^ fxP : Nat)
  let fr := fx % 2 ^ fxP
  if fr = 0 then ⟨false, 1, if a.neg then -n else n, false⟩
  else if a.neg then ⟨false, fxExp ((2 ^ fxP - fr) * fxLn2 / 2 ^ fxP), -n - 1 - fxP, true⟩
  else ⟨false, fxExp (fr * fxLn2 / 2 ^ fxP), n - fxP, true⟩

/-- log2 x for x positive. -/
def numLog2 (a : Exact) : Exact :=
  let b := bitLen a.m - 1
  let k : Int := (b : Int) + a.e
  let t := a.m * 2 ^ fxP / 2 ^ b
  if a.m = 2 ^ b then ⟨k < 0, k.natAbs, 0, false⟩
  else
    let l := fxLn t * 2 ^ fxP / fxLn2
    if 0 ≤ k then ⟨false, k.toNat * 2 ^ fxP + l, -fxP, true⟩ else ⟨true, (-k).toNat * 2 ^ fxP - l - 1, -fxP, true⟩

/-- e^y for y in units of 2^-256: the mantissa in units of 2^-256 and the power of two. -/
def fxExpBig (y : Nat) : Nat × Nat := (fxExp (y % fxLn2), y / fxLn2)

/-- tanh of a non-zero number. -/
def numTanh (a : Exact) : Exact :=
  let x := a.fx
  if 20 * 2 ^ fxP ≤ x then ⟨a.neg, 2 ^ fxP - 1, -fxP, true⟩
  else
    let e := fxExpBig (2 * x)
    let v := e.1 * 2 ^ e.2
    ⟨a.neg, (v - 2 ^ fxP) * 2 ^ fxP / (v + 2 ^ fxP), -fxP, true⟩

/-- erf of a non-zero number. -/
def numErf (a : Exact) : Exact :=
  let x := a.fx
  if 5 * 2 ^ fxP ≤ x then ⟨a.neg, 2 ^ fxP - 1, -fxP, true⟩
  else
    let x2 := x * x / 2 ^ fxP
    let s := (erfTerms 240 0 x2 (2 ^ fxP : Nat) 0).toNat
    ⟨a.neg, s * x / 2 ^ fxP * fxErf / 2 ^ fxP, -fxP, true⟩

/-- The function operations of R123. -/
inductive FFun where
  | exp2 | log2 | rcp | rsqrt | tanh | erf
  deriving DecidableEq, Repr

/-- f(x) rounded to binary32 by RNE, with the edges of Table 4.6. -/
def FFun.eval32 (f : FFun) : FVal → Elem
  | .nan => Fmt.nanElem .f32
  | .num x =>
    let big := fun (neg : Bool) => (⟨(if neg then 2 ^ 31 else 0) + 0x7F7FFFFF, 1, 0⟩ : Elem)
    match f with
    | .exp2 =>
      if x.m = 0 then Fmt.round .f32 .rne ⟨false, 1, 0, false⟩
      else if 128 * 2 ^ fxP ≤ x.fx ∧ x.neg = false then big false
      else if 150 * 2 ^ fxP < x.fx ∧ x.neg = true then ⟨0, 0, 0⟩
      else Fmt.round .f32 .rne (numExp2 x)
    | .log2 => if x.m = 0 then big true else if x.neg then Fmt.nanElem .f32 else Fmt.round .f32 .rne (numLog2 x)
    | .rcp => FVal.div .f32 .rne (.num ⟨false, 1, 0, false⟩) (.num x)
    | .rsqrt =>
      if x.m = 0 then big false
      else if x.neg then Fmt.nanElem .f32
      else
        -- 1 / sqrt x as sqrt (1 / x): 2^600 / m holds enough bits for one rounding
        let odd := x.e % 2 == 1
        let m := if odd then 2 * x.m else x.m
        let e := if odd then x.e - 1 else x.e
        let q := 2 ^ 600 / m
        let r := isqrt q
        Fmt.round .f32 .rne ⟨false, r, -(e / 2) - 300, r * r * m != 2 ^ 600⟩
    | .tanh => if x.m = 0 then Fmt.round .f32 .rne x else Fmt.round .f32 .rne (numTanh x)
    | .erf => if x.m = 0 then Fmt.round .f32 .rne x else Fmt.round .f32 .rne (numErf x)

/-- A function operation in format f: exact widening, RNE to binary32, then rm to the 16-bit formats (R123). -/
def FFun.eval (g : FFun) (f : Fmt) (rm : RMode) (v : FVal) : Elem :=
  let r := g.eval32 v
  if f = .f32 ∨ r.nan ≠ 0 then (if r.nan ≠ 0 then f.nanElem else r)
  else
    let o := f.roundV rm (Fmt.decode .f32 r.code)
    -- one element saturates at most once
    ⟨o.code, min 1 (r.sat + o.sat), o.nan⟩

/-- A binary32 integer conversion: the signed integer v rounded once. -/
def intToF32 (rm : RMode) (i : Int) : Elem := Fmt.round .f32 rm ⟨i < 0, i.natAbs, 0, false⟩

/-- VCVTFI: binary32 to a saturated 32-bit integer, truncating or to nearest even (Table 4.4). -/
def f32ToInt (rtz : Bool) (v : FVal) : Elem :=
  match v with
  | .nan => ⟨0, 0, 1⟩
  | .num x =>
    let mag := if 0 ≤ x.e then x.m * 2 ^ x.e.toNat
      else
        let k := (-x.e).toNat
        let s := x.m / 2 ^ k
        let r := x.m % 2 ^ k
        if rtz then s else if 2 ^ (k - 1) < r || (r == 2 ^ (k - 1) && s % 2 == 1) then s + 1 else s
    if x.neg then (if 2 ^ 31 < mag then ⟨2 ^ 31, 1, 0⟩ else ⟨(2 ^ 32 - mag) % 2 ^ 32, 0, 0⟩)
    else if 2 ^ 31 ≤ mag then ⟨2 ^ 31 - 1, 1, 0⟩ else ⟨mag, 0, 0⟩

/-- Infinite inputs among operands, each counted in SAT_CNT (R120). -/
def Fmt.infs (f : Fmt) (l : List Nat) : Nat := (l.filter f.isInf).length

/-- An element with n more saturations counted. -/
def Elem.addSat (e : Elem) (n : Nat) : Elem := ⟨e.code, e.sat + n, e.nan⟩

/-- rne32 (a + b) on codes (R237). -/
def add32 (a b : Nat) : Elem := (Fmt.roundV .f32 .rne (FVal.add (Fmt.decode .f32 a) (Fmt.decode .f32 b))).addSat (Fmt.infs .f32 [a, b])
/-- rne32 (a * b) on codes. -/
def mul32 (a b : Nat) : Elem := (Fmt.roundV .f32 .rne (FVal.mul (Fmt.decode .f32 a) (Fmt.decode .f32 b))).addSat (Fmt.infs .f32 [a, b])
/-- rne32 (a - b) on codes. -/
def sub32 (a b : Nat) : Elem := (Fmt.roundV .f32 .rne (FVal.add (Fmt.decode .f32 a) (Fmt.decode .f32 b).negate)).addSat (Fmt.infs .f32 [a, b])
/-- rne32 (a / b) on codes. -/
def div32 (a b : Nat) : Elem := (FVal.div .f32 .rne (Fmt.decode .f32 a) (Fmt.decode .f32 b)).addSat (Fmt.infs .f32 [a, b])
/-- rne32 (sqrt a) on codes. -/
def sqrt32 (a : Nat) : Elem := (FVal.sqrt .f32 .rne (Fmt.decode .f32 a)).addSat (Fmt.infs .f32 [a])
/-- rne32 (a * b + c) on codes, one rounding. -/
def fma32 (a b c : Nat) : Elem :=
  (Fmt.roundV .f32 .rne (FVal.add (FVal.mul (Fmt.decode .f32 a) (Fmt.decode .f32 b)) (Fmt.decode .f32 c))).addSat (Fmt.infs .f32 [a, b, c])

/-- A code of format f widened exactly to binary32 (R224). -/
def toF32 (f : Fmt) (c : Nat) : Elem := (Fmt.roundV .f32 .rne (f.decode c)).addSat (f.infs [c])

/-- The merge of R125 on binary32 codes (n, mean, M2), every operation rounded by RNE. -/
def mergeMV (a b : Nat × Nat × Nat) : (Nat × Nat × Nat) × Nat × Nat :=
  let n := add32 a.1 b.1
  if n.code % 2 ^ 31 = 0 ∧ n.nan = 0 then ((0, 0, 0), n.sat, n.nan)
  else
    let d := sub32 b.2.1 a.2.1
    let w := div32 b.1 n.code
    let mean := fma32 d.code w.code a.2.1
    let s := add32 a.2.2 b.2.2
    let dd := mul32 d.code d.code
    let nw := mul32 a.1 w.code
    let p := mul32 dd.code nw.code
    let m2 := add32 s.code p.code
    let l := [n, d, w, mean, s, dd, nw, p, m2]
    ((n.code, mean.code, m2.code), (l.map (·.sat)).sum, (l.map (·.nan)).sum)

/-- What a NaN among results counts once: NaNs written among the three outputs. -/
def nanOut (x : Nat × Nat × Nat) : Nat :=
  (if x.1 = 0x7FC00000 then 1 else 0) + (if x.2.1 = 0x7FC00000 then 1 else 0) + (if x.2.2 = 0x7FC00000 then 1 else 0)

end Sys2Proof.Machine
end

