-- ==== Sys2Proof/Config.lean ====
section
/-!
DEFINITION. Sys2Proof/Config.lean: what the model leaves open. The spec states no value where a meaning takes one from here.
-/
namespace Sys2Proof

/-- The n-th free value (log entry 4): no body, so nothing can be proved of it. State.freeCount counts those taken. -/
opaque Config.freeValue : Nat → BitVec 64

/-- The n-th free byte string's bytes, by index: signatures, nonces, keys and digests that rest on secrets outside the spec
(log entry 5). -/
opaque Config.freeByte : Nat → Nat → BitVec 8

/-- The SHA-384 of Pip's ROM, by byte (measurement slot 0x01, R462; log entry 22): the spec does not give the ROM. -/
opaque Config.romDigest : Nat → BitVec 8

/-- The expected CRC-64 of a unit's known-answer run, by unit code (R435; log entry 23): the spec does not give the known-answer sets. -/
opaque Config.katCrc : Nat → BitVec 64

/-- What the n-th HBM burst that a scrubber reads meets (R273, R279; log entry 55): 1 an error that the stack's on-die ECC corrected, 2 one that it
reports as uncorrectable, 3 a parity error and its one retry, 0 none of these. The spec does not say when a stack errs. -/
opaque Config.hbmEvent : Nat → BitVec 2

end Sys2Proof
end

