-- ==== Sys2Proof/Machine/ImageTypes.lean ====
section
/-!
DEFINITION. Sys2Proof/Machine/ImageTypes.lean: the structures a Quince image binds (chapter 2, Tables 2.4 to 2.16), each with
the partition that binds it and the image offset of its entry.
-/
namespace Sys2Proof.Machine

/-- Partition map entry, Table 2.4. -/
structure PartDef where
  off : Nat
  id : Nat
  mask : Nat
  deriving DecidableEq, Repr

/-- Core assignment, Table 2.5; prog 0xFFFF is none. -/
structure CoreAsg where
  part : Nat
  off : Nat
  core : Nat
  job : Nat
  idle : Option Nat
  prog : Nat
  deriving DecidableEq, Repr

/-- Engine chain, Table 2.6. -/
structure Chain where
  part : Nat
  off : Nat
  core : Nat
  id : Nat
  predictor : Bool
  stages : Nat
  hoff : Nat
  hbytes : Nat
  deriving DecidableEq, Repr

/-- Network route, Table 2.7; kind 1 PORT, 2 JOB_ROUTE, 3 DIAG_PATH. -/
structure Route where
  part : Nat
  off : Nat
  kind : Nat
  port : Nat
  minLanes : Nat
  diePath : Nat
  job : Nat
  dimOrder : Nat
  vcData : Nat
  vcReduce : Nat
  deriving DecidableEq, Repr

/-- Queue binding, Table 2.8. -/
structure QueueBind where
  part : Nat
  off : Nat
  id : Nat
  job : Nat
  kind : Nat
  depthLog2 : Nat
  owner : Nat
  deriving DecidableEq, Repr

/-- Memory region, Table 2.9. -/
structure Region where
  part : Nat
  off : Nat
  id : Nat
  job : Nat
  role : Nat
  trainable : Bool
  mirror : Bool
  ckpt : Bool
  wipe : Bool
  hostVisible : Bool
  base : Nat
  size : Nat
  tensor : Nat
  deriving DecidableEq, Repr

/-- Sampler program, Tables 2.10 and 5.4; fanout and type lists have four entries. -/
structure SampProg where
  part : Nat
  off : Nat
  id : Nat
  job : Nat
  mask : Nat
  graph : Nat
  fullCap : Nat
  mode : Nat
  hops : Nat
  fanout : List Nat
  etype : List Nat
  deriving DecidableEq, Repr

/-- Reduction tree, Table 2.11; ranks lists (device, backup device) by rank. -/
structure Tree where
  part : Nat
  off : Nat
  id : Nat
  job : Nat
  epoch : Nat
  rankCount : Nat
  backupTimeout : Nat
  ranks : List (Nat × Nat)
  deriving DecidableEq, Repr

/-- Job entry, Table 2.13; tree 0xFFFF is none. -/
structure JobDef where
  part : Nat
  off : Nat
  id : Nat
  cherry : Bool
  idleFill : Bool
  inference : Bool
  monitor : Nat
  tree : Nat
  seed : Nat
  ctxCount : Nat
  epoch : Nat
  rankCount : Nat
  deriving DecidableEq, Repr

/-- Device entry, Table 2.14. -/
structure DevEntry where
  part : Nat
  off : Nat
  dev : Nat
  job : Nat
  rank : Nat
  partner : Option Nat
  deriving DecidableEq, Repr

/-- Resilience policy, Table 2.15. -/
structure Resil where
  part : Nat
  off : Nat
  job : Nat
  allowShared : Bool
  interval : Nat
  peerTimeout : Nat
  share : Nat
  deriving DecidableEq, Repr

/-- Check policy of one job, Table 2.16. -/
structure CheckPol where
  part : Nat
  off : Nat
  job : Nat
  zest : Nat
  detect : Nat
  predMode : Nat
  deriving DecidableEq, Repr

/-- Pipeline entry, R58. -/
structure Pipe where
  part : Nat
  off : Nat
  job : Nat
  micro : Nat
  stages : Nat
  prefetch : Bool
  retention : Nat
  deriving DecidableEq, Repr

/-- Program blob, Table 2.12. -/
structure Blob where
  part : Nat
  off : Nat
  id : Nat
  loadOff : Nat
  bytes : List Byte
  deriving DecidableEq, Repr

/-- Everything bound by committed images (R39), or read from one image. -/
structure Bound where
  map : List PartDef
  cores : List CoreAsg
  chains : List Chain
  routes : List Route
  queues : List QueueBind
  regions : List Region
  samps : List SampProg
  trees : List Tree
  jobs : List JobDef
  devs : List DevEntry
  resils : List Resil
  checks : List CheckPol
  pipes : List Pipe
  blobs : List Blob
  /-- BACKGROUND_FRACTION and DAMSON_FRACTION of the device-wide check policy. -/
  bgFraction : Nat
  damsonFraction : Nat
  /-- REQUIRE_SIG_AFTER of the committed whole-device image (R61). -/
  requireSig : Bool
  deriving DecidableEq, Repr

/-- Nothing bound. -/
def Bound.empty : Bound := ⟨[], [], [], [], [], [], [], [], [], [], [], [], [], [], 0, 0, false⟩

/-- What a partition that has been unbound and still reads LOADING had bound: its jobs (R68). -/
structure Leaving where
  part : Nat
  jobs : List Nat
  deriving DecidableEq, Repr

/-- The image header, Table 2.1. -/
structure ImgHdr where
  variant : Nat
  minStep : Nat
  scope : Nat
  signed : Bool
  requireSig : Bool
  mask : Nat
  len : Nat
  sections : Nat
  coresRequired : Nat
  imageId : Nat
  digest : List Byte
  deriving DecidableEq, Repr

/-- The header of nothing read (R73: fields not yet read are zero). -/
def ImgHdr.zero : ImgHdr := ⟨0, 0, 0, false, false, 0, 0, 0, 0, 0, List.replicate 48 0⟩

/-- The first failing check: its reason, status and QIMG_ERR_OFFSET (R62). -/
structure Fail where
  reason : Nat
  status : Status
  off : Nat
  deriving DecidableEq, Repr

end Sys2Proof.Machine
end

