-- ==== Sys2Proof/Machine/Image.lean ====
section
/-!
DEFINITION. Sys2Proof/Machine/Image.lean: reading a Quince image and its checks 2 to 18 in the order of Table 2.17 (R40 to R63).
-/
namespace Sys2Proof.Machine

/-- What the checks need of the device. -/
structure LoadEnv where
  variant : Nat
  stepping : Nat
  deviceId : Option Nat
  ports : Nat
  hbmBytes : Nat
  lifeOk : Bool
  /-- The hash of each usable customer key slot (R60): programmed and not revoked. -/
  keys : List (Option (List Byte))
  /-- A signature is required of every image (the fuse of R61). -/
  sigFuse : Bool
  bound : Bound
  /-- A whole-device image has committed. -/
  committed : Bool
  /-- Partitions LOADING or RUNNING. -/
  active : Nat
  /-- Partitions RUNNING. -/
  running : Nat
  /-- Logical cores present. -/
  present : List Nat
  /-- Retired pages (R286). -/
  retired : List Nat
  deriving DecidableEq, Repr

/-- No offset (R62). -/
def noOff : Nat := 0xFFFFFFFF

/-- off where c breaks. -/
def orAt (c : Bool) (off : Nat) : Option Nat := if c then none else some off

/-- The first offset listed. -/
def firstOff : List (Option Nat) → Option Nat
  | [] => none
  | some a :: _ => some a
  | none :: t => firstOff t

/-- The lowest of the offsets listed (within one check the fault at the lowest offset is reported; log entry 8). -/
def lowestOff (l : List (Option Nat)) : Option Nat :=
  l.foldl (fun a o => match a, o with
    | none, o => o
    | a, none => a
    | some x, some y => some (min x y)) none

/-- One section as the walk of R62 finds it. -/
structure Sect where
  off : Nat
  type : Nat
  ver : Nat
  part : Nat
  rsv : Nat
  bodyLen : Nat
  count : Nat
  rsv2 : Nat
  body : List Byte
  deriving DecidableEq, Repr

/-- The section whose header is at off. -/
def sectAt (img : List Byte) (off : Nat) : Sect :=
  let h := slice img off 16
  let bl := fld h 4 4
  ⟨off, fld h 0 1, fld h 1 1, fld h 2 1, fld h 3 1, bl, fld h 8 4, fld h 12 4, slice img (off + 16) bl⟩

/-- The walk of R62 over count sections: the sections read, and where it failed. -/
def walk (img : List Byte) (len : Nat) : Nat → Nat → List Sect × Option Nat
  | 0, pos => ([], orAt (pos == len) pos)
  | n + 1, pos =>
    if len < pos + 16 then ([], some pos)
    else
      let x := sectAt img pos
      if len < pos + 16 + x.bodyLen then ([], some pos)
      else
        let r := walk img len n (pos + 16 + x.bodyLen)
        (x :: r.1, r.2)

/-- The header fields of Table 2.1. -/
def readHdr (b : List Byte) : ImgHdr :=
  ⟨fbits b 8 1 3 0, fld b 9 1, fbits b 0xA 1 1 0, fbit b 0xB 1 0, fbit b 0xB 1 1, fld b 0xC 4, fld b 0x10 4,
   fld b 0x14 2, fld b 0x16 2, fld b 0x18 8, slice b 0x30 48⟩

/-- The signature section's header against R59. -/
def sigHdrOk (b : List Byte) (h : ImgHdr) : Bool :=
  let x := sectAt b (h.len - 0xE0)
  h.len ≥ 0x160 && x.type == 0x1F && x.ver == 1 && x.part == 0xFF && x.rsv == 0 && x.bodyLen == 0xD0 && x.count == 1 && x.rsv2 == 0

/-- Check 3, HEADER. -/
def checkHeader (b : List Byte) (h : ImgHdr) : Option Nat :=
  firstOff [orAt (fld b 0 4 == 0x45434E51) 0, orAt (fld b 4 1 == 1) 4, orAt (fld b 5 1 == 0) 5,
    orAt (fld b 6 2 == 0x80) 6, orAt (h.variant ≤ 3 && fbits b 8 1 7 4 == 0) 8,
    orAt (h.scope ≤ 1 && fbits b 0xA 1 7 2 == 0) 0xA,
    orAt (fbits b 0xB 1 7 2 == 0 && !(h.scope == 1 && h.requireSig)) 0xB,
    orAt ((h.scope == 0) == (h.mask == 0)) 0xC, orAt (h.len % 16 == 0) 0x10,
    orAt (allZero (slice b 0x20 16)) 0x20, orAt (allZero (slice b 0x60 32)) 0x60,
    if h.signed then orAt (sigHdrOk b h) (h.len - 0xE0) else none]

/-- Check 6, SCOPE_DENIED (R63). -/
def checkScope (e : LoadEnv) (h : ImgHdr) : Option Nat :=
  if h.scope = 0 then orAt (e.active == 0) 0xA
  else if !e.committed then some 0xA
  else orAt ((onesOf 32 h.mask).all (fun p => e.bound.map.any (fun m => m.id == p))) 0xC

/-- Check 7: the walk meets a 0x18 header and the device has no DEVICE_ID. -/
def checkDevId (e : LoadEnv) (img : List Byte) (h : ImgHdr) : Option Nat :=
  match (walk img h.len h.sections 0x80).1.find? (fun x => x.type == 0x18) with
  | some x => if e.deviceId.isSome then none else some x.off
  | none =>
    -- a header that lies below IMAGE_LEN but whose body does not is met all the same
    let w := walk img h.len h.sections 0x80
    match w.2 with
    | some pos => if pos + 16 ≤ h.len ∧ (sectAt img pos).type = 0x18 ∧ w.1.length < h.sections ∧ e.deviceId.isNone then some pos else none
    | none => none

/-- DIGEST as R41 computes it. -/
def imageDigest (img : List Byte) (h : ImgHdr) : List Byte :=
  let n := if h.signed then h.len - 0xE0 else h.len
  sha384 (patch (img.take n) 0x30 (zeros 48))

/-- Check 10: the key's hash is in an accepted slot (R60). -/
def checkKey (e : LoadEnv) (img : List Byte) (h : ImgHdr) : Bool :=
  let b := slice img (h.len - 0xD0) 0xD0
  let k := fld b 0 1
  k ≤ 3 && (e.keys.getD k none == some (sha384 (slice b 0x10 96)))

/-- Check 11: the signature verifies over DIGEST (R59). -/
def checkSig (img : List Byte) (h : ImgHdr) : Bool :=
  let b := slice img (h.len - 0xD0) 0xD0
  ecdsaVerify (beNat (slice b 0x10 48)) (beNat (slice b 0x40 48)) (beNat (slice b 0x70 48)) (beNat (slice b 0xA0 48)) h.digest

/-- The fixed entry size of a section type; 0 for the variable ones. -/
def entrySize (t : Nat) : Nat :=
  if t = 0x10 ∨ t = 0x11 ∨ t = 0x14 then 8
  else if t = 0x12 ∨ t = 0x13 ∨ t = 0x19 ∨ t = 0x1A then 16
  else if t = 0x15 ∨ t = 0x1B then 32 else 0

/-- The valid types of R43. -/
def typeOk (t : Nat) : Bool := 0x10 ≤ t && t ≤ 0x1F && t != 0x1D && t != 0x1E

/-- The entries of a fixed-size section with their image offsets. -/
def entriesOf (x : Sect) (size : Nat) : List (Nat × List Byte) :=
  (List.range (min x.count (x.bodyLen / size))).map (fun i => (x.off + 16 + i * size, slice x.body (i * size) size))

/-- Variable entries, each envelope of env bytes with its body length at lenOff: offset, envelope, body. -/
def varEntries (x : Sect) (env lenOff : Nat) : Nat → Nat → List (Nat × List Byte × List Byte) × Option Nat
  | 0, pos => ([], orAt (x.bodyLen - pos < 16 && allZero (x.body.drop pos)) x.off)
  | n + 1, pos =>
    let e := slice x.body pos env
    let bl := fld e lenOff 4
    let padded := roundUp bl 16
    if x.bodyLen < pos + env + padded then ([], some x.off)
    else
      let r := varEntries x env lenOff n (pos + env + padded)
      ((x.off + 16 + pos, e, slice x.body (pos + env) padded) :: r.1, r.2)

/-- Table 2.4. -/
def rdPart (o : Nat) (b : List Byte) : PartDef := ⟨o, fbits b 0 1 4 0, fld b 4 4⟩
/-- Table 2.5. -/
def rdCore (p o : Nat) (b : List Byte) : CoreAsg :=
  ⟨p, o, fld b 0 2, fbits b 2 2 11 0, if fbit b 4 2 15 then some (fbits b 4 2 11 0) else none, fld b 6 2⟩
/-- Table 2.6. -/
def rdChain (p o : Nat) (b : List Byte) : Chain :=
  ⟨p, o, fld b 0 2, fld b 2 1, fbit b 3 1 0, fld b 4 2, fld b 8 4, fld b 12 4⟩
/-- Table 2.7. -/
def rdRoute (p o : Nat) (b : List Byte) : Route :=
  ⟨p, o, fld b 0 1, fbits b 1 1 3 0, fbits b 2 1 2 0, fbits b 3 1 5 0, fbits b 4 2 11 0, fld b 6 1, fbits b 7 1 1 0, fbits b 7 1 3 2⟩
/-- Table 2.8. -/
def rdQueue (p o : Nat) (b : List Byte) : QueueBind :=
  ⟨p, o, fbits b 0 2 14 0, fbits b 2 2 11 0, fbits b 4 1 3 0, fbits b 4 1 7 4, fld b 6 2⟩
/-- Table 2.9. -/
def rdRegion (p o : Nat) (b : List Byte) : Region :=
  ⟨p, o, fld b 0 2, fbits b 2 2 11 0, fbits b 4 1 3 0, fbit b 5 1 0, fbit b 5 1 1, fbit b 5 1 2, fbit b 5 1 3, fbit b 5 1 4,
   fbits b 8 8 39 0, fbits b 0x10 8 39 0, fld b 0x18 4⟩
/-- Tables 2.10 and 5.4. -/
def rdSamp (p o : Nat) (b body : List Byte) : SampProg :=
  ⟨p, o, fld b 0 2, fbits b 2 2 11 0, fld b 4 4, fld b 8 2, fld b 0xA 2, fbits body 0 1 3 0, fbits body 1 1 2 0,
   (List.range 4).map (fun i => fbits body (4 + 2 * i) 2 11 0), (List.range 4).map (fun i => fld body (0xC + i) 1)⟩
/-- Table 2.11. -/
def rdTree (p o : Nat) (b body : List Byte) : Tree :=
  let n := fld b 8 4
  ⟨p, o, fld b 0 2, fbits b 2 2 11 0, fld b 4 1, n, fld b 0xC 4,
   (List.range n).map (fun i => (fld body (4 * i) 2, fld body (4 * i + 2) 2))⟩
/-- Table 2.13. -/
def rdJob (p o : Nat) (b : List Byte) : JobDef :=
  ⟨p, o, fbits b 0 2 11 0, fbit b 2 2 0, fbit b 2 2 1, fbit b 2 2 2, fld b 4 2, fld b 6 2, fld b 8 8, fld b 0x10 2, fld b 0x12 1, fld b 0x14 4⟩
/-- Table 2.14. -/
def rdDev (p o : Nat) (b : List Byte) : DevEntry :=
  ⟨p, o, fld b 0 2, fbits b 2 2 11 0, fld b 4 4, if fbit b 0xA 2 0 then some (fld b 8 2) else none⟩
/-- Table 2.15. -/
def rdResil (p o : Nat) (b : List Byte) : Resil :=
  ⟨p, o, fbits b 0 2 11 0, fbit b 2 2 0, fld b 4 2, fld b 6 2, fld b 8 1⟩
/-- Table 2.16, per partition. -/
def rdCheck (p o : Nat) (b : List Byte) : CheckPol :=
  ⟨p, o, fbits b 0 2 11 0, fld b 2 2, fld b 4 2, fbits b 6 1 1 0⟩
/-- R58. -/
def rdPipe (p o : Nat) (b : List Byte) : Pipe :=
  ⟨p, o, fbits b 0 2 11 0, fld b 2 2, fld b 4 1, fbit b 5 1 0, fld b 8 4⟩
/-- Table 2.12. -/
def rdBlob (p o : Nat) (b body : List Byte) : Blob :=
  ⟨p, o, fld b 0 2, fld b 4 4, body.take (fld b 8 4)⟩

/-- The job and device entries of a 0x18 section. -/
def jobEntries (x : Sect) : List (Nat × List Byte) :=
  (List.range (min (fld x.body 0 4) (x.bodyLen / 32))).map (fun i => (x.off + 32 + 32 * i, slice x.body (16 + 32 * i) 32))
/-- The device entries of a 0x18 section. -/
def devEntries (x : Sect) : List (Nat × List Byte) :=
  let j := fld x.body 0 4
  (List.range (min (fld x.body 4 4) (x.bodyLen / 16))).map (fun i => (x.off + 32 + 32 * j + 16 * i, slice x.body (16 + 32 * j + 16 * i) 16))

/-- The sections of one type. -/
def ofType (xs : List Sect) (t : Nat) : List Sect := xs.filter (fun x => x.type == t)

/-- Every structure that the sections bind. -/
def readBound (h : ImgHdr) (xs : List Sect) : Bound :=
  let fix {α : Type} (t n : Nat) (f : Nat → Nat → List Byte → α) : List α :=
    (ofType xs t).flatMap (fun x => (entriesOf x n).map (fun e => f x.part e.1 e.2))
  let var {α : Type} (t env lo : Nat) (f : Nat → Nat → List Byte → List Byte → α) : List α :=
    (ofType xs t).flatMap (fun x => (varEntries x env lo x.count 0).1.map (fun e => f x.part e.1 e.2.1 e.2.2))
  let dw := (ofType xs 0x1A).filter (fun x => x.part == 0xFF)
  { map := fix 0x10 8 (fun _ => rdPart)
    cores := fix 0x11 8 rdCore
    chains := fix 0x12 16 rdChain
    routes := fix 0x13 16 rdRoute
    queues := fix 0x14 8 rdQueue
    regions := fix 0x15 32 rdRegion
    samps := var 0x16 32 0xC rdSamp
    trees := var 0x17 32 0x10 rdTree
    jobs := (ofType xs 0x18).flatMap (fun x => (jobEntries x).map (fun e => rdJob x.part e.1 e.2))
    devs := (ofType xs 0x18).flatMap (fun x => (devEntries x).map (fun e => rdDev x.part e.1 e.2))
    resils := fix 0x19 16 rdResil
    checks := ((ofType xs 0x1A).filter (fun x => x.part != 0xFF)).flatMap (fun x => (entriesOf x 16).map (fun e => rdCheck x.part e.1 e.2))
    pipes := fix 0x1B 32 rdPipe
    blobs := var 0x1C 16 8 rdBlob
    bgFraction := (dw.map (fun x => fld x.body 0 1)).headD 0
    damsonFraction := (dw.map (fun x => fld x.body 1 1)).headD 0
    requireSig := h.requireSig }

/-- A stage list of R47: at least one stage, none after an end code, no engine twice. -/
def stagesOk (st : Nat) : Bool :=
  let l := (List.range 4).map (fun i => bits st (4 * i + 3) (4 * i))
  let used := l.takeWhile (· != 0)
  used.length ≥ 1 && (l.drop used.length).all (· == 0) && used.all (· ≤ 4) && noDup used

/-- The reserved bytes and value ranges of one fixed entry of type t. In a PORT or DIAG_PATH entry DIM_ORDER, VC_DATA and VC_REDUCE are zero
(DEDUCED, log entry 58: Table 2.7 gives them to JOB_ROUTE alone). -/
def entryOk (e : LoadEnv) (t : Nat) (dw : Bool) (b : List Byte) : Bool :=
  if t = 0x10 then fbits b 0 1 7 5 == 0 && allZero (slice b 1 3) && fld b 4 4 != 0
  else if t = 0x11 then fld b 0 2 < 512 && fbits b 2 2 15 12 == 0 && fbits b 4 2 14 12 == 0
  else if t = 0x12 then fld b 2 1 ≤ 7 && fbits b 3 1 7 1 == 0 && stagesOk (fld b 4 2) && fld b 6 2 == 0 &&
      fld b 8 4 % 64 == 0 && fld b 12 4 % 64 == 0 && fld b 8 4 + fld b 12 4 ≤ 0x180000
  else if t = 0x13 then
    let k := fld b 0 1
    let r := rdRoute 0 0 b
    fbits b 1 1 7 4 == 0 && fbits b 2 1 7 3 == 0 && fbits b 3 1 7 6 == 0 && fbits b 4 2 15 12 == 0 && fbits b 7 1 7 4 == 0 &&
    allZero (slice b 8 8) &&
    (if k = 1 then dw && r.port < e.ports && (r.minLanes == 1 || r.minLanes == 2 || r.minLanes == 4) && r.diePath == 0 && r.job == 0 &&
        r.dimOrder == 0 && fld b 7 1 == 0
     else if k = 2 then !dw && r.port == 0 && r.minLanes == 0 && r.diePath == 0 &&
        noDup [bits r.dimOrder 1 0, bits r.dimOrder 3 2, bits r.dimOrder 5 4, bits r.dimOrder 7 6]
     else if k = 3 then
        let s := bits r.diePath 1 0
        let d := bits r.diePath 3 2
        let m := bits r.diePath 5 4
        dw && r.port == 0 && r.minLanes == 0 && r.job == 0 && r.dimOrder == 0 && fld b 7 1 == 0 && s + d == 3 && m != s && m != d
     else false)
  else if t = 0x14 then
    let q := rdQueue 0 0 b
    !fbit b 0 2 15 && fbits b 2 2 15 12 == 0 && 1 ≤ q.kind && q.kind ≤ 6 && 4 ≤ q.depthLog2 && fld b 5 1 == 0 &&
    (if q.kind = 2 ∨ q.kind = 6 then q.owner ≤ 2047 else if q.kind = 4 then q.owner ≤ 8191 else true)
  else if t = 0x15 then
    let r := rdRegion 0 0 b
    let hbm := r.base < 0x8000000000
    let g := if hbm then 0x1000 else 64
    r.id < 4096 && fbits b 2 2 15 12 == 0 && 1 ≤ r.role && r.role ≤ 8 && fbits b 4 1 7 4 == 0 && fbits b 5 1 7 5 == 0 && fld b 6 2 == 0 &&
    fbits b 8 8 63 40 == 0 && fbits b 0x10 8 63 40 == 0 && fld b 0x1C 4 == 0 && r.size != 0 && r.base % g == 0 && r.size % g == 0 &&
    !(r.mirror && r.ckpt) && (!(r.mirror || r.ckpt) || r.trainable) &&
    (r.hostVisible == (r.role == 6 || r.role == 7 || r.role == 8)) && (!r.hostVisible || hbm)
  else if t = 0x19 then
    let r := rdResil 0 0 b
    fbits b 0 2 15 12 == 0 && fbits b 2 2 15 1 == 0 && 1 ≤ r.peerTimeout && r.peerTimeout ≤ 10000 && 1 ≤ r.share && r.share ≤ 50 && allZero (slice b 9 7)
  else if t = 0x1A then
    if dw then
      let g := fld b 0 1
      let d := fld b 1 1
      1 ≤ g && g ≤ 40 && 1 ≤ d && d ≤ 20 && d ≤ g && allZero (slice b 2 14)
    else
      let c := rdCheck 0 0 b
      fbits b 0 2 15 12 == 0 && (c.zest == 0 || c.detect ≥ c.zest) && c.predMode ≤ 2 && fbits b 6 1 7 2 == 0 && allZero (slice b 7 9)
  else if t = 0x1B then
    let p := rdPipe 0 0 b
    fbits b 0 2 15 12 == 0 && 1 ≤ p.micro && p.micro ≤ 1024 && 1 ≤ p.stages && fbits b 5 1 7 1 == 0 && fld b 6 2 == 0 && p.retention ≤ 1408 &&
    allZero (slice b 0xC 20)
  else true

/-- A sampler program's envelope and body (R52, R140). -/
def sampOk (b body : List Byte) : Bool :=
  let s := rdSamp 0 0 b body
  let walkMode := s.mode == 4 || s.mode == 5
  fbits b 2 2 15 12 == 0 && s.mask != 0 && 1 ≤ s.fullCap && fld b 0xC 4 == 32 && allZero (slice b 0x10 16) &&
  1 ≤ s.mode && s.mode ≤ 5 && fbits body 0 1 7 4 == 0 && 1 ≤ s.hops && s.hops ≤ 4 && fbits body 1 1 7 3 == 0 && fld body 2 2 == 0 &&
  (List.range 4).all (fun i =>
    fbits body (4 + 2 * i) 2 15 12 == 0 && (i < s.hops || (s.fanout.getD i 0 == 0 && s.etype.getD i 0 == 0)) &&
    (!walkMode || (if i = 0 then s.fanout.getD 0 0 ≥ 1 else s.fanout.getD i 0 == 0))) &&
  allZero (slice body 0x10 16)

/-- A tree's envelope and rank table padding (R53). -/
def treeOk (b body : List Byte) : Bool :=
  let n := fld b 8 4
  fld b 0 2 != 0xFFFF && fbits b 2 2 15 12 == 0 && allZero (slice b 5 3) && 1 ≤ n && n ≤ 65536 && fld b 0x10 4 == roundUp (4 * n) 16 &&
  allZero (slice b 0x14 12) && allZero (body.drop (4 * n))

/-- A blob's envelope and padding (R54). -/
def blobOk (b body : List Byte) : Bool :=
  let n := fld b 8 4
  fld b 0 2 != 0xFFFF && fld b 2 2 == 0 && fld b 4 4 % 64 == 0 && 1 ≤ n && n ≤ 0x180000 && fld b 4 4 + n ≤ 0x180000 && fld b 0xC 4 == 0 &&
  allZero (body.drop n)

/-- A job entry (Table 2.13). -/
def jobOk (b : List Byte) : Bool :=
  fbits b 0 2 15 12 == 0 && fbits b 2 2 15 3 == 0 && fld b 0x13 1 == 0 && 1 ≤ fld b 0x14 4 && fld b 0x14 4 ≤ 65536 && allZero (slice b 0x18 8)

/-- A device entry's reserved fields (Table 2.14). -/
def devOk (b : List Byte) : Bool := fbits b 2 2 15 12 == 0 && fbits b 0xA 2 15 1 == 0 && fld b 0xC 4 == 0

/-- The body of one section against its layout (R42, R46 to R58). -/
def bodyFault (e : LoadEnv) (x : Sect) : Option Nat :=
  let n := entrySize x.type
  if n ≠ 0 then
    firstOff (orAt (x.count * n ≤ x.bodyLen && x.bodyLen - x.count * n < 16 && allZero (x.body.drop (x.count * n))) x.off ::
      orAt (!(x.type == 0x1A && x.part == 0xFF) || (x.count == 1 && x.bodyLen == 0x10)) x.off ::
      (entriesOf x n).map (fun en => orAt (entryOk e x.type (x.part == 0xFF) en.2) en.1))
  else if x.type = 0x16 then
    let v := varEntries x 32 0xC x.count 0
    firstOff (v.2 :: v.1.map (fun en => orAt (sampOk en.2.1 en.2.2) en.1))
  else if x.type = 0x17 then
    let v := varEntries x 32 0x10 x.count 0
    firstOff (v.2 :: v.1.map (fun en => orAt (treeOk en.2.1 en.2.2) en.1))
  else if x.type = 0x1C then
    let v := varEntries x 16 8 x.count 0
    firstOff (v.2 :: v.1.map (fun en => orAt (blobOk en.2.1 en.2.2) en.1))
  else if x.type = 0x18 then
    let j := fld x.body 0 4
    let d := fld x.body 4 4
    let used := 16 + 32 * j + 16 * d
    firstOff (orAt (16 ≤ x.bodyLen && allZero (slice x.body 8 8) && x.count == j + d && used ≤ x.bodyLen && x.bodyLen - used < 16 &&
        allZero (x.body.drop used)) x.off ::
      (jobEntries x).map (fun en => orAt (jobOk en.2) en.1) ++ (devEntries x).map (fun en => orAt (devOk en.2) en.1))
  else -- the signature section: one entry of 208 bytes, its reserved bytes zero (R59)
    orAt (x.count == 1 && x.bodyLen == 0xD0 && allZero (slice x.body 1 15)) x.off

/-- With SIGNED 1 the last section is the signature section (Table 2.1, R42). With the walk ending at IMAGE_LEN it then starts where check 3 read
its header. -/
def signLast (h : ImgHdr) (xs : List Sect) : Option Nat :=
  match xs.getLast? with
  | some x => orAt (!h.signed || x.type == 0x1F) x.off
  | none => none

/-- A section header against R42, R43 and the scope column of Table 2.3. -/
def sectHdrOk (h : ImgHdr) (x : Sect) : Bool :=
  x.ver == 1 && x.rsv == 0 && x.rsv2 == 0 && x.bodyLen % 16 == 0 && typeOk x.type && !(x.type == 0x1F && !h.signed) &&
  (if x.part = 0xFF then
     (x.type == 0x1F || (h.scope == 0 && (x.type == 0x10 || x.type == 0x13 || x.type == 0x1A)))
   else x.part < 32 && x.type != 0x10 && x.type != 0x1F && (h.scope == 0 || bit h.mask x.part))

/-- Sections strictly ascending in (TYPE, PARTITION): the offset of the first that is not. -/
def orderFault : List Sect → Option Nat
  | x :: y :: t => if x.type < y.type ∨ (x.type = y.type ∧ x.part < y.part) then orderFault (y :: t) else some y.off
  | _ => none

/-- The offset of the second of two entries with one key. -/
def dupOff : List (Nat × Nat) → List Nat → Option Nat
  | [], _ => none
  | (k, o) :: t, seen => if seen.contains k then some o else dupOff t (k :: seen)

/-- Device entries not strictly ascending in (DEVICE_ID, JOB_ID). -/
def devOrder : List DevEntry → Option Nat
  | x :: y :: t => if x.part ≠ y.part ∨ x.dev < y.dev ∨ (x.dev = y.dev ∧ x.job < y.job) then devOrder (y :: t) else some y.off
  | _ => none

/-- The core whose store window holds address a, and the offset in it (Table 10.2). -/
def coreOfAddr (a : Nat) : Option (Nat × Nat) :=
  if 0x8000000000 ≤ a ∧ a < 0x8000000000 + 512 * 0x200000 then some ((a - 0x8000000000) / 0x200000, a % 0x200000) else none

/-- The blob meets no handoff buffer and no core-store region of a core that names it (R54, which leaves only the firmware area to
check 15). -/
def blobClear (b : Bound) (g : Blob) : Bool :=
  (b.cores.filter (fun c => c.part == g.part && c.prog == g.id)).all (fun c =>
    !b.chains.any (fun k => k.core == c.core && overlaps g.loadOff g.bytes.length k.hoff k.hbytes) &&
    !b.regions.any (fun r => match coreOfAddr r.base with
      | some (l, o) => l == c.core && overlaps g.loadOff g.bytes.length o r.size
      | none => false))

/-- The faults of check 12 that compare entries with each other. -/
def crossFault (h : ImgHdr) (b : Bound) : Option Nat :=
  lowestOff [
    dupOff (b.map.map (fun m => (m.id, m.off))) [],
    dupOff (b.map.flatMap (fun m => (onesOf 32 m.mask).map (fun c => (c, m.off)))) [],
    dupOff (b.cores.map (fun c => (c.core, c.off))) [],
    dupOff (b.chains.map (fun c => (c.core * 8 + c.id, c.off))) [],
    dupOff (b.routes.map (fun r => (r.kind * 65536 + (if r.kind = 1 then r.port else if r.kind = 2 then r.job else r.diePath % 16), r.off))) [],
    dupOff (b.queues.map (fun q => (q.id, q.off))) [],
    dupOff (b.regions.map (fun r => (r.id, r.off))) [],
    dupOff (b.regions.map (fun r => (r.job * 2 ^ 32 + r.tensor, r.off))) [],
    dupOff (b.samps.map (fun r => (r.part * 65536 + r.id, r.off))) [],
    dupOff (b.trees.map (fun r => (r.id, r.off))) [],
    dupOff (b.jobs.map (fun r => (r.id, r.off))) [],
    dupOff (b.devs.map (fun d => ((d.part * 4096 + d.job) * 2 ^ 32 + d.rank, d.off))) [],
    dupOff (b.blobs.map (fun r => (r.part * 65536 + r.id, r.off))) [],
    devOrder b.devs,
    firstOff (b.blobs.map (fun g => orAt (blobClear b g) g.off)),
    firstOff (b.trees.map (fun t => match b.jobs.find? (fun j => j.id == t.job) with
      | some j => orAt (j.rankCount == t.rankCount) t.off
      | none => none)),
    firstOff (b.devs.map (fun d => match b.jobs.find? (fun j => j.id == d.job && j.part == d.part) with
      | some j => orAt (d.rank < j.rankCount && (j.cherry == d.partner.isSome) && d.partner != some d.dev) d.off
      | none => none)),
    firstOff (b.resils.map (fun r => orAt (r.interval != 0 || !b.regions.any (fun g => g.job == r.job && g.ckpt)) r.off)),
    firstOff (b.checks.map (fun c => orAt (c.predMode != 2 || b.jobs.any (fun j => j.id == c.job && j.inference)) c.off)),
    orAt (h.coresRequired == (b.cores.map (·.core)).dedup.length) 0x16]

/-- Check 12, SECTION: a fault in the form of a section or an entry before a fault that compares entries (log entry 8). -/
def checkSections (e : LoadEnv) (img : List Byte) (h : ImgHdr) (xs : List Sect) (b : Bound) : Option Nat :=
  let w := walk img h.len h.sections 0x80
  match lowestOff (w.2 :: orderFault xs :: (if w.2.isNone then signLast h xs else none) :: xs.map (fun x => if sectHdrOk h x then bodyFault e x else some x.off)) with
  | some o => some o
  | none => crossFault h b

/-- The partitions the image populates (R44). -/
def populated (xs : List Sect) : List Nat := ((xs.filter (fun x => x.part < 32)).map (·.part)).dedup

/-- Check 13, MISSING: what R44, R56 or R57 require is absent. A section has no offset, a PORT entry the routes section's, and a
resilience entry that of the job that needs it (entry 8 of the log). -/
def checkMissing (e : LoadEnv) (h : ImgHdr) (xs : List Sect) (b : Bound) : Option Nat :=
  let has := fun (t p : Nat) => xs.any (fun x => x.type == t && x.part == p)
  let sections := (populated xs).all (fun p => has 0x11 p && has 0x14 p && has 0x15 p && has 0x18 p) &&
    (if h.scope = 0 then has 0x10 0xFF && has 0x13 0xFF && has 0x1A 0xFF else (onesOf 32 h.mask).all (fun p => (populated xs).contains p))
  if !sections then some noOff
  else lowestOff [
    firstOff ((xs.filter (fun x => x.type == 0x13 && x.part == 0xFF)).map (fun x =>
      orAt ((List.range e.ports).all (fun p => b.routes.any (fun r => r.kind == 1 && r.port == p))) x.off)),
    firstOff (b.jobs.map (fun j =>
      orAt (!(j.cherry || b.regions.any (fun r => r.job == j.id && r.ckpt)) || b.resils.any (fun r => r.job == j.id)) j.off))]

/-- The cluster mask of a partition: from the image's map, or the committed one (R63). -/
def partMask (e : LoadEnv) (h : ImgHdr) (b : Bound) (p : Nat) : Nat :=
  ((if h.scope = 0 then b.map else e.bound.map).filter (fun m => m.id == p)).foldl (fun a m => a ||| m.mask) 0

/-- The partition whose 0x18 section binds job j, if it is p. -/
def jobIn (b : Bound) (p j : Nat) : Bool := b.jobs.any (fun x => x.id == j && x.part == p)

/-- The cluster whose gather-buffer window holds address a, and the offset in it (Table 10.2). -/
def gbufOfAddr (a : Nat) : Option (Nat × Nat) :=
  if 0x9000000000 ≤ a ∧ a < 0x9000000000 + 32 * 0x2000000 then some ((a - 0x9000000000) / 0x2000000, a % 0x2000000) else none

/-- A shadow region of R391 for mirror region m: SIZE is 2S + pad4K(8 S / 4096) (R393). -/
def isShadowOf (m r : Region) : Bool :=
  r.job == m.job && r.tensor == m.tensor + 0x80000000 && r.role == m.role && r.base < 0x8000000000 &&
  !r.trainable && !r.mirror && !r.ckpt && !r.hostVisible && r.size == 2 * m.size + roundUp (8 * m.size / 4096) 4096

/-- The own device entry of job j (R55). -/
def ownEntry (e : LoadEnv) (b : Bound) (j : Nat) : Option DevEntry :=
  b.devs.find? (fun d => d.job == j && some d.dev == e.deviceId)

/-- The ranks of a tree that are standby: some other rank's backup (R345). -/
def standbyDevs (t : Tree) : List Nat := (t.ranks.filter (fun r => r.1 != r.2)).map (·.2)

/-- R345's rules on a tree's backups. -/
def backupsOk (t : Tree) : Bool :=
  let sb := standbyDevs t
  noDup sb && (t.ranks.headD (0, 0)).1 == (t.ranks.headD (0, 0)).2 &&
  t.ranks.all (fun r => r.1 == r.2 || (t.ranks.any (fun q => q.1 == r.2) && !sb.contains r.1))

/-- Check 14, REFERENCE. -/
def checkRefs (e : LoadEnv) (h : ImgHdr) (xs : List Sect) (b : Bound) : Option Nat :=
  let assigned := fun (p c : Nat) => b.cores.any (fun x => x.core == c && x.part == p)
  let inPart := fun (p c : Nat) => bit (partMask e h b p) c
  let job := jobIn b
  lowestOff [
    firstOff (xs.map (fun x => orAt (x.part == 0xFF || partMask e h b x.part != 0) x.off)),
    firstOff (b.cores.map (fun c => orAt (inPart c.part (c.core / 16) && job c.part c.job &&
      (match c.idle with
       | none => true
       | some f => b.jobs.any (fun j => j.id == f && j.part == c.part && j.idleFill)) &&
      (c.prog == 0xFFFF || b.blobs.any (fun g => g.part == c.part && g.id == c.prog))) c.off)),
    firstOff (b.chains.map (fun c => orAt (assigned c.part c.core) c.off)),
    firstOff (b.routes.map (fun r => orAt (r.kind != 2 || job r.part r.job) r.off)),
    firstOff (b.queues.map (fun q => orAt (job q.part q.job &&
      (if q.kind = 1 ∨ q.kind = 3 then assigned q.part q.owner
       else if q.kind = 4 then b.jobs.any (fun j => j.id == q.job && q.owner < j.ctxCount)
       else if q.kind = 5 then q.owner < 32 && inPart q.part q.owner else true)) q.off)),
    firstOff (b.regions.map (fun r => orAt (job r.part r.job &&
      (match coreOfAddr r.base with
       | some (c, _) => assigned r.part c
       | none => true) &&
      (match gbufOfAddr r.base with
       | some (c, _) => inPart r.part c
       | none => true)) r.off)),
    firstOff (b.samps.map (fun s => orAt (job s.part s.job && (onesOf 32 s.mask).all (inPart s.part) &&
      b.regions.any (fun r => r.id == s.graph && r.role == 1 && r.job == s.job)) s.off)),
    firstOff (b.trees.map (fun t => orAt (job t.part t.job && backupsOk t) t.off)),
    firstOff (b.jobs.map (fun j => orAt ((ownEntry e b j.id).isSome &&
      noDup ((b.trees.filter (fun t => t.job == j.id)).map (·.epoch)) &&
      (if j.tree = 0xFFFF then !b.trees.any (fun t => t.job == j.id && t.epoch == j.epoch)
       else b.trees.any (fun t => t.id == j.tree && t.job == j.id && t.epoch == j.epoch)) &&
      (!j.cherry || (j.rankCount ≥ 2 && j.tree != 0xFFFF &&
        (match ownEntry e b j.id with
         | some d => b.devs.any (fun x => x.job == j.id && some x.dev == d.partner && x.partner == some d.dev)
         | none => false)))) j.off)),
    firstOff (b.devs.map (fun d => orAt (job d.part d.job) d.off)),
    firstOff (b.resils.map (fun r => orAt (job r.part r.job) r.off)),
    firstOff (b.checks.map (fun r => orAt (job r.part r.job) r.off)),
    firstOff (b.pipes.map (fun r => orAt (job r.part r.job) r.off)),
    firstOff (b.regions.map (fun r => orAt
      ((!r.mirror || (b.jobs.any (fun j => j.id == r.job && j.cherry) && r.tensor < 0x7FFFFFFF &&
          (b.regions.filter (isShadowOf r)).length == 1)) &&
       (r.tensor < 0x80000000 || b.regions.any (fun m => m.mirror && isShadowOf m r))) r.off))]

/-- The regions of RUNNING partitions that the image does not name. -/
def otherRegions (e : LoadEnv) (h : ImgHdr) : List Region :=
  e.bound.regions.filter (fun r => bit e.running r.part && !bit h.mask r.part)

/-- A region's range lies in installed memory outside every retired page (R50, R276, R286). -/
def regionInstalled (e : LoadEnv) (r : Region) : Bool :=
  if r.base < 0x8000000000 then r.base + r.size ≤ e.hbmBytes && !e.retired.any (fun p => overlaps r.base r.size (p * 4096) 4096)
  else match coreOfAddr r.base with
    | some (_, o) => 0x20000 ≤ o && o + r.size ≤ 0x180000
    | none => match gbufOfAddr r.base with
      | some (_, o) => o + r.size ≤ 0x1800000
      | none => false

/-- The first region that overlaps one before it or one of other. -/
def overlapOff (other : List Region) : List Region → List Region → Option Nat
  | [], _ => none
  | r :: t, seen => if (other ++ seen).any (fun q => overlaps r.base r.size q.base q.size) then some r.off else overlapOff other t (r :: seen)

/-- Check 15, REGION. -/
def checkRegions (e : LoadEnv) (h : ImgHdr) (b : Bound) : Option Nat :=
  lowestOff [
    firstOff (b.regions.map (fun r => orAt (regionInstalled e r) r.off)),
    overlapOff (otherRegions e h) b.regions [],
    firstOff (b.chains.map (fun c => orAt (c.hbytes == 0 || 0x20000 ≤ c.hoff) c.off)),
    firstOff (b.blobs.map (fun g => orAt (0x20000 ≤ g.loadOff) g.off))]

/-- The entry of a list at index n, where it goes past a limit of n. -/
def pastLimit {α : Type} (l : List α) (n : Nat) (off : α → Nat) : Option Nat := (l[n]?).map off

/-- The entry of a list of (weight, offset) that takes the running sum, from used on, past n. -/
def sumPast (n : Nat) : Nat → List (Nat × Nat) → Option Nat
  | _, [] => none
  | used, (w, o) :: t => if n < used + w then some o else sumPast n (used + w) t

/-- The retention regions of one job in one core's store (R258). -/
def retained (b : Bound) (job core : Nat) : List (Nat × Nat) :=
  (b.regions.filter (fun r => r.role == 4 && r.job == job && (match coreOfAddr r.base with
    | some (l, _) => l == core
    | none => false))).map (fun r => (r.size, r.off))

/-- The number of parents' nodes the device computes for a tree: ranks it holds or backs (R344, R346). -/
def nodesHere (e : LoadEnv) (t : Tree) : Nat :=
  (t.ranks.filter (fun r => some r.1 == e.deviceId)).length + (t.ranks.filter (fun r => r.1 != r.2 && some r.2 == e.deviceId)).length

/-- Check 16, RESOURCE: the limits of Table 2.3, R55, R258 and R344, counting what running partitions keep. -/
def checkLimits (e : LoadEnv) (h : ImgHdr) (b : Bound) : Option Nat :=
  let kept := fun (p : Nat) => bit e.running p && !bit h.mask p
  let ids := (b.jobs.map (·.part) ++ b.samps.map (·.part) ++ b.cores.map (·.part) ++ b.blobs.map (·.part)).dedup
  let oq := (e.bound.queues.filter (fun q => kept q.part)).length
  let og := (e.bound.regions.filter (fun q => kept q.part)).length
  let ot := e.bound.trees.filter (fun q => kept q.part)
  let oj := e.bound.jobs.filter (fun q => kept q.part)
  let pol := fun (l : List (Nat × Nat)) => dupOff l []
  lowestOff ([
    pastLimit b.map 32 (·.off), pastLimit b.queues (32768 - oq) (·.off), pastLimit b.regions (4096 - og) (·.off),
    pastLimit b.trees (64 - ot.length) (·.off), pastLimit b.jobs (64 - oj.length) (·.off),
    pol (b.resils.map (fun r => (r.job, r.off))), pol (b.checks.map (fun r => (r.job, r.off))), pol (b.pipes.map (fun r => (r.job, r.off))),
    sumPast 8192 (oj.map (·.ctxCount)).sum (b.jobs.map (fun j => (j.ctxCount, j.off))),
    sumPast 4096 (ot.map (fun t => 32 * nodesHere e t)).sum (b.trees.map (fun t => (32 * nodesHere e t, t.off))),
    lowestOff (b.regions.map (fun r => match coreOfAddr r.base with
      | some (l, _) => sumPast (((b.pipes.filter (fun p => p.job == r.job)).map (·.retention)).headD 0 * 1024) 0 (retained b r.job l)
      | none => none))] ++
   ids.map (fun p => lowestOff [
    pastLimit (b.cores.filter (fun c => c.part == p)) (16 * popcount 32 (partMask e h b p)) (·.off),
    pastLimit (b.samps.filter (fun c => c.part == p)) 64 (·.off),
    pastLimit (b.blobs.filter (fun c => c.part == p)) 256 (·.off)]))

/-- Check 17, CONFLICT with a RUNNING partition the image does not name. -/
def checkConflict (e : LoadEnv) (h : ImgHdr) (b : Bound) : Option Nat :=
  let kept := fun (p : Nat) => bit e.running p && !bit h.mask p
  lowestOff [
    firstOff (b.jobs.map (fun j => orAt (!e.bound.jobs.any (fun x => kept x.part && x.id == j.id)) j.off)),
    firstOff (b.queues.map (fun j => orAt (!e.bound.queues.any (fun x => kept x.part && x.id == j.id)) j.off)),
    firstOff (b.regions.map (fun j => orAt (!e.bound.regions.any (fun x => kept x.part && x.id == j.id)) j.off)),
    firstOff (b.trees.map (fun j => orAt (!e.bound.trees.any (fun x => kept x.part && x.id == j.id)) j.off))]

/-- Check 18, CORES: of its two faults the header field lies lower (log entry 8). -/
def checkCores (e : LoadEnv) (h : ImgHdr) (b : Bound) : Option Nat :=
  firstOff (orAt (h.coresRequired ≤ e.present.length) 0x16 :: b.cores.map (fun c => orAt (e.present.contains c.core) c.off))

/-- The failure of one check. -/
def failWith (reason : Nat) (status : Status) : Option Nat → Option Fail
  | none => none
  | some o => some ⟨reason, status, o⟩

/-- The first failure listed. -/
def firstFail : List (Option Fail) → Option Fail
  | [] => none
  | some f :: _ => some f
  | none :: t => firstFail t

/-- The sections of an image. -/
def imageSections (img : List Byte) : List Sect :=
  let h := readHdr img
  (walk img h.len h.sections 0x80).1

/-- Every structure the image binds. -/
def imageBound (img : List Byte) : Bound := readBound (readHdr img) (imageSections img)

/-- Checks 2 to 11 of Table 2.17, in order. -/
def verifyFront (e : LoadEnv) (img : List Byte) (cmdLen : Nat) : Option Fail :=
  let h := readHdr img
  firstFail [
    failWith 0x02 .permission (orAt e.lifeOk noOff),
    failWith 0x03 .format (checkHeader img h),
    failWith 0x04 .bounds (orAt (h.len ≤ 0x10000000 && h.len == cmdLen) 0x10),
    failWith 0x05 .format (firstOff [orAt (h.variant == 0 || h.variant == e.variant) 8, orAt (h.minStep ≤ e.stepping) 9]),
    failWith 0x06 .permission (checkScope e h),
    failWith 0x07 .permission (checkDevId e img h),
    failWith 0x08 .checkMismatch (orAt (imageDigest img h == h.digest) 0x30),
    failWith 0x09 .permission (orAt (h.signed || !(e.sigFuse || (h.scope == 1 && e.bound.requireSig))) 0xB),
    failWith 0x0A .permission (orAt (!h.signed || checkKey e img h) (h.len - 0xD0)),
    failWith 0x0B .checkMismatch (orAt (!h.signed || checkSig img h) (h.len - 0xD0))]

/-- Checks 12 to 18 of Table 2.17, in order. -/
def verifyBack (e : LoadEnv) (img : List Byte) : Option Fail :=
  let h := readHdr img
  let xs := imageSections img
  let b := readBound h xs
  firstFail [
    failWith 0x0C .format (checkSections e img h xs b),
    failWith 0x0D .format (checkMissing e h xs b),
    failWith 0x0E .indexRange (checkRefs e h xs b),
    failWith 0x0F .bounds (checkRegions e h b),
    failWith 0x10 .bounds (checkLimits e h b),
    failWith 0x11 .permission (checkConflict e h b),
    failWith 0x12 .degradedRefused (checkCores e h b)]

/-- The first failing check among 2 to 18 (R62). -/
def verifyImage (e : LoadEnv) (img : List Byte) (cmdLen : Nat) : Option Fail :=
  firstFail [verifyFront e img cmdLen, verifyBack e img]

end Sys2Proof.Machine
end

