-- ==== Sys2Proof/Machine/Regs.lean ====
section
/-!
DEFINITION. Sys2Proof/Machine/Regs.lean: every named register field of the spec's register tables, one constructor
of Reg each, with its block, offset, bits, access and reset value as the table gives them (R11, R12, R503, R504).
-/
namespace Sys2Proof.Machine

/-- The register blocks of Table 18.1, Table 18.2 and Table 13.4. -/
inductive Block where
  | ident
  | loader
  | bringup
  | pip
  | power
  | numerics
  | partition
  | port
  | memory
  | update
  | resilience
  | apply
  | reduction
  | cluster
  | core
  | fabric
  | host
  | doorbell
  | queue
  deriving DecidableEq, Repr

/-- The access codes of R11. -/
inductive Access where
  | ro | rw | w1c | rc | wo
  deriving DecidableEq, Repr

/-- Every named register field. A field that the spec repeats (n, c, e, s, i) is one constructor; its index is apart. -/
inductive Reg where
  -- Table 2.19 (02, R76)
  | qimgSrcAddr
  | qimgLen
  | qimgStart
  | qimgVerifyOnly
  | qimgVector
  | qimgBusy
  | qimgStep
  | qimgStatus
  | qimgReason
  | qimgErrOffset
  | lastImageId
  | qimgPartState
  | qimgBusyRejectCnt
  -- Table 3.10 (03, R107)
  | logicalCore
  | physicalCore
  | c0Halted
  | c1Halted
  | quiescing
  | progDone
  | c0FailStatus
  | c1FailStatus
  | c0Resume
  | c0Flush
  | c1Resume
  | c1Flush
  | tokenTimeout
  | c0CringBase
  | c0CringLog2
  | c0CringHead
  | c0CringTail
  | c0IssuedSeq
  | c0DoneSeq
  | c1IssuedSeq
  | c1DoneSeq
  | tileOkCnt
  | tileFailCnt
  | tokenTimeoutCnt
  | tokenRejectCnt
  | hazardStallCnt
  | idleFillTileCnt
  | token
  -- Table 4.8 (04, R132)
  | vmode
  | vfaultPc
  | vfaultStatus
  | vfaultOpc
  | vinstrBudget
  | vecNanCnt
  | vecFaultCnt
  -- Table 5.13 (05, R164)
  | sampBusy
  | liveBlocks
  | heldReqs
  | remoteDrawTimeout
  | sampReqOkCnt
  | sampReqFailCnt
  | sampEdgeCnt
  | sampRemoteSentCnt
  | sampRemoteServedCnt
  | sampCapTruncCnt
  | sampHoldCnt
  | sampLateReplyCnt
  | sampErrNode
  -- Table 6.12 (06, R194)
  | sortBusy
  | fetchBusy
  | peerRowTimeout
  | sortOkCnt
  | sortFailCnt
  | sortEntryCnt
  | gatherRowCnt
  | gatherPeerRowCnt
  | gatherStageHitCnt
  | gatherStageMissCnt
  | gatherLateReplyCnt
  | segsumRowCnt
  | maxOccCount
  | qentryBadOpCnt
  -- Table 6.13 (06, R194)
  | updateCloseTimeout
  | migJob
  | migTensorId
  | migFirstRow
  | migCount
  | migDestDevice
  | migDestSlot
  | migStart
  | migVector
  | migBusy
  | migStep
  | migStatus
  | migErrRow
  | updRmwCnt
  | updContribCnt
  | updReadHoldCnt
  | updHoldTimeoutCnt
  | updCloseTimeoutCnt
  | updMergeFullCnt
  | updUncorrCnt
  | updNanCnt
  | redirectUsed
  | redirectFirstRow
  | redirectCountM1
  | redirectValid
  | redirectDestDevice
  | redirectDestSlot
  | redirectJobId
  | redirectTensorId
  -- Table 7.6 (07, R219)
  | matDenseTileCnt
  | matSparseTileCnt
  | sparseViolCnt
  | sparseFallbackCnt
  | matNanCnt
  | predSkipCnt
  | predMissCnt
  | predUnverifiedCnt
  | predClear
  -- Table 8.4 (08, R233)
  | satCnt
  | satFirstTag
  | satFirstValid
  | satFirstCtx
  | satFirstOp
  -- Table 8.5 (08, R234)
  | updSatCnt
  | redSatCnt
  | redNanCnt
  | redMaintRejectCnt
  -- Table 9.11 (09, R270)
  | prefetchIssuedCnt
  | prefetchUsedCnt
  | prefetchDiscardCnt
  | applySliceCnt
  | paramHoldCnt
  | paramStaleCnt
  | paramWriteRejectCnt
  -- Table 9.12 (09, R271)
  | applyActive
  | lastApplyJob
  | lastApplyStatus
  | lastApplyStep
  | applyOkCnt
  | applyFailCnt
  | applyElemCnt
  | applyLocked
  | readStep
  -- Table 10.5 (10, R296)
  | scrubHbmPeriod
  | scrubSramPeriod
  | wipeBusy
  | hbmCeCnt
  | hbmUeCnt
  | hbmOdeccCnt
  | hbmParityRetryCnt
  | sramCeCnt
  | sramUeCnt
  | pathCeCnt
  | pathUeCnt
  | scrubPassCnt
  | hdmDenyCnt
  | wipeVerifyFailCnt
  | stackFailMask
  | lastUeDa
  | lastUeSource
  | retiredCount
  | retireOverflow
  | memInjectAddr
  | injectArm
  | injectDouble
  | injectPending
  | retiredPage
  | retiredValid
  -- Table 11.10 (11, R332)
  | deviceId
  | idValid
  | dimSizeM1
  | torusValid
  | coord
  | portUpMask
  | portHeldMask
  | ctxRetxTimeout
  | tagsInUse
  | ctxInUse
  | rxUnroutableCnt
  | rspOrphanCnt
  | ctxRetxCnt
  | ctxDupDropCnt
  | ctxLostCnt
  | ctxUnknownCnt
  | qpostFullCnt
  | mgmtRejectCnt
  | tagFullStallCnt
  | retxStoreStallCnt
  | tokenBadCoreCnt
  | peerOpJob
  | peerOpIndex
  | peerOpDevice
  | peerOp
  | peerStart
  | peerVector
  | peerBusy
  | peerStatus
  | peerCtxNum
  | mboxDst
  | mboxLocal
  | mboxCmd
  | mboxSecured
  | mboxLen
  | mboxStart
  | mboxVector
  | mboxBusy
  | mboxStatus
  | mboxRspLen
  | jobSlotJobId
  | jobSlotValid
  | jobSlotCtxBase
  | jobSlotCtxCount
  | ctxState
  | ctxJobId
  | ctxRemoteDevice
  | ctxRemoteCtx
  | ctxLastStatus
  -- Table 11.11 (11, R333)
  | portState
  | portReason
  | portWidth
  | portLaneMask
  | portActiveMask
  | portMinLanes
  | partnerDevice
  | partnerPort
  | partnerIdValid
  | partnerSerial
  | lastChangeNs
  | trainAttemptCnt
  | retrainCnt
  | linkReplayCnt
  | fecCorrCnt
  | fecUncorrCnt
  | crcErrCnt
  | rxBadlenCnt
  | rxBadhdrCnt
  | rxResyncCnt
  | rxTtlDropCnt
  | txPktCnt
  | rxPktCnt
  -- Table 12.8 (12, R361)
  | redPost
  | redFifoFree
  | redPostDropCnt
  -- Table 12.9 (12, R362)
  | redWaitTimeout
  | epochSwJob
  | epochSwNew
  | epochSwStart
  | epochSwStatus
  | slotsReserved
  | redSegOkCnt
  | redSegFailCnt
  | redBackupUsedCnt
  | redBackupMismatchCnt
  | redLateCopyCnt
  | redEpochStaleCnt
  | redEpochAheadCnt
  | digestLateCnt
  | suspectSentCnt
  | suspectSuppressedCnt
  | suspectTableFullCnt
  | jobEpoch
  | redBusy
  | susDevice
  | susJobId
  | susValid
  | susEvented
  | susCount
  | susFirst
  | susLast
  | susReasons
  | susFirstNs
  | digStep
  | digValid
  | digSend
  | digRecv
  -- Table 13.5 (13, R376)
  | dbIndex
  -- Table 13.6 (13, R376)
  | qRingAddr
  | qEnable
  | qError
  | qErrStatus
  | qKind
  | qDepthLog2
  | qDevIndex
  | qDevPhase
  | qHostIndex
  -- Table 13.9 (13, R389)
  | cxlMode
  | linkWidth
  | linkSpeed
  | applyDb
  | evqAddr
  | evqEnable
  | evqLog2
  | evqVector
  | evqHead
  | evqTail
  | evqPhase
  | intHoldoff
  | dbInvalidCnt
  | cqFullStallCnt
  | cqDropCnt
  | evqLostCnt
  | hdmPoisonWriteCnt
  | ringFetchErrCnt
  | lastBadDbQueue
  | lastBadDbValue
  -- Table 14.10 (14, R427)
  | feedId
  | mirrorPageCnt
  | mirrorHoldCnt
  | mirrorResendCnt
  | ckptPageCnt
  | zestMismatchCnt
  | zestHoldCnt
  | refillPageCnt
  | damsonSrcAddr
  | damsonLen
  | damsonLoad
  | damsonVector
  | damsonStatus
  | damsonBusy
  | damsonActive
  | damsonPackId
  | damsonPassCnt
  | damsonFailCnt
  | damsonLastFailCore
  | damsonLastFailPattern
  | damsonCycleMs
  | pairState
  | sharedFeed
  | mirrorFrozen
  | pairLossStatus
  | pairPartner
  | lastCut
  | mirrorStep
  | shadowStep
  | mseqSent
  | shadowMseq
  | ckptExportRegion
  | ckptAck
  | lastCkptStep
  | ckptStatus
  | ckptBusy
  | ckptUnacked
  | rebindDevice
  | rebindBit
  | refillStart
  | recVector
  | refillStatus
  | refillBusy
  | refillQueued
  | zestLastStep
  | zestStatus
  | zestVerdictPending
  | zestDigest
  | replayStep
  | replayArm
  | replayArmed
  | replayStatus
  | replaySendExp
  | replayRecvExp
  -- Table 15.7 (15, R452)
  | bringupStage
  | bringupState
  | bringupFailStatus
  | logicalCoreCount
  | healthyPhysical
  | deviceVmode
  | resetDomain
  | resetStart
  | resetTarget
  | resetBusy
  | resetStep
  | resetStatus
  | lastResetReason
  | lastResetDomain
  | lastResetTarget
  | lastResetNs
  | quiesceForceCnt
  | absorbCnt
  | fwResendChunkCnt
  | warmResetCnt
  | resetRejectCnt
  | stageUs
  | present
  | defect
  -- Table 16.17 (16, R483)
  | lcState
  | romRecovery
  | keyProgrammed
  | keyRevoked
  | customerSigRequired
  | serial
  | pipFwVersion
  | pipFwSvn
  | fwMinSvn
  | activeSlot
  | fwStageAddr
  | fwStageLen
  | fwStageStart
  | fwVector
  | fwStageBusy
  | fwStageStatus
  | stoneRdIndex
  | stoneRdValid
  | stoneWrIndex
  | stoneFfUsed
  | stoneFfFull
  | stoneHeadSeq
  | stoneDropCnt
  | stoneTornCnt
  | measLogCount
  | measLogWrapped
  | mgmtSessions
  | sensor
  | sensorWarn
  -- Table 17.10 (17, R502)
  | opReq
  | powerLimit
  | opEffective
  | capActive
  | thermalThrottle
  | opChanging
  | paceShortMask
  | trimC0
  | trimC1
  | trimC2
  | trimC3
  | capEventCnt
  | throttleCnt
  | pmbusErrCnt
  | opChangeCnt
  | railPresent
  | railFault
  -- Table 18.3 (18, R511)
  | variant
  | stepping
  | computeDies
  | ioDies
  | hbmStacks
  | portCount
  | laneCount
  | mapVersion
  | hbmBytes
  | localNs
  | gatheredEdgeCnt
  | faultAsserted
  | degraded
  | stackFailed
  | portNotUp
  | powerLimited
  | paceShort
  | pairDegraded
  | statusApplyLocked
  | statusRetireOverflow
  | statusMeasLogWrapped
  | csrAbsentCnt
  | eventPostedCnt
  | lastEventType
  -- Table 18.4 (18, R513)
  | partState
  | partClusterMask
  | jobsBound
  | coresAssigned
  | queuesBound
  | regionsBound
  | partImageId
  | partCommitNs
  | partCommitCnt
  | partResetCnt
  deriving DecidableEq, Repr

/-- Where a field lies and how it behaves: its block, the offset of its word from the block's first replica (already
the BAR0 offset), the distance between its repetitions and their number, its lowest bit, its width, its access code and
its Reset column. A reset the table words otherwise (fixed, fuses, straps, scan, per core) stands as 0 here and is read by regView. -/
structure RegInfo where
  block : Block
  off : Nat
  stride : Nat
  cnt : Nat
  lsb : Nat
  width : Nat
  acc : Access
  reset : Nat
  deriving DecidableEq, Repr

/-- The register tables, field by field. -/
def Reg.info : Reg → RegInfo
  -- Table 2.19
  | .qimgSrcAddr => ⟨.loader, 0x1000, 0, 1, 0, 64, .rw, 0⟩
  | .qimgLen => ⟨.loader, 0x1008, 0, 1, 0, 32, .rw, 0⟩
  | .qimgStart => ⟨.loader, 0x100c, 0, 1, 0, 1, .wo, 0⟩
  | .qimgVerifyOnly => ⟨.loader, 0x100c, 0, 1, 1, 1, .rw, 0⟩
  | .qimgVector => ⟨.loader, 0x100c, 0, 1, 2, 11, .rw, 0⟩
  | .qimgBusy => ⟨.loader, 0x1010, 0, 1, 0, 1, .ro, 0⟩
  | .qimgStep => ⟨.loader, 0x1010, 0, 1, 1, 3, .ro, 0⟩
  | .qimgStatus => ⟨.loader, 0x1010, 0, 1, 8, 8, .ro, 0⟩
  | .qimgReason => ⟨.loader, 0x1010, 0, 1, 16, 8, .ro, 0⟩
  | .qimgErrOffset => ⟨.loader, 0x1014, 0, 1, 0, 32, .ro, 0xffffffff⟩
  | .lastImageId => ⟨.loader, 0x1018, 0, 1, 0, 64, .ro, 0⟩
  | .qimgPartState => ⟨.loader, 0x1020, 0, 1, 0, 64, .ro, 0xffffffffffffffff⟩
  | .qimgBusyRejectCnt => ⟨.loader, 0x1028, 0, 1, 0, 32, .rc, 0⟩
  -- Table 3.10
  | .logicalCore => ⟨.core, 0x200000, 0, 1, 0, 9, .ro, 0⟩
  | .physicalCore => ⟨.core, 0x200000, 0, 1, 16, 10, .ro, 0⟩
  | .c0Halted => ⟨.core, 0x200004, 0, 1, 0, 1, .ro, 0⟩
  | .c1Halted => ⟨.core, 0x200004, 0, 1, 1, 1, .ro, 0⟩
  | .quiescing => ⟨.core, 0x200004, 0, 1, 2, 1, .ro, 0⟩
  | .progDone => ⟨.core, 0x200004, 0, 1, 3, 1, .ro, 0⟩
  | .c0FailStatus => ⟨.core, 0x200004, 0, 1, 8, 8, .ro, 0⟩
  | .c1FailStatus => ⟨.core, 0x200004, 0, 1, 16, 8, .ro, 0⟩
  | .c0Resume => ⟨.core, 0x200008, 0, 1, 0, 1, .wo, 0⟩
  | .c0Flush => ⟨.core, 0x200008, 0, 1, 1, 1, .wo, 0⟩
  | .c1Resume => ⟨.core, 0x200008, 0, 1, 2, 1, .wo, 0⟩
  | .c1Flush => ⟨.core, 0x200008, 0, 1, 3, 1, .wo, 0⟩
  | .tokenTimeout => ⟨.core, 0x20000c, 0, 1, 0, 16, .rw, 0x64⟩
  | .c0CringBase => ⟨.core, 0x200010, 0, 1, 0, 21, .rw, 0x20000⟩
  | .c0CringLog2 => ⟨.core, 0x200010, 0, 1, 28, 4, .rw, 8⟩
  | .c0CringHead => ⟨.core, 0x200014, 0, 1, 0, 16, .ro, 0⟩
  | .c0CringTail => ⟨.core, 0x200014, 0, 1, 16, 16, .rw, 0⟩
  | .c0IssuedSeq => ⟨.core, 0x200018, 0, 1, 0, 32, .ro, 0⟩
  | .c0DoneSeq => ⟨.core, 0x20001c, 0, 1, 0, 32, .ro, 0⟩
  | .c1IssuedSeq => ⟨.core, 0x200020, 0, 1, 0, 32, .ro, 0⟩
  | .c1DoneSeq => ⟨.core, 0x200024, 0, 1, 0, 32, .ro, 0⟩
  | .tileOkCnt => ⟨.core, 0x200040, 0, 1, 0, 32, .rc, 0⟩
  | .tileFailCnt => ⟨.core, 0x200044, 0, 1, 0, 32, .rc, 0⟩
  | .tokenTimeoutCnt => ⟨.core, 0x200048, 0, 1, 0, 32, .rc, 0⟩
  | .tokenRejectCnt => ⟨.core, 0x20004c, 0, 1, 0, 32, .rc, 0⟩
  | .hazardStallCnt => ⟨.core, 0x200050, 0, 1, 0, 32, .rc, 0⟩
  | .idleFillTileCnt => ⟨.core, 0x200054, 0, 1, 0, 32, .rc, 0⟩
  | .token => ⟨.core, 0x200100, 4, 64, 0, 32, .ro, 0⟩
  -- Table 4.8
  | .vmode => ⟨.core, 0x200200, 0, 1, 0, 2, .ro, 1⟩
  | .vfaultPc => ⟨.core, 0x200204, 0, 1, 0, 32, .ro, 0xffffffff⟩
  | .vfaultStatus => ⟨.core, 0x200208, 0, 1, 0, 8, .ro, 0⟩
  | .vfaultOpc => ⟨.core, 0x200208, 0, 1, 8, 8, .ro, 0⟩
  | .vinstrBudget => ⟨.core, 0x20020c, 0, 1, 0, 16, .rw, 0x100⟩
  | .vecNanCnt => ⟨.core, 0x200210, 0, 1, 0, 32, .rc, 0⟩
  | .vecFaultCnt => ⟨.core, 0x200214, 0, 1, 0, 32, .rc, 0⟩
  -- Table 5.13
  | .sampBusy => ⟨.cluster, 0x100000, 0, 1, 0, 1, .ro, 0⟩
  | .liveBlocks => ⟨.cluster, 0x100000, 0, 1, 8, 7, .ro, 0⟩
  | .heldReqs => ⟨.cluster, 0x100000, 0, 1, 16, 16, .ro, 0⟩
  | .remoteDrawTimeout => ⟨.cluster, 0x100004, 0, 1, 0, 16, .rw, 0xa⟩
  | .sampReqOkCnt => ⟨.cluster, 0x100008, 0, 1, 0, 32, .rc, 0⟩
  | .sampReqFailCnt => ⟨.cluster, 0x10000c, 0, 1, 0, 32, .rc, 0⟩
  | .sampEdgeCnt => ⟨.cluster, 0x100010, 0, 1, 0, 32, .rc, 0⟩
  | .sampRemoteSentCnt => ⟨.cluster, 0x100014, 0, 1, 0, 32, .rc, 0⟩
  | .sampRemoteServedCnt => ⟨.cluster, 0x100018, 0, 1, 0, 32, .rc, 0⟩
  | .sampCapTruncCnt => ⟨.cluster, 0x10001c, 0, 1, 0, 32, .rc, 0⟩
  | .sampHoldCnt => ⟨.cluster, 0x100020, 0, 1, 0, 32, .rc, 0⟩
  | .sampLateReplyCnt => ⟨.cluster, 0x100024, 0, 1, 0, 32, .rc, 0⟩
  | .sampErrNode => ⟨.cluster, 0x100028, 0, 1, 0, 40, .ro, 0⟩
  -- Table 6.12
  | .sortBusy => ⟨.cluster, 0x100400, 0, 1, 0, 1, .ro, 0⟩
  | .fetchBusy => ⟨.cluster, 0x100400, 0, 1, 1, 1, .ro, 0⟩
  | .peerRowTimeout => ⟨.cluster, 0x100404, 0, 1, 0, 16, .rw, 0xa⟩
  | .sortOkCnt => ⟨.cluster, 0x100408, 0, 1, 0, 32, .rc, 0⟩
  | .sortFailCnt => ⟨.cluster, 0x10040c, 0, 1, 0, 32, .rc, 0⟩
  | .sortEntryCnt => ⟨.cluster, 0x100410, 0, 1, 0, 32, .rc, 0⟩
  | .gatherRowCnt => ⟨.cluster, 0x100414, 0, 1, 0, 32, .rc, 0⟩
  | .gatherPeerRowCnt => ⟨.cluster, 0x100418, 0, 1, 0, 32, .rc, 0⟩
  | .gatherStageHitCnt => ⟨.cluster, 0x10041c, 0, 1, 0, 32, .rc, 0⟩
  | .gatherStageMissCnt => ⟨.cluster, 0x100420, 0, 1, 0, 32, .rc, 0⟩
  | .gatherLateReplyCnt => ⟨.cluster, 0x100424, 0, 1, 0, 32, .rc, 0⟩
  | .segsumRowCnt => ⟨.cluster, 0x100428, 0, 1, 0, 32, .rc, 0⟩
  | .maxOccCount => ⟨.cluster, 0x10042c, 0, 1, 0, 32, .rc, 0⟩
  | .qentryBadOpCnt => ⟨.cluster, 0x100430, 0, 1, 0, 32, .rc, 0⟩
  -- Table 6.13
  | .updateCloseTimeout => ⟨.update, 0x14000, 0, 1, 0, 16, .rw, 0x3e8⟩
  | .migJob => ⟨.update, 0x14008, 0, 1, 0, 12, .rw, 0⟩
  | .migTensorId => ⟨.update, 0x1400c, 0, 1, 0, 32, .rw, 0⟩
  | .migFirstRow => ⟨.update, 0x14010, 0, 1, 0, 40, .rw, 0⟩
  | .migCount => ⟨.update, 0x14018, 0, 1, 0, 17, .rw, 0⟩
  | .migDestDevice => ⟨.update, 0x1401c, 0, 1, 0, 16, .rw, 0⟩
  | .migDestSlot => ⟨.update, 0x14020, 0, 1, 0, 40, .rw, 0⟩
  | .migStart => ⟨.update, 0x14028, 0, 1, 0, 1, .wo, 0⟩
  | .migVector => ⟨.update, 0x14028, 0, 1, 1, 11, .rw, 0⟩
  | .migBusy => ⟨.update, 0x1402c, 0, 1, 0, 1, .ro, 0⟩
  | .migStep => ⟨.update, 0x1402c, 0, 1, 1, 3, .ro, 0⟩
  | .migStatus => ⟨.update, 0x1402c, 0, 1, 8, 8, .ro, 0⟩
  | .migErrRow => ⟨.update, 0x14030, 0, 1, 0, 40, .ro, 0⟩
  | .updRmwCnt => ⟨.update, 0x14040, 0, 1, 0, 32, .rc, 0⟩
  | .updContribCnt => ⟨.update, 0x14044, 0, 1, 0, 32, .rc, 0⟩
  | .updReadHoldCnt => ⟨.update, 0x14048, 0, 1, 0, 32, .rc, 0⟩
  | .updHoldTimeoutCnt => ⟨.update, 0x1404c, 0, 1, 0, 32, .rc, 0⟩
  | .updCloseTimeoutCnt => ⟨.update, 0x14050, 0, 1, 0, 32, .rc, 0⟩
  | .updMergeFullCnt => ⟨.update, 0x14054, 0, 1, 0, 32, .rc, 0⟩
  | .updUncorrCnt => ⟨.update, 0x14058, 0, 1, 0, 32, .rc, 0⟩
  | .updNanCnt => ⟨.update, 0x1405c, 0, 1, 0, 32, .rc, 0⟩
  | .redirectUsed => ⟨.update, 0x14060, 0, 1, 0, 9, .ro, 0⟩
  | .redirectFirstRow => ⟨.update, 0x15000, 32, 256, 0, 40, .ro, 0⟩
  | .redirectCountM1 => ⟨.update, 0x15000, 32, 256, 40, 16, .ro, 0⟩
  | .redirectValid => ⟨.update, 0x15000, 32, 256, 63, 1, .ro, 0⟩
  | .redirectDestDevice => ⟨.update, 0x15008, 32, 256, 0, 16, .ro, 0⟩
  | .redirectDestSlot => ⟨.update, 0x15008, 32, 256, 16, 40, .ro, 0⟩
  | .redirectJobId => ⟨.update, 0x15010, 32, 256, 0, 12, .ro, 0⟩
  | .redirectTensorId => ⟨.update, 0x15014, 32, 256, 0, 32, .ro, 0⟩
  -- Table 7.6
  | .matDenseTileCnt => ⟨.core, 0x200240, 0, 1, 0, 32, .rc, 0⟩
  | .matSparseTileCnt => ⟨.core, 0x200244, 0, 1, 0, 32, .rc, 0⟩
  | .sparseViolCnt => ⟨.core, 0x200248, 0, 1, 0, 32, .rc, 0⟩
  | .sparseFallbackCnt => ⟨.core, 0x20024c, 0, 1, 0, 32, .rc, 0⟩
  | .matNanCnt => ⟨.core, 0x200250, 0, 1, 0, 32, .rc, 0⟩
  | .predSkipCnt => ⟨.core, 0x200254, 0, 1, 0, 32, .rc, 0⟩
  | .predMissCnt => ⟨.core, 0x200258, 0, 1, 0, 32, .rc, 0⟩
  | .predUnverifiedCnt => ⟨.core, 0x20025c, 0, 1, 0, 32, .rc, 0⟩
  | .predClear => ⟨.core, 0x200260, 0, 1, 0, 1, .wo, 0⟩
  -- Table 8.4
  | .satCnt => ⟨.core, 0x200280, 0, 1, 0, 32, .rc, 0⟩
  | .satFirstTag => ⟨.core, 0x200284, 0, 1, 0, 16, .ro, 0⟩
  | .satFirstValid => ⟨.core, 0x200284, 0, 1, 16, 1, .ro, 0⟩
  | .satFirstCtx => ⟨.core, 0x200284, 0, 1, 17, 1, .ro, 0⟩
  | .satFirstOp => ⟨.core, 0x200288, 0, 1, 0, 8, .ro, 0⟩
  -- Table 8.5
  | .updSatCnt => ⟨.numerics, 0x5000, 0, 1, 0, 32, .rc, 0⟩
  | .redSatCnt => ⟨.numerics, 0x5004, 0, 1, 0, 32, .rc, 0⟩
  | .redNanCnt => ⟨.numerics, 0x5008, 0, 1, 0, 32, .rc, 0⟩
  | .redMaintRejectCnt => ⟨.numerics, 0x500c, 0, 1, 0, 32, .rc, 0⟩
  -- Table 9.11
  | .prefetchIssuedCnt => ⟨.core, 0x2002a0, 0, 1, 0, 32, .rc, 0⟩
  | .prefetchUsedCnt => ⟨.core, 0x2002a4, 0, 1, 0, 32, .rc, 0⟩
  | .prefetchDiscardCnt => ⟨.core, 0x2002a8, 0, 1, 0, 32, .rc, 0⟩
  | .applySliceCnt => ⟨.core, 0x2002ac, 0, 1, 0, 32, .rc, 0⟩
  | .paramHoldCnt => ⟨.core, 0x2002b0, 0, 1, 0, 32, .rc, 0⟩
  | .paramStaleCnt => ⟨.core, 0x2002b4, 0, 1, 0, 32, .rc, 0⟩
  | .paramWriteRejectCnt => ⟨.core, 0x2002b8, 0, 1, 0, 32, .rc, 0⟩
  -- Table 9.12
  | .applyActive => ⟨.apply, 0x20000, 0, 1, 0, 13, .ro, 0⟩
  | .lastApplyJob => ⟨.apply, 0x20004, 0, 1, 0, 12, .ro, 0⟩
  | .lastApplyStatus => ⟨.apply, 0x20004, 0, 1, 16, 8, .ro, 0⟩
  | .lastApplyStep => ⟨.apply, 0x20008, 0, 1, 0, 32, .ro, 0⟩
  | .applyOkCnt => ⟨.apply, 0x2000c, 0, 1, 0, 32, .rc, 0⟩
  | .applyFailCnt => ⟨.apply, 0x20010, 0, 1, 0, 32, .rc, 0⟩
  | .applyElemCnt => ⟨.apply, 0x20014, 0, 1, 0, 32, .rc, 0⟩
  | .applyLocked => ⟨.apply, 0x20200, 4, 128, 0, 32, .ro, 0⟩
  | .readStep => ⟨.apply, 0x21000, 4, 4096, 0, 32, .ro, 0xffffffff⟩
  -- Table 10.5
  | .scrubHbmPeriod => ⟨.memory, 0x10000, 0, 1, 0, 8, .rw, 0x18⟩
  | .scrubSramPeriod => ⟨.memory, 0x10000, 0, 1, 8, 8, .rw, 0xa⟩
  | .wipeBusy => ⟨.memory, 0x10004, 0, 1, 0, 1, .ro, 0⟩
  | .hbmCeCnt => ⟨.memory, 0x10008, 0, 1, 0, 32, .rc, 0⟩
  | .hbmUeCnt => ⟨.memory, 0x1000c, 0, 1, 0, 32, .rc, 0⟩
  | .hbmOdeccCnt => ⟨.memory, 0x10010, 0, 1, 0, 32, .rc, 0⟩
  | .hbmParityRetryCnt => ⟨.memory, 0x10014, 0, 1, 0, 32, .rc, 0⟩
  | .sramCeCnt => ⟨.memory, 0x10018, 0, 1, 0, 32, .rc, 0⟩
  | .sramUeCnt => ⟨.memory, 0x1001c, 0, 1, 0, 32, .rc, 0⟩
  | .pathCeCnt => ⟨.memory, 0x10020, 0, 1, 0, 32, .rc, 0⟩
  | .pathUeCnt => ⟨.memory, 0x10024, 0, 1, 0, 32, .rc, 0⟩
  | .scrubPassCnt => ⟨.memory, 0x10028, 0, 1, 0, 32, .rc, 0⟩
  | .hdmDenyCnt => ⟨.memory, 0x1002c, 0, 1, 0, 32, .rc, 0⟩
  | .wipeVerifyFailCnt => ⟨.memory, 0x10030, 0, 1, 0, 32, .rc, 0⟩
  | .stackFailMask => ⟨.memory, 0x10034, 0, 1, 0, 12, .ro, 0⟩
  | .lastUeDa => ⟨.memory, 0x10038, 0, 1, 0, 40, .ro, 0⟩
  | .lastUeSource => ⟨.memory, 0x10038, 0, 1, 40, 4, .ro, 0⟩
  | .retiredCount => ⟨.memory, 0x10040, 0, 1, 0, 11, .ro, 0⟩
  | .retireOverflow => ⟨.memory, 0x10040, 0, 1, 11, 1, .ro, 0⟩
  | .memInjectAddr => ⟨.memory, 0x10048, 0, 1, 0, 40, .rw, 0⟩
  | .injectArm => ⟨.memory, 0x10050, 0, 1, 0, 1, .wo, 0⟩
  | .injectDouble => ⟨.memory, 0x10050, 0, 1, 1, 1, .rw, 0⟩
  | .injectPending => ⟨.memory, 0x10050, 0, 1, 2, 1, .ro, 0⟩
  | .retiredPage => ⟨.memory, 0x10100, 8, 1024, 0, 28, .ro, 0⟩
  | .retiredValid => ⟨.memory, 0x10100, 8, 1024, 63, 1, .ro, 0⟩
  -- Table 11.10
  | .deviceId => ⟨.fabric, 0x400000, 0, 1, 0, 16, .ro, 0⟩
  | .idValid => ⟨.fabric, 0x400000, 0, 1, 16, 1, .ro, 0⟩
  | .dimSizeM1 => ⟨.fabric, 0x400004, 0, 1, 0, 16, .ro, 0⟩
  | .torusValid => ⟨.fabric, 0x400004, 0, 1, 16, 1, .ro, 0⟩
  | .coord => ⟨.fabric, 0x400008, 0, 1, 0, 16, .ro, 0⟩
  | .portUpMask => ⟨.fabric, 0x40000c, 0, 1, 0, 16, .ro, 0⟩
  | .portHeldMask => ⟨.fabric, 0x40000c, 0, 1, 16, 16, .ro, 0⟩
  | .ctxRetxTimeout => ⟨.fabric, 0x400010, 0, 1, 0, 16, .rw, 0x1f4⟩
  | .tagsInUse => ⟨.fabric, 0x400014, 0, 1, 0, 15, .ro, 0⟩
  | .ctxInUse => ⟨.fabric, 0x400018, 0, 1, 0, 14, .ro, 0⟩
  | .rxUnroutableCnt => ⟨.fabric, 0x400020, 0, 1, 0, 32, .rc, 0⟩
  | .rspOrphanCnt => ⟨.fabric, 0x400024, 0, 1, 0, 32, .rc, 0⟩
  | .ctxRetxCnt => ⟨.fabric, 0x400028, 0, 1, 0, 32, .rc, 0⟩
  | .ctxDupDropCnt => ⟨.fabric, 0x40002c, 0, 1, 0, 32, .rc, 0⟩
  | .ctxLostCnt => ⟨.fabric, 0x400030, 0, 1, 0, 32, .rc, 0⟩
  | .ctxUnknownCnt => ⟨.fabric, 0x400034, 0, 1, 0, 32, .rc, 0⟩
  | .qpostFullCnt => ⟨.fabric, 0x400038, 0, 1, 0, 32, .rc, 0⟩
  | .mgmtRejectCnt => ⟨.fabric, 0x40003c, 0, 1, 0, 32, .rc, 0⟩
  | .tagFullStallCnt => ⟨.fabric, 0x400040, 0, 1, 0, 32, .rc, 0⟩
  | .retxStoreStallCnt => ⟨.fabric, 0x400044, 0, 1, 0, 32, .rc, 0⟩
  | .tokenBadCoreCnt => ⟨.fabric, 0x400048, 0, 1, 0, 32, .rc, 0⟩
  | .peerOpJob => ⟨.fabric, 0x400080, 0, 1, 0, 12, .rw, 0⟩
  | .peerOpIndex => ⟨.fabric, 0x400084, 0, 1, 0, 13, .rw, 0⟩
  | .peerOpDevice => ⟨.fabric, 0x400088, 0, 1, 0, 16, .rw, 0⟩
  | .peerOp => ⟨.fabric, 0x40008c, 0, 1, 0, 2, .rw, 0⟩
  | .peerStart => ⟨.fabric, 0x40008c, 0, 1, 2, 1, .wo, 0⟩
  | .peerVector => ⟨.fabric, 0x40008c, 0, 1, 3, 11, .rw, 0⟩
  | .peerBusy => ⟨.fabric, 0x400090, 0, 1, 0, 1, .ro, 0⟩
  | .peerStatus => ⟨.fabric, 0x400090, 0, 1, 8, 8, .ro, 0⟩
  | .peerCtxNum => ⟨.fabric, 0x400090, 0, 1, 16, 13, .ro, 0⟩
  | .mboxDst => ⟨.fabric, 0x400100, 0, 1, 0, 16, .rw, 0⟩
  | .mboxLocal => ⟨.fabric, 0x400100, 0, 1, 16, 1, .rw, 1⟩
  | .mboxCmd => ⟨.fabric, 0x400104, 0, 1, 0, 8, .rw, 0⟩
  | .mboxSecured => ⟨.fabric, 0x400104, 0, 1, 8, 1, .rw, 0⟩
  | .mboxLen => ⟨.fabric, 0x400104, 0, 1, 9, 13, .rw, 0⟩
  | .mboxStart => ⟨.fabric, 0x400108, 0, 1, 0, 1, .wo, 0⟩
  | .mboxVector => ⟨.fabric, 0x400108, 0, 1, 1, 11, .rw, 0⟩
  | .mboxBusy => ⟨.fabric, 0x40010c, 0, 1, 0, 1, .ro, 0⟩
  | .mboxStatus => ⟨.fabric, 0x40010c, 0, 1, 8, 8, .ro, 0⟩
  | .mboxRspLen => ⟨.fabric, 0x40010c, 0, 1, 16, 13, .ro, 0⟩
  | .jobSlotJobId => ⟨.fabric, 0x400200, 8, 64, 0, 12, .ro, 0⟩
  | .jobSlotValid => ⟨.fabric, 0x400200, 8, 64, 15, 1, .ro, 0⟩
  | .jobSlotCtxBase => ⟨.fabric, 0x400200, 8, 64, 16, 13, .ro, 0⟩
  | .jobSlotCtxCount => ⟨.fabric, 0x400204, 8, 64, 0, 14, .ro, 0⟩
  | .ctxState => ⟨.fabric, 0x410000, 8, 8192, 0, 3, .ro, 0⟩
  | .ctxJobId => ⟨.fabric, 0x410000, 8, 8192, 4, 12, .ro, 0⟩
  | .ctxRemoteDevice => ⟨.fabric, 0x410000, 8, 8192, 16, 16, .ro, 0⟩
  | .ctxRemoteCtx => ⟨.fabric, 0x410004, 8, 8192, 0, 13, .ro, 0⟩
  | .ctxLastStatus => ⟨.fabric, 0x410004, 8, 8192, 24, 8, .ro, 0⟩
  -- Table 11.11
  | .portState => ⟨.port, 0x7000, 0, 1, 0, 3, .ro, 0⟩
  | .portReason => ⟨.port, 0x7000, 0, 1, 4, 4, .ro, 0⟩
  | .portWidth => ⟨.port, 0x7000, 0, 1, 8, 3, .ro, 0⟩
  | .portLaneMask => ⟨.port, 0x7000, 0, 1, 12, 4, .ro, 0⟩
  | .portActiveMask => ⟨.port, 0x7000, 0, 1, 16, 4, .ro, 0⟩
  | .portMinLanes => ⟨.port, 0x7000, 0, 1, 20, 3, .ro, 1⟩
  | .partnerDevice => ⟨.port, 0x7004, 0, 1, 0, 16, .ro, 0⟩
  | .partnerPort => ⟨.port, 0x7004, 0, 1, 16, 4, .ro, 0⟩
  | .partnerIdValid => ⟨.port, 0x7004, 0, 1, 20, 1, .ro, 0⟩
  | .partnerSerial => ⟨.port, 0x7008, 0, 1, 0, 64, .ro, 0⟩
  | .lastChangeNs => ⟨.port, 0x7010, 0, 1, 0, 64, .ro, 0⟩
  | .trainAttemptCnt => ⟨.port, 0x7018, 0, 1, 0, 32, .rc, 0⟩
  | .retrainCnt => ⟨.port, 0x701c, 0, 1, 0, 32, .rc, 0⟩
  | .linkReplayCnt => ⟨.port, 0x7020, 0, 1, 0, 32, .rc, 0⟩
  | .fecCorrCnt => ⟨.port, 0x7024, 0, 1, 0, 32, .rc, 0⟩
  | .fecUncorrCnt => ⟨.port, 0x7028, 0, 1, 0, 32, .rc, 0⟩
  | .crcErrCnt => ⟨.port, 0x702c, 0, 1, 0, 32, .rc, 0⟩
  | .rxBadlenCnt => ⟨.port, 0x7030, 0, 1, 0, 32, .rc, 0⟩
  | .rxBadhdrCnt => ⟨.port, 0x7034, 0, 1, 0, 32, .rc, 0⟩
  | .rxResyncCnt => ⟨.port, 0x7038, 0, 1, 0, 32, .rc, 0⟩
  | .rxTtlDropCnt => ⟨.port, 0x703c, 0, 1, 0, 32, .rc, 0⟩
  | .txPktCnt => ⟨.port, 0x7040, 0, 1, 0, 32, .rc, 0⟩
  | .rxPktCnt => ⟨.port, 0x7044, 0, 1, 0, 32, .rc, 0⟩
  -- Table 12.8
  | .redPost => ⟨.core, 0x200340, 0, 1, 0, 1, .wo, 0⟩
  | .redFifoFree => ⟨.core, 0x200344, 0, 1, 0, 5, .ro, 0x10⟩
  | .redPostDropCnt => ⟨.core, 0x200348, 0, 1, 0, 32, .rc, 0⟩
  -- Table 12.9
  | .redWaitTimeout => ⟨.reduction, 0x30000, 0, 1, 0, 16, .rw, 0x3e8⟩
  | .epochSwJob => ⟨.reduction, 0x30004, 0, 1, 0, 12, .rw, 0⟩
  | .epochSwNew => ⟨.reduction, 0x30004, 0, 1, 16, 8, .rw, 0⟩
  | .epochSwStart => ⟨.reduction, 0x30004, 0, 1, 24, 1, .wo, 0⟩
  | .epochSwStatus => ⟨.reduction, 0x30008, 0, 1, 0, 8, .ro, 0⟩
  | .slotsReserved => ⟨.reduction, 0x30008, 0, 1, 8, 13, .ro, 0⟩
  | .redSegOkCnt => ⟨.reduction, 0x30010, 0, 1, 0, 32, .rc, 0⟩
  | .redSegFailCnt => ⟨.reduction, 0x30014, 0, 1, 0, 32, .rc, 0⟩
  | .redBackupUsedCnt => ⟨.reduction, 0x30018, 0, 1, 0, 32, .rc, 0⟩
  | .redBackupMismatchCnt => ⟨.reduction, 0x3001c, 0, 1, 0, 32, .rc, 0⟩
  | .redLateCopyCnt => ⟨.reduction, 0x30020, 0, 1, 0, 32, .rc, 0⟩
  | .redEpochStaleCnt => ⟨.reduction, 0x30024, 0, 1, 0, 32, .rc, 0⟩
  | .redEpochAheadCnt => ⟨.reduction, 0x30028, 0, 1, 0, 32, .rc, 0⟩
  | .digestLateCnt => ⟨.reduction, 0x3002c, 0, 1, 0, 32, .rc, 0⟩
  | .suspectSentCnt => ⟨.reduction, 0x30030, 0, 1, 0, 32, .rc, 0⟩
  | .suspectSuppressedCnt => ⟨.reduction, 0x30034, 0, 1, 0, 32, .rc, 0⟩
  | .suspectTableFullCnt => ⟨.reduction, 0x30038, 0, 1, 0, 32, .rc, 0⟩
  | .jobEpoch => ⟨.reduction, 0x30100, 4, 64, 0, 8, .ro, 0⟩
  | .redBusy => ⟨.reduction, 0x30100, 4, 64, 16, 1, .ro, 0⟩
  | .susDevice => ⟨.reduction, 0x31000, 32, 256, 0, 16, .ro, 0⟩
  | .susJobId => ⟨.reduction, 0x31000, 32, 256, 16, 12, .ro, 0⟩
  | .susValid => ⟨.reduction, 0x31000, 32, 256, 28, 1, .w1c, 0⟩
  | .susEvented => ⟨.reduction, 0x31000, 32, 256, 29, 1, .ro, 0⟩
  | .susCount => ⟨.reduction, 0x31004, 32, 256, 0, 32, .ro, 0⟩
  | .susFirst => ⟨.reduction, 0x31008, 32, 256, 0, 16, .ro, 0⟩
  | .susLast => ⟨.reduction, 0x31008, 32, 256, 16, 16, .ro, 0⟩
  | .susReasons => ⟨.reduction, 0x3100c, 32, 256, 0, 8, .ro, 0⟩
  | .susFirstNs => ⟨.reduction, 0x31010, 32, 256, 0, 64, .ro, 0⟩
  | .digStep => ⟨.reduction, 0x34000, 32, 1024, 0, 32, .ro, 0⟩
  | .digValid => ⟨.reduction, 0x34004, 32, 1024, 0, 1, .ro, 0⟩
  | .digSend => ⟨.reduction, 0x34008, 32, 1024, 0, 64, .ro, 0⟩
  | .digRecv => ⟨.reduction, 0x34010, 32, 1024, 0, 64, .ro, 0⟩
  -- Table 13.5
  | .dbIndex => ⟨.doorbell, 0x3200000, 0, 1, 0, 15, .wo, 0⟩
  -- Table 13.6
  | .qRingAddr => ⟨.queue, 0x3400000, 0, 1, 0, 64, .rw, 0⟩
  | .qEnable => ⟨.queue, 0x3400008, 0, 1, 0, 1, .rw, 0⟩
  | .qError => ⟨.queue, 0x3400008, 0, 1, 1, 1, .ro, 0⟩
  | .qErrStatus => ⟨.queue, 0x3400008, 0, 1, 8, 8, .ro, 0⟩
  | .qKind => ⟨.queue, 0x3400008, 0, 1, 16, 4, .ro, 0⟩
  | .qDepthLog2 => ⟨.queue, 0x3400008, 0, 1, 20, 4, .ro, 0⟩
  | .qDevIndex => ⟨.queue, 0x340000c, 0, 1, 0, 15, .ro, 0⟩
  | .qDevPhase => ⟨.queue, 0x340000c, 0, 1, 15, 1, .ro, 1⟩
  | .qHostIndex => ⟨.queue, 0x340000c, 0, 1, 16, 15, .ro, 0⟩
  -- Table 13.9
  | .cxlMode => ⟨.host, 0x3000000, 0, 1, 0, 1, .ro, 0⟩
  | .linkWidth => ⟨.host, 0x3000000, 0, 1, 1, 5, .ro, 0⟩
  | .linkSpeed => ⟨.host, 0x3000000, 0, 1, 6, 4, .ro, 0⟩
  | .applyDb => ⟨.host, 0x3000004, 0, 1, 0, 32, .wo, 0⟩
  | .evqAddr => ⟨.host, 0x3000008, 0, 1, 0, 64, .rw, 0⟩
  | .evqEnable => ⟨.host, 0x3000010, 0, 1, 0, 1, .rw, 0⟩
  | .evqLog2 => ⟨.host, 0x3000010, 0, 1, 4, 4, .rw, 6⟩
  | .evqVector => ⟨.host, 0x3000010, 0, 1, 8, 11, .rw, 0⟩
  | .evqHead => ⟨.host, 0x3000014, 0, 1, 0, 15, .rw, 0⟩
  | .evqTail => ⟨.host, 0x3000018, 0, 1, 0, 15, .ro, 0⟩
  | .evqPhase => ⟨.host, 0x3000018, 0, 1, 15, 1, .ro, 1⟩
  | .intHoldoff => ⟨.host, 0x300001c, 0, 1, 0, 16, .rw, 0⟩
  | .dbInvalidCnt => ⟨.host, 0x3000020, 0, 1, 0, 32, .rc, 0⟩
  | .cqFullStallCnt => ⟨.host, 0x3000024, 0, 1, 0, 32, .rc, 0⟩
  | .cqDropCnt => ⟨.host, 0x3000028, 0, 1, 0, 32, .rc, 0⟩
  | .evqLostCnt => ⟨.host, 0x300002c, 0, 1, 0, 32, .rc, 0⟩
  | .hdmPoisonWriteCnt => ⟨.host, 0x3000030, 0, 1, 0, 32, .rc, 0⟩
  | .ringFetchErrCnt => ⟨.host, 0x3000034, 0, 1, 0, 32, .rc, 0⟩
  | .lastBadDbQueue => ⟨.host, 0x3000038, 0, 1, 0, 15, .ro, 0⟩
  | .lastBadDbValue => ⟨.host, 0x300003c, 0, 1, 0, 32, .ro, 0⟩
  -- Table 14.10
  | .feedId => ⟨.resilience, 0x18000, 0, 1, 0, 4, .ro, 0⟩
  | .mirrorPageCnt => ⟨.resilience, 0x18004, 0, 1, 0, 32, .rc, 0⟩
  | .mirrorHoldCnt => ⟨.resilience, 0x18008, 0, 1, 0, 32, .rc, 0⟩
  | .mirrorResendCnt => ⟨.resilience, 0x1800c, 0, 1, 0, 32, .rc, 0⟩
  | .ckptPageCnt => ⟨.resilience, 0x18010, 0, 1, 0, 32, .rc, 0⟩
  | .zestMismatchCnt => ⟨.resilience, 0x18014, 0, 1, 0, 32, .rc, 0⟩
  | .zestHoldCnt => ⟨.resilience, 0x18018, 0, 1, 0, 32, .rc, 0⟩
  | .refillPageCnt => ⟨.resilience, 0x1801c, 0, 1, 0, 32, .rc, 0⟩
  | .damsonSrcAddr => ⟨.resilience, 0x18020, 0, 1, 0, 64, .rw, 0⟩
  | .damsonLen => ⟨.resilience, 0x18028, 0, 1, 0, 32, .rw, 0⟩
  | .damsonLoad => ⟨.resilience, 0x1802c, 0, 1, 0, 1, .wo, 0⟩
  | .damsonVector => ⟨.resilience, 0x1802c, 0, 1, 1, 11, .rw, 0⟩
  | .damsonStatus => ⟨.resilience, 0x18030, 0, 1, 0, 8, .ro, 0⟩
  | .damsonBusy => ⟨.resilience, 0x18030, 0, 1, 8, 1, .ro, 0⟩
  | .damsonActive => ⟨.resilience, 0x18030, 0, 1, 9, 1, .ro, 0⟩
  | .damsonPackId => ⟨.resilience, 0x18034, 0, 1, 0, 32, .ro, 0⟩
  | .damsonPassCnt => ⟨.resilience, 0x18038, 0, 1, 0, 32, .rc, 0⟩
  | .damsonFailCnt => ⟨.resilience, 0x1803c, 0, 1, 0, 32, .rc, 0⟩
  | .damsonLastFailCore => ⟨.resilience, 0x18040, 0, 1, 0, 9, .ro, 0⟩
  | .damsonLastFailPattern => ⟨.resilience, 0x18040, 0, 1, 16, 16, .ro, 0⟩
  | .damsonCycleMs => ⟨.resilience, 0x18044, 0, 1, 0, 32, .ro, 0⟩
  | .pairState => ⟨.resilience, 0x19000, 128, 64, 0, 3, .ro, 0⟩
  | .sharedFeed => ⟨.resilience, 0x19000, 128, 64, 3, 1, .ro, 0⟩
  | .mirrorFrozen => ⟨.resilience, 0x19000, 128, 64, 4, 1, .ro, 0⟩
  | .pairLossStatus => ⟨.resilience, 0x19000, 128, 64, 8, 8, .ro, 0⟩
  | .pairPartner => ⟨.resilience, 0x19000, 128, 64, 16, 16, .ro, 0⟩
  | .lastCut => ⟨.resilience, 0x19004, 128, 64, 0, 32, .ro, 0xffffffff⟩
  | .mirrorStep => ⟨.resilience, 0x19008, 128, 64, 0, 32, .ro, 0xffffffff⟩
  | .shadowStep => ⟨.resilience, 0x1900c, 128, 64, 0, 32, .ro, 0xffffffff⟩
  | .mseqSent => ⟨.resilience, 0x19010, 128, 64, 0, 32, .ro, 0⟩
  | .shadowMseq => ⟨.resilience, 0x19014, 128, 64, 0, 32, .ro, 0⟩
  | .ckptExportRegion => ⟨.resilience, 0x19018, 128, 64, 0, 16, .rw, 0xffff⟩
  | .ckptAck => ⟨.resilience, 0x1901c, 128, 64, 0, 32, .wo, 0⟩
  | .lastCkptStep => ⟨.resilience, 0x19020, 128, 64, 0, 32, .ro, 0xffffffff⟩
  | .ckptStatus => ⟨.resilience, 0x19024, 128, 64, 0, 8, .ro, 0⟩
  | .ckptBusy => ⟨.resilience, 0x19024, 128, 64, 8, 1, .ro, 0⟩
  | .ckptUnacked => ⟨.resilience, 0x19024, 128, 64, 9, 1, .ro, 0⟩
  | .rebindDevice => ⟨.resilience, 0x19028, 128, 64, 0, 16, .rw, 0⟩
  | .rebindBit => ⟨.resilience, 0x1902c, 128, 64, 0, 1, .wo, 0⟩
  | .refillStart => ⟨.resilience, 0x1902c, 128, 64, 1, 1, .wo, 0⟩
  | .recVector => ⟨.resilience, 0x1902c, 128, 64, 2, 11, .rw, 0⟩
  | .refillStatus => ⟨.resilience, 0x19030, 128, 64, 0, 8, .ro, 0⟩
  | .refillBusy => ⟨.resilience, 0x19030, 128, 64, 8, 1, .ro, 0⟩
  | .refillQueued => ⟨.resilience, 0x19030, 128, 64, 9, 1, .ro, 0⟩
  | .zestLastStep => ⟨.resilience, 0x19034, 128, 64, 0, 32, .ro, 0xffffffff⟩
  | .zestStatus => ⟨.resilience, 0x19038, 128, 64, 0, 8, .ro, 0⟩
  | .zestVerdictPending => ⟨.resilience, 0x19038, 128, 64, 8, 1, .ro, 0⟩
  | .zestDigest => ⟨.resilience, 0x19040, 128, 64, 0, 64, .ro, 0⟩
  | .replayStep => ⟨.resilience, 0x19048, 128, 64, 0, 32, .rw, 0⟩
  | .replayArm => ⟨.resilience, 0x1904c, 128, 64, 0, 1, .wo, 0⟩
  | .replayArmed => ⟨.resilience, 0x1904c, 128, 64, 1, 1, .ro, 0⟩
  | .replayStatus => ⟨.resilience, 0x1904c, 128, 64, 8, 8, .ro, 0⟩
  | .replaySendExp => ⟨.resilience, 0x19050, 128, 64, 0, 64, .rw, 0⟩
  | .replayRecvExp => ⟨.resilience, 0x19058, 128, 64, 0, 64, .rw, 0⟩
  -- Table 15.7
  | .bringupStage => ⟨.bringup, 0x2000, 0, 1, 0, 4, .ro, 1⟩
  | .bringupState => ⟨.bringup, 0x2000, 0, 1, 4, 4, .ro, 0⟩
  | .bringupFailStatus => ⟨.bringup, 0x2000, 0, 1, 8, 8, .ro, 0⟩
  | .logicalCoreCount => ⟨.bringup, 0x2004, 0, 1, 0, 10, .ro, 0⟩
  | .healthyPhysical => ⟨.bringup, 0x2004, 0, 1, 16, 10, .ro, 0⟩
  | .deviceVmode => ⟨.bringup, 0x2008, 0, 1, 0, 2, .ro, 1⟩
  | .resetDomain => ⟨.bringup, 0x2010, 0, 1, 0, 3, .rw, 0⟩
  | .resetStart => ⟨.bringup, 0x2010, 0, 1, 3, 1, .wo, 0⟩
  | .resetTarget => ⟨.bringup, 0x2014, 0, 1, 0, 32, .rw, 0⟩
  | .resetBusy => ⟨.bringup, 0x2018, 0, 1, 0, 1, .ro, 0⟩
  | .resetStep => ⟨.bringup, 0x2018, 0, 1, 1, 3, .ro, 0⟩
  | .resetStatus => ⟨.bringup, 0x2018, 0, 1, 8, 8, .ro, 0⟩
  | .lastResetReason => ⟨.bringup, 0x2020, 0, 1, 0, 8, .ro, 1⟩
  | .lastResetDomain => ⟨.bringup, 0x2020, 0, 1, 8, 3, .ro, 4⟩
  | .lastResetTarget => ⟨.bringup, 0x2024, 0, 1, 0, 32, .ro, 0⟩
  | .lastResetNs => ⟨.bringup, 0x2028, 0, 1, 0, 64, .ro, 0⟩
  | .quiesceForceCnt => ⟨.bringup, 0x2030, 0, 1, 0, 32, .rc, 0⟩
  | .absorbCnt => ⟨.bringup, 0x2034, 0, 1, 0, 32, .rc, 0⟩
  | .fwResendChunkCnt => ⟨.bringup, 0x2038, 0, 1, 0, 32, .rc, 0⟩
  | .warmResetCnt => ⟨.bringup, 0x203c, 0, 1, 0, 32, .rc, 0⟩
  | .resetRejectCnt => ⟨.bringup, 0x2040, 0, 1, 0, 32, .rc, 0⟩
  | .stageUs => ⟨.bringup, 0x2050, 4, 10, 0, 32, .ro, 0⟩
  | .present => ⟨.bringup, 0x2080, 4, 16, 0, 32, .ro, 0⟩
  | .defect => ⟨.bringup, 0x20c0, 4, 17, 0, 32, .ro, 0⟩
  -- Table 16.17
  | .lcState => ⟨.pip, 0x3000, 0, 1, 0, 3, .ro, 0⟩
  | .romRecovery => ⟨.pip, 0x3000, 0, 1, 3, 1, .ro, 0⟩
  | .keyProgrammed => ⟨.pip, 0x3000, 0, 1, 4, 4, .ro, 0⟩
  | .keyRevoked => ⟨.pip, 0x3000, 0, 1, 8, 4, .ro, 0⟩
  | .customerSigRequired => ⟨.pip, 0x3000, 0, 1, 12, 1, .ro, 0⟩
  | .serial => ⟨.pip, 0x3008, 0, 1, 0, 64, .ro, 0⟩
  | .pipFwVersion => ⟨.pip, 0x3010, 0, 1, 0, 32, .ro, 0⟩
  | .pipFwSvn => ⟨.pip, 0x3014, 0, 1, 0, 6, .ro, 0⟩
  | .fwMinSvn => ⟨.pip, 0x3014, 0, 1, 6, 6, .ro, 0⟩
  | .activeSlot => ⟨.pip, 0x3014, 0, 1, 12, 1, .ro, 0⟩
  | .fwStageAddr => ⟨.pip, 0x3018, 0, 1, 0, 64, .rw, 0⟩
  | .fwStageLen => ⟨.pip, 0x3020, 0, 1, 0, 32, .rw, 0⟩
  | .fwStageStart => ⟨.pip, 0x3024, 0, 1, 0, 1, .wo, 0⟩
  | .fwVector => ⟨.pip, 0x3024, 0, 1, 1, 11, .rw, 0⟩
  | .fwStageBusy => ⟨.pip, 0x3028, 0, 1, 0, 1, .ro, 0⟩
  | .fwStageStatus => ⟨.pip, 0x3028, 0, 1, 8, 8, .ro, 0⟩
  | .stoneRdIndex => ⟨.pip, 0x3040, 0, 1, 0, 16, .rw, 0⟩
  | .stoneRdValid => ⟨.pip, 0x3040, 0, 1, 16, 1, .ro, 0⟩
  | .stoneWrIndex => ⟨.pip, 0x3044, 0, 1, 0, 16, .ro, 0⟩
  | .stoneFfUsed => ⟨.pip, 0x3044, 0, 1, 16, 12, .ro, 0⟩
  | .stoneFfFull => ⟨.pip, 0x3044, 0, 1, 28, 1, .ro, 0⟩
  | .stoneHeadSeq => ⟨.pip, 0x3048, 0, 1, 0, 32, .ro, 0⟩
  | .stoneDropCnt => ⟨.pip, 0x304c, 0, 1, 0, 32, .rc, 0⟩
  | .stoneTornCnt => ⟨.pip, 0x3050, 0, 1, 0, 32, .rc, 0⟩
  | .measLogCount => ⟨.pip, 0x3054, 0, 1, 0, 9, .ro, 0⟩
  | .measLogWrapped => ⟨.pip, 0x3054, 0, 1, 9, 1, .ro, 0⟩
  | .mgmtSessions => ⟨.pip, 0x3058, 0, 1, 0, 5, .ro, 0⟩
  | .sensor => ⟨.pip, 0x3400, 4, 256, 0, 32, .ro, 0x80000000⟩
  | .sensorWarn => ⟨.pip, 0x3800, 4, 256, 0, 32, .rw, 0⟩
  -- Table 17.10
  | .opReq => ⟨.power, 0x4000, 0, 1, 0, 2, .rw, 2⟩
  | .powerLimit => ⟨.power, 0x4004, 0, 1, 0, 16, .rw, 0x708⟩
  | .opEffective => ⟨.power, 0x4008, 0, 1, 0, 2, .ro, 2⟩
  | .capActive => ⟨.power, 0x4008, 0, 1, 2, 1, .ro, 0⟩
  | .thermalThrottle => ⟨.power, 0x4008, 0, 1, 3, 1, .ro, 0⟩
  | .opChanging => ⟨.power, 0x4008, 0, 1, 4, 1, .ro, 0⟩
  | .paceShortMask => ⟨.power, 0x4008, 0, 1, 8, 4, .ro, 0⟩
  | .trimC0 => ⟨.power, 0x400c, 0, 1, 0, 8, .ro, 0⟩
  | .trimC1 => ⟨.power, 0x400c, 0, 1, 8, 8, .ro, 0⟩
  | .trimC2 => ⟨.power, 0x400c, 0, 1, 16, 8, .ro, 0⟩
  | .trimC3 => ⟨.power, 0x400c, 0, 1, 24, 8, .ro, 0⟩
  | .capEventCnt => ⟨.power, 0x4010, 0, 1, 0, 32, .rc, 0⟩
  | .throttleCnt => ⟨.power, 0x4014, 0, 1, 0, 32, .rc, 0⟩
  | .pmbusErrCnt => ⟨.power, 0x4018, 0, 1, 0, 32, .rc, 0⟩
  | .opChangeCnt => ⟨.power, 0x401c, 0, 1, 0, 32, .rc, 0⟩
  | .railPresent => ⟨.power, 0x4020, 0, 1, 0, 32, .ro, 0⟩
  | .railFault => ⟨.power, 0x4024, 0, 1, 0, 32, .ro, 0⟩
  -- Table 18.3
  | .variant => ⟨.ident, 0x0, 0, 1, 0, 4, .ro, 0⟩
  | .stepping => ⟨.ident, 0x0, 0, 1, 8, 8, .ro, 0⟩
  | .computeDies => ⟨.ident, 0x0, 0, 1, 16, 4, .ro, 0⟩
  | .ioDies => ⟨.ident, 0x0, 0, 1, 20, 4, .ro, 0⟩
  | .hbmStacks => ⟨.ident, 0x0, 0, 1, 24, 4, .ro, 0⟩
  | .portCount => ⟨.ident, 0x4, 0, 1, 0, 5, .ro, 0⟩
  | .laneCount => ⟨.ident, 0x4, 0, 1, 5, 7, .ro, 0⟩
  | .mapVersion => ⟨.ident, 0x8, 0, 1, 0, 16, .ro, 0x100⟩
  | .hbmBytes => ⟨.ident, 0x10, 0, 1, 0, 40, .ro, 0⟩
  | .localNs => ⟨.ident, 0x20, 0, 1, 0, 64, .ro, 0⟩
  | .gatheredEdgeCnt => ⟨.ident, 0x28, 0, 1, 0, 64, .ro, 0⟩
  | .faultAsserted => ⟨.ident, 0x30, 0, 1, 0, 1, .ro, 0⟩
  | .degraded => ⟨.ident, 0x30, 0, 1, 1, 1, .ro, 0⟩
  | .stackFailed => ⟨.ident, 0x30, 0, 1, 2, 1, .ro, 0⟩
  | .portNotUp => ⟨.ident, 0x30, 0, 1, 3, 1, .ro, 0⟩
  | .powerLimited => ⟨.ident, 0x30, 0, 1, 4, 1, .ro, 0⟩
  | .paceShort => ⟨.ident, 0x30, 0, 1, 5, 1, .ro, 0⟩
  | .pairDegraded => ⟨.ident, 0x30, 0, 1, 6, 1, .ro, 0⟩
  | .statusApplyLocked => ⟨.ident, 0x30, 0, 1, 7, 1, .ro, 0⟩
  | .statusRetireOverflow => ⟨.ident, 0x30, 0, 1, 8, 1, .ro, 0⟩
  | .statusMeasLogWrapped => ⟨.ident, 0x30, 0, 1, 9, 1, .ro, 0⟩
  | .csrAbsentCnt => ⟨.ident, 0x34, 0, 1, 0, 32, .rc, 0⟩
  | .eventPostedCnt => ⟨.ident, 0x38, 0, 1, 0, 32, .rc, 0⟩
  | .lastEventType => ⟨.ident, 0x3c, 0, 1, 0, 16, .ro, 0⟩
  -- Table 18.4
  | .partState => ⟨.partition, 0x6000, 0, 1, 0, 2, .ro, 3⟩
  | .partClusterMask => ⟨.partition, 0x6004, 0, 1, 0, 32, .ro, 0⟩
  | .jobsBound => ⟨.partition, 0x6008, 0, 1, 0, 7, .ro, 0⟩
  | .coresAssigned => ⟨.partition, 0x6008, 0, 1, 16, 10, .ro, 0⟩
  | .queuesBound => ⟨.partition, 0x600c, 0, 1, 0, 16, .ro, 0⟩
  | .regionsBound => ⟨.partition, 0x600c, 0, 1, 16, 13, .ro, 0⟩
  | .partImageId => ⟨.partition, 0x6010, 0, 1, 0, 64, .ro, 0⟩
  | .partCommitNs => ⟨.partition, 0x6018, 0, 1, 0, 64, .ro, 0⟩
  | .partCommitCnt => ⟨.partition, 0x6020, 0, 1, 0, 32, .rc, 0⟩
  | .partResetCnt => ⟨.partition, 0x6024, 0, 1, 0, 32, .rc, 0⟩

/-- The fields of Table 2.19. -/
def Reg.table2_19 : List Reg :=
  [.qimgSrcAddr, .qimgLen, .qimgStart, .qimgVerifyOnly, .qimgVector, .qimgBusy,
   .qimgStep, .qimgStatus, .qimgReason, .qimgErrOffset, .lastImageId, .qimgPartState,
   .qimgBusyRejectCnt]

/-- The fields of Table 3.10. -/
def Reg.table3_10 : List Reg :=
  [.logicalCore, .physicalCore, .c0Halted, .c1Halted, .quiescing, .progDone,
   .c0FailStatus, .c1FailStatus, .c0Resume, .c0Flush, .c1Resume, .c1Flush,
   .tokenTimeout, .c0CringBase, .c0CringLog2, .c0CringHead, .c0CringTail, .c0IssuedSeq,
   .c0DoneSeq, .c1IssuedSeq, .c1DoneSeq, .tileOkCnt, .tileFailCnt, .tokenTimeoutCnt,
   .tokenRejectCnt, .hazardStallCnt, .idleFillTileCnt, .token]

/-- The fields of Table 4.8. -/
def Reg.table4_8 : List Reg :=
  [.vmode, .vfaultPc, .vfaultStatus, .vfaultOpc, .vinstrBudget, .vecNanCnt,
   .vecFaultCnt]

/-- The fields of Table 5.13. -/
def Reg.table5_13 : List Reg :=
  [.sampBusy, .liveBlocks, .heldReqs, .remoteDrawTimeout, .sampReqOkCnt, .sampReqFailCnt,
   .sampEdgeCnt, .sampRemoteSentCnt, .sampRemoteServedCnt, .sampCapTruncCnt, .sampHoldCnt, .sampLateReplyCnt,
   .sampErrNode]

/-- The fields of Table 6.12. -/
def Reg.table6_12 : List Reg :=
  [.sortBusy, .fetchBusy, .peerRowTimeout, .sortOkCnt, .sortFailCnt, .sortEntryCnt,
   .gatherRowCnt, .gatherPeerRowCnt, .gatherStageHitCnt, .gatherStageMissCnt, .gatherLateReplyCnt, .segsumRowCnt,
   .maxOccCount, .qentryBadOpCnt]

/-- The fields of Table 6.13. -/
def Reg.table6_13 : List Reg :=
  [.updateCloseTimeout, .migJob, .migTensorId, .migFirstRow, .migCount, .migDestDevice,
   .migDestSlot, .migStart, .migVector, .migBusy, .migStep, .migStatus,
   .migErrRow, .updRmwCnt, .updContribCnt, .updReadHoldCnt, .updHoldTimeoutCnt, .updCloseTimeoutCnt,
   .updMergeFullCnt, .updUncorrCnt, .updNanCnt, .redirectUsed, .redirectFirstRow, .redirectCountM1,
   .redirectValid, .redirectDestDevice, .redirectDestSlot, .redirectJobId, .redirectTensorId]

/-- The fields of Table 7.6. -/
def Reg.table7_6 : List Reg :=
  [.matDenseTileCnt, .matSparseTileCnt, .sparseViolCnt, .sparseFallbackCnt, .matNanCnt, .predSkipCnt,
   .predMissCnt, .predUnverifiedCnt, .predClear]

/-- The fields of Table 8.4. -/
def Reg.table8_4 : List Reg :=
  [.satCnt, .satFirstTag, .satFirstValid, .satFirstCtx, .satFirstOp]

/-- The fields of Table 8.5. -/
def Reg.table8_5 : List Reg :=
  [.updSatCnt, .redSatCnt, .redNanCnt, .redMaintRejectCnt]

/-- The fields of Table 9.11. -/
def Reg.table9_11 : List Reg :=
  [.prefetchIssuedCnt, .prefetchUsedCnt, .prefetchDiscardCnt, .applySliceCnt, .paramHoldCnt, .paramStaleCnt,
   .paramWriteRejectCnt]

/-- The fields of Table 9.12. -/
def Reg.table9_12 : List Reg :=
  [.applyActive, .lastApplyJob, .lastApplyStatus, .lastApplyStep, .applyOkCnt, .applyFailCnt,
   .applyElemCnt, .applyLocked, .readStep]

/-- The fields of Table 10.5. -/
def Reg.table10_5 : List Reg :=
  [.scrubHbmPeriod, .scrubSramPeriod, .wipeBusy, .hbmCeCnt, .hbmUeCnt, .hbmOdeccCnt,
   .hbmParityRetryCnt, .sramCeCnt, .sramUeCnt, .pathCeCnt, .pathUeCnt, .scrubPassCnt,
   .hdmDenyCnt, .wipeVerifyFailCnt, .stackFailMask, .lastUeDa, .lastUeSource, .retiredCount,
   .retireOverflow, .memInjectAddr, .injectArm, .injectDouble, .injectPending, .retiredPage,
   .retiredValid]

/-- The fields of Table 11.10. -/
def Reg.table11_10 : List Reg :=
  [.deviceId, .idValid, .dimSizeM1, .torusValid, .coord, .portUpMask,
   .portHeldMask, .ctxRetxTimeout, .tagsInUse, .ctxInUse, .rxUnroutableCnt, .rspOrphanCnt,
   .ctxRetxCnt, .ctxDupDropCnt, .ctxLostCnt, .ctxUnknownCnt, .qpostFullCnt, .mgmtRejectCnt,
   .tagFullStallCnt, .retxStoreStallCnt, .tokenBadCoreCnt, .peerOpJob, .peerOpIndex, .peerOpDevice,
   .peerOp, .peerStart, .peerVector, .peerBusy, .peerStatus, .peerCtxNum,
   .mboxDst, .mboxLocal, .mboxCmd, .mboxSecured, .mboxLen, .mboxStart,
   .mboxVector, .mboxBusy, .mboxStatus, .mboxRspLen, .jobSlotJobId, .jobSlotValid,
   .jobSlotCtxBase, .jobSlotCtxCount, .ctxState, .ctxJobId, .ctxRemoteDevice, .ctxRemoteCtx,
   .ctxLastStatus]

/-- The fields of Table 11.11. -/
def Reg.table11_11 : List Reg :=
  [.portState, .portReason, .portWidth, .portLaneMask, .portActiveMask, .portMinLanes,
   .partnerDevice, .partnerPort, .partnerIdValid, .partnerSerial, .lastChangeNs, .trainAttemptCnt,
   .retrainCnt, .linkReplayCnt, .fecCorrCnt, .fecUncorrCnt, .crcErrCnt, .rxBadlenCnt,
   .rxBadhdrCnt, .rxResyncCnt, .rxTtlDropCnt, .txPktCnt, .rxPktCnt]

/-- The fields of Table 12.8. -/
def Reg.table12_8 : List Reg :=
  [.redPost, .redFifoFree, .redPostDropCnt]

/-- The fields of Table 12.9. -/
def Reg.table12_9 : List Reg :=
  [.redWaitTimeout, .epochSwJob, .epochSwNew, .epochSwStart, .epochSwStatus, .slotsReserved,
   .redSegOkCnt, .redSegFailCnt, .redBackupUsedCnt, .redBackupMismatchCnt, .redLateCopyCnt, .redEpochStaleCnt,
   .redEpochAheadCnt, .digestLateCnt, .suspectSentCnt, .suspectSuppressedCnt, .suspectTableFullCnt, .jobEpoch,
   .redBusy, .susDevice, .susJobId, .susValid, .susEvented, .susCount,
   .susFirst, .susLast, .susReasons, .susFirstNs, .digStep, .digValid,
   .digSend, .digRecv]

/-- The fields of Table 13.5. -/
def Reg.table13_5 : List Reg :=
  [.dbIndex]

/-- The fields of Table 13.6. -/
def Reg.table13_6 : List Reg :=
  [.qRingAddr, .qEnable, .qError, .qErrStatus, .qKind, .qDepthLog2,
   .qDevIndex, .qDevPhase, .qHostIndex]

/-- The fields of Table 13.9. -/
def Reg.table13_9 : List Reg :=
  [.cxlMode, .linkWidth, .linkSpeed, .applyDb, .evqAddr, .evqEnable,
   .evqLog2, .evqVector, .evqHead, .evqTail, .evqPhase, .intHoldoff,
   .dbInvalidCnt, .cqFullStallCnt, .cqDropCnt, .evqLostCnt, .hdmPoisonWriteCnt, .ringFetchErrCnt,
   .lastBadDbQueue, .lastBadDbValue]

/-- The fields of Table 14.10. -/
def Reg.table14_10 : List Reg :=
  [.feedId, .mirrorPageCnt, .mirrorHoldCnt, .mirrorResendCnt, .ckptPageCnt, .zestMismatchCnt,
   .zestHoldCnt, .refillPageCnt, .damsonSrcAddr, .damsonLen, .damsonLoad, .damsonVector,
   .damsonStatus, .damsonBusy, .damsonActive, .damsonPackId, .damsonPassCnt, .damsonFailCnt,
   .damsonLastFailCore, .damsonLastFailPattern, .damsonCycleMs, .pairState, .sharedFeed, .mirrorFrozen,
   .pairLossStatus, .pairPartner, .lastCut, .mirrorStep, .shadowStep, .mseqSent,
   .shadowMseq, .ckptExportRegion, .ckptAck, .lastCkptStep, .ckptStatus, .ckptBusy,
   .ckptUnacked, .rebindDevice, .rebindBit, .refillStart, .recVector, .refillStatus,
   .refillBusy, .refillQueued, .zestLastStep, .zestStatus, .zestVerdictPending, .zestDigest,
   .replayStep, .replayArm, .replayArmed, .replayStatus, .replaySendExp, .replayRecvExp]

/-- The fields of Table 15.7. -/
def Reg.table15_7 : List Reg :=
  [.bringupStage, .bringupState, .bringupFailStatus, .logicalCoreCount, .healthyPhysical, .deviceVmode,
   .resetDomain, .resetStart, .resetTarget, .resetBusy, .resetStep, .resetStatus,
   .lastResetReason, .lastResetDomain, .lastResetTarget, .lastResetNs, .quiesceForceCnt, .absorbCnt,
   .fwResendChunkCnt, .warmResetCnt, .resetRejectCnt, .stageUs, .present, .defect]

/-- The fields of Table 16.17. -/
def Reg.table16_17 : List Reg :=
  [.lcState, .romRecovery, .keyProgrammed, .keyRevoked, .customerSigRequired, .serial,
   .pipFwVersion, .pipFwSvn, .fwMinSvn, .activeSlot, .fwStageAddr, .fwStageLen,
   .fwStageStart, .fwVector, .fwStageBusy, .fwStageStatus, .stoneRdIndex, .stoneRdValid,
   .stoneWrIndex, .stoneFfUsed, .stoneFfFull, .stoneHeadSeq, .stoneDropCnt, .stoneTornCnt,
   .measLogCount, .measLogWrapped, .mgmtSessions, .sensor, .sensorWarn]

/-- The fields of Table 17.10. -/
def Reg.table17_10 : List Reg :=
  [.opReq, .powerLimit, .opEffective, .capActive, .thermalThrottle, .opChanging,
   .paceShortMask, .trimC0, .trimC1, .trimC2, .trimC3, .capEventCnt,
   .throttleCnt, .pmbusErrCnt, .opChangeCnt, .railPresent, .railFault]

/-- The fields of Table 18.3. -/
def Reg.table18_3 : List Reg :=
  [.variant, .stepping, .computeDies, .ioDies, .hbmStacks, .portCount,
   .laneCount, .mapVersion, .hbmBytes, .localNs, .gatheredEdgeCnt, .faultAsserted,
   .degraded, .stackFailed, .portNotUp, .powerLimited, .paceShort, .pairDegraded,
   .statusApplyLocked, .statusRetireOverflow, .statusMeasLogWrapped, .csrAbsentCnt, .eventPostedCnt, .lastEventType]

/-- The fields of Table 18.4. -/
def Reg.table18_4 : List Reg :=
  [.partState, .partClusterMask, .jobsBound, .coresAssigned, .queuesBound, .regionsBound,
   .partImageId, .partCommitNs, .partCommitCnt, .partResetCnt]

/-- Every field. -/
def Reg.all : List Reg :=
  Reg.table2_19 ++ Reg.table3_10 ++ Reg.table4_8 ++ Reg.table5_13 ++ Reg.table6_12 ++ Reg.table6_13 ++ Reg.table7_6 ++ Reg.table8_4 ++ Reg.table8_5 ++ Reg.table9_11 ++ Reg.table9_12 ++ Reg.table10_5 ++ Reg.table11_10 ++ Reg.table11_11 ++ Reg.table12_8 ++ Reg.table12_9 ++ Reg.table13_5 ++ Reg.table13_6 ++ Reg.table13_9 ++ Reg.table14_10 ++ Reg.table15_7 ++ Reg.table16_17 ++ Reg.table17_10 ++ Reg.table18_3 ++ Reg.table18_4

end Sys2Proof.Machine
end

