-- ==== Sys2Proof/Machine/Table.lean ====
section
/-!
DEFINITION. Sys2Proof/Machine/Table.lean: sparse tables with Nat keys in one canonical form, keys strictly rising.
The register file, the memory and the per-unit tables of State are such lists, so equal contents are equal data.
-/
namespace Sys2Proof.Machine

/-- A sparse table: (key, value) pairs, keys strictly rising. -/
abbrev Tbl (α : Type) := List (Nat × α)

/-- The value at key k, if listed. -/
def Tbl.find {α : Type} : Tbl α → Nat → Option α
  | [], _ => none
  | (j, x) :: t, k => if j = k then some x else Tbl.find t k

/-- The value at key k, or d where k is not listed. -/
def Tbl.getD {α : Type} (t : Tbl α) (k : Nat) (d : α) : α := (Tbl.find t k).getD d

/-- k listed with value x, keys kept rising. -/
def Tbl.set {α : Type} : Tbl α → Nat → α → Tbl α
  | [], k, x => [(k, x)]
  | (j, y) :: t, k, x =>
    if k < j then (k, x) :: (j, y) :: t
    else if k = j then (k, x) :: t
    else (j, y) :: Tbl.set t k x

/-- k not listed. -/
def Tbl.del {α : Type} (t : Tbl α) (k : Nat) : Tbl α := t.filter (fun e => e.1 != k)

/-- k given value x, where an unlisted key reads d: the entry stands only when x differs from d. -/
def Tbl.put {α : Type} [DecidableEq α] (t : Tbl α) (k : Nat) (x d : α) : Tbl α :=
  if x = d then Tbl.del t k else Tbl.set t k x

/-- Every entry whose key meets p taken out. -/
def Tbl.drop {α : Type} (t : Tbl α) (p : Nat → Bool) : Tbl α := t.filter (fun e => !p e.1)

/-- The keys rise strictly. -/
def Tbl.sorted {α : Type} : Tbl α → Bool
  | [] => true
  | [_] => true
  | (j, _) :: (k, y) :: t => decide (j < k) && Tbl.sorted ((k, y) :: t)

/-- The canonical form of a table whose unlisted keys read d: keys rise strictly and no entry holds d. -/
def Tbl.canon {α : Type} [DecidableEq α] (t : Tbl α) (d : α) : Bool :=
  Tbl.sorted t && t.all (fun e => e.2 != d)

end Sys2Proof.Machine
end

