-- ==== Sys2Proof/Machine/Types.lean ====
section
/-!
DEFINITION. Sys2Proof/Machine/Types.lean: the data types of State: the units' own state that no register names.
-/
namespace Sys2Proof.Machine

/-- What leaves the block. State.out lists these, oldest first. -/
inductive Output where
  /-- A coherent write to host memory: completion, segment and event records (R373, R378, R383). -/
  | hostWrite (addr : Nat) (data : List Byte)
  /-- An MSI-X message: vector, its table's address and data (R374). -/
  | msix (vector addr data : Nat)
  /-- A packet whose destination is this device, ejected by its router (R313). -/
  | packet (p : Pkt)
  /-- A packet sent out of a port (R313, R314). -/
  | forward (port : Nat) (p : Pkt)
  /-- A LINK_CTRL packet, by its AUX and payload, sent on one link only, or with AUX 2 the identity sent in training (R300, R318, R519). -/
  | link (port aux : Nat) (payload : List Byte)
  /-- Flits sent or replayed on a port, each as the bytes that its active lanes carry, by lane (R302, R303). -/
  | flits (port : Nat) (flits : List (List (Nat × List Byte)))
  /-- A link acknowledgement or NAK of FSEQ (R303). -/
  | flitAck (port : Nat) (fseq : Nat) (nak : Bool)
  /-- Data returned for a host read of the HDM window or BAR2; none is CXL poison (R293). -/
  | hostData (data : Option (List Byte))
  /-- The value returned to a reader of CSR space (R506 to R508). -/
  | csrData (reader : Reader) (value : Nat)
  /-- The response of a management command at a local entry: status and payload (R327, R329). -/
  | local (status : Nat) (payload : List Byte)
  /-- An object answered on a DOE instance, or a sideband response (R384, R478, R479). -/
  | object (route : Nat) (data : List Byte)
  /-- A pin driven to a level: 0 SYS_RST_N, 1 FAULT_N, 2 THERM_TRIP_N, 3 ALERT_N. -/
  | pin (pin : Nat) (level : Bool)
  /-- A PMBus command: rail, command and value (R485, R490). -/
  | pmbus (rail cmd value : Nat)
  /-- A user-mode trap that the firmware of a core raises when context 0 halts: logical core, status (R105). -/
  | userTrap (core status : Nat)
  /-- CORE_PROGRAM_FAULT to Pip: logical core, mcause, mepc, mtval (R81). -/
  | coreFault (core cause epc tval : Nat)
  /-- Firmware chunks multicast or resent to a physical core (R432 to R434). -/
  | fwChunks (phys : Nat) (mask : Nat)
  /-- An error reported by AER, by its bit of the Uncorrectable Error Status register (R369, R385). -/
  | aer (bit : Nat)
  deriving DecidableEq, Repr

/-- What configuration space holds that changes (R367, R374, R385, R386): MSI-X Enable and Function Mask of the MSI-X capability, Device Control 2, and
the Uncorrectable and Correctable Error Status of AER. -/
structure CfgSt where
  msixEnable : Bool
  msixMask : Bool
  devCtl2 : Nat
  aerUncor : Nat
  aerCor : Nat
  deriving DecidableEq, Repr

/-- Configuration space at reset (R388). -/
def CfgSt.init : CfgSt := ⟨false, false, 0, 0, 0⟩

/-- A record of Stone before Pip writes it: kind, first-fault mark, LOCAL_NS of the event, payload (R470). -/
structure StoneRec where
  kind : Nat
  first : Bool
  ns : Nat
  payload : List Byte
  deriving DecidableEq, Repr

/-- The check state of a stored word: 1 one wrong bit, 2 uncorrectable (R277, R278); rewritten marks a full rewrite of an
uncorrectable word whose next read decides on retirement (R286). -/
structure WordMark where
  err : Nat
  rewritten : Bool
  deriving DecidableEq, Repr

/-- The scalar unit of a core (R77 to R82). -/
structure Hart where
  x : Tbl (BitVec 64)
  pc : BitVec 64
  user : Bool
  csr : Tbl (BitVec 64)
  /-- Device address of the 64-byte granule reserved by LR (R79). -/
  resv : Option Nat
  /-- The unit fetches: its firmware has been accepted and nothing has stopped the core. -/
  live : Bool
  /-- The user program was stopped by R81. -/
  stopped : Bool
  /-- The user program ended with ECALL a7 = 0 and PROG_DONE is not yet set (R81). -/
  ended : Bool
  /-- A TK.WAIT holds the unit: destination register, counter, value (Table 3.2). -/
  tkWait : Option (Nat × Nat × Nat)
  deriving DecidableEq, Repr

/-- The hart of a core in reset. -/
def Hart.init : Hart := ⟨[], 0, false, [], none, false, false, false, none⟩

/-- The range probe of one address of a tile (R90, R518). -/
inductive ProbeSt where
  | none
  | sent (tag : Nat)
  | ok (base size : Nat)
  deriving DecidableEq, Repr

/-- A descriptor issued and not started (R92). -/
structure QTile where
  seq : Nat
  desc : List Byte
  probeA : ProbeSt
  probeD : ProbeSt
  /-- Counted once in HAZARD_STALL_CNT (R93). -/
  stalled : Bool
  /-- Counted once in PARAM_HOLD_CNT (R256). -/
  held : Bool
  deriving DecidableEq, Repr

/-- Where a started tile stands. -/
inductive TileRun where
  /-- The engines work; the engine's own state holds the rest. -/
  | busy
  /-- A COPY between devices: bytes committed, and the packets outstanding as (tag, offset, length), ascending (R91). -/
  | copy (committed : Nat) (next : Nat) (outst : List (Nat × Nat × Nat)) (failed : Option Status)
  /-- The engines are done: status and DETAIL; the completion is still to come (R104). -/
  | done (st : Status) (detail : Nat)
  /-- The signal of R99 is on its way. -/
  | signalling
  /-- The signal was applied or failed; the completion follows (R99). -/
  | signalled (st : Status) (detail : Nat)
  deriving DecidableEq, Repr

/-- A started tile: its ranges for R93 (address with bit 63 set for remote, length, written). -/
structure FTile where
  seq : Nat
  desc : List Byte
  /-- Engines taken, bit c for stage code c. -/
  stages : Nat
  ranges : List (Nat × Nat × Bool)
  run : TileRun
  /-- A MATMUL that ran on the sparse engine (Table 7.6). -/
  onSparse : Bool
  /-- Held on a full completion ring, counted once (R105, R373). -/
  heldRec : Bool
  deriving DecidableEq, Repr

/-- One dispatcher context (R92, R105): issue queue, started tiles, and the phase of context 0's ring. -/
structure Ctx where
  queue : List QTile
  flight : List FTile
  phase : Bool
  /-- A resume with flush waits for these flushed tiles to complete (R105). -/
  resuming : List Nat
  deriving DecidableEq, Repr

/-- A context after reset: PHASE is 1 on the first pass (Table 3.9). -/
def Ctx.init : Ctx := ⟨[], [], true, []⟩

/-- The vector engine (R109 to R116). -/
structure VEng where
  /-- Running for this context and SEQ. -/
  job : Option (Nat × Nat)
  /-- A program executes; false between the blocks of a MATMUL with an epilogue (R114). -/
  run : Bool
  /-- The program is an epilogue, for this block of its MATMUL (R114). -/
  epi : Option Nat
  v : Tbl (BitVec 4096)
  p : Tbl (BitVec 256)
  s : Tbl (BitVec 64)
  carry : Nat
  /-- Byte offset of the next instruction in window A. -/
  pc : Nat
  count : Nat
  /-- Windows as (base, size); window A holds the program (R109). -/
  winA : Nat × Nat
  winB : Option (Nat × Nat)
  winD : Option (Nat × Nat)
  /-- Staged bytes by device address (R112). -/
  staged : Tbl Byte
  /-- VMODE as sampled at the start of the tile (R127), and the budget in force (R132). -/
  vmode : Nat
  budget : Nat
  /-- Generator key inputs: job seed, TENSOR_ID of DST's region, STEP (R119). -/
  seed : Nat
  tensor : Option Nat
  step : Nat
  deriving DecidableEq, Repr

/-- The engine when no program runs. -/
def VEng.idle : VEng := ⟨none, false, none, [], [], [], 0, 0, 0, (0, 0), none, none, [], 0, 0, 0, none, 0⟩

/-- A predictor history slot (R213): shape, counters by block, tiles modulo 16. -/
structure PredSlot where
  mb : Nat
  nb : Nat
  ctrs : Tbl Nat
  tiles : Nat
  deriving DecidableEq, Repr

/-- A slot cleared. -/
def PredSlot.init : PredSlot := ⟨0, 0, [], 0⟩

/-- A MATMUL on an engine (R200 to R217). -/
structure MatRun where
  ctx : Nat
  seq : Nat
  /-- A fallback that waits for the dense engine (R210). -/
  waiting : Bool
  /-- The next block in the order of R200. -/
  next : Nat
  /-- Blocks whose shadow failed, and blocks under a shadow, oldest first (R215). -/
  redo : List Nat
  shadow : List Nat
  /-- Block rows of A and block columns of B read, as bit masks: infinities are counted once per tile (R202). -/
  rows : Nat
  cols : Nat
  /-- Eligible for prediction (R212); this tile refreshes every counter of its slot (R217). -/
  elig : Bool
  refresh : Bool
  /-- VMODE and VINSTR_BUDGET as the tile's start found them (R127, R132). -/
  vmode : Nat
  budget : Nat
  /-- Converted blocks staged in the output buffer, by block (R203). -/
  out : Tbl (List Nat)
  deriving DecidableEq, Repr

/-- A local token signal on its way: the tile (core, context, SEQ) and the target core, counter and increment (R99). A sender
of another kind (a sampler) has no tile. -/
structure LocalSig where
  tile : Option (Nat × Nat × Nat)
  job : Nat
  core : Nat
  ctr : Nat
  amount : Nat
  deriving DecidableEq, Repr

/-- A unit that writes records of its own and waits while a completion queue is full (R373): the sampler, the sorter, the gather engine and the
reduction unit of a cluster, and the apply unit. -/
inductive RecUnit where
  | sampler (cluster : Nat)
  | sorter (cluster : Nat)
  | gather (cluster : Nat)
  | reducer (cluster : Nat)
  | apply
  deriving DecidableEq, Repr

/-- A record that waits for room in its completion queue (R373): queue, bytes, the unit that waits with it, and the signal that follows it
(R161). A record that a reset made ABORTED has no unit (R30). -/
structure HeldRec where
  queue : Nat
  bytes : List Byte
  unit : Option RecUnit
  sig : Option LocalSig
  deriving DecidableEq, Repr

/-- A sampled block: its sampler's cluster, range, job, step, and whether it is committed (R144 to R146). -/
structure SBlock where
  cluster : Nat
  base : Nat
  bytes : Nat
  job : Nat
  step : Nat
  /-- TARGET_CORE of the request. -/
  target : Nat
  committed : Bool
  deriving DecidableEq, Repr

/-- An edge drawn: item of its hop, destination node, source node, EDGE_ID, owner of the destination (R151, R156). -/
structure Edge where
  item : Nat
  dst : Nat
  src : Nat
  eid : Nat
  owner : Nat
  deriving DecidableEq, Repr

/-- An accepted sampling request that runs (R144 to R162), known by its cluster and block address. -/
structure SampRun where
  cluster : Nat
  base : Nat
  desc : List Byte
  job : Nat
  /-- Node lists l[0] to l[hop - 1], as (node, owner). -/
  levels : List (List (Nat × Nat))
  /-- The hop being drawn, its items as (node, seed, walk), the edges drawn, and the groups asked of owners as (tag, items). -/
  hop : Nat
  items : List (Nat × Nat × Nat)
  got : List Edge
  wait : List (Nat × List Nat)
  /-- Hops done, in R157 order. -/
  edges : List (List Edge)
  trunc : Nat
  /-- The failure that ends the request: status, DETAIL. -/
  fail : Option (Status × Nat)
  done : Bool
  deriving DecidableEq, Repr

/-- The state of a trainable parameter region (R255). -/
inductive ParamSt where
  | closed
  | opened (r : Nat)
  | applying (r : Nat)
  deriving DecidableEq, Repr

/-- Who waits for the response to a request sent on a peer context (R325). -/
inductive Origin where
  /-- The range probe of a tile: core, context, SEQ, 0 for SRC_A or 1 for DST (R90). -/
  | probe (core ctx seq which : Nat)
  /-- A READ packet of a COPY tile: offset and length in the tile (R91). -/
  | copyRead (core ctx seq off len : Nat)
  /-- A WRITE or QPOST packet of a COPY tile. -/
  | copyWrite (core ctx seq off len : Nat)
  /-- A remote token signal of a tile (R99). -/
  | token (core ctx seq : Nat)
  /-- A row asked of a peer by a gather run: cluster and run number (R175). -/
  | rows (cluster run : Nat)
  /-- A ROW_REQ forwarded under a redirect: the packet answered when the rows arrive (R193). -/
  | rowFwd (req : Pkt)
  /-- Draws asked of an owner: sampler request number, level, list positions (R158). -/
  | draws (cluster req level : Nat) (pos : List Nat)
  /-- A part of a contribution: the SCATTER_ADD run and the contribution's number (R180). -/
  | contrib (run idx : Nat)
  /-- The read of the destination's table header before a migration is accepted, or a part of a slot copied by it (R189, R190). -/
  | migHdr
  | mig
  /-- A slot read or written at its holder for an apply: region and row (R185, R190). -/
  | apply (region row : Nat)
  /-- A page of a mirror frame or a refill of a job slot (R399, R407). -/
  | page (slot : Nat)
  /-- A recovery record of a job slot, by kind (R425). -/
  | rcd (slot kind : Nat)
  /-- The feed query of a REBIND of a job slot (R405). -/
  | feed (slot : Nat)
  /-- A feed query of a load, about a partner (R64). -/
  | loadFeed (dev : Nat)
  /-- An IMAGE_READ of a load from the fabric, at an offset of the image, with the resends made (R331). -/
  | imgRead (off : Nat) (resent : Nat)
  /-- The mailbox's command (R327). -/
  | mbox
  deriving DecidableEq, Repr

/-- An outstanding request, by tag: the context it went on, the packet sent, who waits, response bytes so far; quarantined
after a timeout (R325). -/
structure Req where
  ctx : Nat
  pkt : Pkt
  origin : Origin
  data : List Byte
  quar : Bool
  deriving DecidableEq, Repr

/-- A packet that waits at a port: the packet as it is to be sent, the receive buffer it still occupies (port, buffer, credits), whether it goes to
the receiving port's detour buffer (R315, R317), and the packet as this router took it, with the hop of its arrival (dimension, sense minus), by which
it is routed again (R307). -/
structure Waiting where
  pkt : Pkt
  src : Option (Nat × Nat × Nat)
  det : Bool
  orig : Pkt
  arr : Option (Nat × Bool)
  deriving DecidableEq, Repr

/-- A flit in the retry buffer (R303): its FSEQ, how often it has been replayed, its packet, and which of the packet's flits it is. -/
structure TxFlit where
  fseq : Nat
  replays : Nat
  w : Waiting
  part : Nat
  deriving DecidableEq, Repr

/-- The link layer of a port (R300 to R308, R317, R318). -/
structure LinkSt where
  /-- Next FSEQ to send, the flits not acknowledged, oldest first, and LINK_CTRL packets that wait for room among them (R303). -/
  txNext : Nat
  unacked : List TxFlit
  ctrl : List Pkt
  /-- A flit has been accepted since the link came up, the next FSEQ expected, discarding until a replay, flits accepted since the last
  acknowledgement (R303). -/
  rxAny : Bool
  rxNext : Nat
  discard : Bool
  rxSince : Nat
  /-- Credits taken at the partner and owed to it, by buffer (R317, R318). -/
  used : Tbl Nat
  owed : Tbl Nat
  queue : List Waiting
  /-- The partner is HELD (R306). -/
  partnerHeld : Bool
  /-- Training attempts made in the present sequence, and whether one runs (R304). -/
  attempts : Nat
  trying : Bool
  /-- The stream is discarded until a flit starts a header (Table 11.6). -/
  resync : Bool
  /-- The identity the partner sent (R519): 18 bytes from the serial on; none before one came. -/
  ident : List Byte
  /-- An identity was sent that awaits the partner's (R519). -/
  identSent : Bool
  /-- LOCAL_NS of the last Stone record, of the latest change, and changes since that record (R308). -/
  recNs : Option Nat
  chgNs : Nat
  changes : Nat
  deriving DecidableEq, Repr

/-- A port at power-on. -/
def LinkSt.init : LinkSt := ⟨0, [], [], false, 0, false, 0, [], [], [], false, 0, false, false, [], false, none, 0, 0⟩

/-- One end of a peer context or reduction stream (R320, R322): next PSN to send, packets not acknowledged, timeouts in a
row without progress, next PSN expected, packets accepted since the last acknowledgement, NAK sent for the present gap. -/
structure Flow where
  txNext : Nat
  unacked : List Pkt
  misses : Nat
  rxNext : Nat
  rxSince : Nat
  nak : Bool
  deriving DecidableEq, Repr

/-- A flow on which nothing has passed. -/
def Flow.init : Flow := ⟨0, [], 0, 0, 0, false⟩

/-- The operation of PEER_START in progress (R320, R324). -/
inductive PeerOp where
  | none
  /-- CTX_OPEN sent this many times. -/
  | opening (ctx sends : Nat)
  /-- An OPEN context that is draining. -/
  | closing (ctx : Nat)
  deriving DecidableEq, Repr

/-- A reset of a core (0), cluster (1) or partition (2) in progress: its step of Table 15.4, LOCAL_NS at the request, blocks
forced (R442, R445). -/
structure ResetOp where
  domain : Nat
  target : Nat
  reason : Nat
  step : Nat
  ns : Nat
  forced : Nat
  deriving DecidableEq, Repr

/-- The fuses but SERIAL (Table 16.3): the unique secret, life-cycle bits, key hashes, customer key slots by number, their programmed and revoked
bits, the signature fuse and the thermometer bits of FW_MIN_SVN. -/
structure Fuses where
  uds : List Byte
  lc : Nat
  fwKey : List Byte
  mfgKey : List Byte
  damsonKey : List Byte
  cust : Tbl (List Byte)
  programmed : Nat
  revoked : Nat
  sigRequired : Bool
  minSvn : Nat
  deriving DecidableEq, Repr

/-- No fuse blown. -/
def Fuses.blank : Fuses :=
  ⟨List.replicate 48 0, 0, List.replicate 48 0, List.replicate 48 0, List.replicate 48 0, [], 0, 0, false, 0⟩

/-- Where bring-up stands that no register says (R429 to R435): it runs, LOCAL_NS at step 1, Stone is in service, the core firmware of the running
package, and the requester-independent key (X, Y) of the device identity. -/
structure BringUp where
  on : Bool
  start : Nat
  stone : Bool
  coreFw : List Byte
  devId : Option (Nat × Nat)
  deriving DecidableEq, Repr

/-- No bring-up has run. -/
def BringUp.init : BringUp := ⟨false, 0, false, [], none⟩

/-- A device warm or cold reset in progress: its wipe has ended; SYS_RST_N is still low (R443, R448). -/
structure DevReset where
  cold : Bool
  wiped : Bool
  low : Bool
  deriving DecidableEq, Repr

/-- The Stone record of a reset request (R442, R451): written once ready, in the order of arrival; forced blocks; the reset that covered it. -/
structure ResetRec where
  ready : Bool
  domain : Nat
  target : Nat
  reason : Nat
  ns : Nat
  forced : Nat
  cover : Option (Nat × Nat)
  deriving DecidableEq, Repr

/-- Who started a load (R66, R75): QIMG_CTRL, or a management command with the source device and its address. -/
inductive LoadWho where
  | host
  | mgmt (req : MgmtReq) (dev addr : Nat)
  deriving DecidableEq, Repr

/-- A load in progress (R66 to R76): command length, verify only, step of Table 2.18; the source as the verify pass read it; what a fabric load
has read in the present pass; feed queries unanswered and answered, as (offset of the own device entry, job, partner) with the answer; the
failure it ends with once its targets are wiped; the partitions that other sources have reset since it began, before its targets are known (R71). -/
structure LoadSt where
  who : LoadWho
  len : Nat
  verifyOnly : Bool
  step : Nat
  img : List Byte
  got : List Byte
  asked : List (Nat × Nat × Nat)
  feeds : List (Nat × Nat × Nat)
  fail : Option Fail
  hit : Nat
  deriving DecidableEq, Repr

/-- A management context (R328): the path it came on, the hash of the requester's key and of its certificate, and whether the key is the
manufacturing key (R465). -/
structure Session where
  path : SpdmPath
  keyHash : List Byte
  certHash : List Byte
  mfg : Bool
  seq : Nat := 0
  deriving DecidableEq, Repr

/-- SPDM on one path (R464): how far the connection was set up (1 version, 2 capabilities, 3 algorithms), the requester's DataTransferSize, a
request arriving in chunks as (handle, next chunk, size, bytes), a response being fetched in chunks as (handle, next chunk, bytes left), the next
handle, and the session whose key exchange awaits its FINISH. -/
structure SpdmLink where
  level : Nat
  size : Nat
  inMsg : Option (Nat × Nat × Nat × List Byte)
  large : Option (Nat × Nat × List Byte)
  handle : Nat
  hs : Option Nat
  deriving DecidableEq, Repr

/-- A path on which no request has come. -/
def SpdmLink.init : SpdmLink := ⟨0, 4096, none, none, 0, none⟩

/-- The supplies and operating points (R488 to R495): VCORE's nominal value now, in mV; the cap and thermal points; windows since the cap point was
last lowered, and windows in a row below 0.9 of the limit; rails whose READ_POUT cannot be read, as a mask; LOCAL_NS since when the sensors have been
cool; sensors whose warning is not re-armed; dies whose trim is being found, as a mask; LOCAL_NS since when a die's monitors have read above 1.08. -/
structure PowerSt where
  mv : Nat
  cap : Nat
  therm : Nat
  since : Nat
  low : Nat
  poutBad : Nat
  cool : Option Nat
  warned : Tbl Unit
  trimming : Nat
  high : Tbl Nat
  deriving DecidableEq, Repr

/-- At OP-nom, nothing capped. -/
def PowerSt.init : PowerSt := ⟨750, 3, 3, 0, 0, 0, none, [], 0, []⟩

/-- The MCTP and PLDM endpoint (R478, R479): endpoint ID, null 0; terminus ID; the event receiver as (mode, address); events that wait to be polled,
by number, and the number of the last. -/
structure SideSt where
  eid : Nat
  tid : Nat
  receiver : Option (Nat × Nat)
  events : List (Nat × List Byte)
  last : Nat
  deriving DecidableEq, Repr

/-- An endpoint that nothing has addressed. -/
def SideSt.init : SideSt := ⟨0, 0, none, [], 0⟩

/-- The active Damson pack (R418 to R420): its bytes; the next pattern of a core, cores whose pattern is run once more, and LOCAL_NS when a core
began the pack. -/
structure DamsonSt where
  pack : List Byte
  next : Tbl Nat
  again : Tbl Unit
  start : Tbl Nat
  deriving DecidableEq, Repr

/-- No pack. -/
def DamsonSt.init : DamsonSt := ⟨[], [], [], []⟩

/-- The request that a gather run serves: a GATHER tile, or a FETCH of a cluster's queue. -/
inductive GWho where
  | tile (core ctx seq : Nat)
  | fetch (job : Nat) (desc : List Byte)
  deriving DecidableEq, Repr

/-- A gather run: the rows of a list fetched one after the other (R175 to R177). -/
structure GRun where
  id : Nat
  who : GWho
  cluster : Nat
  job : Nat
  step : Nat
  /-- REGION_ID of the table, and ROW_BYTES. -/
  region : Nat
  rowBytes : Nat
  /-- Address of the index entries, entries, the next one, and where row 0 goes. -/
  list : Nat
  n : Nat
  next : Nat
  dst : Nat
  /-- Rows are copied from a complete stage at this address. -/
  stage : Option Nat
  /-- A stage being filled. -/
  fill : Option Nat
  /-- The tag of the row asked of a peer. -/
  wait : Option Nat
  held : Bool
  /-- Status and DETAIL, once the run has ended. -/
  result : Option (Status × Nat)
  /-- The rows that a FETCH has fetched and not yet committed (R281). -/
  got : List Byte
  deriving DecidableEq, Repr

/-- A SORT that runs (R169, R170). -/
structure SortRun where
  cluster : Nat
  job : Nat
  desc : List Byte
  deriving DecidableEq, Repr

/-- A contribution in a merge area: row, the device it came from, step, count, sums as binary32 codes (R180). -/
structure Contrib where
  row : Nat
  src : Nat
  step : Nat
  count : Nat
  acc : List Nat
  deriving DecidableEq, Repr

/-- A contribution whose parts still arrive: next part expected (R181). -/
structure PartC where
  row : Nat
  src : Nat
  step : Nat
  count : Nat
  next : Nat
  acc : List Nat
  deriving DecidableEq, Repr

/-- What a home keeps for a table (R180 to R184): LAST_CLOSED, merge area, steps whose SCATTER_ADD was taken on this device, the step
whose own marker was sent and whose close is still to come. -/
structure HomeSt where
  lastClosed : Int
  merge : List Contrib
  parts : List PartC
  scats : List Nat
  marker : Option Nat
  deriving DecidableEq, Repr

/-- A SCATTER_ADD that runs: rows with the list positions of their gradients, in order of first position; the contribution
being sent as (owner, sums, parts sent); contributions accepted (R179 to R183). -/
structure SRun where
  id : Nat
  core : Nat
  ctx : Nat
  seq : Nat
  job : Nat
  region : Nat
  todo : List (Nat × List Nat)
  sending : Option (Nat × List Nat × Nat)
  wait : Option Nat
  accepted : Nat
  held : Bool
  deriving DecidableEq, Repr

/-- Where an apply of a row stands that could not be done at the close: fenced, or its slot read from or written to the device that
holds it, with the bytes got or to write and the offset reached (R185, R190). -/
inductive ApplyPhase where
  | fenced
  | reading (tag : Nat) (got : List Byte)
  /-- The new slot on its way to the holder: data, offset, elements saturated, NaNs written. -/
  | writing (tag : Nat) (data : List Byte) (off sats nans : Nat)
  deriving DecidableEq, Repr

/-- An apply that waits: table, row, step, summed gradient, total count. -/
structure ApplyRow where
  region : Nat
  row : Nat
  step : Nat
  grad : List Nat
  count : Nat
  phase : ApplyPhase
  deriving DecidableEq, Repr

/-- A prefetch into a chain's handoff buffer: SEQ of the MATMUL it is for, and the bytes of B read (R259). -/
structure Pref where
  seq : Nat
  runs : List (Nat × Nat)
  deriving DecidableEq, Repr

/-- A layer entry of an apply (Table 9.7). -/
structure ApplyLayer where
  region : Nat
  k : Nat
  fmt : Nat
  off : Nat
  count : Nat
  delta : Nat
  deriving DecidableEq, Repr

/-- A request of the apply doorbell that runs (R262 to R266): MODE, delta region, header fields, layers, the job's cores in
ascending order, slices started on each, slices that run as (core position, slice), slices not committed by region, elements
committed, the first failure as status and layer entry, and slices counted as held by a cut. -/
structure ApplyRun where
  mode : Nat
  region : Nat
  step : Nat
  tag : Nat
  cq : Nat
  layers : List ApplyLayer
  cores : List Nat
  started : Tbl Nat
  active : List (Nat × Nat)
  left : Tbl Nat
  elems : Nat
  fail : Option (Status × Nat)
  heldCut : List Nat
  /-- Slices that R93 held, counted once each (R264). -/
  stalled : List Nat
  deriving DecidableEq, Repr

/-- A request held by the step rules of R182 or the fence of R190. -/
inductive Held where
  /-- A gather run of this device. -/
  | run (id : Nat)
  /-- A ROW_REQ of a peer. -/
  | req (p : Pkt)
  /-- A contribution of this device's SCATTER_ADD. -/
  | scatter (id : Nat)
  /-- A CONTRIB part of a peer. -/
  | part (p : Pkt)
  deriving DecidableEq, Repr

/-- Where a migration stands (Table 6.11): the destination's header is being read, the range is fenced, slots are copied (slot, offset
in it, slot bytes, tag), or it has ended with a status and is to be closed. -/
inductive MigPhase where
  | header (tag : Nat)
  | fenced
  | copying (n off : Nat) (slot : List Byte) (tag : Nat)
  | ended (st : Status)
  deriving DecidableEq, Repr

/-- The migration that runs (R189, R190). -/
structure Mig where
  job : Nat
  region : Nat
  tensor : Nat
  first : Nat
  count : Nat
  dest : Nat
  slot : Nat
  phase : MigPhase
  deriving DecidableEq, Repr

/-- A step marker at this device's node: job, TENSOR_ID, step, the own marker, the children's as (rank, OK), and whether it went up and waits for
the combined one (R350, R353). -/
structure MarkSt where
  job : Nat
  tensor : Nat
  step : Nat
  own : Option Bool
  kids : List (Nat × Bool)
  up : Bool
  deriving DecidableEq, Repr

/-- A combined done marker that has arrived: table, step, OK; its writes were counted as held (R184, R397). -/
structure CloseSt where
  region : Nat
  step : Nat
  ok : Bool
  held : Bool
  deriving DecidableEq, Repr

/-- A segment, by job, epoch, step and segment number (R344). -/
structure SegKey where
  job : Nat
  epoch : Nat
  step : Nat
  seg : Nat
  deriving DecidableEq, Repr

/-- A posted segment whose source is still read: core, descriptor, next chunk (R337). -/
structure RedPost where
  key : SegKey
  core : Nat
  desc : List Byte
  next : Nat
  deriving DecidableEq, Repr

/-- A segment at this device (R342): the post, result chunks held for it as (chunk, elements, LAST), chunks and bytes landed, partials
sent up, chunks whose nodes are done as (node * 2 + copy, chunk), the status it ended with. -/
structure RedSeg where
  key : SegKey
  post : Option (Nat × List Byte)
  heldRes : List (Nat × List Byte × Bool)
  landed : Nat
  bytes : Nat
  sent : Nat
  doneNodes : List (Nat × Nat)
  ended : Option Status
  /-- The segment's nodes here have stopped and FAIL has been passed on (R343). -/
  failed : Bool
  deriving DecidableEq, Repr

/-- A step's completed segments: (segment, GRAD_REGION, status, bytes, chunks), in order of completion; recorded (R342). -/
structure RedStep where
  job : Nat
  step : Nat
  segs : List (Nat × Nat × Status × Nat × Nat)
  recorded : Bool
  deriving DecidableEq, Repr

/-- A partial that has arrived: the child, whether it is a standby's copy, KIND, LAST, elements. -/
structure RedPart where
  child : Nat
  backup : Bool
  kind : Nat
  last : Bool
  data : List Byte
  deriving DecidableEq, Repr

/-- A chunk at a node computed here (R335, R346, R347): the node's rank, whether this is a standby's copy of it, what has been combined so
far with KIND and LAST, partials not yet combined, children still to combine, and whether BACKUP_TIMEOUT passed for the first of them. -/
structure RedChunk where
  key : SegKey
  chunk : Nat
  node : Nat
  copy : Bool
  acc : Option (Nat × Bool × List Byte)
  parts : List RedPart
  kids : List Nat
  expired : Bool
  deriving DecidableEq, Repr

/-- A mirror frame in flight (R399, R400): MSEQ, its cut, pages as (REGION_ID, page), refusals so far, and whether it is the full frame of
R402. -/
structure FrameTx where
  mseq : Nat
  step : Nat
  pages : List (Nat × Nat)
  refused : Nat
  full : Bool
  deriving DecidableEq, Repr

/-- A frame or refill being received: MSEQ, its cut, page count, pages got as (REGION_ID of the MIRROR region, page) in order. -/
structure FrameRx where
  mseq : Nat
  step : Nat
  count : Nat
  got : List (Nat × Nat)
  refill : Bool
  deriving DecidableEq, Repr

/-- A job slot's mirror and checkpoint state that no register names (R396 to R412). -/
structure PairSt where
  /-- The next cut, from the last OPEN on: cut u (R396). -/
  next : Option Nat
  /-- The last step whose APPLY completed with OK since the last OPEN. -/
  applied : Option Nat
  /-- Captured pages the mirror sender still holds, as HBM page numbers (R397). -/
  pages : List Nat
  frame : Option FrameTx
  rx : Option FrameRx
  /-- CLOSE came while a frame was in flight. -/
  closing : Bool
  /-- The partner that was lost, and whether a REBIND succeeded since (R404 to R406). -/
  lost : Option Nat
  rebound : Bool
  /-- A REBIND waits to hear its target's feed (R405). -/
  feedQuery : Bool
  /-- The next checkpoint is FULL (R411). -/
  full : Bool
  /-- The trailer still to write: C, its address, digest of the last cut (R412). -/
  trailer : Option (Nat × Nat × Nat)
  /-- A refill being sent: pages, tries refused (R407 to R409). -/
  refill : Option FrameTx
  /-- The cut held under R424 was counted; the steps whose verdicts are outstanding, oldest first. -/
  zestHeld : Bool
  zestDue : List Nat
  deriving DecidableEq, Repr

/-- A slot as a bind leaves it. -/
def PairSt.init : PairSt := ⟨none, none, [], none, none, false, none, false, false, true, none, none, false, []⟩

/-- A refill request at its monitor: job, survivor, target, lost device, granted (R406). -/
structure RefillReq where
  job : Nat
  survivor : Nat
  target : Nat
  lost : Nat
  granted : Bool
  deriving DecidableEq, Repr

/-- A tally of Zest reports at the monitor: job, step, distinct digests as (digest, count, first rank, last rank), reports beyond the
eighth digest, reporters (R422). -/
structure ZestTally where
  job : Nat
  step : Nat
  entries : List (Nat × Nat × Nat × Nat)
  others : Nat
  senders : List Nat
  deriving DecidableEq, Repr

end Sys2Proof.Machine
end

