-- ==== Sys2Proof/Machine/State.lean ====
section
/-!
DEFINITION. Sys2Proof/Machine/State.lean: the state of the block, the reasons it can stop, and the state after reset.
-/
namespace Sys2Proof.Machine

/-- The reasons a run stops. No command of this spec stops the block: every failure is a status, a counter, an event or a
reset, so no meaning raises this. -/
inductive Fault where
  /-- Raised by nothing (safe). -/
  | none
  deriving DecidableEq, Repr

/-- The reasons a command has no meaning. -/
inductive Refusal where
  /-- A command whose meaning is not written yet: raised by exec's arms only (safe). -/
  | notModelled (mnemonic : String)
  deriving DecidableEq, Repr

/-- One logical core: scalar unit, dispatcher contexts, engines. -/
structure CoreSt where
  hart : Hart
  c0 : Ctx
  c1 : Ctx
  veng : VEng
  /-- MATMUL tiles on the dense and sparse engines (R204). -/
  mats : List MatRun
  /-- Predictor history of contexts 0 and 1, by slot (R213). -/
  pred0 : Tbl PredSlot
  pred1 : Tbl PredSlot
  deriving DecidableEq, Repr

/-- A core in reset. -/
def CoreSt.init : CoreSt := ⟨Hart.init, Ctx.init, Ctx.init, VEng.idle, [], [], []⟩

/-- The state of the block. -/
structure State where
  /-- Commands waiting, first in, first out. -/
  pending : List Instr
  /-- What has left the block, oldest first. -/
  out : List Output
  /-- LOCAL_NS (R32). -/
  localNs : Nat
  /-- The model's own: the index of the next free value (log entry 4). -/
  freeCount : Nat
  /-- VARIANT, STEPPING and SERIAL (R2). -/
  variant : Nat
  stepping : Nat
  serial : Nat
  /-- The register file: key of (field, index) to value, entries only where it differs from the Reset column. -/
  regs : Tbl Nat
  /-- Memory by device address (R275); an unlisted byte reads 0 (R289). -/
  mem : List Host.Cell
  /-- The model's own: ranges whose contents the spec leaves undefined, as (base, length, free value, offset in it) (R170; log entry 6). -/
  junk : List (Nat × Nat × Nat × Nat)
  /-- Words with a wrong check (R277 to R283). -/
  marks : Tbl WordMark
  /-- Dirty bits by page (R288). -/
  dirty : Tbl Unit
  /-- Everything committed images bind (R39). -/
  bound : Bound
  /-- What the wiped partitions that still read LOADING had bound, until step 7 of their reset or load (R68, R449). -/
  leaving : List Leaving
  /-- A whole-device image has committed (R63). -/
  committed : Bool
  cores : Tbl CoreSt
  /-- Engines held outside tiles, as a stage mask by core: apply slices and Damson patterns (R262, R419). -/
  engHold : Tbl Nat
  /-- Core, cluster and partition resets in progress, oldest first (R445, R450). -/
  resets : List ResetOp
  /-- Local token signals on their way, oldest first (R99, R100). -/
  signals : List LocalSig
  /-- Sampled blocks live in the samplers' slots (R144). -/
  blocks : List SBlock
  /-- Entries taken in by a device queue and not yet taken by its consumer, by queue, oldest first (R326, R372). -/
  qfifo : Tbl (List (List Byte))
  /-- Queues whose head SAMPLE is held (R144), and RELEASEs held by a SORT as (queue, descriptor) (R171). -/
  heldSamp : List Nat
  heldRel : List (Nat × List Byte)
  /-- Sampling requests that run. -/
  samps : List SampRun
  /-- The highest step a sampler has accepted, by cluster * 4096 + job (R24). -/
  sampStep : Tbl Nat
  /-- SORTs, gather runs and SCATTER_ADDs that run, and the number of the next run. -/
  sorts : List SortRun
  gathers : List GRun
  scatters : List SRun
  runCount : Nat
  /-- Tables held here by REGION_ID (R182), and requests held there, oldest first, each with whether the fence holds it. -/
  homes : Tbl HomeSt
  heldRows : List (Held × Bool)
  /-- WRITE packets of peers that wait for a cut, oldest first (R397). -/
  heldWrites : List Pkt
  /-- Applies of rows that wait for their slot, oldest first (R185, R187). -/
  applies : List ApplyRow
  /-- Rows lost to an error in their slot, as (REGION_ID, row), until the slot is rewritten (R187). -/
  lostRows : List (Nat × Nat)
  /-- Combined done markers that have arrived (R184). -/
  closes : List CloseSt
  /-- Step markers being combined (R353). -/
  markers : List MarkSt
  /-- The migration that runs (R189). -/
  mig : Option Mig
  /-- Mirror and checkpoint state by job slot. -/
  pairs : Tbl PairSt
  /-- As monitor: refill requests, oldest first (R406), devices whose partner was lost, by job * 65536 + device (R410), Zest tallies
  (R422). -/
  refills : List RefillReq
  soleCopies : Tbl Unit
  zests : List ZestTally
  /-- Read step of every job that is not closed (R262). -/
  readSteps : Tbl Nat
  /-- Trainable parameter regions by REGION_ID (R255). -/
  params : Tbl ParamSt
  /-- Requests of the apply doorbell that run, by job (R262), and prefetches by core * 8 + CHAIN_ID (R259). -/
  applyRuns : Tbl ApplyRun
  prefs : Tbl Pref
  /-- Records waiting for room in a completion queue, oldest first (R373). -/
  heldRecs : List HeldRec
  /-- Vectors within INT_HOLDOFF, and those of them with a message due at its end (R374). -/
  holdoff : Tbl Bool
  /-- The MSI-X table by dword: vector * 4 + dword (R374). -/
  msixTable : Tbl Nat
  /-- Pending bits of MSI-X (R374). -/
  msixPend : Tbl Unit
  /-- Events lost since the last EVQ_OVERFLOW (R378). -/
  evqLost : Nat
  /-- BRINGUP_REPORT is still due at the first enable (R453). -/
  evqReport : Bool
  /-- Stone records queued, oldest first (R471), and records dropped since the last STONE_DROP. -/
  stoneQ : List StoneRec
  stoneLost : Nat
  /-- The link layer by port. -/
  links : Tbl LinkSt
  /-- Flows of peer contexts by context number, and of reduction streams by streamId (R322, R341). -/
  flows : Tbl Flow
  /-- Reduction streams that are LOST (R341). -/
  lostStreams : Tbl Unit
  /-- Packets waiting for room in the retransmit store (R322), and requests waiting for a tag (R325). -/
  txWait : List (Nat × Pkt)
  tagWait : List (Nat × Pkt × Origin)
  /-- Outstanding requests by tag (R325). -/
  tags : Tbl Req
  peerOp : PeerOp
  /-- Range probes of peers held here, oldest first (R518). -/
  heldProbes : List Pkt
  /-- The next word each scrubber reads, by unit, and the stacks passed since SCRUB_PASS_CNT last rose (R284). -/
  scrubPos : Tbl Nat
  scrubDone : Nat
  /-- HDM decoders committed, by number: base, size, DPA skip, locked (R380). -/
  hdm : Tbl (Nat × Nat × Nat × Bool)
  /-- Decoders whose last commit ended with Error Not Committed (R380). -/
  hdmError : Tbl Unit
  /-- The configuration registers that change (R367), and the CXL component registers that software writes, by dword (R368, R380, R385). -/
  cfg : CfgSt
  comp : Tbl Nat
  /-- RED_DESC by core * 64 + offset (R361); posted segments by cluster, in order (R337). -/
  redDesc : Tbl Byte
  redPosts : Tbl (List RedPost)
  /-- Segments, steps and chunks of reductions (R342, R344), and the NACKs sent as (source, segment) (R351). -/
  redSegs : List RedSeg
  redSteps : List RedStep
  redChunks : List RedChunk
  redNacks : List (Nat × SegKey)
  /-- The suspect table was full at the last report dropped (R357); LOCAL_NS of the last report of an entry. -/
  suspFull : Bool
  suspLast : Tbl Nat
  /-- LOCAL_NS of the last SUSPECT report by job * 65536 + device (R356). -/
  suspSent : Tbl Nat
  /-- Levels and latches: PWR_GOOD; PERST_N high; FAULT_N asserted; THERM_TRIP_N asserted; a trip not yet written to Stone (R444); the rails are
  up (R486, R487). -/
  pwrGood : Bool
  perstN : Bool
  faultN : Bool
  trip : Bool
  tripLatch : Bool
  railsUp : Bool
  /-- FEED_ID[3:0] and STRAP[7:0] as read at power-on (R497). -/
  feedStrap : Nat
  strap : Nat
  /-- The fuses (Table 16.3), the flash by offset, erased bytes not listed (R455), and Stone by position, positions never written not listed (R469). -/
  fuses : Fuses
  flash : Tbl Byte
  stone : Tbl (List Byte)
  /-- Power-ons since the first, which is over (R470). -/
  bootCount : Nat
  powered : Bool
  /-- State records due, by kind, and those being written (R474); ring positions written since the last set of a kind. -/
  setDue : List Nat
  setRecs : List StoneRec
  setAge : Tbl Nat
  boot : BringUp
  devReset : Option DevReset
  resetRecs : List ResetRec
  /-- The logical-to-physical core map (R437). -/
  coreMap : Tbl Nat
  /-- Physical cores whose firmware delivery goes on, with the rounds used, and units whose known-answer run goes on, 1 for the second run
  (R434, R435). -/
  fwRounds : Tbl Nat
  kats : Tbl Nat
  /-- The measurement slots of Table 16.4 that hold a digest, the log of R463 and the entries dropped from it. -/
  meas : Tbl (List Byte)
  measLog : List (List Byte)
  measDrops : Nat
  /-- The certificate chain of slot 0 (R461). -/
  certChain : Option (List Byte)
  load : Option LoadSt
  /-- The latch of each reader of CSR space, host 0, Pip 1, scalar unit of core l 2 + l: the word it was loaded from, and bits [63:32] there
  (R507); and STONE_RD_BUF as the last write of STONE_RD_INDEX loaded it (R477). -/
  latches : Tbl (Nat × Nat)
  stoneBuf : List Byte
  /-- MBOX_BUF (Table 11.10), and the open management contexts by number (R328). -/
  mbox : Tbl Byte
  sessions : Tbl Session
  /-- LOCAL_NS of the last MGMT_REJECT record by source: device + 2, the mailbox 0, the sideband 1 (R327). -/
  rejectNs : Tbl Nat
  /-- SPDM by path: DOE 0, sideband 1, mailbox 2, MGMT packets of device d 16 + d (R464). -/
  spdm : Tbl SpdmLink
  power : PowerSt
  side : SideSt
  damson : DamsonSt
  deriving DecidableEq, Repr

/-- The block before its first power-on: no register written, memory wiped, nothing bound, nothing under way. Every register reads
its Reset column (R12). -/
def State.reset : State :=
  { pending := [], out := [], localNs := 0, freeCount := 0, variant := 1, stepping := 0, serial := 0, regs := [], mem := [], junk := [],
    marks := [], dirty := [], bound := Bound.empty, leaving := [], committed := false, cores := [], engHold := [], resets := [], signals := [],
    blocks := [], qfifo := [], heldSamp := [], heldRel := [], samps := [], sampStep := [], sorts := [], gathers := [], scatters := [], runCount := 0, homes := [], heldRows := [], heldWrites := [], applies := [], lostRows := [], closes := [], mig := none, pairs := [], refills := [], soleCopies := [], zests := [], readSteps := [], params := [], applyRuns := [], prefs := [], heldRecs := [], holdoff := [], msixTable := [], msixPend := [], evqLost := 0, evqReport := false,
    stoneQ := [], stoneLost := 0, links := [], flows := [], lostStreams := [], markers := [], txWait := [], tagWait := [], tags := [], peerOp := .none, heldProbes := [], scrubPos := [], scrubDone := 0, hdm := [], hdmError := [], cfg := CfgSt.init, comp := [], redDesc := [], redPosts := [], redSegs := [], redSteps := [], redChunks := [], redNacks := [], suspFull := false, suspLast := [], suspSent := [], pwrGood := false, perstN := true, faultN := false,
    trip := false, tripLatch := false, railsUp := false, feedStrap := 0, strap := 0, fuses := Fuses.blank, flash := [], stone := [],
    bootCount := 0, powered := false, setDue := [], setRecs := [], setAge := [], boot := BringUp.init, devReset := none, resetRecs := [],
    coreMap := [], fwRounds := [], kats := [], meas := [], measLog := [], measDrops := 0, certChain := none, load := none, latches := [], stoneBuf := [], mbox := [], sessions := [], rejectNs := [], spdm := [], power := PowerSt.init, side := SideSt.init, damson := DamsonSt.init }

end Sys2Proof.Machine
end

