-- ==== Sys2Proof/Machine/Ops.lean ====
section
/-!
DEFINITION. Sys2Proof/Machine/Ops.lean: the named operations every meaning is built from: registers, memory with its error
check, messages, events, Stone, completion records, and the lookups in what an image bound.
-/
namespace Sys2Proof.Machine

/-! ### Registers (R11, R12, R13) -/

/-- The key of a field and its index in State.regs. -/
def regKey (r : Reg) (i : Nat) : Nat := i * 1024 + r.ctorIdx

/-- The value of field r, index i; its Reset column where nothing has written it (R12). -/
def rd (s : State) (r : Reg) (i : Nat := 0) : Nat := Tbl.getD s.regs (regKey r i) r.info.reset

/-- Field r, index i given value v, cut to the field's width. -/
def wr (s : State) (r : Reg) (i : Nat) (v : Nat) : State :=
  { s with regs := Tbl.put s.regs (regKey r i) (v % 2 ^ r.info.width) r.info.reset }

/-- The largest value of field r. -/
def regMax (r : Reg) : Nat := 2 ^ r.info.width - 1

/-- A counter raised by n, saturating (R13). -/
def inc (s : State) (r : Reg) (i : Nat := 0) (n : Nat := 1) : State := wr s r i (min (rd s r i + n) (regMax r))

/-- Several fields written in order. -/
def wrs (s : State) : List (Reg × Nat × Nat) → State
  | [] => s
  | (r, i, v) :: t => wrs (wr s r i v) t

/-- The registers whose (field, index) meets p return to their Reset column (R12). -/
def resetRegs (s : State) (p : Reg → Nat → Bool) : State :=
  { s with regs := s.regs.filter (fun e => !(Reg.all.any (fun r => r.ctorIdx == e.1 % 1024 && p r (e.1 / 1024)))) }

/-! ### Output and free values -/

/-- Something leaves the block. -/
def emit (s : State) (o : Output) : State := { s with out := s.out ++ [o] }

/-- A free value of w bits, and the state with it taken (log entry 4). -/
def fresh (s : State) (w : Nat) : State × Nat :=
  ({ s with freeCount := s.freeCount + 1 }, (Config.freeValue s.freeCount).toNat % 2 ^ w)

/-- n free bytes, and the state with them taken (log entry 5). -/
def freshBytes (s : State) (n : Nat) : State × List Byte :=
  ({ s with freeCount := s.freeCount + 1 }, (List.range n).map (Config.freeByte s.freeCount))

/-! ### The device's fixed figures (R1, R272, R274, Table 18.3) -/

/-- HBM stacks of the variant. -/
def stackCount (s : State) : Nat := if s.variant = 3 then 8 else 12
/-- Fabric ports of the variant. -/
def portCount (s : State) : Nat := if s.variant = 2 then 8 else 16
/-- Installed HBM. -/
def hbmBytes (s : State) : Nat := if s.variant = 3 then 0x4800000000 else 0x6C00000000
/-- The stack of an HBM address (R274). -/
def stackOf (s : State) (a : Nat) : Nat := a / 256 % stackCount s

/-- The DEVICE_ID, when set (R312). -/
def deviceId (s : State) : Option Nat := if rd s .idValid = 1 then some (rd s .deviceId) else none
/-- The DEVICE_ID field's value. -/
def devId (s : State) : Nat := rd s .deviceId

/-! ### Time -/

/-- LOCAL_NS as the 64-bit register shows it (R32). -/
def nowNs (s : State) : Nat := s.localNs % 2 ^ 64

/-! ### Messages and events (R374, R378) -/

/-- The value of a dword of the MSI-X table; vector control resets with its mask bit set. -/
def msixDword (s : State) (v k : Nat) : Nat := Tbl.getD s.msixTable (v * 4 + k) (if k = 3 then 1 else 0)

/-- One MSI-X message on vector v: none while MSI-X is not enabled, a pending bit while the function or the vector is masked (R374, PCIe). -/
def sendMsi (s : State) (v : Nat) : State :=
  if s.cfg.msixEnable = false then s
  else if s.cfg.msixMask = true ∨ msixDword s v 3 % 2 = 1 then { s with msixPend := Tbl.set s.msixPend v () }
  else emit s (.msix v (msixDword s v 0 + msixDword s v 1 * 2 ^ 32) (msixDword s v 2))

/-- The message for records written to a queue or the event ring: none within INT_HOLDOFF of the last, one at its end (R374). -/
def recordMsi (s : State) (v : Nat) : State :=
  match Tbl.find s.holdoff v with
  | some _ => { s with holdoff := Tbl.set s.holdoff v true }
  | none =>
    let s := sendMsi s v
    if rd s .intHoldoff = 0 then s else { s with holdoff := Tbl.set s.holdoff v false }

/-- The bytes of an event record (Table 13.7). -/
def eventBytes (s : State) (typ st job dev arg0 arg1 : Nat) : List Byte :=
  toLE 2 typ ++ [0] ++ toLE 1 st ++ toLE 2 (job % 4096) ++ toLE 2 dev ++ toLE 8 (nowNs s) ++ toLE 8 arg0 ++ toLE 8 arg1

/-- A 16- or 32-byte record with PHASE in bit 7 of its byte 2. -/
def withPhase (rec : List Byte) (phase : Nat) : List Byte :=
  patch rec 2 (toLE 1 (fld rec 2 1 % 128 + phase % 2 * 128))

/-- The event record written at EVQ_TAIL (R378): one coherent write, then the index and phase. -/
def writeEvent (s : State) (rec : List Byte) : State :=
  let size := 2 ^ rd s .evqLog2
  let t := rd s .evqTail
  let s := emit s (.hostWrite (rd s .evqAddr + 32 * t) (withPhase rec (rd s .evqPhase)))
  let s := inc s .eventPostedCnt
  let s := wr s .lastEventType 0 (fld rec 0 2)
  let s := wr s .evqTail 0 ((t + 1) % size)
  let s := if t + 1 = size then wr s .evqPhase 0 (1 - rd s .evqPhase) else s
  recordMsi s (rd s .evqVector)

/-- The records the ring holds that are not yet freed. -/
def evqUsed (s : State) : Nat :=
  let size := 2 ^ rd s .evqLog2
  (rd s .evqTail + size - rd s .evqHead % size) % size

/-- The ring takes another record. -/
def evqRoom (s : State) : Bool := rd s .evqEnable == 1 && evqUsed s + 1 < 2 ^ rd s .evqLog2

/-- An event falls due (R378): dropped and counted while the ring is off or full; after drops an EVQ_OVERFLOW comes first. -/
def postEvent (s : State) (typ st job dev arg0 arg1 : Nat) : State :=
  if evqRoom s then
    let s := if s.evqLost = 0 then s
      else { writeEvent s (eventBytes s 0x000B 0 0 (devId s) s.evqLost 0) with evqLost := 0 }
    if evqRoom s then writeEvent s (eventBytes s typ st job dev arg0 arg1)
    else { inc s .evqLostCnt with evqLost := s.evqLost + 1 }
  else { inc s .evqLostCnt with evqLost := s.evqLost + 1 }

/-! ### Stone (R470, R471, R475) -/

/-- Values stored little-endian in their widths, each at its natural alignment (R475). -/
def packVals : List (Nat × Nat) → List Byte → List Byte
  | [], acc => acc
  | (w, v) :: t, acc =>
    let al := if w = 1 ∨ w = 2 ∨ w = 4 ∨ w = 8 then w else 1
    packVals t (acc ++ zeros (roundUp acc.length al - acc.length) ++ toLE w v)

/-- A Stone record queued; dropped and counted when 64 are queued (R471). -/
def stoneWrite (s : State) (kind : Nat) (vals : List (Nat × Nat)) (first : Bool := false) : State :=
  if 64 ≤ s.stoneQ.length then { inc s .stoneDropCnt with stoneLost := s.stoneLost + 1 }
  else
    { s with stoneQ := s.stoneQ ++ [⟨kind, first, nowNs s, packVals vals []⟩] }

/-! ### Memory (R275, R277 to R282, R288, R79) -/

/-- What an unlisted byte reads as: zero, since every reset wipes memory to zero (R289, R292; log entry 2). -/
def memDefault : Byte := 0

/-- The range whose contents are undefined that holds address a. -/
def junkAt (j : List (Nat × Nat × Nat × Nat)) (a : Nat) : Option (Nat × Nat × Nat × Nat) := j.find? (fun x => x.1 ≤ a && a < x.1 + x.2.1)

/-- The byte at device address a; a free value where the spec leaves it undefined (log entry 6). -/
def memByte (s : State) (a : Nat) : Byte :=
  match junkAt s.junk a with
  | none => Tbl.getD s.mem a memDefault
  | some (b, _, k, o) => Config.freeByte k (o + (a - b))

/-- The undefined ranges with [a, a+n) taken out. -/
def cutJunk (j : List (Nat × Nat × Nat × Nat)) (a n : Nat) : List (Nat × Nat × Nat × Nat) :=
  j.flatMap (fun (b, m, k, o) =>
    (if b < a ∧ b < a + n then [(b, min m (a - b), k, o)] else []) ++
    (if a + n < b + m then (let c := max b (a + n); [(c, b + m - c, k, o + (c - b))]) else []))

/-- n bytes from device address a. -/
def memBytes (s : State) (a n : Nat) : List Byte := (List.range n).map (fun i => memByte s (a + i))

/-- The unsigned value of n bytes at a (R8). -/
def memNat (s : State) (a n : Nat) : Nat := leNat (memBytes s a n)

/-- Bytes put into memory from address a on, canonical form kept. -/
def putBytes (m : List Host.Cell) (a : Nat) : List Byte → List Host.Cell
  | [] => m
  | b :: t => putBytes (Tbl.put m a b memDefault) (a + 1) t

/-- The memory's canonical form: addresses rise strictly, no entry equals what an unlisted address reads as. -/
def Memory.wf (m : List Host.Cell) : Bool := Tbl.canon m memDefault

/-- The width of the checked word at address a: 8 bytes in HBM, 4 in SRAM (R277, R278). -/
def wordBytes (a : Nat) : Nat := if a < 0x8000000000 then 8 else 4

/-- The base of the checked word that holds address a. -/
def wordOf (a : Nat) : Nat := a / wordBytes a * wordBytes a

/-- The bases of the words that [a, a+n) touches. -/
def wordsOf (a n : Nat) : List Nat :=
  if n = 0 then [] else
    let w := wordBytes a
    (List.range ((a + n - 1) / w - a / w + 1)).map (fun i => (a / w + i) * w)

/-- The mark of the word at base w. -/
def markOf (s : State) (w : Nat) : WordMark := Tbl.getD s.marks w ⟨0, false⟩

/-- The word at base w fails its readers: its check, or its failed stack (R281, R287). -/
def wordBad (s : State) (w : Nat) : Bool :=
  (markOf s w).err == 2 || (w < 0x8000000000 && bit (rd s .stackFailMask) (stackOf s w))

/-- The kind of store of an address, for the error counters. -/
def ueReg (a : Nat) : Reg := if a < 0x8000000000 then .hbmUeCnt else .sramUeCnt

/-- An occurrence of uncorrectable data at word w (R281): counted, latched, written to Stone, posted as MEM_UE. -/
def recordUe (s : State) (w source : Nat) : State :=
  let s := inc s (ueReg w)
  let s := wrs s [(.lastUeDa, 0, w), (.lastUeSource, 0, source)]
  let s := stoneWrite s 0x0009 [(8, w + source * 2 ^ 40)]
  postEvent s 0x0001 3 0 (devId s) (w + source * 2 ^ 40) 0

/-- A correctable word found by a read: counted and written back (R280). -/
def correctWord (s : State) (w : Nat) : State :=
  let s := inc s (if w < 0x8000000000 then .hbmCeCnt else .sramCeCnt)
  { s with marks := Tbl.del s.marks w }

/-- The read source code of Table 10.5: 1 HBM, 2 SRAM. -/
def readSource (a : Nat) : Nat := if a < 0x8000000000 then 1 else 2

/-- A page retired (R286): the next free RETIRED_n entry, or RETIRE_OVERFLOW; always a Stone record. -/
def retirePage (s : State) (page : Nat) : State :=
  let s := { stoneWrite s 0x000A [(4, page)] with setDue := s.setDue.filter (· != 0x0101) ++ [0x0101] }
  if (List.range 1024).any (fun n => rd s .retiredValid n == 1 && rd s .retiredPage n == page) then s
  else match (List.range 1024).find? (fun n => rd s .retiredValid n == 0) with
    | none => wr s .retireOverflow 0 1
    | some n => wrs s [(.retiredPage, n, page), (.retiredValid, n, 1), (.retiredCount, 0, rd s .retiredCount + 1)]

/-- One word read: an uncorrectable word is recorded and the read fails; a corrected word is written back. A word whose
rewrite is on trial settles here (R286). -/
def readWord (s : State) (w source : Nat) : State × Bool :=
  let m := markOf s w
  if wordBad s w then
    let s := recordUe s w source
    if m.rewritten && w < 0x8000000000 then
      (retirePage { s with marks := Tbl.set s.marks w ⟨m.err, false⟩ } (w / 4096), false)
    else (s, false)
  else if m.err = 1 then (correctWord s w, true)
  else if m.rewritten then ({ s with marks := Tbl.del s.marks w }, true)
  else (s, true)

/-- The words of a list read in order up to the first that fails: the state, and that word. -/
def readWords (source : Nat) : List Nat → State → State × Option Nat
  | [], s => (s, none)
  | w :: t, s =>
    let r := readWord s w source
    if r.2 then readWords source t r.1 else (r.1, some w)

/-- The job slot that holds job j (Table 11.10). -/
def slotOf (s : State) (j : Nat) : Option Nat :=
  (List.range 64).find? (fun n => rd s .jobSlotValid n == 1 && rd s .jobSlotJobId n == j)

/-- A shadow region: bit 31 of its TENSOR_ID is set (R391). -/
def isShadow (r : Region) : Bool := bit r.tensor 31

/-- The shadow that holds an address, with the MIRROR region it shadows (R391, R393). -/
def shadowOf (s : State) (a : Nat) : Option (Region × Region) :=
  match s.bound.regions.find? (fun r => isShadow r && r.base ≤ a && a < r.base + r.size) with
  | none => none
  | some r => (s.bound.regions.find? (fun m => m.job == r.job && m.tensor + 2 ^ 31 == r.tensor && m.mirror)).map (fun m => (r, m))

/-- The device address of a byte of page i's tags, then of slots A and B (R393). -/
def shadowTag (r m : Region) (i : Nat) : Nat := r.base + 2 * m.size + 8 * i
/-- Slot A or B of page i. -/
def shadowSlot (r m : Region) (i : Nat) (b : Bool) : Nat := r.base + 4096 * i + (if b then m.size else 0)

/-- Page i's current slot is B (R394). -/
def slotIsB (s : State) (r m : Region) (i : Nat) : Bool :=
  let mq := ((slotOf s r.job).map (fun n => rd s .shadowMseq n)).getD 0
  let ta := memNat s (shadowTag r m i) 4
  let tb := memNat s (shadowTag r m i + 4) 4
  if mq < ta then tb ≤ mq else tb ≤ mq && ta < tb

/-- Where a read of address a is served: in a shadow, from the current slot of its page (R394). -/
def readAddr (s : State) (a : Nat) : Nat :=
  match shadowOf s a with
  | none => a
  | some (r, m) =>
    let x := a - r.base
    if x < m.size then shadowSlot r m (x / 4096) (slotIsB s r m (x / 4096)) + x % 4096 else a

/-- The words that a read of [a, a+n) takes in: HBM gives whole bursts of 32 bytes, all of whose words fail with one (R279). -/
def burstWords (a n : Nat) : List Nat :=
  if n ≠ 0 ∧ a < 0x8000000000 then wordsOf (a / 32 * 32) ((a + n + 31) / 32 * 32 - a / 32 * 32) else wordsOf a n

/-- A read of [a, a+n): the data, or the first word that could not be read (R281). -/
def readMem (s : State) (a n : Nat) (source : Nat := readSource a) : State × Except Nat (List Byte) :=
  let r := readWords source ((burstWords a n).map (readAddr s)) s
  match r.2 with
  | none => (r.1, .ok (if (shadowOf s a).isNone then memBytes s a n else (List.range n).map (fun i => memByte s (readAddr s (a + i)))))
  | some w => (r.1, .error (if w < 0x8000000000 then max a (w / 32 * 32) else w))

/-- A range meets a shadow, which only the mirror receiver and a refill write (R394). -/
def meetsShadow (s : State) (a n : Nat) : Bool := n != 0 && s.bound.regions.any (fun r => isShadow r && overlaps a n r.base r.size)

/-- The page of an address is tracked: it lies in an HBM region with MIRROR or DELTA_CKPT (R288). -/
def tracked (s : State) (a : Nat) : Bool :=
  a < 0x8000000000 && s.bound.regions.any (fun r => (r.mirror || r.ckpt) && r.base ≤ a && a < r.base + r.size)

/-- Any write to a reserved granule cancels the reservation (R79). -/
def cancelResv (s : State) (a n : Nat) : State :=
  match coreOfAddr a with
  | none => s
  | some (l, _) =>
    match Tbl.find s.cores l with
    | none => s
    | some c =>
      match c.hart.resv with
      | some g => if overlaps a n g 64 then { s with cores := Tbl.set s.cores l { c with hart := { c.hart with resv := none } } } else s
      | none => s

/-- The armed injection fires when a write commits to its word (R295): one flipped bit is correctable, two are not. -/
def fireInjection (s : State) (w : Nat) : State :=
  if rd s .injectPending = 1 ∧ wordOf (rd s .memInjectAddr) = w then
    let m := markOf s w
    let s := wr s .injectPending 0 0
    { s with marks := Tbl.set s.marks w ⟨if rd s .injectDouble = 1 then 2 else 1, m.rewritten⟩ }
  else s

/-- The word's stack is lost: nothing can be written to it (R287). -/
def wordLost (s : State) (w : Nat) : Bool := w < 0x8000000000 && bit (rd s .stackFailMask) (stackOf s w)

/-- Bytes d written inside the word at base w, from address a (R280, R282): a whole-word write clears an error, a part-write merges with a
corrected word and counts the correction, and a part-write of an uncorrectable word is dropped and recorded with source 0x8. -/
def writeWord (s : State) (w a : Nat) (d : List Byte) : State × Bool :=
  let m := markOf s w
  let whole := decide (d.length = wordBytes w)
  if wordLost s w then (recordUe s w 8, false)
  else if m.err = 2 ∧ whole = false then (recordUe s w 8, false)
  else
    let s := if m.err = 1 ∧ whole = false then correctWord s w else s
    let marks := if m.err = 0 then s.marks else if m.err = 2 then Tbl.set s.marks w ⟨0, true⟩ else Tbl.del s.marks w
    let s := { s with mem := putBytes s.mem a d, junk := cutJunk s.junk a d.length, marks := marks }
    let s := if tracked s w then { s with dirty := Tbl.set s.dirty (w / 4096) () } else s
    (fireInjection (cancelResv s a d.length) w, true)

/-- A write cut at word boundaries, in ascending order: the state, and the first word that dropped its part. -/
def writeWords : List Nat → State → Nat → List Byte → State × Option Nat
  | [], s, _, _ => (s, none)
  | w :: t, s, a, d =>
    let n := w + wordBytes w - a
    let r := writeWord s w a (d.take n)
    let q := writeWords t r.1 (a + (d.take n).length) (d.drop n)
    (q.1, if r.2 then q.2 else some w)

/-- Prefetched bytes that a write meets are discarded, and the discards counted (R259). -/
def dropPrefs (s : State) (a n : Nat) : State :=
  let hit := s.prefs.filter (fun e => e.2.runs.any (fun r => overlaps a n r.1 r.2))
  if hit = [] then s
  else hit.foldl (fun s e => inc { s with prefs := Tbl.del s.prefs e.1 } .prefetchDiscardCnt (e.1 / 8)) s

/-- A write of d at device address a. -/
def writeMem (s : State) (a : Nat) (d : List Byte) : State × Option Nat := writeWords (wordsOf a d.length) (dropPrefs s a d.length) a d

/-- The dirty bits of the tracked pages of [a, a+n), n not zero, set (R288). -/
def dirtyRange (s : State) (a n : Nat) : State :=
  let pages := (List.range ((a + n - 1) / 4096 - a / 4096 + 1)).map (fun i => a / 4096 + i)
  { s with dirty := pages.foldl (fun d p => if s.bound.regions.any (fun r => (r.mirror || r.ckpt) && overlaps (p * 4096) 4096 r.base r.size)
      then Tbl.set d p () else d) s.dirty }

/-- What a write of [a, a+n), n not zero, does beside its bytes: prefetches discarded, dirty bits set, a reservation cancelled. -/
def touchRange (s : State) (a n : Nat) : State := cancelResv (dirtyRange (dropPrefs s a n) a n) a n

/-- [a, a+n) written by a unit that leaves its contents undefined (log entry 6). -/
def leaveUndefined (s : State) (a n : Nat) : State :=
  if n = 0 then s
  else
    let s := touchRange s a n
    { s with junk := (a, n, s.freeCount, 0) :: cutJunk s.junk a n, freeCount := s.freeCount + 1 }

/-- The range zeroed with valid checks, its dirty bits and marks cleared (R289). -/
def wipeRange (s : State) (a n : Nat) : State :=
  { s with
    mem := s.mem.filter (fun c => !(a ≤ c.1 && c.1 < a + n))
    junk := cutJunk s.junk a n
    marks := Tbl.drop s.marks (fun w => a ≤ w && w < a + n)
    dirty := Tbl.drop s.dirty (fun p => a ≤ p * 4096 && p * 4096 < a + n) }

/-- A write of the word at base w does more than store its bytes: an error, a lost stack or an armed injection meets it. -/
def wordSpecial (s : State) (w : Nat) : Bool :=
  (markOf s w).err != 0 || wordLost s w || (rd s .injectPending == 1 && wordOf (rd s .memInjectAddr) == w)

/-- The words of [a, a+n) that are special, found among those that can be. -/
def specialWords (s : State) (a n : Nat) : List Nat :=
  let l := if rd s .stackFailMask = 0 then s.marks.map (·.1) ++ [wordOf (rd s .memInjectAddr)] else wordsOf a n
  (l.filter (fun w => overlaps w (wordBytes w) a n && wordSpecial s w)).eraseDups

/-- Zeros written to the part of the word at base w that lies in [a, a+n). -/
def zeroWord (a n : Nat) (s : State) (w : Nat) : State :=
  let b := max a w
  (writeWord s w b (zeros (min (w + wordBytes w) (a + n) - b))).1

/-- The range written with zeros (R162, R170), as writeMem would write them: the special words one by one, all other bytes at once. -/
def zeroRange (s : State) (a n : Nat) : State :=
  if n = 0 then s else
  let kept := fun (w : Nat) => wordLost s w || ((markOf s w).err == 2 && !(a ≤ w && w + wordBytes w ≤ a + n))
  let special := specialWords s a n
  let s := touchRange s a n
  special.foldl (zeroWord a n)
    { s with mem := s.mem.filter (fun c => !(a ≤ c.1 && c.1 < a + n) || kept (wordOf c.1)), junk := cutJunk s.junk a n }

/-! ### Lookups in what images bound (R39) -/

/-- The base of logical core l's store (Table 10.2). -/
def coreBase (l : Nat) : Nat := 0x8000000000 + l * 0x200000
/-- The base of cluster c's gather buffer (Table 10.2). -/
def gbufBase (c : Nat) : Nat := 0x9000000000 + c * 0x2000000

/-- PART_STATE of partition p: 0 EMPTY, 1 LOADING, 2 RUNNING, 3 not in the map (Table 18.4). -/
def partState (s : State) (p : Nat) : Nat := bits (rd s .qimgPartState) (2 * p + 1) (2 * p)
/-- The job is of a partition that reads LOADING: bound there still, or unbound by the wipe of the load or reset under way (R68). -/
def loadingJob (s : State) (j : Nat) : Bool :=
  s.bound.jobs.any (fun x => x.id == j && partState s x.part == 1) || s.leaving.any (fun x => x.jobs.contains j)

/-- The partition is RUNNING. -/
def partServes (s : State) (p : Nat) : Bool := partState s p == 2
/-- What is bound in partition p is in force: it is RUNNING, or LOADING and its reset has not come to the wipe, which takes the bindings out
(R449, Table 15.6). -/
def partRunning (s : State) (p : Nat) : Bool := partState s p == 2 || partState s p == 1

/-- PART_STATE of partition p set, in both places (R513). -/
def setPartState (s : State) (p v : Nat) : State :=
  let s := if v = 1 then s else { s with leaving := s.leaving.filter (fun x => x.part != p) }
  wrs s [(.qimgPartState, 0, setBits (rd s .qimgPartState) (2 * p) 2 v), (.partState, p, v)]

/-- The region of job j that holds address a. -/
def regionOf (s : State) (j a : Nat) : Option Region :=
  s.bound.regions.find? (fun r => r.job == j && r.base ≤ a && a < r.base + r.size && partRunning s r.part)
/-- Any region that holds address a. -/
def regionAny (s : State) (a : Nat) : Option Region :=
  s.bound.regions.find? (fun r => r.base ≤ a && a < r.base + r.size && partRunning s r.part)
/-- The region with a REGION_ID. -/
def regionById (s : State) (id : Nat) : Option Region := s.bound.regions.find? (fun r => r.id == id)
/-- The region of a tensor of job j. -/
def regionByTensor (s : State) (j t : Nat) : Option Region := s.bound.regions.find? (fun r => r.job == j && r.tensor == t)
/-- The entry of job j. -/
def jobOf (s : State) (j : Nat) : Option JobDef := s.bound.jobs.find? (fun x => x.id == j)
/-- Job j is bound in a RUNNING partition. -/
def jobRunning (s : State) (j : Nat) : Bool := s.bound.jobs.any (fun x => x.id == j && partServes s x.part)
/-- The own device entry of job j (R55). -/
def ownDev (s : State) (j : Nat) : Option DevEntry := s.bound.devs.find? (fun d => d.job == j && some d.dev == deviceId s)
/-- The core assignment of logical core l. -/
def asgOf (s : State) (l : Nat) : Option CoreAsg := s.bound.cores.find? (fun c => c.core == l && partRunning s c.part)
/-- The queue binding of q in a RUNNING partition. -/
def queueOf (s : State) (q : Nat) : Option QueueBind := s.bound.queues.find? (fun x => x.id == q && partRunning s x.part)
/-- The generator seed of job j. -/
def seedOf (s : State) (j : Nat) : Nat := ((jobOf s j).map (·.seed)).getD 0

/-! ### Cores -/

/-- Core l's state. -/
def coreSt (s : State) (l : Nat) : CoreSt := Tbl.getD s.cores l CoreSt.init
/-- Core l's state replaced. -/
def setCore (s : State) (l : Nat) (c : CoreSt) : State := { s with cores := Tbl.put s.cores l c CoreSt.init }
/-- Logical core l is present (R437). -/
def corePresent (s : State) (l : Nat) : Bool := l < 512 && bit (rd s .present (l / 32)) (l % 32)
/-- Core l lies in the domain of a reset in progress (R445, R446). -/
def resetting (s : State) (l : Nat) : Bool :=
  s.resets.any (fun r => if r.domain = 0 then r.target == l else if r.domain = 1 then r.target == l / 16
    else s.bound.map.any (fun p => bit r.target p.id && bit p.mask (l / 16)))
/-- Context k of a core. -/
def CoreSt.ctx (c : CoreSt) (k : Nat) : Ctx := if k = 0 then c.c0 else c.c1
/-- Context k of a core replaced. -/
def CoreSt.setCtx (c : CoreSt) (k : Nat) (x : Ctx) : CoreSt := if k = 0 then { c with c0 := x } else { c with c1 := x }
/-- The job of a context: the core's job, or its IDLE_FILL_JOB. -/
def ctxJob (s : State) (l k : Nat) : Option Nat :=
  match asgOf s l with
  | none => none
  | some a => if k = 0 then some a.job else a.idle
/-- The context that owns counter n (R95). -/
def ctrOwner (n : Nat) : Nat := if n < 48 then 0 else 1

/-! ### Completion queues (R370 to R374, R515) -/

/-- The queue is bound to job j with one of the kinds that take records. -/
def cqBound (s : State) (q j kind : Nat) : Bool :=
  match queueOf s q with
  | some b => b.job == j && b.kind == kind
  | none => false

/-- The records a completion queue holds that the host has not freed. -/
def cqUsed (s : State) (q : Nat) : Nat :=
  let n := 2 ^ rd s .qDepthLog2 q
  (rd s .qDevIndex q + n - rd s .qHostIndex q % n) % n

/-- A record may be written to queue q now. -/
def cqRoom (s : State) (q : Nat) : Bool := cqUsed s q + 1 < 2 ^ rd s .qDepthLog2 q && !s.heldRecs.any (fun h => h.queue == q)

/-- One record written at DEV_INDEX (R373), and its message (R374). -/
def writeRec (s : State) (q : Nat) (rec : List Byte) : State :=
  let n := 2 ^ rd s .qDepthLog2 q
  let i := rd s .qDevIndex q
  let s := emit s (.hostWrite (rd s .qRingAddr q + 16 * i) (withPhase rec (rd s .qDevPhase q)))
  let s := wr s .qDevIndex q ((i + 1) % n)
  let s := if i + 1 = n then wr s .qDevPhase q (1 - rd s .qDevPhase q) else s
  match queueOf s q with
  | some b => recordMsi s b.owner
  | none => s

/-- A local token signal sent on its way (R99). -/
def giveSig (s : State) : Option LocalSig → State
  | some g => { s with signals := s.signals ++ [g] }
  | none => s

/-- The unit waits with a record (R373): it takes no request and ends none until the record is written or discarded. -/
def unitWaits (s : State) (u : RecUnit) : Bool := s.heldRecs.any (fun h => h.unit == some u)

/-- A record falls due for queue q (R371, R373): dropped and counted while ENABLE is 0, held by its unit while the queue is full. The signal g
follows the record (R161). -/
def postRec (s : State) (q : Nat) (rec : List Byte) (u : Option RecUnit := none) (g : Option LocalSig := none) : State :=
  if rd s .qEnable q = 0 then giveSig (inc s .cqDropCnt) g
  else if cqRoom s q then giveSig (writeRec s q rec) g
  else { inc s .cqFullStallCnt with heldRecs := s.heldRecs ++ [⟨q, rec, u, g⟩] }

/-- A record of job j for a queue of the kind given: discarded and counted where the queue is no longer bound so (R515). -/
def postJobRec (s : State) (q j kind : Nat) (rec : List Byte) (u : Option RecUnit := none) (g : Option LocalSig := none) : State :=
  if cqBound s q j kind then postRec s q rec u g else giveSig (inc s .cqDropCnt) g

/-- The record of a request that fails its checks: none anywhere when its own queue fails R515. -/
def postFailRec (s : State) (q j kind : Nat) (rec : List Byte) (u : Option RecUnit := none) : State :=
  if cqBound s q j kind then postRec s q rec u else s

/-- A held record that a reset of its unit ends: STATUS becomes ABORTED, the unit waits no more and gives no signal (R30). -/
def abortHeld (p : RecUnit → Bool) (h : HeldRec) : HeldRec :=
  match h.unit with
  | some u => if p u then { h with bytes := patch h.bytes 3 (toLE 1 Status.aborted.code), unit := none, sig := none } else h
  | none => h

/-- The record of Table 5.11. -/
def unitRecord (tag op : Nat) (st : Status) (step detail extra : Nat) : List Byte :=
  toLE 2 tag ++ toLE 1 (op % 128) ++ toLE 1 st.code ++ toLE 4 step ++ toLE 4 detail ++ toLE 4 extra

/-- The entries waiting in queue q. -/
def fifoOf (s : State) (q : Nat) : List (List Byte) := Tbl.getD s.qfifo q []
/-- The entries of queue q replaced. -/
def setFifo (s : State) (q : Nat) (l : List (List Byte)) : State := { s with qfifo := Tbl.put s.qfifo q l [] }
/-- The front entry of queue q taken by its consumer. -/
def popFifo (s : State) (q : Nat) : State := setFifo s q (fifoOf s q).tail

/-- Held records of queue q written while there is room. -/
def drainRecs (q : Nat) : Nat → State → State
  | 0, s => s
  | n + 1, s =>
    match s.heldRecs.find? (fun h => h.queue == q) with
    | none => s
    | some h =>
      if cqUsed s q + 1 < 2 ^ rd s .qDepthLog2 q then
        drainRecs q n (giveSig (writeRec { s with heldRecs := s.heldRecs.erase h } q h.bytes) h.sig)
      else s

/-! ### Device mode -/

/-- NORMAL mode (R439). -/
def modeNormal (s : State) : Bool := rd s .deviceVmode == 0
/-- Bring-up has ended READY or DEGRADED (R438). -/
def ready (s : State) : Bool := rd s .bringupState == 1 || rd s .bringupState == 2

/-- An uncorrectable PCIe error logged and reported by AER, by its status bit: 12 poisoned TLP received, 14 completion timeout, 20 unsupported request
(R385; log entry 30). -/
def aer (s : State) (b : Nat) : State := emit { s with cfg := { s.cfg with aerUncor := setBits s.cfg.aerUncor b 1 1 } } (.aer b)

/-- The block idles: LOCAL_NS advances by one tick of 10 ns (R32; log entry 1). -/
def idle (s : State) : State := { s with localNs := s.localNs + 10 }

/-- The LC_STATE code of the LC fuses (Table 16.6): 0 BLANK, 1 TEST, 2 SEALED, 3 RETURNED, 4 DEAD. A pattern that no transition reaches reads as DEAD. -/
def lcCode (lc : Nat) : Nat := if lc = 0 then 0 else if lc = 1 then 1 else if lc = 3 then 2 else if lc = 7 then 3 else 4

/-- The life-cycle state (R465). -/
def lcState (s : State) : Nat := lcCode s.fuses.lc

/-- Pip's firmware runs (R431, R465). -/
def pipRuns (s : State) : Bool := s.pwrGood && s.devReset.isNone && s.boot.coreFw != []

end Sys2Proof.Machine
end

