-- ==== Sys2Proof/Machine/Route.lean ====
section
/-!
DEFINITION. Sys2Proof/Machine/Route.lean: the packet header, the next hop and port of a packet, credits and the ports' queues, and the traffic
digests (R309, R312 to R317, R354, R355).
-/
namespace Sys2Proof.Machine

/-! ### Packets -/

/-- Packet types of Table 11.5. -/
def ptWrite : Nat := 0x01
/-- READ. -/
def ptRead : Nat := 0x02
/-- PROBE. -/
def ptProbe : Nat := 0x03
/-- TOKEN. -/
def ptToken : Nat := 0x04
/-- ROW_REQ. -/
def ptRowReq : Nat := 0x05
/-- CONTRIB. -/
def ptContrib : Nat := 0x06
/-- DRAW_REQ. -/
def ptDrawReq : Nat := 0x07
/-- QPOST. -/
def ptQpost : Nat := 0x08
/-- RED. -/
def ptRed : Nat := 0x10
/-- RED_CTRL. -/
def ptRedCtrl : Nat := 0x11
/-- RESP. -/
def ptResp : Nat := 0x20
/-- CTX_ACK. -/
def ptCtxAck : Nat := 0x21
/-- CTX_OPEN. -/
def ptCtxOpen : Nat := 0x30
/-- CTX_OPEN_ACK. -/
def ptCtxOpenAck : Nat := 0x31
/-- CTX_CLOSE. -/
def ptCtxClose : Nat := 0x32
/-- MGMT. -/
def ptMgmt : Nat := 0x33
/-- SUSPECT. -/
def ptSuspect : Nat := 0x34
/-- LINK_CTRL. -/
def ptLinkCtrl : Nat := 0x3F

/-- The 32 header bytes of a packet (Table 11.4). -/
def hdrBytes (p : Pkt) : List Byte :=
  toLE 1 p.ptype ++ toLE 1 (p.vc % 4 + 4 * b2n p.dclass + 8 * b2n p.retx + 16 * b2n p.detour + 32 * b2n p.dirlock + 64 * (p.detourDim % 4)) ++
  toLE 2 p.len ++ toLE 2 p.dst ++ toLE 2 p.src ++ toLE 2 p.job ++ toLE 2 p.ctx ++ toLE 2 p.tag ++ toLE 1 p.status ++ toLE 1 p.epoch ++
  toLE 4 p.step ++ toLE 3 p.psn ++ toLE 1 p.hops ++ toLE 5 p.addr ++ toLE 3 p.aux

/-- H(p) of R354. -/
def pktDigest (p : Pkt) : Nat :=
  let h := hdrBytes p
  crc64 (slice h 0 1 ++ slice h 2 10 ++ slice h 0xE 6 ++ slice h 0x18 8 ++ p.payload)

/-- The entry of a job slot's digest window that takes a step: the entry of that step, else a free one, else the lowest step's
(R355); none when the step is below a full window. -/
def digEntry (s : State) (n step : Nat) : Option (Nat × Bool) :=
  let is := List.range 16
  let k := fun (i : Nat) => n * 16 + i
  match is.find? (fun i => rd s .digValid (k i) == 1 && rd s .digStep (k i) == step) with
  | some i => some (k i, false)
  | none =>
    match is.find? (fun i => rd s .digValid (k i) == 0) with
    | some i => some (k i, true)
    | none =>
      let low := is.foldl (fun a i => if rd s .digStep (k i) < rd s .digStep (k a) then i else a) 0
      if step < rd s .digStep (k low) then none else some (k low, true)

/-- A packet counted in its job's digests (R354): sent, or received. -/
def addDigest (s : State) (send : Bool) (p : Pkt) : State :=
  if !((1 ≤ p.ptype && p.ptype ≤ 0x11) || p.ptype == 0x20) then s
  else match slotOf s p.job with
    | none => s
    | some n =>
      match digEntry s n p.step with
      | none => inc s .digestLateCnt
      | some (k, new) =>
        let s := if new then wrs s [(.digStep, k, p.step), (.digValid, k, 1), (.digSend, k, 0), (.digRecv, k, 0)] else s
        let r := if send then Reg.digSend else Reg.digRecv
        wr s r k ((rd s r k + pktDigest p) % 2 ^ 64)

/-! ### Directions (R298, R312) -/

/-- Torus size of dimension d. -/
def dimSize (s : State) (d : Nat) : Nat := bits (rd s .dimSizeM1) (4 * d + 3) (4 * d) + 1
/-- Coordinate d of a device (R312). -/
def coordOf (s : State) (dev d : Nat) : Nat :=
  if d = 0 then dev % dimSize s 0
  else if d = 1 then dev / dimSize s 0 % dimSize s 1
  else if d = 2 then dev / (dimSize s 0 * dimSize s 1) % dimSize s 2
  else dev / (dimSize s 0 * dimSize s 1 * dimSize s 2) % dimSize s 3
/-- The dimension a port serves. -/
def portDim (p : Nat) : Nat := p % 8 / 2
/-- The port's direction points toward decreasing coordinates. -/
def portMinus (p : Nat) : Bool := p % 2 == 1
/-- Port p is UP. -/
def portUp (s : State) (p : Nat) : Bool := p < portCount s && rd s .portState p == 2
/-- A direction is usable when a port of it is UP (R313). -/
def usable (s : State) (d : Nat) (minus : Bool) : Bool := portUp s (2 * d + b2n minus) || portUp s (2 * d + b2n minus + 8)
/-- Both identity and torus sizes are set (R312). -/
def routable (s : State) : Bool := rd s .idValid == 1 && rd s .torusValid == 1

/-! ### Next hop (R313, R314) -/

/-- What routing decides. -/
inductive Hop where
  | eject
  | drop
  /-- Dimension, sense minus, and whether the hop is a detour. -/
  | go (d : Nat) (minus : Bool) (p : Pkt) (det : Bool)
  deriving DecidableEq, Repr

/-- The dies that traffic from one compute die to another crosses on the package (R48): none between equal or adjacent dies; between the diagonal dies
0 and 3, or 1 and 2, the intermediate die of the pair's DIAG_PATH entry, or else the lower-numbered one. -/
def diesCrossed (s : State) (src dst : Nat) : List Nat :=
  if src + dst ≠ 3 then []
  else match s.bound.routes.find? (fun r => r.kind == 3 && r.diePath % 16 == src + 4 * dst) with
    | some r => [bits r.diePath 5 4]
    | none => [if src = 0 ∨ src = 3 then 1 else 0]

/-- The order of dimensions: the job's for job traffic, else ascending. -/
def dimOrder (s : State) (p : Pkt) : List Nat :=
  if 1 ≤ p.ptype ∧ p.ptype ≤ 0x11 then
    match s.bound.routes.find? (fun r => r.kind == 2 && r.job == p.job) with
    | some r => [bits r.dimOrder 1 0, bits r.dimOrder 3 2, bits r.dimOrder 5 4, bits r.dimOrder 7 6]
    | none => [0, 1, 2, 3]
  else [0, 1, 2, 3]

/-- The detour search of R313: the first usable direction of another dimension. -/
def detourDir (s : State) (order : List Nat) (d : Nat) : Option (Nat × Bool) :=
  ((order.filter (· != d)).flatMap (fun d2 => [(d2, false), (d2, true)])).find? (fun x => usable s x.1 x.2)

/-- The loop of R313 over the dimensions left. arr is the hop of arrival: dimension and sense. -/
def hopLoop (s : State) (p : Pkt) (arr : Option (Nat × Bool)) (order : List Nat) : List Nat → Hop
  | [] => .drop
  | d :: t =>
    let n := dimSize s d
    let delta := (coordOf s p.dst d + n - coordOf s (devId s) d) % n
    if delta = 0 then hopLoop s p arr order t
    else
      let lock := p.dirlock && (arr.map (·.1) == some d)
      let minus : Bool :=
        if lock then (arr.map (·.2)).getD false
        else if delta < n - delta then false
        else if n - delta < delta then true
        else (p.src + p.dst) % 2 == 1
      let keep := arr.map (·.1) == some d && p.dirlock
      if usable s d minus then .go d minus { p with dirlock := keep } false
      else if !lock && usable s d (!minus) then .go d (!minus) { p with dirlock := true } false
      else if p.detour then .drop
      else match detourDir s order d with
        | some (d2, m2) => .go d2 m2 { p with detour := true, detourDim := d, dirlock := false } true
        | none => .drop

/-- The next hop of a packet at this device (R313, R315): DETOUR cleared once its dimension is done, HOPS counted, DCLASS set on a wrap link. -/
def nextHop (s : State) (p : Pkt) (arr : Option (Nat × Bool)) : Hop :=
  if p.dst = devId s then .eject
  else
    let p := if p.detour && coordOf s p.dst p.detourDim == coordOf s (devId s) p.detourDim then { p with detour := false } else p
    let order := dimOrder s p
    let order := if p.detour then p.detourDim :: order.filter (· != p.detourDim) else order
    match hopLoop s p arr order order with
    | .go d minus p det =>
      let dc := if arr.map (·.1) == some d then p.dclass else false
      let x := coordOf s (devId s) d
      let wrap := if minus then x == 0 else x + 1 == dimSize s d
      .go d minus { p with dclass := dc || wrap, hops := (p.hops + 1) % 256 } det
    | h => h

/-- The port of a direction (R314). -/
def portFor (s : State) (d : Nat) (minus : Bool) (p : Pkt) : Nat :=
  let a := 2 * d + b2n minus
  let wp := rd s .portWidth a
  let ws := rd s .portWidth (a + 8)
  if portUp s a && portUp s (a + 8) then
    let h := bxor (bxor p.src p.dst) (bxor p.ctx p.job) % 65536
    if h % (wp + ws) < wp then a else a + 8
  else if portUp s a then a else a + 8

/-! ### Credits and sending (R317, R303) -/

/-- Port p's link layer. -/
def linkOf (s : State) (p : Nat) : LinkSt := Tbl.getD s.links p LinkSt.init
/-- Port p's link layer replaced. -/
def setLink (s : State) (p : Nat) (x : LinkSt) : State := { s with links := Tbl.put s.links p x LinkSt.init }

/-- The channel of a packet: 0 to 3 VC, 4 RSP, 5 MGT. -/
def chanOf (p : Pkt) : Nat := if p.ptype ≤ 0x11 then p.vc % 4 else if p.ptype ≤ 0x21 then 4 else 5
/-- The receive buffer a packet uses at the next port (R315, R318). -/
def bufOf (p : Pkt) (det : Bool) : Nat := if det then 12 else 2 * chanOf p + b2n p.dclass
/-- The credits of each buffer (Table 11.7). -/
def bufCredits (b : Nat) : Nat := if b < 10 then 2048 else 256
/-- Credits of a packet. -/
def pktCredits (p : Pkt) : Nat := (32 + roundUp p.len 32) / 32
/-- The bytes a packet takes in the stream of a link: header, payload, zeros to a multiple of 32 (R302). -/
def streamBytes (p : Pkt) : List Byte := hdrBytes p ++ p.payload ++ zeros (roundUp p.payload.length 32 - p.payload.length)
/-- The 2,048 data bytes of flit i of a packet: its part of the stream, then PAD headers, which are zero (R302, Table 11.5). -/
def flitData (p : Pkt) (i : Nat) : List Byte :=
  let b := ((streamBytes p).drop (2048 * i)).take 2048
  b ++ zeros (2048 - b.length)
/-- FIRST_HDR of flit i of a packet: the packet's own header in its first flit, else the first PAD header behind its end, 0x7F where none starts. -/
def firstHdr (p : Pkt) (i : Nat) : Nat :=
  if i = 0 then 0
  else
    let u := ((streamBytes p).length - 2048 * i + 31) / 32
    if u < 64 then u else 0x7F
/-- The trailer of Table 11.2 behind its data. -/
def flitTrailer (data : List Byte) (fseq ack : Nat) (ackValid nak idle : Bool) (hdr : Nat) : List Byte :=
  let t := toLE 4 (fseq % 1024 + ack % 1024 * 2 ^ 10 + b2n ackValid * 2 ^ 20 + b2n nak * 2 ^ 21 + b2n idle * 2 ^ 22 + hdr % 128 * 2 ^ 23)
  t ++ toLE 4 (crc32c (data ++ t))
/-- A flit striped over lanes in 8-byte units: unit k goes on the (k mod w)-th of the w lanes (R302). -/
def stripe (lanes : List Nat) (b : List Byte) : List (Nat × List Byte) :=
  let units := chunks 8 b
  (List.range lanes.length).map (fun i => (lanes.getD i 0, ((List.range units.length).filter (fun k => k % lanes.length == i)).flatMap (fun k => units.getD k [])))
/-- Flits of a packet: each packet starts a flit of its own, and the space behind it is filled with PAD headers (R302; DESIGN CHOICE, log entry 63). -/
def pktFlits (p : Pkt) : Nat := (32 + roundUp p.len 32 + 2047) / 2048

/-- The port can send the packet now: this device and the partner hold an ID and torus sizes (R300, R312), the port is UP, with credits at the partner and room
among its 256 unacknowledged flits. -/
def canSend (s : State) (port : Nat) (w : Waiting) : Bool :=
  let x := linkOf s port
  let b := bufOf w.pkt w.det
  routable s && portUp s port && bits (fld x.ident 0xA 1) 1 0 == 3 && Tbl.getD x.used b 0 + pktCredits w.pkt ≤ bufCredits b && x.unacked.length + pktFlits w.pkt ≤ 256

/-- Credits owed to the partner of a port for a buffer it has drained (R318). -/
def oweCredit (s : State) (src : Option (Nat × Nat × Nat)) : State :=
  match src with
  | none => s
  | some (port, b, n) =>
    let x := linkOf s port
    setLink s port { x with owed := Tbl.put x.owed b (Tbl.getD x.owed b 0 + n) 0 }

/-- A flit of the retry buffer as the lanes carry it, with the latest acknowledgement. -/
def flitWire (s : State) (port : Nat) (u : TxFlit) : List (Nat × List Byte) :=
  let x := linkOf s port
  let d := flitData u.w.pkt u.part
  stripe (onesOf 4 (rd s .portActiveMask port)) (d ++ flitTrailer d u.fseq ((x.rxNext + 1023) % 1024) x.rxAny false false (firstHdr u.w.pkt u.part))

/-- The flits of a packet sent and kept until they are acknowledged (R302, R303). -/
def sendFlits (s : State) (port : Nat) (w : Waiting) : State :=
  let x := linkOf s port
  let n := pktFlits w.pkt
  let fl := (List.range n).map (fun i => (⟨(x.txNext + i) % 1024, 0, w, i⟩ : TxFlit))
  let s := setLink s port { x with unacked := x.unacked ++ fl, txNext := (x.txNext + n) % 1024, rxSince := 0 }
  emit s (.flits port (fl.map (flitWire s port)))

/-- A LINK_CTRL packet sent on a port: it takes no credit, but its flit is numbered and replayed like any other, so it waits while 256 are
unacknowledged (R303, R318). -/
def sendLink (s : State) (port aux : Nat) (b : List Byte) : State :=
  let k : Pkt := { ptype := ptLinkCtrl, aux := aux, payload := b, len := b.length }
  let x := linkOf s port
  let s := emit s (.link port aux b)
  if x.unacked.length + 1 ≤ 256 then sendFlits s port ⟨k, none, false, k, none⟩ else setLink s port { x with ctrl := x.ctrl ++ [k] }

/-- LINK_CTRL packets that waited sent while there is room. -/
def drainCtrl (port : Nat) : List Pkt → State → State
  | [], s => setLink s port { linkOf s port with ctrl := [] }
  | k :: t, s =>
    if (linkOf s port).unacked.length + 1 ≤ 256 then drainCtrl port t (sendFlits s port ⟨k, none, false, k, none⟩)
    else setLink s port { linkOf s port with ctrl := k :: t }

/-- A packet sent on a port. -/
def putOnPort (s : State) (port : Nat) (w : Waiting) : State :=
  let x := linkOf s port
  let b := bufOf w.pkt w.det
  let s := setLink s port { x with used := Tbl.put x.used b (Tbl.getD x.used b 0 + pktCredits w.pkt) 0 }
  oweCredit (inc (sendFlits (emit s (.forward port w.pkt)) port w) .txPktCnt port) w.src

/-- A packet for a port: sent, or queued behind those that wait for the same buffer. -/
def sendPort (s : State) (port : Nat) (w : Waiting) : State :=
  let x := linkOf s port
  if canSend s port w && !x.queue.any (fun q => bufOf q.pkt q.det == bufOf w.pkt w.det) then putOnPort s port w
  else setLink s port { x with queue := x.queue ++ [w] }

/-- Queued packets sent in order where they can be, each buffer's in its own order. blocked lists the buffers that wait. -/
def drainPort (port : Nat) : List Waiting → List Nat → State → State
  | [], _, s => s
  | w :: t, blocked, s =>
    let b := bufOf w.pkt w.det
    if !blocked.contains b && canSend s port w then
      let x := linkOf s port
      drainPort port t blocked (putOnPort (setLink s port { x with queue := x.queue.erase w }) port w)
    else drainPort port t (b :: blocked) s

/-- The packets that wait, in the order a port sends them: MGT, then RSP, then the VCs (R316). -/
def byPriority (l : List Waiting) : List Waiting :=
  l.filter (fun w => chanOf w.pkt == 5) ++ l.filter (fun w => chanOf w.pkt == 4) ++ l.filter (fun w => decide (chanOf w.pkt < 4))

/-- A packet routed from this device's router: sent, ejected, or dropped and counted (R313). -/
def routePkt (s : State) (p : Pkt) (arr : Option (Nat × Bool)) (src : Option (Nat × Nat × Nat)) : State :=
  match nextHop s p arr with
  | .eject => oweCredit (emit s (.packet p)) src
  | .drop => oweCredit (inc s .rxUnroutableCnt) src
  | .go d minus p' det => sendPort s (portFor s d minus p') ⟨p', src, det, p, arr⟩

/-- A packet this device originates (R312): none while its ID or torus sizes are unset. First transmissions count in the digest (R354). -/
def originate (s : State) (p : Pkt) : State :=
  if routable s then routePkt (if p.retx then s else addDigest s true p) p none none else s

end Sys2Proof.Machine
end

