-- ==== Sys2Proof/Machine/Net.lean ====
section
/-!
DEFINITION. Sys2Proof/Machine/Net.lean: packets, peer contexts and their sequencing, tags, responses, suspect reports
(R309 to R326, R356, R516).
-/
namespace Sys2Proof.Machine

/-- The states of a context (Table 11.10). -/
def ctxFree : Nat := 0
/-- OPENING. -/
def ctxOpening : Nat := 1
/-- OPEN. -/
def ctxOpen : Nat := 2
/-- CLOSING. -/
def ctxClosing : Nat := 3
/-- LOST. -/
def ctxLost : Nat := 4

/-- The flow of context c. -/
def flowOf (s : State) (c : Nat) : Flow := Tbl.getD s.flows c Flow.init
/-- The flow of context c replaced. -/
def setFlow (s : State) (c : Nat) (f : Flow) : State := { s with flows := Tbl.put s.flows c f Flow.init }

/-- The context numbers reserved for job j (R319). -/
def jobCtxs (s : State) (j : Nat) : List Nat :=
  match slotOf s j with
  | none => []
  | some n => (List.range (rd s .jobSlotCtxCount n)).map (fun i => rd s .jobSlotCtxBase n + i)

/-- The job's context to a device: the OPEN one where there is one, else one in any state but FREE (R516). -/
def ctxTo (s : State) (j dev : Nat) : Option Nat :=
  let l := (jobCtxs s j).filter (fun c => rd s .ctxState c != ctxFree && rd s .ctxRemoteDevice c == dev)
  match l.find? (fun c => rd s .ctxState c == ctxOpen) with
  | some c => some c
  | none => l.head?

/-- What R516 gives for a packet on context c: none when it may be sent, or the status of the operation. -/
def ctxRefusal (s : State) (c : Nat) : Option Status :=
  if rd s .ctxState c = ctxOpen then none
  else if rd s .ctxState c = ctxLost then some .peerLost else some .permission

/-- What R516 gives for the job's traffic to a device. -/
def peerRefusal (s : State) (j dev : Nat) : Option Status :=
  match ctxTo s j dev with
  | none => some .permission
  | some c => ctxRefusal s c

/-- The size a packet takes in the retransmit store. -/
def pktBytes (p : Pkt) : Nat := 32 + p.payload.length

/-- Bytes held in the retransmit store. -/
def retxUsed (s : State) : Nat := (s.flows.map (fun e => (e.2.unacked.map pktBytes).sum)).sum

/-- The packet as the virtual channel of its job carries it: VC of data or reduction traffic (R48). -/
def jobVc (s : State) (j : Nat) (red : Bool) : Nat :=
  match s.bound.routes.find? (fun r => r.kind == 2 && r.job == j) with
  | some r => if red then r.vcReduce else r.vcData
  | none => 0

/-- The flow number of the reduction stream with a device for a job and an epoch (R341); contexts are numbered below 2^13. -/
def streamId (dev job epoch : Nat) : Nat := 2 ^ 40 + (dev * 4096 + job) * 256 + epoch
/-- A flow number is a stream's. -/
def isStream (c : Nat) : Bool := 2 ^ 40 ≤ c
/-- The other end of a flow. -/
def flowDst (s : State) (c : Nat) : Nat := if isStream c then (c - 2 ^ 40) / 2 ^ 20 else rd s .ctxRemoteDevice c
/-- The job of a flow. -/
def flowJob (s : State) (c : Nat) : Nat := if isStream c then (c - 2 ^ 40) / 256 % 4096 else rd s .ctxJobId c
/-- The context number at the other end; zero for a stream (Table 11.4). -/
def flowCtx (s : State) (c : Nat) : Nat := if isStream c then 0 else rd s .ctxRemoteCtx c
/-- The epoch of a stream. -/
def flowEpoch (c : Nat) : Nat := if isStream c then c % 256 else 0
/-- The context passes packets: OPEN, or CLOSING while it drains (R324; log entry 21). -/
def ctxUp (s : State) (c : Nat) : Bool := rd s .ctxState c == ctxOpen || rd s .ctxState c == ctxClosing
/-- Packets may go out on the flow (R323, R341). -/
def flowOpen (s : State) (c : Nat) : Bool := if isStream c then (Tbl.find s.lostStreams c).isNone else ctxUp s c

/-- A packet numbered, stored until acknowledged and sent on an open flow (R322). -/
def sendNow (s : State) (c : Nat) (p : Pkt) : State :=
  let f := flowOf s c
  let p := { p with dst := flowDst s c, src := devId s, job := flowJob s c, ctx := flowCtx s c, epoch := flowEpoch c,
                    psn := f.txNext, len := p.payload.length }
  originate (setFlow s c { f with txNext := (f.txNext + 1) % 2 ^ 24, unacked := f.unacked ++ [p] }) (p)

/-- A packet sent on an open flow; while the 16 MiB store is full it waits, counted (R322). -/
def sendOn (s : State) (c : Nat) (p : Pkt) : State :=
  if s.txWait ≠ [] ∨ 16 * 2 ^ 20 < retxUsed s + pktBytes p then { inc s .retxStoreStallCnt with txWait := s.txWait ++ [(c, p)] }
  else sendNow s c p

/-- Waiting packets sent while the store has room. -/
def drainTx : Nat → State → State
  | 0, s => s
  | n + 1, s =>
    match s.txWait with
    | [] => s
    | (c, p) :: t =>
      if 16 * 2 ^ 20 < retxUsed s + pktBytes p then s
      else if flowOpen s c then drainTx n (sendNow { s with txWait := t } c p)
      else drainTx n { s with txWait := t }

/-- The context number kept with MGMT requests, which travel on no context (Table 11.5). -/
def mgmtCtx : Nat := 2 ^ 50

/-- The lowest free tag (R325). -/
def freeTag (s : State) : Option Nat := (List.range 16384).find? (fun t => (Tbl.find s.tags t).isNone)

/-- What a request that has no tag yet goes by while it waits: numbers above the tags, in order. -/
def nextTag (s : State) : Nat :=
  match freeTag s with
  | some t => t
  | none => ((s.tagWait.getLast?).map (fun w => w.2.1.tag + 1)).getD 16384

/-- A unit that waits for the answer under one number waits for it under another. -/
def renameTag (s : State) (a b : Nat) : State :=
  { s with
    gathers := s.gathers.map (fun g => if g.wait = some a then { g with wait := some b } else g)
    scatters := s.scatters.map (fun r => if r.wait = some a then { r with wait := some b } else r)
    samps := s.samps.map (fun r => { r with wait := r.wait.map (fun w => if w.1 = a then (b, w.2) else w) }) }

/-- A request sent on OPEN context c, or as it is for a MGMT request, under a free tag, its origin kept; with no tag free it waits, counted (R325). -/
def sendReq (s : State) (c : Nat) (p : Pkt) (o : Origin) : State :=
  let p := if c = mgmtCtx then { p with tag := nextTag s }
    else { p with tag := nextTag s, dst := flowDst s c, src := devId s, job := flowJob s c, ctx := flowCtx s c }
  match freeTag s with
  | none => { inc s .tagFullStallCnt with tagWait := s.tagWait ++ [(c, p, o)] }
  | some t =>
    let s := { s with tags := Tbl.set s.tags t ⟨c, p, o, [], false⟩ }
    if c = mgmtCtx then originate s p else sendOn s c p

/-- The tag freed, and the oldest waiting request sent with it. -/
def releaseTag (s : State) (t : Nat) : State :=
  let s := { s with tags := Tbl.del s.tags t }
  match s.tagWait with
  | [] => s
  | (c, p, o) :: r => sendReq (renameTag { s with tagWait := r } p.tag t) c p o

/-- The tag held in quarantine: no response completes it (R325). -/
def quarantine (s : State) (t : Nat) : State :=
  match Tbl.find s.tags t with
  | some r => { s with tags := Tbl.set s.tags t { r with quar := true } }
  | none => s

/-- A PSN lies at or after the expected one within the window of 2^23 (R322). -/
def psnAhead (psn next : Nat) : Nat := (psn + 2 ^ 24 - next % 2 ^ 24) % 2 ^ 24

/-- A CTX_ACK for a flow: PSN is the next expected (Table 11.5); AUX[1] marks a stream's, with its EPOCH (log entry 15). -/
def ackPkt (s : State) (c : Nat) (nak : Bool) : Pkt :=
  { ptype := ptCtxAck, dst := flowDst s c, src := devId s, job := flowJob s c, ctx := flowCtx s c, epoch := flowEpoch c,
    psn := (flowOf s c).rxNext, aux := b2n nak + 2 * b2n (isStream c) }

/-- An acknowledgement or NAK sent. -/
def sendAck (s : State) (c : Nat) (nak : Bool) : State :=
  originate (setFlow s c { flowOf s c with rxSince := 0, nak := nak }) ((ackPkt s c nak))

/-- The receiver's rules of R322 for a packet's PSN on context c: accepted or not. -/
def rxSeq (s : State) (c : Nat) (p : Pkt) : State × Bool :=
  let f := flowOf s c
  let d := psnAhead p.psn f.rxNext
  if d = 0 then
    let s := setFlow (addDigest s false p) c { f with rxNext := (f.rxNext + 1) % 2 ^ 24, rxSince := f.rxSince + 1, nak := false }
    (if 32 ≤ f.rxSince + 1 then sendAck s c false else s, true)
  else if 2 ^ 23 ≤ d then (sendAck (inc s .ctxDupDropCnt) c false, false)
  else if f.nak then (s, false)
  else (sendAck s c true, false)

/-- The packet's context is OPEN for its job with its sender (R323). -/
def ctxMatches (s : State) (p : Pkt) : Bool :=
  ctxUp s p.ctx && rd s .ctxJobId p.ctx == p.job && rd s .ctxRemoteDevice p.ctx == p.src

/-- The response packets for data: 4,096 bytes each, MORE on all but the last, ADDR the byte offset (R310). -/
def respParts (tag st : Nat) (job step : Nat) : Nat → List (List Byte) → List Pkt
  | _, [] => []
  | off, [d] => [{ ptype := ptResp, tag := tag, status := st, job := job, step := step, addr := off, payload := d, len := d.length }]
  | off, d :: t => { ptype := ptResp, tag := tag, status := st, job := job, step := step, addr := off, aux := 1, payload := d, len := d.length } ::
      respParts tag st job step (off + d.length) t

/-- Several packets sent in order on one context. -/
def sendAll (c : Nat) : List Pkt → State → State
  | [], s => s
  | p :: t, s => sendAll c t (sendOn s c p)

/-- A request answered on its own context (R322). -/
def respond (s : State) (q : Pkt) (st : Status) (data : List Byte := []) : State :=
  let parts := if data = [] then [[]] else chunks 4096 data
  if ctxUp s q.ctx then sendAll q.ctx (respParts q.tag st.code q.job q.step 0 parts) s
  else inc s .ctxUnknownCnt

/-- An answer outside the sequence of any context: AUX[1] marks it (log entry 15). -/
def loosePkt (s : State) (q : Pkt) (st : Status) : Pkt :=
  { ptype := ptResp, dst := q.src, src := devId s, job := q.job, tag := q.tag, step := q.step, status := st.code, aux := 2 }

/-- A request that names a context not OPEN for its job: RESP with PEER_LOST (R323). -/
def respondLost (s : State) (q : Pkt) : State := originate s (loosePkt s q .peerLost)

/-- A request absorbed: RESP with ABORTED, counted (R446). -/
def absorb (s : State) (q : Pkt) : State := inc (originate s (loosePkt s q .aborted)) .absorbCnt

/-- A sequenced request packet of a peer context taken in: none where it was dropped or answered here. Traffic to the jobs of
a LOADING partition is absorbed with ABORTED (R68, R446); a context that is not OPEN, a CLOSING one among them, gives PEER_LOST (R323); a request that a
router found uncorrectable ends with that status (R283, log entry 64). -/
def takeRequest (s : State) (p : Pkt) : State × Bool :=
  if loadingJob s p.job then (absorb s p, false)
  else if ctxMatches s p && rd s .ctxState p.ctx == ctxOpen then
    match rxSeq s p.ctx p with
    | (s, true) => if p.status = 0 then (s, true) else (respond s p (Status.ofCode p.status), false)
    | r => r
  else (respondLost s p, false)

/-- SUSPECT_SUPPRESSED_CNT or one report to the job's monitor (R356). -/
def reportSuspect (s : State) (job dev reason step : Nat) : State :=
  let k := job * 65536 + dev
  let fresh := match Tbl.find s.suspSent k with
    | some t => t + 100000000 ≤ s.localNs
    | none => true
  if !fresh then inc s .suspectSuppressedCnt
  else
    let s := { s with suspSent := Tbl.set s.suspSent k s.localNs }
    match jobOf s job with
    | none => s
    | some j =>
      if j.monitor = dev then
        -- the suspect is the monitor: the event is posted here with a count of 1
        postEvent s 0x0006 0 job dev (1 + 2 ^ reason * 2 ^ 32) (devId s + devId s * 65536)
      else
        let pl := toLE 2 dev ++ toLE 1 reason ++ [0] ++ toLE 4 step ++ toLE 8 (nowNs s) ++ zeros 16
        originate (inc s .suspectSentCnt) ({ ptype := ptSuspect, dst := j.monitor, src := devId s, job := job, payload := pl, len := 32 })

/-- A MGMT packet: command, response mark, secured mark (Table 11.5). -/
def mgmtPkt (s : State) (dst cmd tag : Nat) (resp secured : Bool) (st : Nat) (payload : List Byte) : Pkt :=
  { ptype := ptMgmt, dst := dst, src := devId s, tag := tag, status := st, payload := payload, len := payload.length,
    aux := cmd + b2n resp * 256 + b2n secured * 512 }

/-- One end of context c returned to FREE. -/
def freeCtx (s : State) (c : Nat) (st : Nat) : State :=
  let s := wrs s [(.ctxState, c, ctxFree), (.ctxJobId, c, 0), (.ctxRemoteDevice, c, 0), (.ctxRemoteCtx, c, 0), (.ctxLastStatus, c, st)]
  { setFlow s c Flow.init with txWait := s.txWait.filter (fun w => w.1 != c), tagWait := s.tagWait.filter (fun w => w.1 != c) }

/-- A CTX_CLOSE for context c. -/
def closePkt (s : State) (c : Nat) (st : Status) : Pkt :=
  { ptype := ptCtxClose, dst := rd s .ctxRemoteDevice c, src := devId s, job := rd s .ctxJobId c, ctx := rd s .ctxRemoteCtx c, status := st.code }

/-- Tags of requests outstanding on context c. -/
def tagsOn (s : State) (c : Nat) : List Nat := (s.tags.filter (fun e => e.2.ctx == c && !e.2.quar)).map (·.1)

end Sys2Proof.Machine
end

