-- ==== Sys2Proof/Machine/Tiles.lean ====
section
/-!
DEFINITION. Sys2Proof/Machine/Tiles.lean: tile descriptors, issue checks, start, hazards, token counters and completion
(R85 to R106, R256, R257, R518).
-/
namespace Sys2Proof.Machine

/-! ### Descriptor fields (Table 3.5) -/

/-- OP. -/
def dOp (d : List Byte) : Nat := fld d 0 1
/-- CHAIN_ID. -/
def dChain (d : List Byte) : Nat := fbits d 1 1 2 0
/-- CR_ON_OK. -/
def dCrOnOk (d : List Byte) : Bool := fbit d 2 2 0
/-- FENCE. -/
def dFence (d : List Byte) : Bool := fbit d 2 2 1
/-- USER_TAG. -/
def dTag (d : List Byte) : Nat := fld d 4 2
/-- FMT_A. -/
def dFmtA (d : List Byte) : Nat := fbits d 6 2 3 0
/-- FMT_B. -/
def dFmtB (d : List Byte) : Nat := fbits d 6 2 7 4
/-- FMT_D. -/
def dFmtD (d : List Byte) : Nat := fbits d 6 2 11 8
/-- WAIT_CTR. -/
def dWaitCtr (d : List Byte) : Nat := fbits d 8 1 5 0
/-- WAIT_EN. -/
def dWaitEn (d : List Byte) : Bool := fbit d 8 1 6
/-- SIG_CTR. -/
def dSigCtr (d : List Byte) : Nat := fbits d 9 1 5 0
/-- SIG_EN. -/
def dSigEn (d : List Byte) : Bool := fbit d 9 1 6
/-- SIG_REMOTE. -/
def dSigRemote (d : List Byte) : Bool := fbit d 9 1 7
/-- WAIT_VALUE. -/
def dWaitValue (d : List Byte) : Nat := fld d 0xC 4
/-- SRC_A. -/
def dSrcA (d : List Byte) : Nat := fld d 0x10 8
/-- SRC_B. -/
def dSrcB (d : List Byte) : Nat := fld d 0x18 8
/-- DST. -/
def dDst (d : List Byte) : Nat := fld d 0x20 8
/-- LEN. -/
def dLen (d : List Byte) : Nat := fld d 0x28 4
/-- STEP. -/
def dStep (d : List Byte) : Nat := fld d 0x2C 4
/-- SIG_DEVICE. -/
def dSigDev (d : List Byte) : Nat := fld d 0x30 2
/-- SIG_CORE. -/
def dSigCore (d : List Byte) : Nat := fbits d 0x32 2 8 0
/-- SIG_INC. -/
def dSigInc (d : List Byte) : Nat := fld d 0x34 2
/-- P0. -/
def dP0 (d : List Byte) : Nat := fld d 0x36 2
/-- P1. -/
def dP1 (d : List Byte) : Nat := fld d 0x38 4
/-- P2. -/
def dP2 (d : List Byte) : Nat := fld d 0x3C 4
/-- REMOTE of an address field (R86). -/
def aRemote (a : Nat) : Bool := bit a 63
/-- The device address of an address field. -/
def aAddr (a : Nat) : Nat := bits a 39 0
/-- The device ID of an address field. -/
def aDev (a : Nat) : Nat := bits a 55 40

/-- Operation codes of Table 3.7. -/
def opCopy : Nat := 1
/-- GATHER. -/
def opGather : Nat := 2
/-- SCATTER_ADD. -/
def opScatter : Nat := 3
/-- MATMUL. -/
def opMatmul : Nat := 4
/-- VECTOR. -/
def opVector : Nat := 5
/-- SYNC. -/
def opSync : Nat := 6

/-- Element bytes of a format code; raw counts as bytes. -/
def fmtBytes (c : Nat) : Nat :=
  if c = 1 ∨ c = 2 then 2 else if c = 3 then 4 else 1

/-- M of a MATMUL. -/
def mmM (d : List Byte) : Nat := 32 * bits (dP0 d) 7 0
/-- N of a MATMUL. -/
def mmN (d : List Byte) : Nat := 32 * bits (dP0 d) 15 8
/-- K of a MATMUL. -/
def mmK (d : List Byte) : Nat := bits (dP1 d) 24 0
/-- TRANS_A. -/
def mmTransA (d : List Byte) : Bool := bit (dP1 d) 25
/-- TRANS_B. -/
def mmTransB (d : List Byte) : Bool := bit (dP1 d) 26
/-- ACC_IN. -/
def mmAccIn (d : List Byte) : Bool := bit (dP1 d) 27
/-- SPARSE. -/
def mmSparse (d : List Byte) : Bool := bit (dP1 d) 28
/-- EPI_OFFSET. -/
def mmEpiOff (d : List Byte) : Nat := bits (dP2 d) 20 0
/-- EPI_WORDS. -/
def mmEpiWords (d : List Byte) : Nat := bits (dP2 d) 31 21

/-- TOTAL_BYTES of a compressed operand (R205). -/
def compressedBytes (r c w : Nat) : Nat :=
  64 + roundUp (r * c / 8) 64 + roundUp (4 * (r / 4 + 1)) 64 + roundUp (r * c / 2 * w) 64

/-- The bytes of B that a MATMUL reads (R199). -/
def mmBytesB (d : List Byte) : Nat :=
  let w := fmtBytes (dFmtB d)
  if mmSparse d then
    (if mmTransB d then compressedBytes (mmN d) (mmK d) w else compressedBytes (mmK d) (mmN d) w)
  else mmK d * mmN d * w

/-- The rows of a GATHER or SCATTER_ADD. -/
def dRows (d : List Byte) : Nat := if dP0 d = 0 then 0 else dLen d / dP0 d

/-- The chain a descriptor names on core l. -/
def chainOf (s : State) (l : Nat) (id : Nat) : Option Chain :=
  s.bound.chains.find? (fun c => c.core == l && c.id == id && partRunning s c.part)
/-- The stage codes of a chain, in order. -/
def stageList (st : Nat) : List Nat := ((List.range 4).map (fun i => bits st (4 * i + 3) (4 * i))).takeWhile (· != 0)
/-- The engines of a stage list as a bit mask. -/
def stageMask (l : List Nat) : Nat := l.foldl (fun a c => a ||| 2 ^ c) 0
/-- Stage a comes before stage b. -/
def stageBefore (l : List Nat) (a b : Nat) : Bool := l.contains a && (l.dropWhile (· != a)).contains b

/-- Address a lies in core l's store. -/
def inCore (l a : Nat) : Bool := coreBase l ≤ a && a < coreBase l + 0x180000

/-- The end of the region of job j that holds a. -/
def regionEnd (s : State) (j a : Nat) : Nat := ((regionOf s j a).map (fun r => r.base + r.size)).getD a

/-- The queue post window of a device's fabric block (R326). -/
def inPostWindow (a : Nat) : Bool := 0xF000600000 ≤ a && a < 0xF000800000

/-- The ranges Table 3.7, R110 and R199 imply: (address, length, written), addresses of local fields plain and of remote
fields with bit 63 as R86 writes them. A range may extend to its region's end. -/
def tileRanges (s : State) (j : Nat) (d : List Byte) (probeA : ProbeSt) : List (Nat × Nat × Bool) :=
  let whole := fun (a : Nat) => match regionOf s j a with
    | some r => (r.base, r.size)
    | none => (a, 0)
  if dOp d = opCopy then [(dSrcA d, dLen d, false), (dDst d, dLen d, true)]
  else if dOp d = opGather then
    let a := if aRemote (dSrcA d) then (match probeA with
        | .ok b z => (2 ^ 63 + aDev (dSrcA d) * 2 ^ 40 + b, z)
        | _ => (dSrcA d, 0)) else whole (dSrcA d)
    [(a.1, a.2, false), (dSrcB d, 8 * dRows d, false), (dDst d, dLen d, true)]
  else if dOp d = opScatter then
    let t := whole (dDst d)
    [(dSrcA d, dLen d, false), (dSrcB d, 8 * dRows d, false), (t.1, t.2, true)]
  else if dOp d = opMatmul then
    [(dSrcA d, mmM d * mmK d * fmtBytes (dFmtA d), false), (dSrcB d, mmBytesB d, false), (dDst d, dLen d, true)]
  else if dOp d = opVector then
    [(dSrcA d, dLen d, false)] ++
    (if dSrcB d = 0 then [] else [(dSrcB d, regionEnd s j (dSrcB d) - dSrcB d, false)]) ++
    (if dDst d = 0 then [] else [(dDst d, regionEnd s j (dDst d) - dDst d, true)])
  else []

/-- The address fields an OP uses that must lie in a region of the job, for local fields (R39). -/
def usedAddrs (l : Nat) (d : List Byte) : List Nat :=
  if dOp d = opCopy then [dSrcA d, dDst d]
  else if dOp d = opGather ∨ dOp d = opScatter then [dSrcA d, dSrcB d, dDst d]
  else if dOp d = opMatmul then [dSrcA d, dSrcB d, dDst d] ++ (if mmEpiWords d = 0 then [] else [coreBase l + mmEpiOff d])
  else if dOp d = opVector then [dSrcA d] ++ (if dSrcB d = 0 then [] else [dSrcB d]) ++ (if dDst d = 0 then [] else [dDst d])
  else []

/-- A counter that a context may wait on, or signal on core t (R97). -/
def ctrOwned (s : State) (t n j : Nat) : Bool := ctxJob s t (ctrOwner n) == some j

/-- The job can close a step: one rank, or a reduction tree (R180). -/
def scatterCloses (s : State) (j : Nat) : Bool := ((jobOf s j).map (fun x => x.rankCount ≤ 1 || x.tree != 0xFFFF)).getD true

/-- PERMISSION of Table 3.8 and R180. -/
def issuePermission (s : State) (l k j : Nat) (d : List Byte) : Bool :=
  (dOp d == opSync || (chainOf s l (dChain d)).isSome) &&
  (usedAddrs l d).all (fun a => if aRemote a then (ctxTo s j (aDev a)).isSome else (regionOf s j (aAddr a)).isSome) &&
  (!dWaitEn d || ctrOwner (dWaitCtr d) == k) &&
  (dOp d != opScatter || scatterCloses s j) &&
  (!(dSigEn d && !dSigRemote d) || ((dSigCore d != l || ctrOwner (dSigCtr d) == k) && ctrOwned s (dSigCore d) (dSigCtr d) j && (ctxJob s (dSigCore d) 0 == some j || ctxJob s (dSigCore d) 1 == some j)))

/-- The format codes of Table 3.7 and Table 7.2. -/
def fmtsOk (s : State) (j : Nat) (d : List Byte) : Bool :=
  let inf := ((jobOf s j).map (·.inference)).getD false
  let a := dFmtA d
  let b := dFmtB d
  let o := dFmtD d
  if dOp d = opGather then a == o && a ≤ 4 && b == 0
  else if dOp d = opScatter then (a == 1 || a == 3) && b == 0 && o ≤ 4
  else if dOp d = opMatmul then
    (1 ≤ a && (a ≤ 3 || (a == 4 && inf))) && (1 ≤ b && b ≤ 3) && (1 ≤ o && (o ≤ 3 || (o == 4 && inf)))
  else a == 0 && b == 0 && o == 0

/-- The stages a descriptor needs in its chain (R88, Table 3.7). -/
def stagesNeeded (l : Nat) (d : List Byte) (st : List Nat) : Bool :=
  let out := fun (a : Nat) => !inCore l (aAddr a) || aRemote a
  if dOp d = opCopy ∨ dOp d = opGather ∨ dOp d = opScatter then st.contains 1
  else if dOp d = opMatmul then
    let e := if mmSparse d then 4 else 3
    st.contains e && (!(out (dSrcA d) || out (dSrcB d)) || stageBefore st 1 e) && (!out (dDst d) || stageBefore st e 1) &&
    (mmEpiWords d == 0 || stageBefore st e 2)
  else if dOp d = opVector then st.contains 2
  else true

/-- Where R86 allows REMOTE, and zero device bits of local fields. -/
def remoteOk (d : List Byte) : Bool :=
  let ok := fun (a : Nat) => bits a 62 56 == 0 && (aRemote a || aDev a == 0)
  ok (dSrcA d) && ok (dSrcB d) && ok (dDst d) && !aRemote (dSrcB d) &&
  (!aRemote (dSrcA d) || dOp d == opCopy || dOp d == opGather) && (!aRemote (dDst d) || dOp d == opCopy)

/-- P0, P1, P2 and LEN against Table 3.7, and the zero fields it names. -/
def paramsOk (l : Nat) (d : List Byte) : Bool :=
  let z := fun (l : List Nat) => l.all (· == 0)
  if dOp d = opCopy then z [dSrcB d, dP0 d, dP1 d, dP2 d] &&
    (!(aRemote (dDst d) && inPostWindow (aAddr (dDst d))) || ((dLen d == 0 || dLen d == 64) && aAddr (dDst d) % 64 == 0))
  else if dOp d = opGather ∨ dOp d = opScatter then
    z [dP1 d, dP2 d] && 32 ≤ dP0 d && dP0 d ≤ 32768 && dP0 d % 32 == 0 && dLen d % dP0 d == 0
  else if dOp d = opMatmul then
    let mb := bits (dP0 d) 7 0
    let nb := bits (dP0 d) 15 8
    1 ≤ mb && mb ≤ 8 && 1 ≤ nb && nb ≤ 8 && 1 ≤ mmK d && mmK d ≤ 2 ^ 24 && bits (dP1 d) 31 29 == 0 && mmEpiOff d % 8 == 0 &&
    (dLen d == 0 || dLen d == mmM d * mmN d * fmtBytes (dFmtD d)) &&
    dSrcA d % 64 == 0 && dSrcB d % 64 == 0 && dDst d % 64 == 0 && (!mmSparse d || mmK d % 4 == 0) &&
    !overlaps (dDst d) (dLen d) (dSrcA d) (mmM d * mmK d * fmtBytes (dFmtA d)) &&
    !overlaps (dDst d) (dLen d) (dSrcB d) (mmBytesB d)
  else if dOp d = opVector then
    dP0 d == 0 && dLen d % 8 == 0 && inCore l (dSrcA d) && (dSrcB d == 0 || inCore l (dSrcB d)) && (dDst d == 0 || inCore l (dDst d))
  else z [dSrcA d, dSrcB d, dDst d, dLen d, dP0 d, dP1 d, dP2 d, dChain d]

/-- FORMAT of Table 3.8, R86 to R88, R110 and R198. -/
def issueFormat (s : State) (l j : Nat) (d : List Byte) : Bool :=
  1 ≤ dOp d && dOp d ≤ 6 && fbits d 1 1 7 3 == 0 && fbits d 2 2 15 2 == 0 && fbits d 6 2 15 12 == 0 && fbits d 8 1 7 7 == 0 &&
  fbits d 0x32 2 15 9 == 0 && (dSigRemote d || dSigDev d == 0) && (if dSigEn d then 1 ≤ dSigInc d else dSigInc d == 0) &&
  fmtsOk s j d && remoteOk d && paramsOk l d &&
  (dOp d == opSync || stagesNeeded l d (((chainOf s l (dChain d)).map (fun c => stageList c.stages)).getD []))

/-- BOUNDS of Table 3.8: a local range runs past the end of the region that holds its start. -/
def issueBounds (s : State) (j : Nat) (d : List Byte) : Bool :=
  dLen d == 0 || (tileRanges s j d .none).all (fun r => aRemote r.1 || r.1 + r.2.1 ≤ regionEnd s j r.1 || r.2.1 == 0)

/-- A range written that a committed sampled block (R146) or a shadow (R394) protects. -/
def blockWritten (s : State) (rs : List (Nat × Nat × Bool)) : Bool :=
  rs.any (fun r => r.2.2 && !aRemote r.1 && (meetsShadow s r.1 r.2.1 || s.blocks.any (fun b => b.committed && overlaps r.1 r.2.1 b.base b.bytes)))

/-- The issue checks of Table 3.8 in the order of R16; a LEN of zero passes PERMISSION and FORMAT only (R17, R90). -/
def issueCheck (s : State) (l k : Nat) (d : List Byte) : Status :=
  match ctxJob s l k with
  | none => .permission
  | some j =>
    if !issuePermission s l k j d || (dLen d != 0 && blockWritten s (tileRanges s j d .none)) then .permission
    else if !issueFormat s l j d then .format
    else if !issueBounds s j d then .bounds
    else if dLen d != 0 && dSigEn d && !dSigRemote d && rd s .logicalCoreCount ≤ dSigCore d then .indexRange
    else .ok

/-! ### Context registers -/

/-- The halted field of a context. -/
def haltReg (k : Nat) : Reg := if k = 0 then .c0Halted else .c1Halted
/-- The latched status field of a context. -/
def failReg (k : Nat) : Reg := if k = 0 then .c0FailStatus else .c1FailStatus
/-- ISSUED_SEQ of a context. -/
def issuedReg (k : Nat) : Reg := if k = 0 then .c0IssuedSeq else .c1IssuedSeq
/-- DONE_SEQ of a context. -/
def doneReg (k : Nat) : Reg := if k = 0 then .c0DoneSeq else .c1DoneSeq

/-- Token counter n of core l. -/
def token (s : State) (l n : Nat) : Nat := rd s .token (l * 64 + n)
/-- Token counter n of core l set. -/
def setToken (s : State) (l n v : Nat) : State := wr s .token (l * 64 + n) v

/-- The wrap-around comparison of R96. -/
def waitOk (c v : Nat) : Bool := (c + 2 ^ 32 - v % 2 ^ 32) % 2 ^ 32 < 2 ^ 31

/-- A scalar TK.WAIT of core l re-checked: satisfied, it returns 0 and the unit goes on (R96, R98). -/
def recheckWait (s : State) (l : Nat) : State :=
  let c := coreSt s l
  match c.hart.tkWait with
  | some (rd', n, v) =>
    if waitOk (token s l n) v then
      let x := if rd' = 0 then c.hart.x else Tbl.put c.hart.x rd' (0 : BitVec 64) 0
      setCore s l { c with hart := { c.hart with tkWait := none, x := x, pc := c.hart.pc + 4 } }
    else s
  | none => s

/-- A counter changed by a signal or a dispatch operation, waits re-checked (R98, R100). -/
def addToken (s : State) (l n v : Nat) : State := recheckWait (setToken s l n ((token s l n + v) % 2 ^ 32)) l

/-- The entry a descriptor makes in an issue queue. -/
def mkQTile (seq : Nat) (d : List Byte) : QTile := ⟨seq, d, .none, .none, false, false⟩
/-- A started tile. -/
def mkFTile (q : QTile) (mask : Nat) (rs : List (Nat × Nat × Bool)) (run : TileRun) (sp : Bool) : FTile :=
  ⟨q.seq, q.desc, mask, rs, run, sp, false⟩

/-- A descriptor issued to context k of core l (R89, R92): it takes its SEQ; one that fails its checks is completed at once,
with ABORTED while the core is asked to go idle (R106). -/
def issueTile (s : State) (l k : Nat) (d : List Byte) : State :=
  let seq := rd s (issuedReg k) l
  let s := wr s (issuedReg k) l ((seq + 1) % 2 ^ 32)
  let c := coreSt s l
  let x := c.ctx k
  match (if resetting s l then .aborted else issueCheck s l k d) with
  | .ok => setCore s l (c.setCtx k { x with queue := x.queue ++ [mkQTile seq d] })
  | st => setCore s l (c.setCtx k { x with flight := x.flight ++ [mkFTile (mkQTile seq d) 0 [] (.done st 0) false] })

/-- The head of a context's issue queue. -/
def headTile (s : State) (l k : Nat) : Option QTile := ((coreSt s l).ctx k).queue.head?

/-- The head replaced. -/
def setHead (s : State) (l k : Nat) (q : QTile) : State :=
  let c := coreSt s l
  let x := c.ctx k
  setCore s l (c.setCtx k { x with queue := q :: x.queue.tail })

/-- The head taken off the queue and put among the started tiles. -/
def launch (s : State) (l k : Nat) (f : FTile) : State :=
  let c := coreSt s l
  let x := c.ctx k
  setCore s l (c.setCtx k { x with queue := x.queue.tail, flight := x.flight ++ [f] })

/-- The head ends before it starts, with a status (R89, R98). -/
def endHead (s : State) (l k : Nat) (q : QTile) (st : Status) : State :=
  launch s l k (mkFTile q 0 [] (.done st 0) false)

/-- The started tile of a context with a SEQ. -/
def flightTile (s : State) (l k seq : Nat) : Option FTile := ((coreSt s l).ctx k).flight.find? (fun f => f.seq == seq)

/-- A started tile's run replaced. -/
def setRun (s : State) (l k seq : Nat) (run : TileRun) : State :=
  let c := coreSt s l
  let x := c.ctx k
  setCore s l (c.setCtx k { x with flight := x.flight.map (fun f => if f.seq = seq then { f with run := run } else f) })

/-- A started tile replaced. -/
def setFlight (s : State) (l k : Nat) (f' : FTile) : State :=
  let c := coreSt s l
  let x := c.ctx k
  setCore s l (c.setCtx k { x with flight := x.flight.map (fun f => if f.seq = f'.seq then f' else f) })

/-! ### Starting a tile -/

/-- The wait of a tile is satisfied at its present counter value (R96, R98). -/
def tileWaitOk (s : State) (l : Nat) (d : List Byte) : Bool := !dWaitEn d || waitOk (token s l (dWaitCtr d)) (dWaitValue d)

/-- Two range lists conflict (R93). -/
def conflict (a b : List (Nat × Nat × Bool)) : Bool :=
  a.any (fun x => b.any (fun y => (x.2.2 || y.2.2) && overlaps x.1 x.2.1 y.1 y.2.1))

/-- A started tile still works: it has not completed (R93). -/
def allFlight (c : CoreSt) : List FTile := c.c0.flight ++ c.c1.flight

/-- Engines of core l that started tiles hold; a tile that is done holds none. -/
def enginesBusy (c : CoreSt) : Nat :=
  (allFlight c).foldl (fun a f => match f.run with
    | .busy => a ||| f.stages
    | .copy .. => a ||| f.stages
    | _ => a) 0

/-- The verdict of Table 9.4 for one region and a STEP: none served, some true held, some false FORMAT. -/
def paramVerdict (p : ParamSt) (t : Nat) : Option Bool :=
  match p with
  | .closed => some true
  | .opened r => if t < r then some false else if t = r then none else some true
  | .applying r => if t ≤ r then some false else some true

/-- The state of a parameter region. -/
def paramSt (s : State) (id : Nat) : ParamSt := Tbl.getD s.params id .closed

/-- A trainable HBM parameter region (R255). -/
def isParam (r : Region) : Bool := r.role == 4 && r.trainable && r.base < 0x8000000000

/-- Trainable parameter regions that a range meets. -/
def paramsIn (s : State) (a n : Nat) : List Region :=
  s.bound.regions.filter (fun r => isParam r && partRunning s r.part && overlaps a n r.base r.size)

/-- The verdicts of Table 9.4 over the local ranges a tile reads. -/
def paramVerdicts (s : State) (t : Nat) (rs : List (Nat × Nat × Bool)) : List Bool :=
  rs.flatMap (fun r => if aRemote r.1 then [] else (paramsIn s r.1 r.2.1).filterMap (fun p => paramVerdict (paramSt s p.id) t))

/-- A local range written meets a trainable parameter region that is not CLOSED (R257). -/
def paramWriteBad (s : State) (rs : List (Nat × Nat × Bool)) : Bool :=
  rs.any (fun r => r.2.2 && !aRemote r.1 && (paramsIn s r.1 r.2.1).any (fun p => paramSt s p.id != .closed))

/-- The ranges a tile reads: MATMUL's D is read under ACC_IN (R199); window D of a VECTOR tile is written. -/
def readRanges (d : List Byte) (rs : List (Nat × Nat × Bool)) : List (Nat × Nat × Bool) :=
  rs.filter (fun r => !r.2.2 || (dOp d == opMatmul && mmAccIn d))

/-- The address that needs a probe next: SRC_A first, then DST. -/
def probeDue (q : QTile) : Option (Nat × Nat) :=
  if aRemote (dSrcA q.desc) && q.probeA == .none then some (0, dSrcA q.desc)
  else if aRemote (dDst q.desc) && q.probeD == .none then some (1, dDst q.desc)
  else none

/-- Every probe the tile needs has been answered OK. -/
def probesOk (q : QTile) : Bool :=
  let ok := fun (p : ProbeSt) => match p with
    | .ok _ _ => true
    | _ => false
  (!aRemote (dSrcA q.desc) || ok q.probeA) && (!aRemote (dDst q.desc) || ok q.probeD)

/-- What stands in the way of starting the head of a context. -/
inductive Verdict where
  /-- No head of this operation, the context is halted or idle, or its wait or fence is not satisfied. -/
  | notDue
  /-- The tile ends with this status; the register counts it, if any. -/
  | ends (st : Status) (count : Option Reg)
  /-- Held under Table 9.4. -/
  | heldParam
  /-- Held by a conflict (R93) or a sampled block being built (R146). -/
  | heldHazard
  /-- Its engines are taken. -/
  | enginesTaken
  /-- A range probe is to be sent. -/
  | probe (which addr : Nat)
  /-- It starts. -/
  | go
  deriving DecidableEq, Repr

/-- Slices of an apply: 16,384 elements of an entry, the last holding the rest (R264). -/
def layerSlices (y : ApplyLayer) : Nat := (y.count + 16383) / 16384
/-- All slices of an apply. -/
def sliceCount (r : ApplyRun) : Nat := (r.layers.map layerSlices).sum

/-- The next slice of an apply on core l, with the core's place among the job's cores (R264). -/
def nextSlice (r : ApplyRun) (l : Nat) : Option (Nat × Nat) :=
  match r.cores.findIdx? (· == l) with
  | none => none
  | some i =>
    let n := i + r.cores.length * Tbl.getD r.started i 0
    if r.mode = 0 ∧ r.fail = none ∧ n < sliceCount r then some (i, n) else none

/-- The layer and first element of slice n, with the layer's place. -/
def sliceAt : List ApplyLayer → Nat → Nat → Option (ApplyLayer × Nat × Nat)
  | [], _, _ => none
  | y :: t, n, i => if n < layerSlices y then some (y, n * 16384, i) else sliceAt t (n - layerSlices y) (i + 1)

/-- The elements of a slice that starts at element x. -/
def sliceLen (y : ApplyLayer) (x : Nat) : Nat := min 16384 (y.count - x)

/-- The parameter and delta addresses of a slice's first element. -/
def sliceAddrs (s : State) (r : ApplyRun) (y : ApplyLayer) (x : Nat) : Nat × Nat :=
  (((regionById s y.region).map (·.base)).getD 0 + y.off + 2 * x, ((regionById s r.region).map (·.base)).getD 0 + y.delta + 2 * x)

/-- The ranges of a slice for R93: its deltas read, its parameters written (R264). -/
def sliceRanges (s : State) (r : ApplyRun) (y : ApplyLayer) (x : Nat) : List (Nat × Nat × Bool) :=
  let a := sliceAddrs s r y x
  [(a.2, 2 * sliceLen y x, false), (a.1, 2 * sliceLen y x, true)]

/-- The apply whose slice runs on core l: its job, and the slice's place and number. -/
def sliceOn (s : State) (l : Nat) : Option (Nat × ApplyRun × Nat × Nat) :=
  s.applyRuns.findSome? (fun e => (e.2.active.find? (fun p => e.2.cores[p.1]? == some l)).map (fun p => (e.1, e.2, p.1, p.2)))

/-- The ranges of the slice that runs on core l. -/
def runningSlice (s : State) (l : Nat) : List (Nat × Nat × Bool) :=
  match sliceOn s l with
  | some (_, r, _, n) => (match sliceAt r.layers n 0 with
    | some (y, x, _) => sliceRanges s r y x
    | none => [])
  | none => []

/-- A slice waits for core l's DMA and vector engines: it takes them ahead of every tile not yet started (R264). -/
def sliceWaits (s : State) (l : Nat) : Bool := s.applyRuns.any (fun e => (nextSlice e.2 l).isSome)

/-- Engines taken from tiles: apply slices and Damson patterns hold engines too, and a waiting fallback goes ahead of every
tile for the dense engine (R210). -/
def engineMask (s : State) (l : Nat) : Nat :=
  enginesBusy (coreSt s l) ||| Tbl.getD s.engHold l 0 ||| (if (coreSt s l).mats.any (·.waiting) then 8 else 0) ||| (if sliceWaits s l then 6 else 0)

/-- The stage mask of a descriptor's chain; SYNC takes no engine. -/
def tileMask (s : State) (l : Nat) (d : List Byte) : Nat :=
  if dOp d = opSync then 0 else ((chainOf s l (dChain d)).map (fun c => stageMask (stageList c.stages))).getD 0

/-- The decision on the head of context k of core l as an op tile (R90, R92, R93, R98, R146, R256, R257). -/
def startVerdict (s : State) (l k op : Nat) : Verdict :=
  match headTile s l k, ctxJob s l k with
  | some q, some j =>
    let d := q.desc
    let rs := tileRanges s j d q.probeA
    if dOp d ≠ op ∨ rd s (haltReg k) l = 1 ∨ rd s .quiescing l = 1 ∨ tileWaitOk s l d = false then .notDue
    else if dLen d ≠ 0 ∧ blockWritten s rs then .ends .permission none
    else if dLen d ≠ 0 ∧ paramWriteBad s rs then .ends .permission (some .paramWriteRejectCnt)
    else if dLen d ≠ 0 ∧ (paramVerdicts s (dStep d) (readRanges d rs)).contains false then .ends .format (some .paramStaleCnt)
    else match (if dLen d = 0 then none else probeDue q) with
      | some (w, a) => .probe w a
      | none =>
        if dLen d ≠ 0 ∧ (paramVerdicts s (dStep d) (readRanges d rs)).contains true then .heldParam
        else if dFence d ∧ ((coreSt s l).ctx k).flight ≠ [] then .notDue
        else if dLen d ≠ 0 ∧ probesOk q = false then .notDue
        else if (allFlight (coreSt s l)).any (fun f => conflict rs f.ranges) ∨ conflict rs (runningSlice s l) ∨
            s.blocks.any (fun b => !b.committed && conflict rs [(b.base, b.bytes, true)]) then .heldHazard
        else if Nat.land (engineMask s l) (tileMask s l d) ≠ 0 then .enginesTaken
        else .go
  | _, _ => .notDue

/-- The probe of one address (R90): on the job's context to the device, for the bytes the tile asks there; AUX[0] marks a range to be
written (log entry 15). -/
def sendProbe (s : State) (l k : Nat) (q : QTile) (j which a : Nat) : State :=
  match ctxTo s j (aDev a) with
  | none => endHead s l k q .permission
  | some c =>
    match ctxRefusal s c with
    | some st => endHead s l k q st
    | none =>
      let n := if dOp q.desc = opGather then 1 else dLen q.desc
      let t := nextTag s
      let q' := if which = 0 then { q with probeA := .sent t } else { q with probeD := .sent t }
      sendReq (setHead s l k q') c
        { ptype := ptProbe, vc := jobVc s j false, step := dStep q.desc, addr := aAddr a, aux := which, payload := toLE 8 n }
        (.probe l k q.seq which)

/-- Context 0 takes these engines first: its head is able to start on some of them (R101). -/
def ctx0First (s : State) (l mask : Nat) : Bool :=
  match headTile s l 0 with
  | some q => startVerdict s l 0 (dOp q.desc) == .go && Nat.land (tileMask s l q.desc) mask != 0
  | none => false

/-- A MATMUL streams an operand or its output through its chain's handoff buffer, whose contents after that the spec does not state
(R88; log entry 6). -/
def streams (s : State) (l : Nat) (d : List Byte) : State :=
  if dOp d = opMatmul ∧ [dSrcA d, dSrcB d, dDst d].any (fun a => !inCore l (aAddr a)) then
    match chainOf s l (dChain d) with
    | some c => leaveUndefined s (coreBase l + c.hoff) c.hbytes
    | none => s
  else s

/-- A tile that starts on a chain uses what was prefetched for it there, or discards what was prefetched for another (R259). -/
def usePref (s : State) (l k : Nat) (q : QTile) : State :=
  if dOp q.desc = opSync then s
  else match Tbl.find s.prefs (l * 8 + dChain q.desc) with
    | none => s
    | some p =>
      let s := { s with prefs := Tbl.del s.prefs (l * 8 + dChain q.desc) }
      if k = 0 ∧ p.seq = q.seq then inc s .prefetchUsedCnt l else inc s .prefetchDiscardCnt l

/-- The head of context k started as an op tile, where `go` does the tile's own work once it is among the started tiles; a
SCATTER_ADD has its work with LEN zero too (R180). -/
def startTile (s : State) (l k op : Nat) (go : State → QTile → Nat → State) : State :=
  match headTile s l k, ctxJob s l k with
  | some q, some j =>
    match startVerdict s l k op with
    | .notDue => s
    | .enginesTaken => s
    | .ends st cnt =>
      let s := match cnt with
        | some r => inc s r l
        | none => s
      endHead s l k q st
    | .heldParam => if q.held then s else setHead (inc s .paramHoldCnt l) l k { q with held := true }
    | .heldHazard => if q.stalled then s else setHead (inc s .hazardStallCnt l) l k { q with stalled := true }
    | .probe w a => sendProbe s l k q j w a
    | .go =>
      let d := q.desc
      if k = 1 && ctx0First s l (tileMask s l d) then s
      else
      let f := mkFTile q (tileMask s l d) (tileRanges s j d q.probeA) (if dLen d = 0 ∧ op ≠ opScatter then .done .ok 0 else .busy) (dOp d == opMatmul && mmSparse d)
      let s := launch s l k f
      let s := if k = 1 then inc s .idleFillTileCnt l else s
      let s := streams (usePref s l k q) l d
      if dLen d = 0 ∧ op ≠ opScatter then s else go s q j
  | _, _ => s

/-! ### Saturation counts (R232, R233) -/

/-- n saturations counted for a tile of core l: the first since the last read is named. -/
def countSat (s : State) (l k : Nat) (d : List Byte) (n : Nat) : State :=
  if n = 0 then s
  else
    let s' := inc s .satCnt l n
    if rd s .satFirstValid l = 1 then s'
    else wrs s' [(.satFirstTag, l, dTag d), (.satFirstCtx, l, k), (.satFirstOp, l, dOp d), (.satFirstValid, l, 1)]

/-! ### COPY (R91, R518) -/

/-- The length of the next block of a COPY at destination offset done (R91). -/
def copyBlock (d : List Byte) (done : Nat) : Nat := min (dLen d - done) (4096 - (aAddr (dDst d) + done) % 4096)

/-- Local blocks copied in ascending order; the bytes committed and the status it ended with. -/
def copyLocal (d : List Byte) : Nat → Nat → State → State × Nat × Status
  | 0, done, s => (s, done, .ok)
  | n + 1, done, s =>
    if dLen d ≤ done then (s, done, .ok)
    else
      let len := copyBlock d done
      match readMem s (dSrcA d + done) len with
      | (s, .error _) => (s, done, .uncorrectable)
      | (s, .ok b) =>
        match writeMem s (dDst d + done) b with
        | (s, some _) => (s, done, .uncorrectable)
        | (s, none) => copyLocal d n (done + len) s

/-- A request of a COPY sent on the job's context to a device; a refusal of R516 ends the tile. -/
def copySend (s : State) (l k seq j dev : Nat) (d : List Byte) (done len : Nat) (p : Pkt) (o : Origin) : State :=
  match peerRefusal s j dev, ctxTo s j dev with
  | none, some c =>
    let t := nextTag s
    sendReq (setRun s l k seq (.copy done (done + len) [(t, done, len)] none)) c { p with vc := jobVc s j false, step := dStep d } o
  | some st, _ => setRun s l k seq (.done st done)
  | none, none => setRun s l k seq (.done .permission done)

/-- The bytes b of the block at done written to their remote destination (R90, R326). -/
def copyPut (s : State) (l k seq j : Nat) (d : List Byte) (done : Nat) (b : List Byte) : State :=
  let a := aAddr (dDst d) + done
  copySend s l k seq j (aDev (dDst d)) d done b.length
    { ptype := if inPostWindow (aAddr (dDst d)) then ptQpost else ptWrite, addr := a, payload := b } (.copyWrite l k seq done b.length)

/-- The next block of a COPY between devices: asked, or read here and sent, or the tile is done. -/
def copyNext (s : State) (l k seq j : Nat) (d : List Byte) (done : Nat) : State :=
  if dLen d ≤ done then setRun s l k seq (.done .ok 0)
  else
    let len := copyBlock d done
    if aRemote (dSrcA d) then
      copySend s l k seq j (aDev (dSrcA d)) d done len { ptype := ptRead, addr := aAddr (dSrcA d) + done, aux := len } (.copyRead l k seq done len)
    else match readMem s (dSrcA d + done) len with
      | (s, .error _) => setRun s l k seq (.done .uncorrectable done)
      | (s, .ok b) => copyPut s l k seq j d done b

/-- The work of a COPY that starts. -/
def copyGo (s : State) (l k : Nat) (q : QTile) (j : Nat) : State :=
  let d := q.desc
  if aRemote (dSrcA d) || aRemote (dDst d) then copyNext s l k q.seq j d 0
  else
    let r := copyLocal d (dLen d / 4096 + 2) 0 s
    setRun r.1 l k q.seq (.done r.2.2 (if r.2.2 = .ok then 0 else r.2.1))

/-- A response to a COPY's READ packet. -/
def copyReadResp (s : State) (l k seq off len : Nat) (st : Status) (b : List Byte) : State :=
  match flightTile s l k seq, ctxJob s l k with
  | some f, some j =>
    if st ≠ .ok then setRun s l k seq (.done st off)
    else if aRemote (dDst f.desc) then copyPut s l k seq j f.desc off (b.take len)
    else match writeMem s (dDst f.desc + off) (b.take len) with
      | (s, some _) => setRun s l k seq (.done .uncorrectable off)
      | (s, none) => copyNext s l k seq j f.desc (off + len)
  | _, _ => s

/-- A response to a COPY's WRITE or QPOST packet. -/
def copyWriteResp (s : State) (l k seq off len : Nat) (st : Status) : State :=
  match flightTile s l k seq, ctxJob s l k with
  | some f, some j => if st ≠ .ok then setRun s l k seq (.done st off) else copyNext s l k seq j f.desc (off + len)
  | _, _ => s

/-- A tile that a probe ends by the step rules of a remote parameter region is counted as one of this device's regions would have it (R256, R257):
FORMAT for SRC_A is Table 9.4's; a write refused under R257 is marked in the reply (log entry 15). -/
def probeCount (s : State) (l which : Nat) (st : Status) (b : List Byte) : State :=
  if which = 0 ∧ st = .format then inc s .paramStaleCnt l
  else if which = 1 ∧ st = .permission ∧ fld b 0 8 = 1 then inc s .paramWriteRejectCnt l
  else s

/-- The reply to a range probe (R90): OK gives the region's base and size, any other status ends the tile. Bit 63 of the base says that Table 9.4 held
the probe, which counts the tile once (R256; log entry 15). -/
def probeResp (s : State) (l k seq which : Nat) (st : Status) (b : List Byte) : State :=
  match headTile s l k with
  | some q =>
    if q.seq ≠ seq then s
    else if st ≠ .ok then endHead (probeCount s l which st b) l k q st
    else
      let p := ProbeSt.ok (bits (fld b 0 8) 62 0) (fld b 8 8)
      let held := bit (fld b 0 8) 63 && !q.held
      let q := { q with held := q.held || held }
      setHead (if held then inc s .paramHoldCnt l else s) l k (if which = 0 then { q with probeA := p } else { q with probeD := p })
  | none => s

/-! ### Completion (R99, R104, R105) -/

/-- Entries of context 0's ring. -/
def ringSize (s : State) (l : Nat) : Nat := 2 ^ rd s .c0CringLog2 l
/-- Context 0's ring holds all the records it may (R105). -/
def ringFull (s : State) (l : Nat) : Bool :=
  let n := ringSize s l
  (rd s .c0CringHead l + n - rd s .c0CringTail l % n) % n + 1 == n

/-- The completion record of Table 3.9, PHASE clear. -/
def tileRecord (s : State) (f : FTile) (st : Status) (detail : Nat) : List Byte :=
  toLE 2 (dTag f.desc) ++ toLE 1 (dOp f.desc % 128) ++ toLE 1 st.code ++ toLE 4 f.seq ++ toLE 4 detail ++ toLE 4 (nowNs s)

/-- The completion queue of context 1: the job's KIND 0x2 queue with the lowest QUEUE_ID. -/
def ctx1Queue (s : State) (j : Nat) : Option Nat :=
  (s.bound.queues.filter (fun q => q.job == j && q.kind == 2)).foldl (fun a q => match a with
    | none => some q.id
    | some m => some (min m q.id)) none

/-- The tile's completion writes a record (R104). -/
def needsRecord (f : FTile) (st : Status) : Bool := st != .ok || dCrOnOk f.desc

/-- No room for the record of context k now (R105). -/
def recordBlocked (s : State) (l k : Nat) : Bool :=
  if k = 0 then ringFull s l
  else match ctxJob s l 1 with
    | none => false
    | some j => match ctx1Queue s j with
      | none => false
      | some q => rd s .qEnable q == 1 && !cqRoom s q

/-- The record written where context k's records go. -/
def putRecord (s : State) (l k : Nat) (rec : List Byte) : State :=
  if k = 0 then
    let n := ringSize s l
    let h := rd s .c0CringHead l
    let c := coreSt s l
    let s := (writeMem s (coreBase l + rd s .c0CringBase l + 16 * h) (withPhase rec (b2n c.c0.phase))).1
    let s := wr s .c0CringHead l ((h + 1) % n)
    if h + 1 = n then
      let c := coreSt s l
      setCore s l { c with c0 := { c.c0 with phase := !c.c0.phase } }
    else s
  else match ctxJob s l 1 with
    | none => inc s .cqDropCnt
    | some j => match ctx1Queue s j with
      | none => inc s .cqDropCnt
      | some q => postRec s q rec

/-- A context halts on a status other than OK (R105): latched unless one is latched already; a user-mode trap for context 0, CTX1_HALTED for
context 1. -/
def haltContext (s : State) (l k : Nat) (st : Status) : State :=
  let s := if rd s (failReg k) l = 0 then wr s (failReg k) l st.code else s
  let fresh := rd s (haltReg k) l == 0
  let s := wr s (haltReg k) l 1
  if !fresh then s else if k = 1 then postEvent s 0x0008 st.code ((ctxJob s l 1).getD 0) (devId s) l 0 else emit s (.userTrap l st.code)

/-- The counters of Table 7.6 for a MATMUL that completes. -/
def countMatmul (s : State) (l : Nat) (f : FTile) : State :=
  if dOp f.desc = opMatmul ∧ f.stages ≠ 0 ∧ dLen f.desc ≠ 0 then (if f.onSparse then inc s .matSparseTileCnt l else inc s .matDenseTileCnt l) else s

/-- A context resumes: halt and latched status cleared (R105). -/
def clearHalt (s : State) (l k : Nat) : State := wrs s [(haltReg k, l, 0), (failReg k, l, 0)]

/-- The last of the flushed tiles that a resume waits for has completed: the context resumes (R105). -/
def settleResume (s : State) (l k seq : Nat) : State :=
  let c := coreSt s l
  let x := c.ctx k
  if x.resuming.contains seq then
    let left := x.resuming.filter (· != seq)
    let s := setCore s l (c.setCtx k { x with resuming := left })
    if left = [] then clearHalt s l k else s
  else s

/-- The tile held behind those already held: records are written in completion order (R105). -/
def holdTile (s : State) (l k : Nat) (f : FTile) : State :=
  let c := coreSt s l
  let x := c.ctx k
  setCore s l (c.setCtx k { x with flight := x.flight.filter (fun g => g.seq != f.seq) ++ [{ f with heldRec := true }] })

/-- The tile leaves: record, counters, DONE_SEQ, halt. -/
def finishTile (s : State) (l k : Nat) (f : FTile) (st : Status) (detail : Nat) : State :=
  if needsRecord f st && recordBlocked s l k then
    if f.heldRec then s
    else
      let s := holdTile s l k f
      if k = 1 then inc s .cqFullStallCnt else s
  else
    let s := if needsRecord f st then putRecord s l k (tileRecord s f st detail) else s
    let c := coreSt s l
    let x := c.ctx k
    let s := setCore s l (c.setCtx k { x with flight := x.flight.filter (fun g => g.seq != f.seq) })
    let s := wr s (doneReg k) l ((rd s (doneReg k) l + 1) % 2 ^ 32)
    let s := if st = .ok then inc s .tileOkCnt l else inc s .tileFailCnt l
    let s := countMatmul s l f
    settleResume (if st = .ok then s else haltContext s l k st) l k f.seq

/-- The detail of a failed signal (R99). -/
def sigDetail : Nat := 0xFFFFFFFE

/-- The signal of a tile that completed with OK (R99): local on the package network, or a TOKEN packet. -/
def sendSignal (s : State) (l k : Nat) (f : FTile) (j : Nat) : State :=
  let d := f.desc
  if dSigRemote d then
    match peerRefusal s j (dSigDev d), ctxTo s j (dSigDev d) with
    | none, some c =>
      sendReq (setRun s l k f.seq .signalling) c
        { ptype := ptToken, vc := jobVc s j false, step := dStep d, aux := dSigCtr d + dSigCore d * 64, addr := dSigInc d } (.token l k f.seq)
    | some st, _ => setRun s l k f.seq (.signalled st sigDetail)
    | none, none => setRun s l k f.seq (.signalled .permission sigDetail)
  else
    let s := setRun s l k f.seq .signalling
    { s with signals := s.signals ++ [⟨some (l, k, f.seq), j, dSigCore d, dSigCtr d, dSigInc d⟩] }

/-- One signal applied to a core of this device (R97, R99): the answer. A core in reset absorbs it (Table 15.5). -/
def applySignal (s : State) (j core ctr amount : Nat) : State × Status :=
  if resetting s core then (inc s .absorbCnt, .aborted)
  else if !corePresent s core || rd s .logicalCoreCount ≤ core then (inc s .tokenBadCoreCnt, .indexRange)
  else if !ctrOwned s core ctr j then (inc s .tokenRejectCnt core, .permission)
  else (addToken s core ctr amount, .ok)

/-- The answer to a tile's signal. -/
def signalResp (s : State) (l k seq : Nat) (st : Status) : State :=
  setRun s l k seq (.signalled st (if st = .ok then 0 else sigDetail))

/-- TILE_COMPLETE: a tile whose engines are done signals, or leaves. -/
def tileComplete (s : State) (l k seq : Nat) : State :=
  match flightTile s l k seq with
  | none => s
  | some f =>
    match f.run with
    | .done .ok _ =>
      if dSigEn f.desc then
        match ctxJob s l k with
        | some j => sendSignal s l k f j
        | none => finishTile s l k f .ok 0
      else finishTile s l k f .ok 0
    | .done st det => finishTile s l k f st det
    | .signalled st det => finishTile s l k f st det
    | _ => s

/-- Every tile of context k issued and not started completes with ABORTED (R105 flush, R106). -/
def flushCtx (s : State) (l k : Nat) : State :=
  let c := coreSt s l
  let x := c.ctx k
  let gone := s.prefs.filter (fun e => k == 0 && e.1 / 8 == l && x.queue.any (fun q => q.seq == e.2.seq))
  let s := gone.foldl (fun s e => inc { s with prefs := Tbl.del s.prefs e.1 } .prefetchDiscardCnt l) s
  setCore s l (c.setCtx k { x with queue := [], flight := x.flight ++ x.queue.map (fun q => mkFTile q 0 [] (.done .aborted 0) false) })

/-- The flushed tiles complete one after the other (R105: each first completes with ABORTED). -/
def finishAborted (l k : Nat) : List QTile → State → State
  | [], s => s
  | q :: t, s => finishAborted l k t (tileComplete s l k q.seq)

/-- Context k resumed (R105); with flush, its unstarted tiles complete with ABORTED first, and while a full ring holds some of them the context
stays halted. -/
def resumeCtx (s : State) (l k : Nat) (flush : Bool) : State :=
  let q := ((coreSt s l).ctx k).queue
  let s := if flush then finishAborted l k q (flushCtx s l k) else s
  let c := coreSt s l
  let x := c.ctx k
  let left := (q.map (·.seq)).filter (fun n => flush && x.flight.any (fun f => f.seq == n))
  if left = [] then clearHalt s l k else setCore s l (c.setCtx k { x with resuming := left })

/-! ### Meanings -/

/-- COPY. -/
def execCopy (core ctx : Nat) (s : State) : Host.Outcome State Fault Refusal :=
  .next (startTile s core ctx opCopy (fun s q j => copyGo s core ctx q j))

/-- SYNC: no engine; a started SYNC is done (R88). -/
def execSync (core ctx : Nat) (s : State) : Host.Outcome State Fault Refusal :=
  .next (startTile s core ctx opSync (fun s q _ => setRun s core ctx q.seq (.done .ok 0)))

/-- TILE_WAIT_TIMEOUT: the head's token wait expires (R98). -/
def execTileWaitTimeout (core ctx : Nat) (s : State) : Host.Outcome State Fault Refusal :=
  .next (match headTile s core ctx with
    | some q => if tileWaitOk s core q.desc then s else endHead (inc s .tokenTimeoutCnt core) core ctx q .timeout
    | none => s)

/-- PARAM_HOLD_TIMEOUT: the head is held by the step rules of a parameter region past its bound, counted in TOKEN_TIMEOUT_CNT (R256). -/
def execParamHoldTimeout (core ctx : Nat) (s : State) : Host.Outcome State Fault Refusal :=
  .next (match headTile s core ctx with
    | some q =>
      if startVerdict s core ctx (dOp q.desc) = .heldParam then
        let s := inc s .tokenTimeoutCnt core
        endHead (if q.held then s else inc s .paramHoldCnt core) core ctx q .timeout
      else s
    | none => s)

/-- REMOTE_EXCHANGE_TIMEOUT: a probe, COPY packet or token of a tile gets no reply in time (R518); the device asked is reported. -/
def execRemoteExchangeTimeout (tag : Nat) (s : State) : Host.Outcome State Fault Refusal :=
  .next (match Tbl.find s.tags tag with
    | none => s
    | some r =>
      if r.quar then s
      else
        let late := fun (s : State) => reportSuspect (quarantine s tag) r.pkt.job r.pkt.dst 2 r.pkt.step
        match r.origin with
        | .probe l k seq _ =>
          match headTile s l k with
          | some q => if q.seq = seq then endHead (late s) l k q .timeout else late s
          | none => late s
        | .copyRead l k seq off _ => setRun (late s) l k seq (.done .timeout off)
        | .copyWrite l k seq off _ => setRun (late s) l k seq (.done .timeout off)
        | .token l k seq => setRun (late s) l k seq (.signalled .timeout sigDetail)
        | _ => s)

/-- TILE_COMPLETE. -/
def execTileComplete (core ctx seq : Nat) (s : State) : Host.Outcome State Fault Refusal := .next (tileComplete s core ctx seq)

/-- TOKEN_SIGNAL_APPLY: a local signal arrives at its counter, and its tile gets the answer (R99, R100). -/
def execTokenSignalApply (index : Nat) (s : State) : Host.Outcome State Fault Refusal :=
  .next (match s.signals[index]? with
    | none => s
    | some g =>
      let r := applySignal { s with signals := s.signals.eraseIdx index } g.job g.core g.ctr g.amount
      match g.tile with
      | some (l, k, seq) => signalResp r.1 l k seq r.2
      | none => r.1)

/-- C0_RESUME. -/
def execC0Resume (core : Nat) (s : State) : Host.Outcome State Fault Refusal := .next (resumeCtx s core 0 false)
/-- C0_FLUSH: C0_RESUME with C0_FLUSH. -/
def execC0Flush (core : Nat) (s : State) : Host.Outcome State Fault Refusal := .next (resumeCtx s core 0 true)
/-- C1_RESUME. -/
def execC1Resume (core : Nat) (s : State) : Host.Outcome State Fault Refusal := .next (resumeCtx s core 1 false)
/-- C1_FLUSH: C1_RESUME with C1_FLUSH. -/
def execC1Flush (core : Nat) (s : State) : Host.Outcome State Fault Refusal := .next (resumeCtx s core 1 true)

/-- Tiles of a context held on a full ring complete, in the order in which they came to be held, while there is room. -/
def releaseHeld (l k : Nat) : List FTile → State → State
  | [], s => s
  | f :: t, s => releaseHeld l k t (if f.heldRec then tileComplete s l k f.seq else s)

/-- A write of C0_CRING_TAIL frees ring entries and releases held tiles (R105). -/
def writeCringTail (s : State) (l tail : Nat) : State :=
  releaseHeld l 0 ((coreSt s l).ctx 0).flight (wr s .c0CringTail l tail)

/-- C0_CRING_TAIL_WRITE. -/
def execC0CringTailWrite (core tail : Nat) (s : State) : Host.Outcome State Fault Refusal := .next (writeCringTail s core tail)

/-- A write of C0_CRING_BASE and C0_CRING_LOG2 (R107): a LOG2 outside 4 to 12 leaves that field as it is, and so does a BASE that is not a multiple of
16 (DESIGN CHOICE, log entry 61); the write is ignored where it would place the ring outside the program area or while context 0 has a tile issued; an
accepted change resets the ring. -/
def writeCringConfig (s : State) (l base log2 : Nat) : State :=
  let c := coreSt s l
  let log2 := if log2 < 4 ∨ 12 < log2 then rd s .c0CringLog2 l else log2
  let base := if base % 16 ≠ 0 then rd s .c0CringBase l else base
  if base < 0x20000 || 0x180000 < base + 16 * 2 ^ log2 || !c.c0.queue.isEmpty || !c.c0.flight.isEmpty then s
  else if base = rd s .c0CringBase l ∧ log2 = rd s .c0CringLog2 l then s
  else
    let s := wrs s [(.c0CringBase, l, base), (.c0CringLog2, l, log2), (.c0CringHead, l, 0), (.c0CringTail, l, 0)]
    setCore s l { coreSt s l with c0 := { (coreSt s l).c0 with phase := true } }

/-- C0_CRING_CONFIG_WRITE. -/
def execC0CringConfigWrite (core base log2 : Nat) (s : State) : Host.Outcome State Fault Refusal :=
  .next (writeCringConfig s core base log2)

end Sys2Proof.Machine
end

