-- ==== Sys2Proof/Machine/Operands.lean ====
section
/-!
DEFINITION. Sys2Proof/Machine/Operands.lean: the forms, operands and memory accesses of the vector engine's instructions, and the one
operation that steps its program (R109 to R131).
-/
namespace Sys2Proof.Machine

/-! ### Instruction fields (Table 4.3) -/

/-- OPC. -/
def vOpc (w : Nat) : Nat := bits w 7 0
/-- SD of the SQ form. -/
def sqSd (w : Nat) : Nat := bits w 11 8
/-- SS1 of the SQ form. -/
def sqS1 (w : Nat) : Nat := bits w 15 12
/-- SS2 of the SQ form. -/
def sqS2 (w : Nat) : Nat := bits w 19 16
/-- WIN of the SQ form. -/
def sqWin (w : Nat) : Nat := bits w 21 20
/-- IMM32 of the SQ form. -/
def sqImm (w : Nat) : Nat := bits w 63 32
/-- FMT. -/
def vFmt (w : Nat) : Nat := bits w 11 8
/-- PG. -/
def vPg (w : Nat) : Nat := bits w 14 12
/-- VD. -/
def vVd (w : Nat) : Nat := bits w 20 16
/-- VS1, or VIDX of the VM form. -/
def vVs1 (w : Nat) : Nat := bits w 25 21
/-- VS2. -/
def vVs2 (w : Nat) : Nat := bits w 30 26
/-- VS3. -/
def vVs3 (w : Nat) : Nat := bits w 35 31
/-- RM of the VV form. -/
def vRm (w : Nat) : Nat := bits w 37 36
/-- SKEY of the VV form. -/
def vSkey (w : Nat) : Nat := bits w 43 40
/-- SPOS of the VV form. -/
def vSpos (w : Nat) : Nat := bits w 47 44
/-- IMM16 of the VV form. -/
def vImm (w : Nat) : Nat := bits w 63 48
/-- WIN of the VM form. -/
def mWin (w : Nat) : Nat := bits w 27 26
/-- SBASE of the VM form. -/
def mBase (w : Nat) : Nat := bits w 31 28
/-- RM of the VM form. -/
def mRm (w : Nat) : Nat := bits w 33 32
/-- SKEY of the VM form. -/
def mSkey (w : Nat) : Nat := bits w 37 34
/-- SPOS of the VM form. -/
def mSpos (w : Nat) : Nat := bits w 41 38
/-- OFFS of the VM form. -/
def mOffs (w : Nat) : Int := signed 20 (bits w 63 44)

/-- The operation codes of Table 4.4. -/
def vKnown (c : Nat) : Bool :=
  c ≤ 0x0C || (0x10 ≤ c && c ≤ 0x15) || (0x20 ≤ c && c ≤ 0x2D) || (0x30 ≤ c && c ≤ 0x34) || (0x38 ≤ c && c ≤ 0x42) ||
  (0x50 ≤ c && c ≤ 0x54) || (0x56 ≤ c && c ≤ 0x5A) || (0x60 ≤ c && c ≤ 0x65) || (0x80 ≤ c && c ≤ 0x88)

/-! ### Validity (R118) -/

/-- A register field of kind 0 unused, 1 vector, 2 predicate, 3 a group of two registers, 4 a group of three. -/
def regFieldOk (kind r : Nat) : Bool :=
  if kind = 0 then r == 0 else if kind = 2 then r < 8 else if kind = 3 then r + 1 < 32 else if kind = 4 then r + 2 < 32 else true

/-- SQ form: the fields used are marked, the others are zero, IMM32 meets imm. -/
def sqOk (w : Nat) (d s1 s2 win : Bool) (imm : Bool) : Bool :=
  bits w 31 22 == 0 && (d || sqSd w == 0) && (s1 || sqS1 w == 0) && (s2 || sqS2 w == 0) && (win || sqWin w == 0) && imm

/-- VV form: FMT codes allowed, PG used, kinds of VD, VS1, VS2 and VS3, RM codes allowed, SKEY named by the operation, IMM16
allowed. SKEY and SPOS also serve every operation run with SR. -/
def vvOk (w : Nat) (fmts : List Nat) (pg : Bool) (kd k1 k2 k3 : Nat) (rms : List Nat) (sk : Bool) (imm : Bool) : Bool :=
  !bit w 15 && bits w 39 38 == 0 && fmts.contains (vFmt w) && (pg || vPg w == 0) && regFieldOk kd (vVd w) &&
  regFieldOk k1 (vVs1 w) && regFieldOk k2 (vVs2 w) && regFieldOk k3 (vVs3 w) && rms.contains (vRm w) &&
  (vRm w == 1 || ((sk || vSkey w == 0) && vSpos w == 0)) && imm

/-- VM form: FMT codes, kind of VD, VIDX used, RM codes. -/
def vmOk (w : Nat) (fmts : List Nat) (kd : Nat) (idx : Bool) (rms : List Nat) : Bool :=
  !bit w 15 && bits w 43 42 == 0 && fmts.contains (vFmt w) && regFieldOk kd (vVd w) && (idx || vVs1 w == 0) &&
  rms.contains (mRm w) && (mRm w == 1 || (mSkey w == 0 && mSpos w == 0))

/-- The five format codes. -/
def fmtAny : List Nat := [0, 1, 2, 3, 4]
/-- IMM16 holds a group exponent G of 1 to 7. -/
def immG (w : Nat) : Bool := 1 ≤ vImm w && vImm w ≤ 7

/-! ### Registers and elements (R115 to R117) -/

/-- Scalar register n; s0 reads zero. -/
def sreg (e : VEng) (n : Nat) : Nat := if n = 0 then 0 else (Tbl.getD e.s n 0).toNat
/-- Scalar register n written modulo 2^64; s0 ignores writes. -/
def setS (e : VEng) (n v : Nat) : VEng := if n = 0 then e else { e with s := Tbl.put e.s n (BitVec.ofNat 64 v) 0 }
/-- Vector register n. -/
def vreg (e : VEng) (n : Nat) : BitVec 4096 := Tbl.getD e.v n 0
/-- Vector register n written. -/
def setV (e : VEng) (n : Nat) (v : BitVec 4096) : VEng := { e with v := Tbl.put e.v n v 0 }
/-- Predicate register n; p0 reads all ones. -/
def preg (e : VEng) (n : Nat) : BitVec 256 := if n = 0 then BitVec.allOnes 256 else Tbl.getD e.p n 0
/-- Predicate register n written; p0 ignores writes. -/
def setP (e : VEng) (n : Nat) (v : BitVec 256) : VEng := if n = 0 then e else { e with p := Tbl.put e.p n v 0 }

/-- Element j of width w bytes. -/
def velt (v : BitVec 4096) (w j : Nat) : Nat := v.toNat / 2 ^ (8 * w * j) % 2 ^ (8 * w)
/-- Elements of w bytes packed into a register, the first lowest. -/
def packV (w : Nat) (l : List Nat) : BitVec 4096 :=
  BitVec.ofNat 4096 (l.foldr (fun c a => c % 2 ^ (8 * w) + a * 2 ^ (8 * w)) 0)
/-- Bits packed into a predicate register, the first lowest. -/
def packP (l : List Bool) : BitVec 256 := BitVec.ofNat 256 (l.foldr (fun b a => b2n b + a * 2) 0)

/-- Element bytes by format code (R116): 2 for the 16-bit formats, 4 otherwise. -/
def vWidth (fmt : Nat) : Nat := if fmt = 1 ∨ fmt = 2 then 2 else 4
/-- The element count E (R116). -/
def vCount (fmt : Nat) : Nat := if fmt = 1 ∨ fmt = 2 then 256 else 128
/-- Element j is active under predicate g. -/
def active (e : VEng) (g j : Nat) : Bool := (preg e g).getLsbD j

/-- The floating-point format of a code. -/
def vFormat (c : Nat) : Fmt := (Fmt.ofCode c).getD .f32

/-- Counts of a list of elements. -/
def satOf (l : List Elem) : Nat := (l.map (·.sat)).sum
/-- NaNs counted in a list of elements. -/
def nanOf (l : List Elem) : Nat := (l.map (·.nan)).sum

/-- A register with its elements of w bytes that `act` marks replaced by f, the others kept. -/
def mapV (e : VEng) (vd w : Nat) (act : Nat → Bool) (f : Nat → Elem) : VEng × List Elem :=
  let old := vreg e vd
  let r := (List.range (512 / w)).map (fun j => if act j then f j else ⟨velt old w j, 0, 0⟩)
  (setV e vd (packV w (r.map (·.code))), r)

/-! ### Outcomes of an instruction -/

/-- What one instruction leaves: state, engine, counts, and its fault if any. -/
structure VRes where
  s : State
  e : VEng
  sat : Nat := 0
  nan : Nat := 0
  fault : Option Status := none

/-- An instruction that wrote registers with the elements given. -/
def VRes.wrote (s : State) (r : VEng × List Elem) (extra : Nat := 0) : VRes := { s := s, e := r.1, sat := satOf r.2 + extra, nan := nanOf r.2 }
/-- An instruction that changed the engine only. -/
def VRes.just (s : State) (e : VEng) : VRes := { s := s, e := e }
/-- A fault. -/
def VRes.bad (s : State) (e : VEng) (st : Status) : VRes := { s := s, e := e, fault := some st }

/-! ### The step -/

/-- Core l's vector engine replaced. -/
def setVeng (s : State) (l : Nat) (e : VEng) : State := setCore s l { coreSt s l with veng := e }

/-- A MATMUL taken off its engine. -/
def dropMat (s : State) (l k seq : Nat) : State :=
  let c := coreSt s l
  setCore s l { c with mats := c.mats.filter (fun m => !(m.ctx == k && m.seq == seq)) }

/-- A program fault (R131): recorded, counted; the tile ends, and for INDEX_RANGE and UNCORRECTABLE its DETAIL is VFAULT_PC. -/
def vFault (s : State) (l k seq : Nat) (st : Status) (pc opc : Nat) : State :=
  let s := wrs s [(.vfaultPc, l, pc), (.vfaultStatus, l, st.code), (.vfaultOpc, l, opc)]
  let s := inc s .vecFaultCnt l
  let s := dropMat (setVeng s l VEng.idle) l k seq
  setRun s l k seq (.done st (if st = .indexRange ∨ st = .uncorrectable then pc else 0))

/-- The saturations and NaNs of an instruction counted for the engine's tile. -/
def vCountUp (s : State) (l k seq sat nan : Nat) : State :=
  let s := match flightTile s l k seq with
    | some f => countSat s l k f.desc sat
    | none => s
  if nan = 0 then s else inc s .vecNanCnt l nan

/-- The word at the engine's pc, when it can be fetched. -/
def vFetch (s : State) (e : VEng) : Nat := memNat s (e.winA.1 + e.pc) 8

/-- One instruction of the engine's program, when it is the one that `opc` names (R109, R113): running past window A, an uncorrectable word and an
OPC outside Table 4.4 are faults whichever instruction is named; at the budget nothing more executes. -/
def vstep (s : State) (l opc : Nat) (f : State → VEng → Nat → VRes) : State :=
  let e := (coreSt s l).veng
  match e.job with
  | none => s
  | some (k, seq) =>
    if e.run = false ∨ e.budget * 65536 ≤ e.count then s
    else if e.winA.2 < e.pc + 8 then
      let q := fresh s 8
      vFault q.1 l k seq .format e.pc q.2
    else match readMem s (e.winA.1 + e.pc) 8 with
      | (s', .error _) =>
        let q := fresh s' 8
        vFault q.1 l k seq .uncorrectable e.pc q.2
      | (s', .ok b) =>
        let w := leNat b
        if vKnown (vOpc w) = false then vFault s' l k seq .format e.pc (vOpc w)
        else if vOpc w ≠ opc then s
        else
          let r := f s' { e with pc := e.pc + 8, count := e.count + 1 } w
          let s' := vCountUp r.s l k seq r.sat r.nan
          match r.fault with
          | some st => vFault s' l k seq st e.pc opc
          | none => setVeng s' l r.e

/-- An instruction valid when ok holds of its word; otherwise a FORMAT fault (R118). -/
def vChecked (ok : Nat → Bool) (f : State → VEng → Nat → VRes) (s : State) (e : VEng) (w : Nat) : VRes :=
  if ok w then f s e w else VRes.bad s e .format

/-! ### Rounding (R119) -/

/-- The rounding of element i at position p under RM code rm with key bases from scalar registers sk and sp. -/
def vMode (e : VEng) (rm sk sp i p : Nat) : RMode :=
  if rm = 1 then srMode e.seed (e.tensor.getD 0) e.step ((sreg e sk + i) % 2 ^ 64) ((sreg e sp + p) % 2 ^ 64) else .rne

/-- SR without window D in a VECTOR tile (R119). -/
def srBad (e : VEng) (rm : Nat) : Bool := rm == 1 && e.epi.isNone && e.winD.isNone

/-- A code with an infinity replaced by the largest finite value of its sign (R120). -/
def Fmt.finite (f : Fmt) (c : Nat) : Nat := if f.isInf c then c / 2 ^ f.signBit % 2 * 2 ^ f.signBit + f.largest else c

/-! ### SQ form -/

/-- An SQ operation that writes sd. -/
def sqWrite (f : VEng → Nat → Nat) (s : State) (e : VEng) (w : Nat) : VRes := VRes.just s (setS e (sqSd w) (f e w))

/-- sext(IMM32). -/
def sqSext (w : Nat) : Int := signed 32 (sqImm w)

/-- u64(ss1 + sext(IMM32)). -/
def sqSum (e : VEng) (w : Nat) : Nat := wrap 64 ((sreg e (sqS1 w) : Int) + sqSext w)

/-- A branch taken when `c`: to this word + sext(IMM32) words; outside window A it is a FORMAT fault (R113). -/
def vBranch (c : VEng → Nat → Bool) (s : State) (e : VEng) (w : Nat) : VRes :=
  if c e w = false then VRes.just s e
  else
    let t : Int := (e.pc : Int) - 8 + 8 * sqSext w
    if 0 ≤ t ∧ t + 8 ≤ (e.winA.2 : Int) then VRes.just s { e with pc := t.toNat } else VRes.bad s e .format

/-! ### VV form -/

/-- An elementwise float operation with rounding: the exact operation g on the codes of vs1, vs2, vs3 of a format, under the rounding of
each element. srcs are the source registers it reads. -/
def vFloat (srcs : Nat → List Nat) (g : Fmt → RMode → List Nat → Elem) (s : State) (e : VEng) (w : Nat) : VRes :=
  if srBad e (vRm w) then VRes.bad s e .format
  else
    let f := vFormat (vFmt w)
    let wd := vWidth (vFmt w)
    VRes.wrote s (mapV e (vVd w) wd (active e (vPg w)) (fun j =>
      let xs := (srcs w).map (fun r => velt (vreg e r) wd j)
      (g f (vMode e (vRm w) (vSkey w) (vSpos w) j 0) xs).addSat (f.infs xs)))

/-- One, two or three source registers. -/
def src1 (w : Nat) : List Nat := [vVs1 w]
/-- VS1 and VS2. -/
def src2 (w : Nat) : List Nat := [vVs1 w, vVs2 w]
/-- VS1, VS2 and VS3. -/
def src3 (w : Nat) : List Nat := [vVs1 w, vVs2 w, vVs3 w]

/-- The n-th value of a list of codes. -/
def valAt (f : Fmt) (xs : List Nat) (n : Nat) : FVal := f.decode (xs.getD n 0)

/-- The smaller or larger of two codes by R121, a NaN when either is. -/
def pick (f : Fmt) (larger : Bool) (a b : Nat) : Elem :=
  if f.isNan a || f.isNan b then f.nanElem
  else
    let a' := f.finite a
    let b' := f.finite b
    ⟨if (f.orderKey b' < f.orderKey a') = larger then a' else b', 0, 0⟩

/-- VABS and VNEG: the sign replaced. -/
def signOp (neg : Bool) (f : Fmt) (_ : RMode) (xs : List Nat) : Elem :=
  let c := f.finite (xs.getD 0 0)
  if f.isNan c then f.nanElem
  else if neg then ⟨bxor c (2 ^ f.signBit), 0, 0⟩ else ⟨c % 2 ^ f.signBit, 0, 0⟩

/-- VFMAWL and VFMAWH: lane i of binary32 from element base + i of the 16-bit sources. -/
def vFmaWide (base : Nat) (s : State) (e : VEng) (w : Nat) : VRes :=
  if srBad e (vRm w) then VRes.bad s e .format
  else
    let f := vFormat (vFmt w)
    VRes.wrote s (mapV e (vVd w) 4 (active e (vPg w)) (fun i =>
      let a := velt (vreg e (vVs1 w)) 2 (base + i)
      let b := velt (vreg e (vVs2 w)) 2 (base + i)
      let c := velt (vreg e (vVs3 w)) 4 i
      (Fmt.roundV .f32 (vMode e (vRm w) (vSkey w) (vSpos w) i 0) (FVal.add (FVal.mul (f.decode a) (f.decode b)) (Fmt.decode .f32 c))).addSat
        (f.infs [a, b] + Fmt.infs .f32 [c])))

/-- VDOT4: four exact E4M3 products and vs3, rounded once. -/
def vDot4 (s : State) (e : VEng) (w : Nat) : VRes :=
  if srBad e (vRm w) then VRes.bad s e .format
  else
    VRes.wrote s (mapV e (vVd w) 4 (active e (vPg w)) (fun i =>
      let c := velt (vreg e (vVs3 w)) 4 i
      let ps := (List.range 4).map (fun q =>
        FVal.mul (Fmt.decode .e4m3 (velt (vreg e (vVs1 w)) 1 (4 * i + q))) (Fmt.decode .e4m3 (velt (vreg e (vVs2 w)) 1 (4 * i + q))))
      (Fmt.roundV .f32 (vMode e (vRm w) (vSkey w) (vSpos w) i 0) (ps.foldl FVal.add (Fmt.decode .f32 c))).addSat (Fmt.infs .f32 [c])))

/-- An elementwise operation on raw lanes of the format's width. -/
def vRaw (f : VEng → Nat → Nat → Nat) (s : State) (e : VEng) (w : Nat) : VRes :=
  VRes.wrote s (mapV e (vVd w) (vWidth (vFmt w)) (active e (vPg w)) (fun j => ⟨f e w j, 0, 0⟩))

/-- An integer operation on 32-bit lanes of vs1 and vs2, modulo 2^32. -/
def vInt (f : Nat → Nat → Nat) : State → VEng → Nat → VRes :=
  vRaw (fun e w j => f (velt (vreg e (vVs1 w)) 4 j) (velt (vreg e (vVs2 w)) 4 j) % 2 ^ 32)

/-- The condition of VCMP on two codes (R121). -/
def vCond (fmt cond a b : Nat) : Bool :=
  if fmt = 0 then (if cond = 0 then a == b else if cond = 1 then a != b else if cond = 2 then a < b else a ≤ b)
  else
    let f := vFormat fmt
    if f.isNan a || f.isNan b then cond == 1 || cond == 4
    else
      let x := f.orderKey (f.finite a)
      let y := f.orderKey (f.finite b)
      if cond = 0 then x == y else if cond = 1 then x != y else if cond = 2 then x < y else if cond = 3 then x ≤ y else false

/-- VCMP. -/
def vCmp (s : State) (e : VEng) (w : Nat) : VRes :=
  let wd := vWidth (vFmt w)
  let lanes := (List.range (vCount (vFmt w))).map (fun j => (active e (vPg w) j, velt (vreg e (vVs1 w)) wd j, velt (vreg e (vVs2 w)) wd j))
  let n := if vFmt w = 0 then 0 else ((lanes.filter (·.1)).map (fun x => (vFormat (vFmt w)).infs [x.2.1, x.2.2])).sum
  { s := s, e := setP e (vVd w) (packP (lanes.map (fun x => x.1 && vCond (vFmt w) (vImm w) x.2.1 x.2.2))), sat := n }

/-- A predicate logic operation on all 256 bits. -/
def pLogic (f : BitVec 256 → BitVec 256 → BitVec 256) (s : State) (e : VEng) (w : Nat) : VRes :=
  VRes.just s (setP e (vVd w) (f (preg e (vVs1 w)) (preg e (vVs2 w))))

/-- The source format of VCVT. -/
def cvtS (w : Nat) : Nat := bits (vImm w) 3 0
/-- PART of VCVT. -/
def cvtPart (w : Nat) : Nat := bits (vImm w) 5 4

/-- IMM16 of VCVT allowed (R122). -/
def cvtOk (w : Nat) : Bool :=
  let ws := fmtBytes (cvtS w)
  let wd := fmtBytes (vFmt w)
  1 ≤ cvtS w && cvtS w ≤ 4 && cvtS w != vFmt w && bits (vImm w) 15 6 == 0 && cvtPart w < max ws wd / min ws wd

/-- VCVT (R122). In a narrowing by SR the key's element index is that of the source element (DESIGN CHOICE, log entry 66). -/
def vCvt (s : State) (e : VEng) (w : Nat) : VRes :=
  if srBad e (vRm w) then VRes.bad s e .format
  else
    let fs := vFormat (cvtS w)
    let fd := vFormat (vFmt w)
    let ws := fs.bytes
    let wd := fd.bytes
    let n := 512 / max ws wd
    let base := cvtPart w * n
    let conv := fun (i c : Nat) => (fd.roundV (vMode e (vRm w) (vSkey w) (vSpos w) i 0) (fs.decode c)).addSat (fs.infs [c])
    let src := vreg e (vVs1 w)
    if wd < ws then
      VRes.wrote s (mapV e (vVd w) wd (fun j => base ≤ j && j < base + n && active e (vPg w) (j - base)) (fun j => conv (j - base) (velt src ws (j - base))))
    else VRes.wrote s (mapV e (vVd w) wd (active e (vPg w)) (fun j => conv j (velt src ws (base + j))))

/-- VEXP2 to VERF (R123). -/
def vFun (g : FFun) (s : State) (e : VEng) (w : Nat) : VRes :=
  vFloat src1 (fun f rm xs => g.eval f rm (valAt f xs 0)) s e w

/-! ### Reductions (R124 to R128) -/

/-- One level of the tree of R124: neighbours combined, a lone present one passed on; node numbers count from k. -/
def treeLevel {α : Type} (f : Nat → α → α → α × Nat) : Nat → List (Option α) → List (Option α) × Nat
  | k, some a :: some b :: t =>
    let r := f k a b
    let q := treeLevel f (k + 1) t
    (some r.1 :: q.1, r.2 + q.2)
  | k, some a :: none :: t =>
    let q := treeLevel f (k + 1) t
    (some a :: q.1, q.2)
  | k, none :: b :: t =>
    let q := treeLevel f (k + 1) t
    (b :: q.1, q.2)
  | _, [a] => ([a], 0)
  | _, [] => ([], 0)

/-- The tree over 2^g leaves from level lv on: the root, and the saturations of its nodes. -/
def treeRun {α : Type} (f : Nat → Nat → α → α → α × Nat) : Nat → Nat → List (Option α) → Option α × Nat
  | 0, _, xs => (xs.headD none, 0)
  | g + 1, lv, xs =>
    let q := treeLevel (f lv) 0 xs
    let r := treeRun f g (lv + 1) q.1
    (r.1, q.2 + r.2)

/-- The groups of 2^g lanes: their first lanes. -/
def groupBases (g : Nat) : List Nat := (List.range (128 / 2 ^ g)).map (fun i => i * 2 ^ g)

/-- The binary32 tree sum of each group (R124): the result by group, and all saturations. sq squares the leaves. -/
def groupSums (e : VEng) (w g rm src : Nat) (sq : Bool) : List Nat × Nat :=
  let one := fun (b : Nat) =>
    let mode := fun (i p : Nat) => vMode e rm (vSkey w) (vSpos w) i p
    let leaf := fun (i : Nat) =>
      let c := velt (vreg e src) 4 (b + i)
      if active e (vPg w) (b + i) = false then (none, 0)
      else if sq then
        let x := Fmt.decode .f32 c
        let r := Fmt.roundV .f32 (mode (b + i) 0) (FVal.mul x x)
        (some r.code, r.sat + Fmt.infs .f32 [c])
      else (some (Fmt.finite .f32 c), Fmt.infs .f32 [c])
    let ls := (List.range (2 ^ g)).map leaf
    let node := fun (lv k a c : Nat) =>
      let r := Fmt.roundV .f32 (mode (b + k * 2 ^ lv) lv) (FVal.add (Fmt.decode .f32 a) (Fmt.decode .f32 c))
      (r.code, r.sat)
    let t := treeRun node g 1 (ls.map (·.1))
    (t.1.getD 0, t.2 + (ls.map (·.2)).sum)
  let rs := (groupBases g).map one
  (rs.map (·.1), (rs.map (·.2)).sum)

/-- A binary32 code written to a lane: a NaN is the canonical one, counted. -/
def f32Out (c : Nat) : Elem := if Fmt.isNan .f32 c then Fmt.nanElem .f32 else ⟨c, 0, 0⟩

/-- VRSUM and VRSSQ. -/
def vGroupSum (sq : Bool) (s : State) (e : VEng) (w : Nat) : VRes :=
  if srBad e (vRm w) then VRes.bad s e .format
  else
    let g := vImm w
    let r := groupSums e w g (vRm w) (vVs1 w) sq
    VRes.wrote s (mapV e (vVd w) 4 (active e (vPg w)) (fun j => f32Out (r.1.getD (j / 2 ^ g) 0))) r.2

/-- Three registers written elementwise from a triple of codes. -/
def write3 (s : State) (e : VEng) (w : Nat) (f : Nat → Nat × Nat × Nat) (sat : Nat) : VRes :=
  let act := active e (vPg w)
  let a := mapV e (vVd w) 4 act (fun j => f32Out (f j).1)
  let b := mapV a.1 (vVd w + 1) 4 act (fun j => f32Out (f j).2.1)
  let c := mapV b.1 (vVd w + 2) 4 act (fun j => f32Out (f j).2.2)
  { s := s, e := c.1, sat := sat, nan := nanOf a.2 + nanOf b.2 + nanOf c.2 }

/-- VRMV (R125): the states of each group merged along the tree; mean, M2 and count are written. -/
def vRmv (s : State) (e : VEng) (w : Nat) : VRes :=
  let g := vImm w
  let one := fun (b : Nat) =>
    let ls := (List.range (2 ^ g)).map (fun i =>
      if active e (vPg w) (b + i) then some (0x3F800000, Fmt.finite .f32 (velt (vreg e (vVs1 w)) 4 (b + i)), 0) else none)
    let t := treeRun (fun _ _ x y => ((mergeMV x y).1, (mergeMV x y).2.1)) g 1 ls
    (t.1.getD (0, 0, 0), t.2)
  let rs := (groupBases g).map one
  let infs := ((List.range 128).map (fun j => if active e (vPg w) j then Fmt.infs .f32 [velt (vreg e (vVs1 w)) 4 j] else 0)).sum
  write3 s e w (fun j => let x := (rs.map (·.1)).getD (j / 2 ^ g) (0, 0, 0); (x.2.1, x.2.2, x.1)) ((rs.map (·.2)).sum + infs)

/-- VMVMERGE (R125): elementwise. -/
def vMvMerge (s : State) (e : VEng) (w : Nat) : VRes :=
  let at3 := fun (r j : Nat) => (velt (vreg e r) 4 j, velt (vreg e (r + 1)) 4 j, velt (vreg e (r + 2)) 4 j)
  let fin := fun (x : Nat × Nat × Nat) => (Fmt.finite .f32 x.1, Fmt.finite .f32 x.2.1, Fmt.finite .f32 x.2.2)
  let rs := (List.range 128).map (fun j =>
    let a := at3 (vVs1 w) j
    let b := at3 (vVs2 w) j
    let m := mergeMV (fin a) (fin b)
    (m.1, if active e (vPg w) j then m.2.1 + Fmt.infs .f32 [a.1, a.2.1, a.2.2, b.1, b.2.1, b.2.2] else 0))
  write3 s e w (fun j => (rs.map (·.1)).getD j (0, 0, 0)) (rs.map (·.2)).sum

/-- The scan of R126 over lanes from i on: accumulator, elements written (none where inactive), saturations. -/
def segScan (e : VEng) (w : Nat) : Nat → Nat → Nat → List (Option Nat) → List (Option Nat) × Nat × Nat
  | 0, _, acc, out => (out.reverse, acc, 0)
  | n + 1, i, acc, out =>
    if active e (vPg w) i then
      let c := velt (vreg e (vVs1 w)) 4 i
      let r := Fmt.roundV .f32 (vMode e (vRm w) (vSkey w) (vSpos w) i 0) (FVal.add (Fmt.decode .f32 acc) (Fmt.decode .f32 c))
      let q := segScan e w n (i + 1) (if (preg e (bits (vImm w) 2 0)).getLsbD i then 0 else r.code) (some r.code :: out)
      (q.1, q.2.1, q.2.2 + r.sat + Fmt.infs .f32 [c])
    else segScan e w n (i + 1) acc (none :: out)

/-- VSEGSUM. -/
def vSegSum (s : State) (e : VEng) (w : Nat) : VRes :=
  if srBad e (vRm w) then VRes.bad s e .format
  else
    let r := segScan e w 128 0 (if bit (vImm w) 3 then 0 else e.carry) []
    VRes.wrote s (mapV { e with carry := r.2.1 } (vVd w) 4 (active e (vPg w)) (fun j => f32Out ((r.1.getD j none).getD 0))) r.2.2

/-- The best active lane of a group among codes by R121, the lowest index on a tie. -/
def bestLane (larger : Bool) : List (Nat × Nat) → Option (Nat × Nat)
  | [] => none
  | (i, c) :: t =>
    let key := fun (x : Nat) => if Fmt.isNan .f32 x then (2 ^ 40 : Int) else Fmt.orderKey .f32 (Fmt.finite .f32 x)
    match bestLane larger t with
    | none => some (i, c)
    | some (k, d) => if (if larger then key c < key d else key d < key c) then some (k, d) else some (i, c)

/-- The active lanes of the group at base b of a register, as (index in the group, code). -/
def groupLanes (e : VEng) (w g b src : Nat) : List (Nat × Nat) :=
  ((List.range (2 ^ g)).filter (fun i => active e (vPg w) (b + i))).map (fun i => (i, velt (vreg e src) 4 (b + i)))

/-- Infinite elements among the active lanes of a register. -/
def laneInfs (e : VEng) (w src : Nat) : Nat :=
  ((List.range 128).map (fun j => if active e (vPg w) j then Fmt.infs .f32 [velt (vreg e src) 4 j] else 0)).sum

/-- VRMAXI and VRMINI (R127): maintenance only. A group without an active lane has no active element to give +0 and 0xFFFF_FFFF to, and R117 keeps the inactive ones (DESIGN CHOICE, log entry 66). -/
def vBest (larger : Bool) (s : State) (e : VEng) (w : Nat) : VRes :=
  if e.vmode = 0 then VRes.bad s e .format
  else
    let g := vImm w
    let rs := (groupBases g).map (fun b => (bestLane larger (groupLanes e w g b (vVs1 w))).getD (0xFFFFFFFF, 0))
    let act := active e (vPg w)
    let a := mapV e (vVd w) 4 act (fun j => f32Out (Fmt.finite .f32 (rs.getD (j / 2 ^ g) (0, 0)).2))
    let b := mapV a.1 (vVd w + 1) 4 act (fun j => ⟨(rs.getD (j / 2 ^ g) (0, 0)).1, 0, 0⟩)
    { s := s, e := b.1, sat := laneInfs e w (vVs1 w), nan := nanOf a.2 }

/-- VSMROW (R128). -/
def vSmRow (s : State) (e : VEng) (w : Nat) : VRes :=
  let g := vImm w
  let rs := (groupBases g).map (fun b => bestLane true (groupLanes e w g b (vVs1 w)))
  VRes.wrote s (mapV e (vVd w) 4 (active e (vPg w)) (fun j =>
    let c := velt (vreg e (vVs2 w)) 4 j
    match rs.getD (j / 2 ^ g) none with
    | some m => pick .f32 true c m.2
    | none => f32Out (Fmt.finite .f32 c))) (laneInfs e w (vVs1 w) + laneInfs e w (vVs2 w))

/-- VSMEXP (R128): both steps by RNE. -/
def vSmExp (s : State) (e : VEng) (w : Nat) : VRes :=
  VRes.wrote s (mapV e (vVd w) 4 (active e (vPg w)) (fun j =>
    let d := sub32 (velt (vreg e (vVs1 w)) 4 j) (velt (vreg e (vVs2 w)) 4 j)
    let r := FFun.eval .exp2 .f32 .rne (Fmt.decode .f32 d.code)
    ⟨r.code, d.sat + r.sat, r.nan⟩))

/-- VSMSUM (R128): the group sum by RNE, then one rounding by RM. RM SR is taken as R118's field allows it (DESIGN CHOICE, log entry 66). -/
def vSmSum (s : State) (e : VEng) (w : Nat) : VRes :=
  if srBad e (vRm w) then VRes.bad s e .format
  else
    let g := vImm w
    let r := groupSums e w g 0 (vVs1 w) false
    VRes.wrote s (mapV e (vVd w) 4 (active e (vPg w)) (fun j =>
      let a := velt (vreg e (vVs2 w)) 4 j
      let b := velt (vreg e (vVs3 w)) 4 j
      (Fmt.roundV .f32 (vMode e (vRm w) (vSkey w) (vSpos w) j 0)
        (FVal.add (FVal.mul (Fmt.decode .f32 a) (Fmt.decode .f32 b)) (Fmt.decode .f32 (r.1.getD (j / 2 ^ g) 0)))).addSat (Fmt.infs .f32 [a, b]))) r.2

/-! ### Memory (R112, R129, R130) -/

/-- A window by its number; 3 is invalid and answers as absent. -/
def vWin (e : VEng) (n : Nat) : Option (Nat × Nat) := if n = 0 then some e.winA else if n = 1 then e.winB else if n = 2 then e.winD else none

/-- The offset of a VM access. -/
def vmOff (e : VEng) (w : Nat) : Nat := wrap 64 ((sreg e (mBase w) : Int) + mOffs w)

/-- A byte as loads see it: staged, or in the store. -/
def vByte (s : State) (e : VEng) (a : Nat) : Byte := (Tbl.find e.staged a).getD (memByte s a)

/-- n bytes as loads see them; a word of the store that some byte comes from must be readable. -/
def vLoad (s : State) (e : VEng) (a n : Nat) : State × Option (List Byte) :=
  let ws := (wordsOf a n).filter (fun w => (List.range 4).any (fun i => a ≤ w + i && w + i < a + n && (Tbl.find e.staged (w + i)).isNone))
  let r := readWords 2 ws s
  match r.2 with
  | some _ => (r.1, none)
  | none => (r.1, some ((List.range n).map (fun i => vByte r.1 e (a + i))))

/-- Loads at a list of addresses, n bytes each, in order; none where a word could not be read. -/
def vLoads (e : VEng) (n : Nat) : List Nat → State → State × Option (List Nat)
  | [], s => (s, some [])
  | a :: t, s =>
    match vLoad s e a n with
    | (s, none) => (s, none)
    | (s, some b) =>
      match vLoads e n t s with
      | (s, none) => (s, none)
      | (s, some r) => (s, some (leNat b :: r))

/-- Bytes staged from address a on. -/
def stageStore (e : VEng) (a : Nat) : List Byte → VEng
  | [] => e
  | b :: t => stageStore { e with staged := Tbl.set e.staged a b } (a + 1) t

/-- Distinct 64-byte granules among rising addresses. -/
def granules : List Nat → Nat
  | [] => 0
  | [_] => 1
  | a :: b :: t => (if a / 64 = b / 64 then 0 else 1) + granules (b :: t)

/-- A store that stages more than 2,048 granules is a BOUNDS fault and stages nothing. -/
def stageDone (s : State) (old e : VEng) : VRes :=
  if 2048 < granules (e.staged.map (·.1)) then VRes.bad s old .bounds else VRes.just s e

/-- The window of an access, or FORMAT: absent or invalid; for a store, any but D, or an epilogue. -/
def vmWin (e : VEng) (w : Nat) (store : Bool) : Option (Nat × Nat) :=
  if store && (mWin w != 2 || e.epi.isSome) then none else vWin e (mWin w)

/-- The active elements of an access. -/
def actives (e : VEng) (w n : Nat) : List Nat := (List.range n).filter (active e (vPg w))

/-- VLD. -/
def vLd (s : State) (e : VEng) (w : Nat) : VRes :=
  let wd := vWidth (vFmt w)
  match vmWin e w false with
  | none => VRes.bad s e .format
  | some (base, size) =>
    let off := vmOff e w
    let js := actives e w (512 / wd)
    if (base + off) % wd ≠ 0 then VRes.bad s e .format
    else if js.any (fun j => size < off + wd * j + wd) then VRes.bad s e .bounds
    else match vLoads e wd (js.map (fun j => base + off + wd * j)) s with
      | (s, none) => VRes.bad s e .uncorrectable
      | (s, some xs) =>
        let t := js.zip xs
        VRes.wrote s (mapV e (vVd w) wd (active e (vPg w)) (fun j => ⟨Tbl.getD t j 0, 0, 0⟩))

/-- Elements of a register staged at consecutive or listed addresses: (address, code). -/
def stageElems (wd : Nat) : List (Nat × Nat) → VEng → VEng
  | [], e => e
  | (a, c) :: t, e => stageElems wd t (stageStore e a (toLE wd c))

/-- VST. -/
def vSt (s : State) (e : VEng) (w : Nat) : VRes :=
  let wd := vWidth (vFmt w)
  match vmWin e w true with
  | none => VRes.bad s e .format
  | some (base, size) =>
    let off := vmOff e w
    let js := actives e w (512 / wd)
    if (base + off) % wd ≠ 0 then VRes.bad s e .format
    else if js.any (fun j => size < off + wd * j + wd) then VRes.bad s e .bounds
    else stageDone s e (stageElems wd (js.map (fun j => (base + off + wd * j, velt (vreg e (vVd w)) wd j))) e)

/-- VLDB. -/
def vLdb (s : State) (e : VEng) (w : Nat) : VRes :=
  let wd := vWidth (vFmt w)
  match vmWin e w false with
  | none => VRes.bad s e .format
  | some (base, size) =>
    let off := vmOff e w
    if (base + off) % wd ≠ 0 then VRes.bad s e .format
    else if actives e w (512 / wd) = [] then VRes.just s e
    else if size < off + wd then VRes.bad s e .bounds
    else match vLoad s e (base + off) wd with
      | (s, none) => VRes.bad s e .uncorrectable
      | (s, some b) => VRes.wrote s (mapV e (vVd w) wd (active e (vPg w)) (fun _ => ⟨leNat b, 0, 0⟩))

/-- The offset of lane i of an indexed access. -/
def laneOff (e : VEng) (w i : Nat) : Nat := vmOff e w + 4 * velt (vreg e (vVs1 w)) 4 i

/-- VGATHER. -/
def vGather (s : State) (e : VEng) (w : Nat) : VRes :=
  match vmWin e w false with
  | none => VRes.bad s e .format
  | some (base, size) =>
    let js := actives e w 128
    if js.any (fun i => size < laneOff e w i + 4) then VRes.bad s e .indexRange
    else match vLoads e 4 (js.map (fun i => base + laneOff e w i)) s with
      | (s, none) => VRes.bad s e .uncorrectable
      | (s, some xs) =>
        let t := js.zip xs
        VRes.wrote s (mapV e (vVd w) 4 (active e (vPg w)) (fun j => ⟨Tbl.getD t j 0, 0, 0⟩))

/-- VSCATTER. -/
def vScatter (s : State) (e : VEng) (w : Nat) : VRes :=
  match vmWin e w true with
  | none => VRes.bad s e .format
  | some (base, size) =>
    let js := actives e w 128
    if js.any (fun i => size < laneOff e w i + 4) then VRes.bad s e .indexRange
    else stageDone s e (stageElems 4 (js.map (fun i => (base + laneOff e w i, velt (vreg e (vVd w)) 4 i))) e)

/-- VSCATADD over its active lanes in ascending order; seen holds the indices of the lanes done. -/
def scatAdd (base w : Nat) : List Nat → List Nat → State → VEng → VRes
  | [], _, s, e => VRes.just s e
  | i :: t, seen, s, e =>
    let a := base + laneOff e w i
    let x := velt (vreg e (vVs1 w)) 4 i
    match vLoad s e a 4 with
    | (s, none) => VRes.bad s e .uncorrectable
    | (s, some b) =>
      let c := velt (vreg e (vVd w)) 4 i
      let q := (seen.filter (· == x)).length
      let r := (Fmt.roundV .f32 (vMode e (mRm w) (mSkey w) (mSpos w) x q) (FVal.add (Fmt.decode .f32 (leNat b)) (Fmt.decode .f32 c))).addSat
        (Fmt.infs .f32 [leNat b, c])
      let z := scatAdd base w t (x :: seen) s (stageStore e a (toLE 4 r.code))
      { z with sat := z.sat + r.sat, nan := z.nan + r.nan }

/-- VSCATADD (R130). -/
def vScatAdd (s : State) (e : VEng) (w : Nat) : VRes :=
  if srBad e (mRm w) then VRes.bad s e .format
  else match vmWin e w true with
    | none => VRes.bad s e .format
    | some (base, size) =>
      let js := actives e w 128
      if js.any (fun i => size < laneOff e w i + 4) then VRes.bad s e .indexRange
      else
        let r := scatAdd base w js [] s e
        if r.fault.isSome then VRes.bad r.s e .uncorrectable
        else
          let d := stageDone r.s e r.e
          { d with sat := if d.fault.isSome then 0 else r.sat, nan := if d.fault.isSome then 0 else r.nan }

/-- VSTC (R130): active elements packed. -/
def vStc (s : State) (e : VEng) (w : Nat) : VRes :=
  let wd := vWidth (vFmt w)
  match vmWin e w true with
  | none => VRes.bad s e .format
  | some (base, size) =>
    let off := vmOff e w
    let xs := (actives e w (512 / wd)).map (fun j => velt (vreg e (vVd w)) wd j)
    if (base + off) % wd ≠ 0 then VRes.bad s e .format
    else if xs ≠ [] ∧ size < off + wd * xs.length then VRes.bad s e .bounds
    else stageDone s e (stageElems wd ((List.range xs.length).zip xs |>.map (fun x => (base + off + wd * x.1, x.2))) e)

/-- The bytes of a predicate access that hold an active bit. -/
def pBytes (e : VEng) (w : Nat) : List Nat :=
  (List.range (vCount (vFmt w) / 8)).filter (fun b => (List.range 8).any (fun i => active e (vPg w) (8 * b + i)))

/-- PLD. With E = 128 bits 128 to 255 of pd stay as they are (DESIGN CHOICE, log entry 66). -/
def vPld (s : State) (e : VEng) (w : Nat) : VRes :=
  match vmWin e w false with
  | none => VRes.bad s e .format
  | some (base, size) =>
    let off := vmOff e w
    let bs := pBytes e w
    if (base + off) % 16 ≠ 0 then VRes.bad s e .format
    else if bs.any (fun b => size < off + b + 1) then VRes.bad s e .bounds
    else match vLoads e 1 (bs.map (fun b => base + off + b)) s with
      | (s, none) => VRes.bad s e .uncorrectable
      | (s, some xs) =>
        let t := bs.zip xs
        VRes.just s (setP e (vVd w) (packP ((List.range 256).map (fun j =>
          if j < vCount (vFmt w) && active e (vPg w) j then bit (Tbl.getD t (j / 8) 0) (j % 8) else (preg e (vVd w)).getLsbD j))))

/-- PST. -/
def vPst (s : State) (e : VEng) (w : Nat) : VRes :=
  match vmWin e w true with
  | none => VRes.bad s e .format
  | some (base, size) =>
    let off := vmOff e w
    let bs := pBytes e w
    let part := bs.filter (fun b => (List.range 8).any (fun i => active e (vPg w) (8 * b + i) == false))
    if (base + off) % 16 ≠ 0 then VRes.bad s e .format
    else if bs.any (fun b => size < off + b + 1) then VRes.bad s e .bounds
    else match vLoads e 1 (part.map (fun b => base + off + b)) s with
      | (s, none) => VRes.bad s e .uncorrectable
      | (s, some xs) =>
        let t := part.zip xs
        stageDone s e (stageElems 1 (bs.map (fun b => (base + off + b, ((List.range 8).map (fun i =>
          b2n (if active e (vPg w) (8 * b + i) then (preg e (vVd w)).getLsbD (8 * b + i) else bit (Tbl.getD t b 0) i) * 2 ^ i)).sum))) e)

end Sys2Proof.Machine
end

