-- ==== Sys2Proof/Machine/Matrix.lean ====
section
/-!
DEFINITION. Sys2Proof/Machine/Matrix.lean: MATMUL tiles on the dense and sparse engines, their epilogues and the predictor
(R196 to R218), and the start of VECTOR tiles (R109, R111).
-/
namespace Sys2Proof.Machine

/-! ### Starting a vector program (R111, Table 4.2) -/

/-- A window from an address to the end of its region; absent when the address is zero. -/
def winOf (s : State) (j a : Nat) : Option (Nat × Nat) := if a = 0 then none else some (a, regionEnd s j a - a)

/-- The TENSOR_ID of the region that holds an address. -/
def tensorAt (s : State) (j a : Nat) : Option Nat := (regionOf s j a).map (·.tensor)

/-- The engine at the start of a tile's program: cleared, with its windows, key and budget. -/
def vBegin (s : State) (l k seq j : Nat) (d : List Byte) (winA : Nat × Nat) (winB winD : Option (Nat × Nat)) : VEng :=
  { VEng.idle with job := some (k, seq), winA := winA, winB := winB, winD := winD, vmode := rd s .vmode l,
                   budget := rd s .vinstrBudget l, seed := seedOf s j, tensor := tensorAt s j (dDst d), step := dStep d }

/-- The size of a window, or 0. -/
def winSize (w : Option (Nat × Nat)) : Nat := (w.map (·.2)).getD 0

/-- The scalar registers of Table 4.2. -/
def vScalars (e : VEng) (s1 s2 s4 s5 : Nat) : VEng :=
  setS (setS (setS (setS (setS { e with s := [] } 1 s1) 2 s2) 3 e.step) 4 s4) 5 s5

/-- The work of a VECTOR tile that starts. -/
def vectorGo (l k : Nat) (s : State) (q : QTile) (j : Nat) : State :=
  let d := q.desc
  let b := winOf s j (dSrcB d)
  let w := winOf s j (dDst d)
  setVeng s l { vScalars (vBegin s l k q.seq j d (dSrcA d, dLen d) b w) (dP1 d) (dP2 d) (winSize b) (winSize w) with run := true }

/-- Rising (address, byte) pairs as runs of adjacent bytes. -/
def byteRuns : List (Nat × Byte) → List (Nat × List Byte)
  | [] => []
  | (a, b) :: t =>
    match byteRuns t with
    | (c, l) :: r => if c = a + 1 then (a, b :: l) :: r else (a, [b]) :: (c, l) :: r
    | [] => [(a, [b])]

/-- Runs written in order; whether a word dropped its part (R282). -/
def writeRuns : List (Nat × List Byte) → State → State × Option Nat
  | [], s => (s, none)
  | (a, b) :: t, s =>
    let r := writeMem s a b
    let q := writeRuns t r.1
    (q.1, match r.2 with
      | some w => some (max w a)
      | none => q.2)

/-! ### Operands of a MATMUL -/

/-- Element (r, j) of A: its byte offset from SRC_A. -/
def offA (d : List Byte) (r j : Nat) : Nat := (if mmTransA d then j * mmM d + r else r * mmK d + j) * fmtBytes (dFmtA d)

/-- The stored rows and columns of B. -/
def storedB (d : List Byte) : Nat × Nat := if mmTransB d then (mmN d, mmK d) else (mmK d, mmN d)
/-- The place of element (j, c) of B in the stored matrix. -/
def placeB (d : List Byte) (j c : Nat) : Nat × Nat := if mmTransB d then (c, j) else (j, c)

/-- CAP of R205. -/
def spCap (d : List Byte) : Nat := (storedB d).1 * (storedB d).2 / 2
/-- The offset of the masks. -/
def spMasks : Nat := 64
/-- The offset of the row starts. -/
def spRows (d : List Byte) : Nat := 64 + roundUp ((storedB d).1 * (storedB d).2 / 8) 64
/-- The offset of the values. -/
def spVals (d : List Byte) : Nat := spRows d + roundUp (4 * ((storedB d).1 / 4 + 1)) 64

/-- The mask of cell (i, j). -/
def cellMask (s : State) (d : List Byte) (i j : Nat) : Nat := memNat s (dSrcB d + spMasks + 2 * (i * ((storedB d).2 / 4) + j)) 2
/-- ROW_START[i]. -/
def rowStart (s : State) (d : List Byte) (i : Nat) : Nat := memNat s (dSrcB d + spRows d + 4 * i) 4
/-- Present elements of the first n cells of cell row i. -/
def cellsBefore (s : State) (d : List Byte) (i n : Nat) : Nat := ((List.range n).map (fun j => popcount 16 (cellMask s d i j))).sum

/-- Element (j, c) of B: its byte offset from SRC_B, none where it is absent (R205, R211). -/
def offB (s : State) (d : List Byte) (j c : Nat) : Option Nat :=
  let p := placeB d j c
  if mmSparse d = false then some ((p.1 * (storedB d).2 + p.2) * fmtBytes (dFmtB d))
  else
    let m := cellMask s d (p.1 / 4) (p.2 / 4)
    let b := 4 * (p.1 % 4) + p.2 % 4
    if bit m b then
      some (spVals d + (rowStart s d (p.1 / 4) + cellsBefore s d (p.1 / 4) (p.2 / 4) + popcount b m) * fmtBytes (dFmtB d))
    else none

/-- Element (r, c) of D: its byte offset from DST. -/
def offD (d : List Byte) (r c : Nat) : Nat := (r * mmN d + c) * fmtBytes (dFmtD d)

/-- The code of an element of A. -/
def codeA (s : State) (d : List Byte) (r j : Nat) : Nat := memNat s (dSrcA d + offA d r j) (fmtBytes (dFmtA d))
/-- The code of an element of B, none where it is absent. -/
def codeB (s : State) (d : List Byte) (j c : Nat) : Option Nat := (offB s d j c).map (fun o => memNat s (dSrcB d + o) (fmtBytes (dFmtB d)))

/-! ### Accumulation (R201, R202, R211) -/

/-- A product of R201; an absent factor makes an exact +0. -/
def product (s : State) (d : List Byte) (r j c : Nat) : FVal :=
  match codeB s d j c with
  | none => .num ⟨false, 0, 0, false⟩
  | some b => FVal.mul ((vFormat (dFmtA d)).decode (codeA s d r j)) ((vFormat (dFmtB d)).decode b)

/-- The exact sum of group g; an exact zero is +0. -/
def groupSum (s : State) (d : List Byte) (r c g : Nat) : FVal :=
  let js := (List.range (min 8 (mmK d - 8 * g))).map (fun i => 8 * g + i)
  match (js.map (fun j => product s d r j c)).foldl FVal.add (.num ⟨false, 0, 0, false⟩) with
  | .num x => if x.m = 0 then .num ⟨false, 0, 0, false⟩ else .num x
  | .nan => .nan

/-- The key inputs of a MATMUL: seed, tensor, base of the region that holds DST. -/
structure MatKey where
  seed : Nat
  tensor : Nat
  base : Nat

/-- The key of a tile of job j. -/
def matKey (s : State) (j : Nat) (d : List Byte) : MatKey :=
  let r := regionOf s j (dDst d)
  ⟨seedOf s j, (r.map (·.tensor)).getD 0, (r.map (·.base)).getD 0⟩

/-- The element index of D[r][c] (R201). -/
def elemIndex (q : MatKey) (d : List Byte) (r c : Nat) : Nat := (dDst d + offD d r c - q.base) / fmtBytes (dFmtD d)

/-- The groups from g on added into acc: accumulator and saturations. -/
def accumulate (s : State) (d : List Byte) (q : MatKey) (r c : Nat) : Nat → Nat → Nat → Nat × Nat
  | 0, _, acc => (acc, 0)
  | n + 1, g, acc =>
    let x := Fmt.roundV .f32 (srMode q.seed q.tensor (dStep d) (elemIndex q d r c) (g + 1)) (FVal.add (Fmt.decode .f32 acc) (groupSum s d r c g))
    let y := accumulate s d q r c n (g + 1) x.code
    (y.1, y.2 + x.sat)

/-- The accumulator of D[r][c] after its last group, and its saturations. -/
def accElem (s : State) (d : List Byte) (q : MatKey) (r c : Nat) : Nat × Nat :=
  let a0 := if mmAccIn d then (toF32 (vFormat (dFmtD d)) (memNat s (dDst d + offD d r c) (fmtBytes (dFmtD d)))).code else 0
  accumulate s d q r c ((mmK d + 7) / 8) 0 a0

/-! ### Blocks (R200) -/

/-- N_BLOCKS. -/
def nBlocks (d : List Byte) : Nat := mmN d / 32
/-- M_BLOCKS. -/
def mBlocks (d : List Byte) : Nat := mmM d / 32
/-- Blocks of the tile. -/
def blockCount (d : List Byte) : Nat := mBlocks d * nBlocks d
/-- The row and column of entry i of block b. -/
def blockAt (d : List Byte) (b i : Nat) : Nat × Nat := (32 * (b / nBlocks d) + i / 32, 32 * (b % nBlocks d) + i % 32)

/-- The 1,024 accumulators of block b, row by row, and their saturations. -/
def blockAcc (s : State) (d : List Byte) (q : MatKey) (b : Nat) : List Nat × Nat :=
  let xs := (List.range 1024).map (fun i => accElem s d q (blockAt d b i).1 (blockAt d b i).2)
  (xs.map (·.1), (xs.map (·.2)).sum)

/-- Rising distinct granule indices of a list of byte offsets. -/
def granulesOf (offs : List Nat) : List Nat := ((offs.foldl (fun (t : Tbl Unit) o => Tbl.set t (o / 64) ()) [])).map (·.1)

/-- The granules a block reads in the order of R218: (operand code, base, granule index, operand bytes). -/
def blockReads (s : State) (d : List Byte) (b : Nat) : List (Nat × Nat × Nat × Nat) :=
  let rows := (List.range 32).map (fun i => 32 * (b / nBlocks d) + i)
  let cols := (List.range 32).map (fun i => 32 * (b % nBlocks d) + i)
  let dRd := if mmAccIn d then granulesOf (rows.flatMap (fun r => cols.map (fun c => offD d r c))) else []
  let gs := List.range ((mmK d + 7) / 8)
  dRd.map (fun g => (2, dDst d, g, dLen d)) ++
  gs.flatMap (fun g =>
    let js := (List.range (min 8 (mmK d - 8 * g))).map (fun i => 8 * g + i)
    (granulesOf (rows.flatMap (fun r => js.map (fun j => offA d r j)))).map (fun x => (0, dSrcA d, x, mmM d * mmK d * fmtBytes (dFmtA d))) ++
    (granulesOf (js.flatMap (fun j => cols.filterMap (fun c => offB s d j c)))).map (fun x => (1, dSrcB d, x, mmBytesB d)))

/-- Granules read in order up to the first that cannot be: its DETAIL (Table 7.5). An operand that is streamed through the DMA stage fails in no other way
than by an uncorrectable word or with its core's reset, and R218's order names the granule of either kind (DEDUCED, log entry 65). -/
def readGranules : List (Nat × Nat × Nat × Nat) → State → State × Option Nat
  | [], s => (s, none)
  | (op, base, g, n) :: t, s =>
    match readMem s (base + 64 * g) (min 64 (n - 64 * g)) with
    | (s, .ok _) => readGranules t s
    | (s, .error _) => (s, some (op * 2 ^ 30 + g % 2 ^ 30))

/-- Infinities that a tile reads for the first time in block b (R202): rows of A and columns of B not read yet, and the
block's own D under ACC_IN. -/
def blockInfs (s : State) (d : List Byte) (m : MatRun) (b : Nat) : Nat :=
  let mb := b / nBlocks d
  let nb := b % nBlocks d
  let ks := List.range (mmK d)
  let l32 := List.range 32
  let a := if bit m.rows mb then 0 else (l32.map (fun i => (vFormat (dFmtA d)).infs (ks.map (fun j => codeA s d (32 * mb + i) j)))).sum
  let bb := if bit m.cols nb then 0 else (l32.map (fun i => (vFormat (dFmtB d)).infs (ks.filterMap (fun j => codeB s d j (32 * nb + i))))).sum
  let dd := if mmAccIn d then (vFormat (dFmtD d)).infs ((List.range 1024).map (fun i =>
    memNat s (dDst d + offD d (blockAt d b i).1 (blockAt d b i).2) (fmtBytes (dFmtD d)))) else 0
  a + bb + dd

/-! ### The run on an engine -/

/-- The run of a tile. -/
def matOf (s : State) (l k seq : Nat) : Option MatRun := (coreSt s l).mats.find? (fun m => m.ctx == k && m.seq == seq)

/-- The run replaced. -/
def setMat (s : State) (l : Nat) (m : MatRun) : State :=
  let c := coreSt s l
  setCore s l { c with mats := c.mats.map (fun x => if x.ctx = m.ctx ∧ x.seq = m.seq then m else x) }

/-- The tile ends: off its engine, the vector engine idle if it held it. -/
def matEnd (s : State) (l k seq : Nat) (st : Status) (detail : Nat) : State :=
  let s := if (coreSt s l).veng.job = some (k, seq) then setVeng s l VEng.idle else s
  setRun (dropMat s l k seq) l k seq (.done st detail)

/-- A predictor slot. -/
def predSlot (s : State) (l k n : Nat) : PredSlot :=
  Tbl.getD (if k = 0 then (coreSt s l).pred0 else (coreSt s l).pred1) n PredSlot.init

/-- A predictor slot replaced. -/
def setPred (s : State) (l k n : Nat) (p : PredSlot) : State :=
  let c := coreSt s l
  setCore s l (if k = 0 then { c with pred0 := Tbl.put c.pred0 n p PredSlot.init } else { c with pred1 := Tbl.put c.pred1 n p PredSlot.init })

/-- USER_TAG[5:0]. -/
def slotNo (d : List Byte) : Nat := dTag d % 64

/-- PREDICTOR_MODE of a job. -/
def predMode (s : State) (j : Nat) : Nat := ((s.bound.checks.find? (fun c => c.job == j)).map (·.predMode)).getD 0

/-- R212. -/
def eligible (s : State) (l j : Nat) (d : List Byte) : Bool :=
  ((chainOf s l (dChain d)).map (·.predictor)).getD false && (predMode s j == 1 || predMode s j == 2) && mmEpiWords d != 0 &&
  !mmAccIn d && mmK d ≤ 65536

/-- A tile's use of its slot (R213, R217): the slot with its shape and count, and whether this tile refreshes every counter. -/
def useSlot (p : PredSlot) (d : List Byte) : PredSlot × Bool :=
  let p := if p.mb = mBlocks d ∧ p.nb = nBlocks d then p else ⟨mBlocks d, nBlocks d, [], 0⟩
  ({ p with tiles := (p.tiles + 1) % 16 }, p.tiles == 15)

/-- Block b is predicted inactive (R214). -/
def predicted (s : State) (l : Nat) (m : MatRun) (d : List Byte) (b : Nat) : Bool :=
  m.elig && !m.refresh && Tbl.getD (predSlot s l m.ctx (slotNo d)).ctrs b 0 == 3

/-- The counter of a computed block (R214). -/
def learnBlock (s : State) (l : Nat) (m : MatRun) (d : List Byte) (b : Nat) (accs : List Nat) : State :=
  if m.elig then
    let p := predSlot s l m.ctx (slotNo d)
    let c := Tbl.getD p.ctrs b 0
    let quiet := accs.all (fun a => a % 2 ^ 31 == 0 || (bit a 31 && !Fmt.isNan .f32 a))
    setPred s l m.ctx (slotNo d) { p with ctrs := Tbl.put p.ctrs b (if quiet then min 3 (c + 1) else 0) 0 }
  else s

/-! ### Conversion and commit (R203) -/

/-- One element converted to FMT_D. -/
def convert (d : List Byte) (q : MatKey) (r c : Nat) (code : Nat) : Elem :=
  let f := vFormat (dFmtD d)
  if f = .f32 then
    if Fmt.isNan .f32 code then Fmt.nanElem .f32
    else if Fmt.isInf .f32 code then ⟨Fmt.finite .f32 code, 1, 0⟩ else ⟨code, 0, 0⟩
  else f.roundV (srMode q.seed q.tensor (dStep d) (elemIndex q d r c) 0) (Fmt.decode .f32 code)

/-- The bytes of D from the staged blocks. -/
def matBytes (d : List Byte) (out : Tbl (List Nat)) : List Byte :=
  (List.range (mmM d)).flatMap (fun r => (List.range (mmN d)).flatMap (fun c =>
    let b := r / 32 * nBlocks d + c / 32
    toLE (fmtBytes (dFmtD d)) ((Tbl.getD out b []).getD (r % 32 * 32 + c % 32) 0)))

/-- A block's result staged; after the last one D commits and the tile is done. -/
def stageBlock (s : State) (l : Nat) (m : MatRun) (d : List Byte) (b : Nat) (codes : List Nat) : State :=
  let out := Tbl.set m.out b codes
  if out.length < blockCount d then setMat s l { m with out := out }
  else
    let r := writeMem s (dDst d) (matBytes d out)
    matEnd r.1 l m.ctx m.seq (if r.2.isNone then .ok else .uncorrectable) 0

/-- A block converted, counted and staged. -/
def convertBlock (s : State) (l j : Nat) (m : MatRun) (d : List Byte) (b : Nat) (accs : List Nat) : State :=
  let q := matKey s j d
  let es := (List.range 1024).map (fun i => convert d q (blockAt d b i).1 (blockAt d b i).2 (accs.getD i 0))
  let s := countSat s l m.ctx d (satOf es)
  let n := nanOf es
  let s := if n = 0 then s else inc s .matNanCnt l n
  stageBlock s l m d b (es.map (·.code))

/-! ### Epilogues (R114) -/

/-- The address of the epilogue's first word. -/
def epiBase (l : Nat) (d : List Byte) : Nat := coreBase l + mmEpiOff d

/-- The epilogue program of block b started on its accumulators. -/
def epiStart (s : State) (l j : Nat) (m : MatRun) (d : List Byte) (b : Nat) (accs : List Nat) : State :=
  let e := (coreSt s l).veng
  let win := (epiBase l d, regionEnd s j (epiBase l d) - epiBase l d)
  let e := if e.job = some (m.ctx, m.seq) then e else { vBegin s l m.ctx m.seq j d win none none with vmode := m.vmode, budget := m.budget }
  let e := vScalars e (b / nBlocks d) (b % nBlocks d) win.2 0
  let e := (List.range 8).foldl (fun e v => setV e v (packV 4 ((accs.drop (128 * v)).take 128))) e
  setVeng s l { e with run := true, epi := some b, pc := 0, count := 0 }

/-- The accumulators v0 to v7 hold at END. -/
def epiResult (e : VEng) : List Nat := (List.range 8).flatMap (fun v => (List.range 128).map (fun i => velt (vreg e v) 4 i))

/-- END: a VECTOR tile commits its staged bytes (R112); an epilogue hands its block on (R114). -/
def vEnd (s : State) (l : Nat) : State :=
  let e := (coreSt s l).veng
  match e.job with
  | none => s
  | some (k, seq) =>
    match e.epi with
    | none =>
      let r := writeRuns (byteRuns e.staged) s
      let s := setVeng r.1 l VEng.idle
      match r.2 with
      | none => setRun s l k seq (.done .ok 0)
      | some a => setRun s l k seq (.done .uncorrectable (a - ((e.winD.map (·.1)).getD 0)))
    | some b =>
      match matOf s l k seq, flightTile s l k seq, ctxJob s l k with
      | some m, some f, some j => convertBlock (setVeng s l { e with run := false, epi := none }) l j m f.desc b (epiResult e)
      | _, _, _ => setVeng s l VEng.idle

/-! ### The check of R208 -/

/-- Groups of a cell mask that hold more than two elements, along the lines the pattern declares. -/
def cellViol (pattern mask : Nat) : Nat :=
  let line := fun (bs : List Nat) => (bs.filter (bit mask)).length > 2
  let down := ((List.range 4).filter (fun b => line [b, 4 + b, 8 + b, 12 + b])).length
  let across := ((List.range 4).filter (fun a => line [4 * a, 4 * a + 1, 4 * a + 2, 4 * a + 3])).length
  (if bit pattern 0 then down else 0) + (if bit pattern 1 then across else 0)

/-- The result of the check: a fault, or none; and the groups that broke their pattern. -/
structure SpCheck where
  fault : Option (Status × Nat)
  viol : Nat

/-- Row starts and masks from cell row i on, with the value the next row start must have. -/
def checkRows (s : State) (d : List Byte) (pattern : Nat) : Nat → Nat → Nat → Nat → SpCheck
  | 0, _, _, viol => ⟨none, viol⟩
  | n + 1, i, want, viol =>
    let rs := rowStart s d i
    if spCap d < rs then ⟨some (.indexRange, i), viol⟩
    else if rs ≠ want then ⟨some (.format, i), viol⟩
    else if i < (storedB d).1 / 4 then
      let cells := (storedB d).2 / 4
      let v := ((List.range cells).map (fun j => cellViol pattern (cellMask s d i j))).sum
      checkRows s d pattern n (i + 1) (rs + cellsBefore s d i cells) (viol + v)
    else ⟨none, viol⟩

/-- The header against Table 7.3, FMT_B, R, C and R207. -/
def spHeaderOk (s : State) (inference : Bool) (d : List Byte) : Bool :=
  let h := memBytes s (dSrcB d) 64
  let p := fbits h 4 1 1 0
  fld h 0 4 == 0x34325053 && p != 0 && fbits h 4 1 7 2 == 0 && fbits h 5 1 3 0 == dFmtB d && fbits h 5 1 7 4 == 0 && fld h 6 2 == 0 &&
  fld h 8 4 == (storedB d).1 && fld h 0xC 4 == (storedB d).2 && allZero (slice h 0x10 48) &&
  (if mmTransB d then bit p 1 else bit p 0) && (inference || p == 3)

/-- The bytes of the operand that the check reads before a fault at row start i: header, masks and row starts in ascending
offset. -/
def spReads (d : List Byte) : List (Nat × Nat × Nat × Nat) :=
  (List.range ((spVals d + 63) / 64)).map (fun g => (1, dSrcB d, g, spRows d + 4 * ((storedB d).1 / 4 + 1)))

/-- The offset in the operand at which a fault of the check stands. -/
def spFaultOff (d : List Byte) (f : Status × Nat) (header : Bool) : Nat := if header then 0 else spRows d + 4 * f.2

/-- The violations that R208's pass has counted when it meets an uncorrectable granule at byte offset a of the operand: those of the cell rows whose row
start and masks lie below it, in the order of R208's loop (DEDUCED, log entry 65). -/
def violBefore (s : State) (inference : Bool) (d : List Byte) (a : Nat) : Nat :=
  if a < spMasks ∨ !spHeaderOk s inference d then 0
  else
    let rows := min ((storedB d).1 / 4) (if a < spRows d then (a - spMasks) / (2 * ((storedB d).2 / 4)) else (a - spRows d) / 4)
    (checkRows s d (fbits (memBytes s (dSrcB d) 64) 4 1 1 0) rows 0 0 0).viol

/-- A sparse tile's check (R208, R209, R218): the state, its fault, and the violations found. SPARSE_VIOL_CNT takes them also where a fault or an uncorrectable
granule ends the pass. -/
def sparseCheck (s : State) (l j : Nat) (d : List Byte) : State × Option (Status × Nat) × Nat :=
  let inf := ((jobOf s j).map (·.inference)).getD false
  let hd := spHeaderOk s inf d
  let c : SpCheck := if hd then checkRows s d (fbits (memBytes s (dSrcB d) 64) 4 1 1 0) ((storedB d).1 / 4 + 1) 0 0 0 else ⟨some (.format, 0), 0⟩
  let upTo := match c.fault with
    | some f => spFaultOff d f (!hd) / 64 + 1
    | none => (spVals d + 63) / 64
  match readGranules ((spReads d).take upTo) s with
  | (s, some det) => (inc s .sparseViolCnt l (violBefore s inf d (64 * (det % 2 ^ 30))), some (.uncorrectable, det), 0)
  | (s, none) => (inc s .sparseViolCnt l c.viol, c.fault, c.viol)

/-! ### Commands -/

/-- The work of a MATMUL that starts: its predictor slot, and for a sparse tile the check, which may send it to the dense engine. -/
def matmulGo (l k : Nat) (s : State) (q : QTile) (j : Nat) : State :=
  let d := q.desc
  let el := eligible s l j d
  let u := useSlot (predSlot s l k (slotNo d)) d
  let s := if el then setPred s l k (slotNo d) u.1 else s
  let m : MatRun := ⟨k, q.seq, false, 0, [], [], 0, 0, el, el && predMode s j == 2 && u.2, rd s .vmode l, rd s .vinstrBudget l, []⟩
  let add := fun (s : State) (m : MatRun) => setCore s l { coreSt s l with mats := (coreSt s l).mats ++ [m] }
  if mmSparse d = false then add s m
  else
    match sparseCheck s l j d with
    | (s, some f, _) => setRun s l k q.seq (.done f.1 f.2)
    | (s, none, 0) => add s m
    | (s, none, _) =>
      let s := inc s .sparseFallbackCnt l
      let s := match flightTile s l k q.seq with
        | some f => setFlight s l k { f with stages := f.stages - 2 ^ 4, onSparse := false }
        | none => s
      add s { m with waiting := true }

/-- SPARSE_FALLBACK: the waiting tile takes the dense engine when no tile holds it (R210). -/
def sparseFallback (s : State) (l k seq : Nat) : State :=
  match matOf s l k seq, flightTile s l k seq with
  | some m, some f =>
    let others := setFlight s l k { f with stages := 0 }
    if m.waiting = false ∨ bit (enginesBusy (coreSt others l) ||| Tbl.getD s.engHold l 0) 3 then s
    else setMat (setFlight s l k { f with stages := f.stages ||| 8 }) l { m with waiting := false }
  | _, _ => s

/-- A block skipped: +0 in FMT_D (R216). -/
def skipBlock (s : State) (l : Nat) (m : MatRun) (d : List Byte) (b : Nat) : State :=
  stageBlock (inc s .predSkipCnt l) l m d b (List.replicate 1024 0)

/-- Block b read: granules in order, infinities counted, its row and column marked read. -/
def readBlock (s : State) (l : Nat) (m : MatRun) (d : List Byte) (b : Nat) : State × Option Nat × MatRun :=
  match readGranules (blockReads s d b) s with
  | (s, some det) => (s, some det, m)
  | (s, none) =>
    (countSat s l m.ctx d (blockInfs s d m b), none, { m with rows := m.rows ||| 2 ^ (b / nBlocks d), cols := m.cols ||| 2 ^ (b % nBlocks d) })

/-- Block b computed on the array, then its epilogue or its conversion. -/
def computeBlock (s : State) (l j : Nat) (m : MatRun) (d : List Byte) (b : Nat) : State :=
  match readBlock s l m d b with
  | (s, some det, _) => matEnd s l m.ctx m.seq .uncorrectable det
  | (s, none, m) =>
    let a := blockAcc s d (matKey s j d) b
    let s := countSat s l m.ctx d a.2
    let s := learnBlock (setMat s l m) l m d b a.1
    if mmEpiWords d ≠ 0 then epiStart s l j m d b a.1 else convertBlock s l j m d b a.1

/-- MATMUL_BLOCK: a block whose shadow failed comes first; blocks predicted inactive on the way are skipped or shadowed, and the
first other block is computed (R200, R215, R217). -/
def matmulBlock (l k seq : Nat) : Nat → State → State
  | 0, s => s
  | n + 1, s =>
    match matOf s l k seq, flightTile s l k seq, ctxJob s l k with
    | some m, some f, some j =>
      let d := f.desc
      if m.waiting || ((coreSt s l).veng.job == some (k, seq) && (coreSt s l).veng.run) then s
      else match m.redo with
        | b :: t => computeBlock s l j { m with redo := t } d b
        | [] =>
          if blockCount d ≤ m.next then s
          else
            let b := m.next
            let m := { m with next := b + 1 }
            if predicted s l m d b then
              if predMode s j = 2 then matmulBlock l k seq n (skipBlock (inc s .predUnverifiedCnt l) l m d b)
              else match readBlock s l m d b with
                | (s, some det, _) => matEnd s l k seq .uncorrectable det
                | (s, none, m) => matmulBlock l k seq n (setMat s l { m with shadow := m.shadow ++ [b] })
            else computeBlock s l j m d b
    | _, _, _ => s

/-! ### The shadow (R215) -/

/-- A code as q(x): the E4M3 value by RNE. -/
def shadowQ (f : Fmt) (c : Nat) : Exact :=
  match Fmt.decode .e4m3 (Fmt.roundV .e4m3 .rne (f.decode c)).code with
  | .num x => x
  | .nan => ⟨false, 0, 0, false⟩

/-- The code has a magnitude above 448 or is a NaN. -/
def shadowBad (f : Fmt) (c : Nat) : Bool :=
  match f.decode c with
  | .nan => true
  | .num x => decide (7 * 2 ^ 6 < (x.m * 2 ^ (x.e + 200).toNat) / 2 ^ 200) ||
      (decide ((x.m * 2 ^ (x.e + 200).toNat) / 2 ^ 200 = 448) && decide ((x.m * 2 ^ (x.e + 200).toNat) % 2 ^ 200 ≠ 0))

/-- The magnitude of an exact number. -/
def Exact.abs (x : Exact) : Exact := { x with neg := false }

/-- The test of R215 for element (r, c). -/
def shadowElem (s : State) (d : List Byte) (r c : Nat) : Bool :=
  let z : Exact := ⟨false, 0, 0, false⟩
  let js := List.range (mmK d)
  let qa := fun (j : Nat) => shadowQ (vFormat (dFmtA d)) (codeA s d r j)
  let qb := fun (j : Nat) => match codeB s d j c with
    | some x => shadowQ (vFormat (dFmtB d)) x
    | none => z
  let sum := fun (f : Nat → Exact) => (js.map f).foldl Exact.add z
  let ss := sum (fun j => (qa j).mul (qb j))
  let tt := sum (fun j => (qa j).abs.mul (qb j).abs)
  let ra := sum (fun j => (qa j).abs)
  let cb := sum (fun j => (qb j).abs)
  let v := ((ss.add (tt.mul ⟨false, 17, -7, false⟩)).add ((ra.add cb).mul ⟨false, 1, -9, false⟩)).add ⟨false, mmK d, -19, false⟩
  v.m == 0 || v.neg

/-- The shadow of block b passes. -/
def shadowPass (s : State) (d : List Byte) (b : Nat) : Bool :=
  let l32 := List.range 32
  let js := List.range (mmK d)
  l32.all (fun i => js.all (fun j => !shadowBad (vFormat (dFmtA d)) (codeA s d (32 * (b / nBlocks d) + i) j))) &&
  l32.all (fun i => js.all (fun j => match codeB s d j (32 * (b % nBlocks d) + i) with
    | some x => !shadowBad (vFormat (dFmtB d)) x
    | none => true)) &&
  (List.range 1024).all (fun i => shadowElem s d (blockAt d b i).1 (blockAt d b i).2)

/-- SHADOW_DONE: the oldest shadow ends; its block is skipped, or queued for the array and counted as a miss. -/
def shadowDone (s : State) (l k seq : Nat) : State :=
  match matOf s l k seq, flightTile s l k seq with
  | some m, some f =>
    match m.shadow with
    | [] => s
    | b :: t =>
      let m := { m with shadow := t }
      if shadowPass s f.desc b then skipBlock s l m f.desc b
      else setMat (inc s .predMissCnt l) l { m with redo := m.redo ++ [b] }
  | _, _ => s

/-! ### Meanings -/

/-- VECTOR. -/
def execVector (core ctx : Nat) (s : State) : Host.Outcome State Fault Refusal := .next (startTile s core ctx opVector (vectorGo core ctx))
/-- MATMUL. -/
def execMatmul (core ctx : Nat) (s : State) : Host.Outcome State Fault Refusal := .next (startTile s core ctx opMatmul (matmulGo core ctx))
/-- MATMUL_BLOCK. -/
def execMatmulBlock (core ctx seq : Nat) (s : State) : Host.Outcome State Fault Refusal := .next (matmulBlock core ctx seq 65 s)
/-- SHADOW_DONE. -/
def execShadowDone (core ctx seq : Nat) (s : State) : Host.Outcome State Fault Refusal := .next (shadowDone s core ctx seq)
/-- SPARSE_FALLBACK. -/
def execSparseFallback (core ctx seq : Nat) (s : State) : Host.Outcome State Fault Refusal := .next (sparseFallback s core ctx seq)

/-- PRED_CLEAR: every history slot of context 0 cleared (R213). -/
def execPredClear (core : Nat) (s : State) : Host.Outcome State Fault Refusal :=
  .next (setCore s core { coreSt s core with pred0 := [] })

end Sys2Proof.Machine
end

