-- ==== Sys2Proof/Machine/Sampler.lean ====
section
/-!
DEFINITION. Sys2Proof/Machine/Sampler.lean: the Bramble sampler: graphs, draws, requests, remote draws and sampled blocks
(R134 to R163).
-/
namespace Sys2Proof.Machine

/-! ### Reading with failure -/

/-- A computation over the state that can end with a status; what it did to the state stays. -/
abbrev Rd (α : Type) := ExceptT Status (StateM State) α

/-- n bytes at an address as a number; an unreadable word ends with UNCORRECTABLE. -/
def rdNat (a n : Nat) : Rd Nat := do
  let r := readMem (← get) a n
  set r.1
  match r.2 with
  | .ok b => pure (leNat b)
  | .error _ => throw .uncorrectable

/-- n bytes at an address. -/
def rdBytes (a n : Nat) : Rd (List Byte) := do
  let r := readMem (← get) a n
  set r.1
  match r.2 with
  | .ok b => pure b
  | .error _ => throw .uncorrectable

/-- A computation run. -/
def Rd.go {α : Type} (x : Rd α) (s : State) : State × Except Status α :=
  let r := x.run s
  (r.2, r.1)

/-! ### Graphs (R134 to R138) -/

/-- A graph region's header and type table. -/
structure Graph where
  base : Nat
  types : List Nat
  aliasOff : Option Nat
  ts : Option Nat
  first : Nat
  count : Nat
  adj : Nat
  adjN : Nat
  shift : Nat
  shards : Nat
  shardOff : Nat

/-- The header and type table of a region read and checked (R134). -/
def readGraph (r : Region) : Rd Graph := do
  if r.size < 0x80 then throw .format
  let h ← rdBytes r.base 0x80
  let tc := fbits h 4 2 8 0
  let al := fbit h 6 2 0
  let ts := fbit h 6 2 1
  let lf := fld h 8 5
  let lc := fld h 0x10 5
  let adj := fld h 0x18 5
  let n := fld h 0x20 6
  let ao := fld h 0x28 5
  let tof := fld h 0x30 5
  let sh := fbits h 0x38 4 5 0
  let sc := fld h 0x3C 4
  let so := fld h 0x40 5
  let zero := fbits h 4 2 15 9 == 0 && fbits h 6 2 15 2 == 0 && fld h 0xD 3 == 0 && fld h 0x15 3 == 0 && fld h 0x1D 3 == 0 && fld h 0x26 2 == 0 &&
    fld h 0x2D 3 == 0 && fld h 0x35 3 == 0 && fbits h 0x38 4 31 6 == 0 && fld h 0x45 3 == 0 && allZero (slice h 0x48 56)
  let ok := fld h 0 4 == 0x48504147 && 1 ≤ tc && tc ≤ 256 && lf + lc ≤ 2 ^ 40 && ao % 8 == 0 && (al || ao == 0) && tof % 4 == 0 && (ts || tof == 0) &&
    sh ≤ 40 && 1 ≤ sc && sc ≤ 65536 && so % 2 == 0 && zero
  if !ok ∨ r.size < 0x80 + 16 * tc then throw .format
  let types ← (List.range tc).mapM (fun t => do
    let e ← rdBytes (r.base + 0x80 + 16 * t) 16
    if fld e 5 3 ≠ 0 ∨ fld e 8 8 ≠ 0 then throw .format
    pure (fld e 0 5))
  let inside := types.all (fun o => o + 6 * (lc + 1) ≤ r.size) && adj + 5 * n ≤ r.size && (!al || ao + 8 * n ≤ r.size) &&
    (!ts || tof + 4 * n ≤ r.size) && so + 2 * sc ≤ r.size
  if !inside then throw .format
  pure ⟨r.base, types, if al then some ao else none, if ts then some tof else none, lf, lc, adj, n, sh, sc, so⟩

/-- The owner of a node (R138). -/
def ownerOf (g : Graph) (v : Nat) : Rd Nat := do
  let k := v / 2 ^ g.shift
  if g.shards ≤ k then throw .indexRange
  let o ← rdNat (g.base + g.shardOff + 2 * k) 2
  if o = devId (← get) ∧ (v < g.first ∨ g.first + g.count ≤ v) then throw .indexRange
  pure o

/-- The type-t neighbourhood of a local node: first adjacency position and degree (R136). -/
def neighbourhood (g : Graph) (t v : Nat) : Rd (Nat × Nat) := do
  if g.types.length ≤ t ∨ v < g.first ∨ g.first + g.count ≤ v then throw .indexRange
  let o := g.base + g.types.getD t 0
  let i := v - g.first
  let a ← rdNat (o + 6 * i) 6
  let b ← rdNat (o + 6 * (i + 1)) 6
  if b < a ∨ g.adjN < b then throw .indexRange
  pure (a, b - a)

/-! ### Draws (R147 to R156) -/

/-- What a request fixes for its draws: program, stream, step, seed, time window. -/
structure DrawKey where
  prog : SampProg
  stream : Nat
  step : Nat
  seed : Nat
  tlo : Nat
  thi : Nat

/-- The generator words for node n, level l and block number b (Table 5.7). -/
def sampWords (k : DrawKey) (n l b : Nat) : Nat × Nat × Nat × Nat :=
  philox k.seed (k.step % 2 ^ 32) (n % 2 ^ 32) (bits n 39 32 + l % 8 * 2 ^ 8 + k.prog.mode % 16 * 2 ^ 11 + k.stream % 2 ^ 16 * 2 ^ 16)
    (b % 2 ^ 28 + 0xB * 2 ^ 28)

/-- U of the i-th draw without replacement (Table 5.8). -/
def drawU (k : DrawKey) (v h i : Nat) : Nat :=
  let w := sampWords k v h (i / 2)
  if i % 2 = 0 then w.2.1 * 2 ^ 32 + w.1 else w.2.2.2 * 2 ^ 32 + w.2.2.1

/-- The loop of draw_wor from draw i on (R152). -/
def worLoop (k : DrawKey) (v h d n : Nat) : Nat → Nat → List Nat → List Nat
  | 0, _, acc => acc
  | m + 1, i, acc =>
    let j := d - n + i
    let t := drawU k v h i * (j + 1) / 2 ^ 64
    worLoop k v h d n m (i + 1) ((if acc.contains t then j else t) :: acc)

/-- A rising list without repeats. -/
def sortNat (l : List Nat) : List Nat := (l.foldl (fun (t : Tbl Unit) x => Tbl.set t x ()) []).map (·.1)

/-- n positions of d without replacement; all of them when n is at least d (R152). -/
def drawWor (k : DrawKey) (v h d n : Nat) : List Nat := if d ≤ n then List.range d else sortNat (worLoop k v h d n n 0 [])

/-- A list in rising order, repeats kept (R151). -/
def risingNat (l : List Nat) : List Nat :=
  (sortNat l).flatMap (fun x => List.replicate (l.count x) x)

/-- The alias step of the weighted modes (R137). -/
def aliasStep (g : Graph) (o0 d q coin : Nat) : Rd Nat := do
  match g.aliasOff with
  | none => throw .format
  | some ao =>
    let p ← rdNat (g.base + ao + 8 * (o0 + q)) 4
    if coin < p then pure q
    else
      let a ← rdNat (g.base + ao + 8 * (o0 + q) + 4) 4
      if d ≤ a then throw .indexRange
      pure a

/-- The bisection of R155. -/
def lowerTs (g : Graph) (tf t : Nat) : Nat → Nat → Nat → Rd Nat
  | 0, a, _ => pure a
  | n + 1, a, b => do
    if b ≤ a then pure a
    else
      let m := (a + b) / 2
      let x ← rdNat (g.base + tf + 4 * m) 4
      if x < t then lowerTs g tf t n (m + 1) b else lowerTs g tf t n a m

/-- Modes 0x4 and 0x5. -/
def isWalk (p : SampProg) : Bool := p.mode == 4 || p.mode == 5

/-- The positions of a node's neighbourhood drawn at hop h, with the first position, and whether it was cut to the cap
(R152 to R156). An item is (node, seed, walk). -/
def drawPositions (g : Graph) (k : DrawKey) (h : Nat) (it : Nat × Nat × Nat) : Rd (Nat × List Nat × Bool) := do
  let v := it.1
  let fan := k.prog.fanout.getD (h - 1) 0
  let (o0, d) ← neighbourhood g (k.prog.etype.getD (h - 1) 0) v
  if isWalk k.prog then
    if d = 0 then pure (o0, [], false)
    else
      let w := sampWords k it.2.1 h it.2.2
      let q := (w.2.1 * 2 ^ 32 + w.1) * d / 2 ^ 64
      let q ← if k.prog.mode = 5 then aliasStep g o0 d q w.2.2.1 else pure q
      pure (o0, [q], false)
  else
    let (o0, d) ← if k.prog.mode = 3 then (do
        match g.ts with
        | none => throw Status.format
        | some tf =>
          let lo ← lowerTs g tf k.tlo 64 o0 (o0 + d)
          let hi ← lowerTs g tf (k.thi + 1) 64 lo (o0 + d)
          pure (lo, hi - lo)) else pure (o0, d)
    if fan = 0 then
      if d ≤ k.prog.fullCap then pure (o0, List.range d, false) else pure (o0, drawWor k v h d k.prog.fullCap, true)
    else if k.prog.mode = 2 then
      if d = 0 then pure (o0, [], false)
      else
        let qs ← (List.range fan).mapM (fun i => do
          let w := sampWords k v h i
          aliasStep g o0 d ((w.2.1 * 2 ^ 32 + w.1) * d / 2 ^ 64) w.2.2.1)
        pure (o0, risingNat qs, false)
    else pure (o0, drawWor k v h d fan, false)

/-- The edges of one item drawn here: (source node, EDGE_ID) in emission order, and whether the cap cut it. -/
def drawItem (g : Graph) (k : DrawKey) (h : Nat) (it : Nat × Nat × Nat) : Rd (List (Nat × Nat) × Bool) := do
  let (o0, qs, cut) ← drawPositions g k h it
  let es ← qs.mapM (fun q => do
    let n ← rdNat (g.base + g.adj + 5 * (o0 + q)) 5
    pure (n, o0 + q))
  pure (es, cut)

/-- The mode needs an array the graph lacks (R154, R155). -/
def modeNeeds (g : Graph) (p : SampProg) : Bool :=
  ((p.mode == 2 || p.mode == 5) && g.aliasOff.isNone) || (p.mode == 3 && g.ts.isNone)

/-! ### Request fields (Table 5.5) -/

/-- PROGRAM_ID. -/
def sProg (d : List Byte) : Nat := fld d 2 2
/-- USER_TAG. -/
def sTag (d : List Byte) : Nat := fld d 4 2
/-- STREAM. -/
def sStream (d : List Byte) : Nat := fld d 6 2
/-- STEP. -/
def sStep (d : List Byte) : Nat := fld d 8 4
/-- SEED_BYTES. -/
def sSeedBytes (d : List Byte) : Nat := fld d 0xC 4
/-- SEED_ADDR. -/
def sSeedAddr (d : List Byte) : Nat := fld d 0x10 5
/-- BLOCK_ADDR. -/
def sBlockAddr (d : List Byte) : Nat := fld d 0x18 5
/-- BLOCK_BYTES. -/
def sBlockBytes (d : List Byte) : Nat := fld d 0x20 4
/-- T_LO. -/
def sTlo (d : List Byte) : Nat := fld d 0x24 4
/-- T_HI. -/
def sThi (d : List Byte) : Nat := fld d 0x28 4
/-- CQ_ID. -/
def sCq (d : List Byte) : Nat := fbits d 0x2C 2 14 0
/-- TARGET_CORE. -/
def sTarget (d : List Byte) : Nat := fbits d 0x2E 2 8 0
/-- SIG_CORE. -/
def sSigCore (d : List Byte) : Nat := fbits d 0x30 2 8 0
/-- SIG_CTR. -/
def sSigCtr (d : List Byte) : Nat := fbits d 0x32 2 5 0
/-- SIG_INC. -/
def sSigInc (d : List Byte) : Nat := fld d 0x34 2
/-- CR_ON_OK. -/
def sCrOnOk (d : List Byte) : Bool := fbit d 1 1 0
/-- SIG_EN. -/
def sSigEn (d : List Byte) : Bool := fbit d 1 1 1

/-- A range lies in one region of the job, or in none at its start, or runs past it. -/
inductive RangeIn where
  | inside | noRegion | past
  deriving DecidableEq, Repr

/-- Where a range lies for job j, among regions that meet p. -/
def rangeIn (s : State) (j a n : Nat) (p : Region → Bool) : RangeIn :=
  match regionOf s j a with
  | some r => if p r then (if a + n ≤ r.base + r.size then .inside else .past) else .noRegion
  | none => .noRegion

/-- Where [ADDR, ADDR + n) lies for the packet's job: PERMISSION, BOUNDS, or OK (R39, R90). -/
def rangeStatus (s : State) (j a n : Nat) : Status :=
  match rangeIn s j a n (fun _ => true) with
  | .noRegion => .permission
  | .past => .bounds
  | .inside => .ok

/-- The gather-buffer region of cluster c. -/
def inGbuf (c : Nat) (r : Region) : Bool := gbufBase c ≤ r.base && r.base < gbufBase c + 0x2000000

/-- A core is assigned to job j in one of its contexts. -/
def coreOfJob (s : State) (l j : Nat) : Bool := ctxJob s l 0 == some j || ctxJob s l 1 == some j

/-- A committed live block of job j in a cluster at an address. -/
def liveBlock (s : State) (c j a : Nat) : Option SBlock :=
  s.blocks.find? (fun b => b.cluster == c && b.job == j && b.base == a && b.committed)

/-- The checks of Table 5.6 on a SAMPLE, in the order of R16. SIG_CORE and SIG_CTR are checked whatever SIG_EN is: Table 5.6 gives no condition. -/
def sampCheck (s : State) (c j : Nat) (d : List Byte) : Status :=
  let prog := s.bound.samps.find? (fun p => p.id == sProg d && p.job == j && partRunning s p.part)
  let zeroSeed := sSeedBytes d == 0
  let seed := rangeIn s j (sSeedAddr d) (sSeedBytes d) (fun _ => true)
  let blk := rangeIn s j (sBlockAddr d) (sBlockBytes d) (inGbuf c)
  let cores := [sTarget d, sSigCore d]
  let high := cores.any (fun x => rd s .logicalCoreCount ≤ x)
  if (prog.map (fun p => bit p.mask c)).getD false = false then .permission
  else if seed = .noRegion ∨ blk = .noRegion then .permission
  else if s.blocks.any (fun b => overlaps (sBlockAddr d) (sBlockBytes d) b.base b.bytes) then .permission
  else if cqBound s (sCq d) j 2 = false then .permission
  else if cores.any (fun x => x < rd s .logicalCoreCount && !coreOfJob s x j) then .permission
  else if sSigCore d < rd s .logicalCoreCount ∧ ctrOwned s (sSigCore d) (sSigCtr d) j = false then .permission
  else if fbits d 1 1 7 2 ≠ 0 ∨ fld d 0x15 3 ≠ 0 ∨ fld d 0x1D 3 ≠ 0 ∨ fbits d 0x2C 2 15 15 ≠ 0 ∨ fbits d 0x2E 2 15 9 ≠ 0 ∨ fbits d 0x30 2 15 9 ≠ 0 ∨
      fbits d 0x32 2 15 6 ≠ 0 ∨ allZero (slice d 0x36 10) = false then .format
  else if sSeedBytes d % 8 ≠ 0 ∨ 524288 < sSeedBytes d ∨ sSeedAddr d % 8 ≠ 0 ∨ sBlockAddr d % 64 ≠ 0 ∨ sBlockBytes d % 64 ≠ 0 ∨ sBlockBytes d < 128 then .format
  else if (if (prog.map (·.mode)).getD 0 = 3 then decide (sThi d < sTlo d) else sTlo d != 0 || sThi d != 0) then .format
  else if (if sSigEn d then sSigInc d == 0 else sSigInc d != 0) then .format
  else if sStep d < Tbl.getD s.sampStep (c * 4096 + j) 0 then .format
  else if zeroSeed then .ok
  else if seed = .past ∨ blk = .past then .bounds
  else if high then .indexRange
  else .ok

/-! ### A request that runs -/

/-- The run of a block. -/
def sampOf (s : State) (c base : Nat) : Option SampRun := s.samps.find? (fun r => r.cluster == c && r.base == base)
/-- A run replaced. -/
def setSamp (s : State) (r : SampRun) : State :=
  { s with samps := s.samps.map (fun x => if x.cluster = r.cluster ∧ x.base = r.base then r else x) }

/-- The program of a run. -/
def runProg (s : State) (r : SampRun) : SampProg :=
  (s.bound.samps.find? (fun p => p.id == sProg r.desc && p.job == r.job)).getD ⟨0, 0, 0, 0, 0, 0, 0, 0, 0, [], []⟩

/-- The draw key of a run. -/
def runKey (s : State) (r : SampRun) : DrawKey := ⟨runProg s r, sStream r.desc, sStep r.desc, seedOf s r.job, sTlo r.desc, sThi r.desc⟩

/-- DETAIL of a fault at a node: level and its position in that level's node list (Table 5.12). -/
def nodeDetail (level pos : Nat) : Nat := level * 2 ^ 29 + pos % 2 ^ 29

/-- The position of a node in a list of (node, owner). -/
def posOf (l : List (Nat × Nat)) (v : Nat) : Nat := l.findIdx (fun x => x.1 == v)

/-- An INDEX_RANGE or UNCORRECTABLE fault at a node shown at the sampler of cluster c (Table 5.13). -/
def noteErrNode (s : State) (c : Nat) (st : Status) (v : Nat) : State :=
  if st = .indexRange ∨ st = .uncorrectable then wr s .sampErrNode c v else s

/-- A run that failed; INDEX_RANGE and UNCORRECTABLE latch their node. -/
def failSamp (s : State) (r : SampRun) (st : Status) (detail : Nat) (node : Option Nat) : State :=
  let s := node.elim s (noteErrNode s r.cluster st)
  setSamp s { r with fail := some (st, detail) }

/-- Insertion of an edge by destination position, EDGE_ID, then emission (R157). -/
def insEdge (key : Edge → Nat × Nat) (e : Edge) : List Edge → List Edge
  | [] => [e]
  | x :: t => if (key e).1 < (key x).1 ∨ ((key e).1 = (key x).1 ∧ (key e).2 < (key x).2) then e :: x :: t else x :: insEdge key e t

/-- Edges in R157 order; those of equal keys keep their order. -/
def sortEdges (l0 : List (Nat × Nat)) (es : List Edge) : List Edge :=
  es.foldl (fun acc e => insEdge (fun x => (posOf l0 x.dst, x.eid)) e acc) []

/-- Edges in emission order: by item. -/
def byItem (es : List Edge) : List Edge := es.foldl (fun acc e => insEdge (fun x => (x.item, 0)) e acc) []

/-- The items of a level to draw next: nodes, or walk steps (R151, R156). -/
def nextItems (p : SampProg) (hop : Nat) (l : List (Nat × Nat)) (items : List (Nat × Nat × Nat)) (got : List Edge) : List (Nat × Nat × Nat) :=
  if isWalk p then
    if hop = 1 then l.flatMap (fun x => (List.range (p.fanout.getD 0 0)).map (fun r => (x.1, x.1, r)))
    else (items.zipIdx.filterMap (fun (it, i) => (got.find? (fun e => e.item == i)).map (fun e => (e.src, it.2.1, it.2.2))))
  else l.map (fun x => (x.1, 0, 0))

/-- The owners of rising nodes; a fault names the node's position. -/
def ownersOf (g : Graph) : List Nat → Nat → State → State × Except (Status × Nat × Nat) (List (Nat × Nat))
  | [], _, s => (s, .ok [])
  | v :: t, i, s =>
    match (ownerOf g v).go s with
    | (s, .error st) => (s, .error (st, i, v))
    | (s, .ok o) =>
      match ownersOf g t (i + 1) s with
      | (s, .ok r) => (s, .ok ((v, o) :: r))
      | (s, .error e) => (s, .error e)

/-- Local items of a hop drawn in order: edges, cuts, or the fault with its item. -/
def drawLocal (g : Graph) (k : DrawKey) (h me : Nat) : List (Nat × (Nat × Nat × Nat)) → State → State × Except (Status × Nat) (List Edge × Nat)
  | [], s => (s, .ok ([], 0))
  | (i, it) :: t, s =>
    match (drawItem g k h it).go s with
    | (s, .error st) => (s, .error (st, it.1))
    | (s, .ok (es, cut)) =>
      match drawLocal g k h me t s with
      | (s, .ok (r, n)) => (s, .ok (es.map (fun e => ⟨i, it.1, e.1, e.2, me⟩) ++ r, n + b2n cut))
      | (s, .error e) => (s, .error e)

/-- The bytes of a draw request's entries. -/
def drawEntries (walk : Bool) (its : List (Nat × Nat × Nat)) : List Byte :=
  its.flatMap (fun it => if walk then toLE 8 it.1 ++ toLE 8 (it.2.1 % 2 ^ 40 + it.2.2 % 2 ^ 12 * 2 ^ 40) else toLE 8 it.1)

/-- The mark of a program body that a draw request carries in AUX: bit 23, and 23 bits of the CRC-32C of the body's fields (log entry 12). -/
def bodyMark (p : SampProg) : Nat :=
  2 ^ 23 + crc32c ([p.mode, p.hops].flatMap (toLE 1) ++ p.fanout.flatMap (toLE 4) ++ p.etype.flatMap (toLE 4)) % 2 ^ 23

/-- The requester's mark says that its program body differs from this device's; a request without a mark says nothing (R159). -/
def bodyDiffers (p : SampProg) (aux : Nat) : Bool := bit aux 23 && aux % 2 ^ 24 != bodyMark p

/-- One group of items asked of an owner (R158); a refusal of R516 fails the request. -/
def sendDraw (s : State) (r : SampRun) (k : DrawKey) (owner : Nat) (grp : List (Nat × (Nat × Nat × Nat))) : State × SampRun :=
  let walk := isWalk k.prog
  match peerRefusal s r.job owner, ctxTo s r.job owner with
  | none, some c =>
    let pl := toLE 2 k.prog.id ++ toLE 2 k.stream ++ toLE 1 r.hop ++ zeros 3 ++ toLE 4 k.tlo ++ toLE 4 k.thi ++ drawEntries walk (grp.map (·.2))
    let t := nextTag s
    let s := inc s .sampRemoteSentCnt r.cluster grp.length
    (sendReq s c { ptype := ptDrawReq, vc := jobVc s r.job false, step := k.step, aux := bodyMark k.prog, payload := pl } (.draws r.cluster r.base r.hop (grp.map (·.1))),
      { r with wait := r.wait ++ [(t, grp.map (·.1))] })
  | st, _ => (s, if r.fail.isSome then r else { r with fail := some (st.getD .permission, owner) })

/-- Groups of one owner in packets of at most 4,096 bytes. -/
def sendDraws (k : DrawKey) (owner : Nat) : List (List (Nat × (Nat × Nat × Nat))) → State → SampRun → State × SampRun
  | [], s, r => (s, r)
  | g :: t, s, r => if r.fail.isSome then (s, r) else let q := sendDraw s r k owner g; sendDraws k owner t q.1 q.2

/-- Every owner's groups. -/
def sendOwners (k : DrawKey) (its : List (Nat × (Nat × Nat × Nat))) (own : Nat → Nat) : List Nat → State → SampRun → State × SampRun
  | [], s, r => (s, r)
  | o :: t, s, r =>
    let grp := its.filter (fun x => own x.2.1 == o)
    let q := sendDraws k o (chunks (if isWalk k.prog then 255 else 510) grp) s r
    sendOwners k its own t q.1 q.2

/-- The hop that starts: local items drawn, remote ones asked of their owners. -/
def startHop (s : State) (r : SampRun) (g : Graph) (lvl : List (Nat × Nat)) : State :=
  let k := runKey s r
  let me := devId s
  let its := r.items.zipIdx.map (fun (it, i) => (i, it))
  let own := fun (v : Nat) => ((lvl.find? (fun x => x.1 == v)).map (·.2)).getD me
  match drawLocal g k r.hop me (its.filter (fun x => own x.2.1 == me)) s with
  | (s, .error (st, v)) => failSamp s r st (if st = .format then 0 else nodeDetail (r.hop - 1) (posOf lvl v)) (some v)
  | (s, .ok (es, cuts)) =>
    let s := inc s .sampCapTruncCnt r.cluster cuts
    let r := { r with got := es, trunc := r.trunc + cuts }
    let owners := sortNat ((its.map (fun x => own x.2.1)).filter (· != me))
    let q := sendOwners k its own owners s r
    setSamp q.1 q.2

/-- A run taken forward as far as it goes without an owner's answer: a hop whose edges are all here is closed (R151, R156, R157). -/
def advanceSamp (c base : Nat) : Nat → State → State
  | 0, s => s
  | n + 1, s =>
    match sampOf s c base with
    | none => s
    | some r =>
      if r.fail.isSome || r.done || !r.wait.isEmpty then s
      else
        let p := runProg s r
        let lvl := r.levels.getLastD []
        let got := byItem r.got
        let hopEdges := sortEdges lvl got
        let nodes := sortNat (hopEdges.map (·.src))
        match s.bound.regions.find? (fun x => x.id == p.graph) with
        | none => failSamp s r .format 0 none
        | some reg =>
          match (readGraph reg).go s with
          | (s, .error st) => failSamp s r st 0 none
          | (s, .ok g) =>
            match ownersOf g nodes 0 s with
            | (s, .error (st, i, v)) => failSamp s r st (nodeDetail r.hop i) (some v)
            | (s, .ok l) =>
              let r := { r with levels := r.levels ++ [l], edges := r.edges ++ [hopEdges] }
              if p.hops ≤ r.hop then setSamp s { r with done := true, got := [] }
              else
                let items := nextItems p (r.hop + 1) l r.items got
                let r := { r with hop := r.hop + 1, items := items, got := [] }
                let lv := if isWalk p then l else l
                advanceSamp c base n (startHop (setSamp s r) r g lv)

/-- Seeds read in list order; a fault names its position. -/
def readSeeds (a : Nat) : Nat → Nat → State → State × Except (Status × Nat) (List Nat)
  | 0, _, s => (s, .ok [])
  | n + 1, i, s =>
    match readMem s (a + 8 * i) 8 with
    | (s, .error _) => (s, .error (.uncorrectable, nodeDetail 0 i))
    | (s, .ok b) =>
      if fld b 5 3 ≠ 0 then (s, .error (.format, 0))
      else match readSeeds a n (i + 1) s with
        | (s, .ok r) => (s, .ok (fld b 0 5 :: r))
        | (s, .error e) => (s, .error e)

/-- A request accepted (R144): it takes its slot and range, the highest accepted step follows (R24), its seeds are read and its first hop starts.
The seed list is read before the graph's header (DEDUCED, log entry 59: R162 gives no order between their faults). -/
def acceptSamp (s : State) (c j q : Nat) (d : List Byte) : State :=
  let s := popFifo s q
  let r : SampRun := ⟨c, sBlockAddr d, d, j, [], 1, [], [], [], [], 0, none, false⟩
  let s := { s with
    blocks := s.blocks ++ [⟨c, sBlockAddr d, sBlockBytes d, j, sStep d, sTarget d, false⟩]
    samps := s.samps ++ [r]
    sampStep := Tbl.set s.sampStep (c * 4096 + j) (max (sStep d) (Tbl.getD s.sampStep (c * 4096 + j) 0)) }
  let p := runProg s r
  match readSeeds (sSeedAddr d) (sSeedBytes d / 8) 0 s with
  | (s, .error (st, det)) => failSamp s r st det none
  | (s, .ok seeds) =>
    match s.bound.regions.find? (fun x => x.id == p.graph) with
    | none => failSamp s r .format 0 none
    | some reg =>
      match (readGraph reg).go s with
      | (s, .error st) => failSamp s r st 0 none
      | (s, .ok g) =>
        if modeNeeds g p then failSamp s r .format 0 none
        else
          let nodes := sortNat seeds
          match ownersOf g nodes 0 s with
          | (s, .error (st, i, v)) => failSamp s r st (nodeDetail 0 i) (some v)
          | (s, .ok l) =>
            let r := { r with levels := [l], items := nextItems p 1 l [] [] }
            advanceSamp c r.base 5 (startHop (setSamp s r) r g l)

/-- No slot is free, or R23 holds the request. -/
def sampHeld (s : State) (c j : Nat) (d : List Byte) : Bool :=
  64 ≤ (s.blocks.filter (fun b => b.cluster == c)).length ||
  s.blocks.any (fun b => b.cluster == c && b.job == j && b.step + 2 ≤ sStep d)

/-- A signal of a sampler, sorter or gather request (R161): a local one of its job. -/
def unitSignal (j core ctr amount : Nat) : LocalSig := ⟨none, j, core, ctr, amount⟩

/-- The end of a request of a unit: its record on every failure, and on OK where CR_ON_OK asks for one; its signal, on OK, follows the record
(R161, R373). -/
def unitEnd (s : State) (u : RecUnit) (cq j : Nat) (rec : List Byte) (ok crOnOk : Bool) (g : Option LocalSig) : State :=
  if ok then (if crOnOk then postJobRec s cq j 2 rec (some u) g else giveSig s g) else postFailRec s cq j 2 rec (some u)

/-- A sampler request completed; a SAMPLE that moved data gives its signal. -/
def endSampReq (s : State) (c j : Nat) (d : List Byte) (op : Nat) (st : Status) (detail total : Nat) (g : Option LocalSig := none) : State :=
  let s := if st = .ok then (if op = 0x10 then inc s .sampReqOkCnt c else s) else inc s .sampReqFailCnt c
  unitEnd s (.sampler c) (sCq d) j (unitRecord (sTag d) op st (sStep d) detail total) (st == .ok) (sCrOnOk d) g

/-- The queue's cluster and job, for a KIND 0x5 queue. -/
def unitQueue (s : State) (q : Nat) : Option (Nat × Nat) :=
  match queueOf s q with
  | some b => if b.kind = 5 then some (b.owner, b.job) else none
  | none => none

/-- Cluster c is in reset, by itself or with its partition: what comes for its units completes with ABORTED (Table 15.5, R68, R144). -/
def clusterResetting (s : State) (c : Nat) : Bool :=
  s.resets.any (fun r => if r.domain = 1 then r.target == c else r.domain == 2 && s.bound.map.any (fun p => bit r.target p.id && bit p.mask c))

/-- The front entry of a KIND 0x5 queue, with its cluster and job. -/
def frontEntry (s : State) (q : Nat) : Option (Nat × Nat × List Byte) :=
  match unitQueue s q, fifoOf s q with
  | some (c, j), d :: _ => some (c, j, d)
  | _, _ => none

/-- The queue whose held request is accepted next by the sampler of cluster c: of those that nothing holds any more, the one held longest (R144). -/
def heldTurn (s : State) (c : Nat) : Option Nat :=
  s.heldSamp.find? (fun q => match frontEntry s q with
    | some (c', j, d) => c' == c && !sampHeld s c j d
    | none => false)

/-- SAMPLE: the front entry of a queue is a SAMPLE: checked, then accepted, held at the head, or completed (R142 to R144). -/
def sample (s : State) (q : Nat) : State :=
  match frontEntry s q with
  | none => s
  | some (c, j, d) =>
    if fld d 0 1 ≠ 0x10 ∨ s.heldSamp.contains q ∨ unitWaits s (.sampler c) then s
    else if clusterResetting s c then endSampReq (popFifo s q) c j d 0x10 .aborted 0 0
    else match sampCheck s c j d with
      | .ok =>
        if sSeedBytes d = 0 then endSampReq (popFifo s q) c j d 0x10 .ok 0 0
        else if sampHeld s c j d || (heldTurn s c).isSome then { inc s .sampHoldCnt c with heldSamp := s.heldSamp ++ [q] }
        else acceptSamp s c j q d
      | st => endSampReq (popFifo s q) c j d 0x10 st 0 0

/-- HELD_SAMPLE_ACCEPT: the held head of a queue is accepted once nothing holds it, in the order in which they were held. The checks of Table 5.6
that other requests may have changed meanwhile, the step and the overlap with a live block, are made again (R24, R142). -/
def heldAccept (s : State) (q : Nat) : State :=
  match frontEntry s q with
  | none => s
  | some (c, j, d) =>
    if heldTurn s c ≠ some q ∨ unitWaits s (.sampler c) then s
    else
      let s := { s with heldSamp := s.heldSamp.erase q }
      match sampCheck s c j d with
      | .ok => acceptSamp s c j q d
      | st => endSampReq (popFifo s q) c j d 0x10 st 0 0

/-! ### The sampled block (R160) -/

/-- Bytes filled with zeros to a multiple of 64. -/
def pad64 (b : List Byte) : List Byte := fit b (roundUp b.length 64)

/-- Column pointers of a hop: for each destination of the level, the first path position at or after it. -/
def colPtr (lvl : List (Nat × Nat)) (es : List Edge) : List Nat :=
  (List.range (lvl.length + 1)).map (fun i => (es.filter (fun e => posOf lvl e.dst < i)).length)

/-- The sections of a block in order, each without padding: node lists, then per hop column pointers and source indices, then the path
record. -/
def blockSections (r : SampRun) : List (List Byte) :=
  r.levels.map (fun l => l.flatMap (fun x => toLE 8 (x.1 + x.2 * 2 ^ 40))) ++
  (r.edges.zipIdx.flatMap (fun (es, h) =>
    [(colPtr (r.levels.getD h []) es).flatMap (toLE 4), es.flatMap (fun e => toLE 4 (posOf (r.levels.getD (h + 1) []) e.src))])) ++
  [r.edges.flatMap (fun es => es.flatMap (fun e => toLE 8 (e.eid % 2 ^ 48 + e.owner * 2 ^ 48)))]

/-- Offsets of sections laid at multiples of 64 from an offset on. -/
def sectionOffs : Nat → List (List Byte) → List Nat
  | _, [] => []
  | o, b :: t => o :: sectionOffs (o + roundUp b.length 64) t

/-- The bytes of a committed block (Tables 5.9 and 5.10). -/
def blockBytes (p : SampProg) (r : SampRun) : List Byte :=
  let secs := blockSections r
  let offs := sectionOffs 128 secs
  let total := 128 + (secs.map (fun b => roundUp b.length 64)).sum
  let h := p.hops
  let five := fun (f : Nat → Nat) => (List.range 5).flatMap (fun i => toLE 4 (if i ≤ h then f i else 0))
  let four := fun (f : Nat → Nat) => (List.range 4).flatMap (fun i => toLE 4 (if i < h then f i else 0))
  let path := secs.getLastD []
  let hdr := toLE 4 0x4B4C4253 ++ toLE 1 h ++ toLE 1 p.mode ++ toLE 2 (sStream r.desc) ++ toLE 4 (sStep r.desc) ++ toLE 2 r.job ++ toLE 2 (sProg r.desc) ++
    toLE 4 total ++ toLE 4 (crc32c path) ++ five (fun i => (r.levels.getD i []).length) ++ four (fun i => (r.edges.getD i []).length) ++ zeros 4 ++
    five (fun i => offs.getD i 0) ++ four (fun i => offs.getD (h + 1 + 2 * i) 0) ++ four (fun i => offs.getD (h + 2 + 2 * i) 0) ++
    toLE 4 (offs.getD (3 * h + 1) 0) ++ toLE 4 r.trunc ++ zeros 4
  hdr ++ secs.flatMap pad64

/-- A run taken off, its block kept committed or its slot freed. -/
def closeSamp (s : State) (r : SampRun) (keep : Bool) : State :=
  let mine := fun (b : SBlock) => b.cluster == r.cluster && b.base == r.base
  { s with
    samps := s.samps.filter (fun x => !(x.cluster == r.cluster && x.base == r.base))
    blocks := if keep then s.blocks.map (fun b => if mine b then { b with committed := true } else b) else s.blocks.filter (fun b => !mine b) }

/-- A run that fails ends: its whole range zeroed, its slot freed, its record written (R162). -/
def endFailed (s : State) (r : SampRun) (st : Status) (detail : Nat) : State :=
  endSampReq (closeSamp (zeroRange s r.base (sBlockBytes r.desc)) r false) r.cluster r.job r.desc 0x10 st detail 0

/-- SAMPLE_COMMIT: a request whose draws are done commits its block, or fails (R160 to R162). -/
def sampleCommit (s : State) (c base : Nat) : State :=
  match sampOf s c base with
  | none => s
  | some r =>
    if unitWaits s (.sampler c) then s else
    match r.fail with
    | some (st, det) => endFailed s r st det
    | none =>
      if r.done = false then s
      else
        let p := runProg s r
        let total := 128 + ((blockSections r).map (fun b => roundUp b.length 64)).sum
        if sBlockBytes r.desc < total then endFailed s r .bounds (min total 0xFFFFFFFF)
        else
          let w := writeMem s r.base (blockBytes p r)
          if w.2.isSome then endFailed w.1 r .uncorrectable 0
          else
            let s := inc (closeSamp w.1 r true) .sampEdgeCnt c ((r.edges.map (·.length)).sum)
            endSampReq s c r.job r.desc 0x10 .ok 0 total
              (if sSigEn r.desc then some (unitSignal r.job (sSigCore r.desc) (sSigCtr r.desc) (sSigInc r.desc)) else none)

/-! ### RELEASE -/

/-- The checks of a RELEASE (R141, Table 5.6). -/
def releaseCheck (s : State) (c j : Nat) (d : List Byte) : Status :=
  if cqBound s (sCq d) j 2 = false then .permission
  else if fbits d 1 1 7 1 ≠ 0 ∨ fld d 2 2 ≠ 0 ∨ fld d 6 2 ≠ 0 ∨ fld d 0xC 4 ≠ 0 ∨ fld d 0x10 8 ≠ 0 ∨ fld d 0x1D 3 ≠ 0 ∨ allZero (slice d 0x20 12) = false ∨
      fbits d 0x2C 2 15 15 ≠ 0 ∨ allZero (slice d 0x2E 18) = false ∨ sBlockAddr d % 64 ≠ 0 then .format
  else match liveBlock s c j (sBlockAddr d) with
    | some b => if b.step = sStep d then .ok else .indexRange
    | none => .indexRange

/-- A RELEASE carried out: the slot freed, the record written. -/
def doRelease (s : State) (c j : Nat) (d : List Byte) : State :=
  match releaseCheck s c j d with
  | .ok =>
    endSampReq { s with blocks := s.blocks.filter (fun b => !(b.cluster == c && b.base == sBlockAddr d && b.committed)) } c j d 0x11 .ok 0 0
  | st => endSampReq s c j d 0x11 st 0 0

/-! ### Remote draws (R158, R159) -/

/-- The run that a reply belongs to, still waiting for its tag. -/
def waitingRun (s : State) (c base tag : Nat) : Option SampRun :=
  match sampOf s c base with
  | some r => if r.fail.isNone && r.wait.any (fun w => w.1 == tag) then some r else none
  | none => none

/-- The edges of a reply's results for the items asked. -/
def replyEdges (r : SampRun) (pos : List Nat) (owner : Nat) (b : List Byte) : List Edge :=
  (chunks 16 b).map (fun e =>
    let i := pos.getD (fld e 5 2) 0
    ⟨i, (r.items.getD i (0, 0, 0)).1, fld e 0 5, fld e 8 6, owner⟩)

/-- The neighbourhoods of a reply that the owner cut to FULL_CAP: the first result of each has byte 7 set (R153; log entry 12). -/
def replyCuts (b : List Byte) : Nat := ((chunks 16 b).filter (fun e => fld e 7 1 != 0)).length

/-- The answer to a draw request (R158, R159). -/
def drawsResp (s : State) (tag c base level : Nat) (pos : List Nat) (owner : Nat) (st : Status) (b : List Byte) : State :=
  match waitingRun s c base tag with
  | none => inc s .sampLateReplyCnt c
  | some r =>
    if r.hop ≠ level then inc s .sampLateReplyCnt c
    else if st ≠ .ok then setSamp s { r with fail := some (st, owner) }
    else
      let es := replyEdges r pos owner b
      let cuts := replyCuts b
      let s := inc s .sampCapTruncCnt c cuts
      advanceSamp c base 5 (setSamp s { r with got := r.got ++ es, wait := r.wait.filter (fun w => w.1 != tag), trunc := r.trunc + cuts })

/-- The 16-byte results of item i; a cut neighbourhood is marked in its first one (log entry 12). -/
def resultBytes (i : Nat) (cut : Bool) (es : List (Nat × Nat)) : List Byte :=
  es.zipIdx.flatMap (fun (e, n) => toLE 5 e.1 ++ toLE 2 i ++ toLE 1 (b2n (cut && n == 0)) ++ toLE 8 e.2)

/-- The draws of a request at their owner, item by item: the results, or the fault with its node. -/
def serveItems (g : Graph) (k : DrawKey) (h : Nat) : List (Nat × (Nat × Nat × Nat)) → State → State × Except (Status × Nat) (List Byte)
  | [], s => (s, .ok [])
  | (i, it) :: t, s =>
    match (drawItem g k h it).go s with
    | (s, .error st) => (s, .error (st, it.1))
    | (s, .ok (es, cut)) =>
      match serveItems g k h t s with
      | (s, .ok r) => (s, .ok (resultBytes i cut es ++ r))
      | (s, .error e) => (s, .error e)

/-- The set bits of a cluster mask. -/
def maskClusters (m : Nat) : List Nat := onesOf 32 m

/-- The cluster whose sampler serves a group that begins with node n: the k-th of the program's CLUSTER_MASK, k = n mod their number (R158). -/
def drawCluster (p : SampProg) (n : Nat) : Nat :=
  let cs := maskClusters p.mask
  cs.getD (n % max 1 cs.length) 0

/-- The answer of an owner to a DRAW_REQ: status and results; PERMISSION where job, program or cluster is not bound or the program's body differs,
ABORTED where the serving cluster is in reset (R158, R159, Table 15.5). -/
def serveDraw (s : State) (p : Pkt) : State × Status × List Byte :=
  let pl := p.payload
  match s.bound.samps.find? (fun x => x.id == fld pl 0 2 && x.job == p.job && partRunning s x.part) with
  | none => (s, .permission, [])
  | some prog =>
    let walk := isWalk prog
    let es := chunks (if walk then 16 else 8) (pl.drop 16)
    let its := es.map (fun e => (fld e 0 5, if walk then (fld e 8 5, fbits e 8 8 51 40) else (0, 0)))
    let h := fld pl 4 1
    let c := drawCluster prog ((its.map (·.1)).getD 0 0)
    if clusterResetting s c then (inc s .absorbCnt, .aborted, [])
    else if bodyDiffers prog p.aux ∨ prog.hops < h then (s, .permission, [])
    else if fld pl 5 3 ≠ 0 ∨ h = 0 then (s, .format, [])
    else match s.bound.regions.find? (fun r => r.id == prog.graph) with
      | none => (s, .permission, [])
      | some reg =>
        match (readGraph reg).go s with
        | (s, .error st) => (s, st, [])
        | (s, .ok g) =>
          if modeNeeds g prog then (s, .format, [])
          else
            let k : DrawKey := ⟨prog, fld pl 2 2, p.step, seedOf s p.job, fld pl 8 4, fld pl 0xC 4⟩
            match serveItems g k h (its.zipIdx.map (fun (it, i) => (i, it))) s with
            | (s, .error e) => (noteErrNode s c e.1 e.2, e.1, [])
            | (s, .ok b) => (inc s .sampRemoteServedCnt c its.length, .ok, b)

/-! ### Meanings -/

/-- SAMPLE. -/
def execSample (queue : Nat) (s : State) : Host.Outcome State Fault Refusal := .next (sample s queue)
/-- HELD_SAMPLE_ACCEPT. -/
def execHeldSampleAccept (queue : Nat) (s : State) : Host.Outcome State Fault Refusal := .next (heldAccept s queue)
/-- SAMPLE_COMMIT. -/
def execSampleCommit (cluster block : Nat) (s : State) : Host.Outcome State Fault Refusal := .next (sampleCommit s cluster block)

/-- DRAW_REQ. -/
def execDrawReq (pkt : Pkt) (s : State) : Host.Outcome State Fault Refusal :=
  .next (match takeRequest s pkt with
    | (s, false) => s
    | (s, true) =>
      let r := serveDraw s pkt
      respond r.1 pkt r.2.1 r.2.2)

/-- REMOTE_DRAW_TIMEOUT: the request of a draw fails with TIMEOUT; the owner is reported (R159, R356). -/
def execRemoteDrawTimeout (tag : Nat) (s : State) : Host.Outcome State Fault Refusal :=
  .next (match Tbl.find s.tags tag with
    | some ⟨_, p, .draws c base _ _, _, false⟩ =>
      let s := reportSuspect (quarantine s tag) p.job p.dst 2 p.step
      match waitingRun s c base tag with
      | some r => setSamp s { r with fail := some (.timeout, p.dst) }
      | none => s
    | _ => s)

end Sys2Proof.Machine
end

