-- ==== Sys2Proof/Machine/Rows.lean ====
section
/-!
DEFINITION. Sys2Proof/Machine/Rows.lean: tables of rows: headers, slots, owners, redirects, the step rules at a home, and where a row
is read (R172 to R175, R182, R190, R193), with the cut holds on tagged writes (R397).
-/
namespace Sys2Proof.Machine

/-! ### Headers (Table 6.4) -/

/-- A table header, with the region it heads. -/
structure TblHdr where
  reg : Region
  fmt : Fmt
  opt : Nat
  occMean : Bool
  rowBytes : Nat
  first : Nat
  rows : Nat
  spare : Nat
  slotBytes : Nat
  rowsOff : Nat
  shift : Nat
  shards : Nat
  shardOff : Nat
  mergeOff : Nat
  mergeBytes : Nat
  scrOff : Nat
  scrBytes : Nat
  baseStep : Nat
  lr : Nat
  beta1 : Nat
  beta2 : Nat
  eps : Nat
  decay : Nat
  deriving DecidableEq, Repr

/-- Elements of a row. -/
def TblHdr.elems (h : TblHdr) : Nat := h.rowBytes / h.fmt.bytes

/-- Bytes of a slot's optimiser state (Table 6.5). -/
def optState (opt e : Nat) : Nat := if opt = 2 then 4 * e else if opt = 3 then 4 else if opt = 4 then 8 * e else 0

/-- SLOT_BYTES by R173. -/
def slotSize (role opt rowBytes e : Nat) : Nat := roundUp (rowBytes + optState opt e + (if role = 3 then 16 else 0)) 32

/-- The address of slot k. -/
def TblHdr.slotAddr (h : TblHdr) (k : Nat) : Nat := h.reg.base + h.rowsOff + k * h.slotBytes

/-- Ranges lie inside size and none meets another; empty ranges meet nothing. -/
def apart (size : Nat) : List (Nat × Nat) → Bool
  | [] => true
  | (a, n) :: t => a + n ≤ size && t.all (fun x => n == 0 || x.2 == 0 || !overlaps a n x.1 x.2) && apart size t

/-- The header of a region's table, read and checked (R172); a breach is FORMAT. -/
def readTable (r : Region) : Rd TblHdr := do
  if r.size < 128 then throw .format
  let h ← rdBytes r.base 128
  let two := r.role == 2
  let opt := fbits h 4 1 7 4
  let rb := fld h 6 2
  let code := fbits h 4 1 3 0
  match Fmt.ofCode code with
  | none => throw .format
  | some f =>
    let e := rb / f.bytes
    let x : TblHdr :=
      { reg := r, fmt := f, opt := opt, occMean := fbit h 5 1 0, rowBytes := rb, first := fld h 8 5, rows := fld h 0x10 5,
        spare := fld h 0x18 4, slotBytes := fld h 0x1C 4, rowsOff := fld h 0x20 5, shift := fbits h 0x28 4 5 0, shards := fld h 0x2C 4,
        shardOff := fld h 0x30 5, mergeOff := fld h 0x38 5, mergeBytes := fld h 0x40 5, scrOff := fld h 0x48 5, scrBytes := fld h 0x50 5,
        baseStep := fld h 0x58 4, lr := fld h 0x5C 4, beta1 := fld h 0x60 4, beta2 := fld h 0x64 4, eps := fld h 0x68 4, decay := fld h 0x6C 4 }
    let zero := fbits h 5 1 7 1 == 0 && fld h 0xD 3 == 0 && fld h 0x15 3 == 0 && fld h 0x25 3 == 0 && fbits h 0x28 4 31 6 == 0 && fld h 0x35 3 == 0 &&
      fld h 0x3D 3 == 0 && fld h 0x45 3 == 0 && fld h 0x4D 3 == 0 && fld h 0x55 3 == 0 && allZero (slice h 0x70 16)
    let role := if two then opt == 0 && 1 ≤ code && code ≤ 4 && fbits h 5 1 0 0 == 0 && x.mergeOff == 0 && x.mergeBytes == 0 && x.scrOff == 0 &&
        x.scrBytes == 0 && allZero (slice h 0x58 24)
      else r.role == 3 && (code == 1 || code == 2) && 1 ≤ opt && opt ≤ 4
    let ok := fld h 0 4 == 0x4C424154 && zero && role && 32 ≤ rb && rb ≤ 32768 && rb % 32 == 0 && x.slotBytes == slotSize r.role opt rb e &&
      x.rowsOff % 64 == 0 && x.shift ≤ 40 && 1 ≤ x.shards && x.shards ≤ 65536 && x.shardOff % 2 == 0 && x.mergeOff % 64 == 0 && x.scrOff % 64 == 0 &&
      apart r.size [(0, 128), (x.rowsOff, (x.rows + x.spare) * x.slotBytes), (x.shardOff, 2 * x.shards), (x.mergeOff, x.mergeBytes), (x.scrOff, x.scrBytes)]
    if ok then pure x else throw .format

/-- The owner of row x (R174); out of range is INDEX_RANGE. -/
def rowOwner (h : TblHdr) (x : Nat) : Rd Nat := do
  let i := x / 2 ^ h.shift
  if h.shards ≤ i then throw .indexRange
  let o ← rdNat (h.reg.base + h.shardOff + 2 * i) 2
  if o = devId (← get) ∧ !(h.first ≤ x && x < h.first + h.rows) then throw .indexRange
  pure o

/-! ### Homes (R182) -/

/-- What the home keeps for a table; on first access LAST_CLOSED is BASE_STEP - 1. -/
def homeOf (s : State) (h : TblHdr) : HomeSt := (Tbl.find s.homes h.reg.id).getD ⟨(h.baseStep : Int) - 1, [], [], [], none⟩
/-- The home's record replaced. -/
def setHome (s : State) (id : Nat) (x : HomeSt) : State := { s with homes := Tbl.set s.homes id x }

/-- Where a request of step t stands against LAST_CLOSED (Table 6.8). -/
inductive StepRule where
  | past | now | future
  deriving DecidableEq, Repr

/-- The column of Table 6.8 for a table with updates; a feature table has none and is always served. -/
def stepRule (s : State) (h : TblHdr) (t : Nat) : StepRule :=
  if h.reg.role = 2 then .now
  else
    let c := (homeOf s h).lastClosed
    if (t : Int) ≤ c then .past else if (t : Int) = c + 1 then .now else .future

/-- An apply of a row is still to commit. -/
def applyWaits (s : State) (region row : Nat) : Bool := s.applies.any (fun a => a.region == region && a.row == row)

/-! ### Redirects and the fence (R190, R193) -/

/-- The redirect entry that covers a row: holder and slot. -/
def redirectOf (s : State) (job tensor row : Nat) : Option (Nat × Nat) :=
  ((List.range 256).find? (fun n => rd s .redirectValid n == 1 && rd s .redirectJobId n == job && rd s .redirectTensorId n == tensor &&
    rd s .redirectFirstRow n ≤ row && row ≤ rd s .redirectFirstRow n + rd s .redirectCountM1 n)).map
    (fun n => (rd s .redirectDestDevice n, rd s .redirectDestSlot n + (row - rd s .redirectFirstRow n)))

/-- A row lies in the range that a migration has fenced. -/
def fenced (s : State) (region row : Nat) : Bool :=
  match s.mig with
  | some m =>
    (match m.phase with
      | .header _ => false
      | _ => true) && m.region == region && m.first ≤ row && row < m.first + m.count
  | none => false

/-- Where the home serves a row it owns: a slot here, or the device and slot that hold it. -/
def rowPlace (s : State) (h : TblHdr) (x : Nat) : Nat × Nat :=
  match redirectOf s h.reg.job h.reg.tensor x with
  | some p => p
  | none => (devId s, x - h.first)

/-- What the home does with a read of a row it owns. -/
inductive RowV where
  | fails (st : Status)
  /-- Held under R182. -/
  | waits
  /-- Held by the fence. -/
  | fenced
  | place (dev slot : Nat)
  deriving DecidableEq, Repr

/-- A read of row x tagged with step t at its home. -/
def readVerdict (s : State) (h : TblHdr) (t x : Nat) : RowV :=
  match stepRule s h t with
  | .past => .fails .format
  | .future => .waits
  | .now =>
    if fenced s h.reg.id x then .fenced
    else if applyWaits s h.reg.id x then .waits
    else .place (rowPlace s h x).1 (rowPlace s h x).2

/-- The reserved bits of an index entry (R174). -/
def entryBad (e : Nat) : Bool := bits e 62 56 != 0
/-- The row of an index entry. -/
def entryRow (e : Nat) : Nat := bits e 39 0
/-- SKIP. -/
def entrySkip (e : Nat) : Bool := bit e 63

/-! ### Cut holds (R395 to R397) -/

/-- The state of a job slot. -/
def pairOf (s : State) (n : Nat) : PairSt := Tbl.getD s.pairs n PairSt.init
/-- The state of a job slot replaced. -/
def setPair (s : State) (n : Nat) (p : PairSt) : State := { s with pairs := Tbl.put s.pairs n p PairSt.init }

/-- A write tagged t to [a, a+n) of region r waits for a cut: cut t - 1 is still to be taken, or a captured page is still held (R397). -/
def cutHolds (s : State) (r : Region) (t a n : Nat) : Bool :=
  (r.mirror || r.ckpt) &&
  (match slotOf s r.job with
  | none => false
  | some k =>
    let p := pairOf s k
    (match p.next with
      | none => false
      | some u => u < t) ||
    p.pages.any (fun g => overlaps (g * 4096) 4096 a n))

end Sys2Proof.Machine
end

