-- ==== Sys2Proof/Machine/Gather.lean ====
section
/-!
DEFINITION. Sys2Proof/Machine/Gather.lean: the gather engine: GATHER tiles, FETCH requests and their stages, rows asked of peers and
served to them (R166 to R168, R175 to R178, R193). A run asks its peers for one row at a time (log entry 13).
-/
namespace Sys2Proof.Machine

/-! ### Runs -/

/-- The cluster of a core. -/
def clusterOf (l : Nat) : Nat := l / 16

/-- The run with a number. -/
def gatherOf (s : State) (id : Nat) : Option GRun := s.gathers.find? (fun g => g.id == id)
/-- A run replaced. -/
def setGather (s : State) (g : GRun) : State := { s with gathers := s.gathers.map (fun x => if x.id = g.id then g else x) }

/-- Rows written one after the other from row k on, up to the first whose write is refused: the rows written. -/
def putRows (dst rb : Nat) : List (List Byte) → Nat → State → State × Nat
  | [], k, s => (s, k)
  | d :: t, k, s =>
    match writeMem s (dst + k * rb) d with
    | (s, some _) => (s, k)
    | (s, none) => putRows dst rb t (k + 1) s

/-- A FETCH ended with a status: its rows committed, none of them where it met uncorrectable data (Table 10.3); DETAIL is the position of the row
that failed, next the rows committed. A fill sets COMPLETE (R177). -/
def endFetch (s : State) (g : GRun) (st : Status) : State :=
  let fin := fun (s : State) (st : Status) (detail rows : Nat) =>
    setGather s { g with wait := none, held := false, got := [], next := rows, result := some (st, if st = .ok then 0 else detail) }
  if st = .uncorrectable then fin s st g.next 0
  else
    match putRows g.dst g.rowBytes (chunks g.rowBytes g.got) 0 s with
    | (s, k) =>
      if k < g.next then fin s .uncorrectable k k
      else match st, g.fill with
        | .ok, some a => match writeMem s (a + 6) (toLE 2 1) with
          | (s, some _) => fin s .uncorrectable k k
          | (s, none) => fin s .ok k k
        | st, _ => fin s st k k

/-- A run that ends: a tile gets its status, a FETCH waits for FETCH_COMPLETE (R176). -/
def endGather (s : State) (g : GRun) (st : Status) : State :=
  match g.who with
  | .tile l k seq => setRun { s with gathers := s.gathers.filter (fun x => x.id != g.id) } l k seq (.done st (if st = .ok then 0 else g.next))
  | .fetch _ _ => endFetch s g st

/-- A request put among the held ones, by the fence or by the step rules. -/
def hold (s : State) (h : Held) (fence : Bool) : State := { s with heldRows := s.heldRows.filter (fun x => x.1 != h) ++ [(h, fence)] }

/-- The header of the table a run reads. -/
def regionHdr (id : Nat) : Rd TblHdr := do
  match regionById (← get) id with
  | some r => readTable r
  | none => throw .permission

/-- The stage header (Table 6.7) for a run. -/
def stageBytes (job tensor step u rb crc : Nat) (complete : Bool) : List Byte :=
  toLE 4 0x47535450 ++ toLE 2 job ++ toLE 2 (b2n complete) ++ toLE 4 tensor ++ toLE 4 step ++ toLE 4 u ++ toLE 4 rb ++ toLE 4 crc ++ zeros 36

/-- One row committed to its place in the destination, or kept for the end of its FETCH; the next one is due. -/
def commitRow (s : State) (g : GRun) (d : List Byte) : State :=
  let go := { g with next := g.next + 1, wait := none, held := false }
  match g.who with
  | .tile _ _ _ =>
    (match writeMem s (g.dst + g.next * g.rowBytes) d with
    | (s, some _) => endGather s g .uncorrectable
    | (s, none) => setGather s go)
  | .fetch _ _ => setGather s { go with got := g.got ++ d }

/-- The mark of a table's ROW_FMT and OPT that a ROW_REQ or CONTRIB carries in AUX (log entry 14). -/
def hdrMark (h : TblHdr) : Nat := 2 ^ 22 + h.fmt.code * 2 ^ 6 + h.opt * 2 ^ 10

/-- The mark of a packet says that the sender's header differs from this device's; a packet without a mark says nothing (Table 6.6). -/
def hdrDiffers (h : TblHdr) (aux : Nat) : Bool := bit aux 22 && bits aux 13 6 != h.fmt.code + h.opt * 16

/-- The data of the row in a slot: of a row that was lost, only once its whole slot reads (R187). -/
def readRow (h : TblHdr) (slot : Nat) (lost : Bool) : Rd (List Byte) := do
  let b ← rdBytes (h.slotAddr slot) (if lost then h.slotBytes else h.rowBytes)
  pure (b.take h.rowBytes)

/-- The row was lost and has not been read since (R187). -/
def isLost (s : State) (region row : Nat) : Bool := s.lostRows.contains (region, row)

/-- The payload of a ROW_REQ for one entry (Table 11.5). -/
def rowReqBytes (tensor rb mark entry : Nat) : List Byte := toLE 4 tensor ++ toLE 4 rb ++ toLE 8 mark ++ toLE 8 entry

/-- AUX of a ROW_REQ by slot: bit 23, and bit 21 for a row that was lost (log entry 14). -/
def slotAux (lost : Bool) : Nat := 2 ^ 23 + b2n lost * 2 ^ 21

/-- A row asked of a device on the job's context, by row ID or, with slot, of the device that holds its slot. -/
def askRow (s : State) (g : GRun) (h : TblHdr) (dev entry : Nat) (slot : Option (Nat × Bool)) : State :=
  match peerRefusal s g.job dev, ctxTo s g.job dev with
  | none, some c =>
    let t := nextTag s
    let p : Pkt := { ptype := ptRowReq, vc := jobVc s g.job false, step := g.step, addr := (slot.map (·.1)).getD 0,
                     aux := (slot.map (fun x => slotAux x.2)).getD (hdrMark h), payload := rowReqBytes h.reg.tensor h.rowBytes (if slot.isSome then devId s else 0) entry }
    sendReq (setGather s { g with wait := some t, held := false }) c p (.rows g.cluster g.id)
  | some st, _ => endGather s g st
  | none, none => endGather s g .permission

/-- A row of a table here read from its slot and committed. -/
def localRow (s : State) (g : GRun) (h : TblHdr) (row slot : Nat) : State :=
  match (readRow h slot (isLost s h.reg.id row)).go s with
  | (s, .error st) => endGather s g st
  | (s, .ok d) => commitRow (inc s .gatherRowCnt g.cluster) g d

/-- The next row of a run, from its source (R175): served, asked, held, or the run's end. -/
def rowFrom (s : State) (g : GRun) (h : TblHdr) (e owner : Nat) : State :=
  let x := entryRow e
  if owner ≠ devId s then askRow s g h owner (x + owner * 2 ^ 40) none
  else
    let s := { s with homes := if h.reg.role = 3 then Tbl.set s.homes h.reg.id (homeOf s h) else s.homes }
    match readVerdict s h g.step x with
    | .fails st => endGather s g st
    | .waits => hold (setGather (if g.held then s else inc s .updReadHoldCnt) { g with held := true }) (.run g.id) false
    | .fenced => hold (setGather s { g with held := true }) (.run g.id) true
    | .place dev slot => if dev = devId s then localRow s g h x slot else askRow s g h dev e (some (slot, isLost s h.reg.id x))

/-- One step of a run: the next entry read, and its row. -/
def gatherRow (s : State) (g : GRun) : State :=
  match g.stage with
  | some a =>
    match readMem s (a + 64 + g.next * g.rowBytes) g.rowBytes with
    | (s, .error _) => endGather s g .uncorrectable
    | (s, .ok d) => commitRow (inc s .gatherStageHitCnt g.cluster) g d
  | none =>
    match (rdNat (g.list + 8 * g.next) 8).go s with
    | (s, .error st) => endGather s g st
    | (s, .ok e) =>
      if entryBad e then endGather s g .format
      else if entrySkip e then commitRow s g (zeros g.rowBytes)
      else match (regionHdr g.region).go s with
        | (s, .error st) => endGather s g st
        | (s, .ok h) =>
          match (rowOwner h (entryRow e)).go s with
          | (s, .error st) => endGather s g st
          | (s, .ok o) => rowFrom s g h e o

/-- A run taken forward until it waits, is held, or ends. -/
def runGather (id : Nat) : Nat → State → State
  | 0, s => s
  | n + 1, s =>
    match gatherOf s id with
    | none => s
    | some g =>
      if g.result.isSome || g.wait.isSome || g.held then s
      else if g.next = g.n then endGather s g .ok
      else runGather id n (gatherRow s g)

/-- A run that begins. -/
def beginGather (s : State) (g : GRun) : State :=
  runGather g.id (g.n + 2) { s with gathers := s.gathers ++ [g], runCount := s.runCount + 1 }

/-- A held run tried again. -/
def retryRun (s : State) (id : Nat) : State :=
  match gatherOf s id with
  | none => s
  | some g => if g.held then runGather id (g.n + 2) (gatherRow s g) else s

/-! ### GATHER (R175) -/

/-- The region of the table a GATHER names: SRC_A's, or this device's own copy of a remote device's, which lies at the same BASE (R172). -/
def gatherRegion (s : State) (j : Nat) (d : List Byte) : Option Region := regionOf s j (aAddr (dSrcA d))

/-- The work of a GATHER that starts. -/
def gatherGo (s : State) (l k : Nat) (q : QTile) (j : Nat) : State :=
  let d := q.desc
  match gatherRegion s j d with
  | none => setRun s l k q.seq (.done .permission 0)
  | some r =>
    match (readTable r).go s with
    | (s, .error st) => setRun s l k q.seq (.done st 0)
    | (s, .ok h) =>
      if h.rowBytes ≠ dP0 d ∨ [dFmtA d, dFmtD d].any (fun c => c != 0 && Fmt.ofCode c != some h.fmt) then setRun s l k q.seq (.done .format 0)
      else beginGather s ⟨s.runCount, .tile l k q.seq, clusterOf l, j, dStep d, r.id, dP0 d, dSrcB d, dRows d, 0, dDst d, none, none, none, false, none, []⟩

/-! ### FETCH (R167, R168, R177, Tables 6.1 and 6.2) -/

/-- TABLE_REGION. -/
def fTable (d : List Byte) : Nat := fld d 2 2
/-- STAGE_MODE of a FETCH, SRC_KIND of a SORT. -/
def fMode (d : List Byte) : Nat := fbits d 1 1 3 2
/-- LIST_ADDR of a FETCH, SRC_ADDR of a SORT. -/
def fSrc (d : List Byte) : Nat := fld d 0x10 5
/-- DST_ADDR of a FETCH, OUT_ADDR of a SORT. -/
def fDst (d : List Byte) : Nat := fld d 0x18 5
/-- DST_BYTES of a FETCH, OUT_BYTES of a SORT. -/
def fDstBytes (d : List Byte) : Nat := fld d 0x20 4
/-- STAGE_BYTES of a FETCH, SCRATCH_BYTES of a SORT. -/
def fAuxBytes (d : List Byte) : Nat := fld d 0x24 4
/-- STAGE_ADDR of a FETCH, SCRATCH_ADDR of a SORT. -/
def fAux (d : List Byte) : Nat := fld d 0x28 5
/-- CQ_ID. -/
def fCq (d : List Byte) : Nat := fbits d 0x30 2 14 0
/-- SIG_CORE. -/
def fSigCore (d : List Byte) : Nat := fbits d 0x32 2 8 0
/-- SIG_CTR. -/
def fSigCtr (d : List Byte) : Nat := fbits d 0x34 2 5 0
/-- SIG_INC. -/
def fSigInc (d : List Byte) : Nat := fld d 0x36 2

/-- The reserved fields that SORT and FETCH share (Table 6.1). -/
def fReserved (d : List Byte) : Bool :=
  fbits d 1 1 7 4 == 0 && fld d 6 2 == 0 && fld d 0x15 3 == 0 && fld d 0x1D 3 == 0 && fld d 0x2D 3 == 0 && fbits d 0x30 2 15 15 == 0 &&
  fbits d 0x32 2 15 9 == 0 && fbits d 0x34 2 15 6 == 0 && allZero (slice d 0x38 8) &&
  (if sSigEn d then fSigInc d != 0 else fSigInc d == 0) && fSrc d % 8 == 0 && fDst d % 64 == 0 && fAux d % 64 == 0

/-- The PERMISSION checks that SORT and FETCH share with Table 5.6. -/
def fShared (s : State) (j : Nat) (d : List Byte) : Bool :=
  cqBound s (fCq d) j 2 &&
  (rd s .logicalCoreCount ≤ fSigCore d || (coreOfJob s (fSigCore d) j && ctrOwned s (fSigCore d) (fSigCtr d) j))

/-- The range would write a committed sampled block (R146) or a shadow (R394). -/
def writesBlock (s : State) (a n : Nat) : Bool := meetsShadow s a n || n != 0 && s.blocks.any (fun b => b.committed && overlaps a n b.base b.bytes)

/-- The table region of a request: of the job, ROLE 0x2 or 0x3. -/
def tableRegion (s : State) (j id : Nat) : Option Region :=
  s.bound.regions.find? (fun r => r.id == id && r.job == j && (r.role == 2 || r.role == 3) && partRunning s r.part)

/-- A core-store region. -/
def inCoreStore (r : Region) : Bool := 0x8000000000 ≤ r.base && r.base < gbufBase 0

/-- The list a FETCH reads, once its descriptor is checked: u, LIST_CRC, HAS_TARGET and COUNTED, TARGET_CORE, EDGE_TOTAL, TOTAL_BYTES. -/
structure ListHdr where
  u : Nat
  crc : Nat
  target : Option Nat
  counted : Bool
  edges : Nat
  total : Nat
  deriving DecidableEq, Repr

/-- The PERMISSION checks of a FETCH. -/
def fetchPerm (s : State) (c j : Nat) (d : List Byte) : Bool :=
  let m := fMode d
  fShared s j d && (tableRegion s j (fTable d)).isSome && rangeIn s j (fSrc d) 0 (fun _ => true) != .noRegion &&
  (m == 1 || rangeIn s j (fDst d) 0 inCoreStore != .noRegion) && (m == 0 || rangeIn s j (fAux d) 0 (inGbuf c) != .noRegion) &&
  !(m != 1 && writesBlock s (fDst d) (fDstBytes d)) && !(m == 1 && writesBlock s (fAux d) (fAuxBytes d))

/-- The FORMAT checks of a FETCH's own fields. -/
def fetchForm (d : List Byte) : Bool :=
  let m := fMode d
  fReserved d && m != 3 && fld d 0xC 4 == 0 && fSrc d % 64 == 0 && (m != 1 || (fDst d == 0 && fDstBytes d == 0)) &&
  (m != 0 || (fAux d == 0 && fAuxBytes d == 0))

/-- The unique list's header against Table 6.3 and the descriptor. -/
def readList (j : Nat) (d : List Byte) : Rd ListHdr := do
  let h ← rdBytes (fSrc d) 64
  if fld h 0 4 ≠ 0x4C514E55 ∨ fld h 0xC 2 % 4096 ≠ j ∨ fld h 8 4 ≠ sStep d ∨ (fld h 6 2 ≠ 0xFFFF ∧ fld h 6 2 ≠ fTable d) then throw .format
  pure ⟨fld h 0x14 4, fld h 0x1C 4, if fbit h 0xE 2 15 then some (fbits h 0xE 2 8 0) else none, fbit h 4 1 2, fld h 0x2C 4, fld h 0x18 4⟩

/-- The checks of a FETCH in the order of R16: the list and the table, or the status it completes with. -/
def fetchCheck (c j : Nat) (d : List Byte) : Rd (ListHdr × TblHdr) := do
  let s ← get
  if !fetchPerm s c j d then throw .permission
  if !fetchForm d then throw .format
  let x ← readList j d
  let h ← (match tableRegion s j (fTable d) with
    | some r => readTable r
    | none => throw .permission)
  let m := fMode d
  if rangeIn s j (fSrc d) (max x.total (64 + 8 * x.u)) (fun _ => true) ≠ .inside then throw .bounds
  if m ≠ 1 ∧ (rangeIn s j (fDst d) (fDstBytes d) inCoreStore ≠ .inside ∨ fDstBytes d < x.u * h.rowBytes) then throw .bounds
  if m ≠ 0 ∧ (rangeIn s j (fAux d) (fAuxBytes d) (inGbuf c) ≠ .inside ∨ fAuxBytes d < 64 + x.u * h.rowBytes) then throw .bounds
  if rd s .logicalCoreCount ≤ fSigCore d then throw .indexRange
  pure (x, h)

/-- The unique entries of a checked FETCH against LIST_CRC: the status and DETAIL of a fault, the position of an entry that cannot be read (R176). -/
def fetchEntries (s : State) (d : List Byte) (x : ListHdr) : State × Option (Status × Nat) :=
  match readMem s (fSrc d + 64) (8 * x.u) with
  | (s, .error w) => (s, some (.uncorrectable, (w - (fSrc d + 64)) / 8))
  | (s, .ok e) => (s, if crc32c e = x.crc then none else some (.checkMismatch, 0))

/-- The unit that a SORT or FETCH request runs on. -/
def reqUnit (c : Nat) (d : List Byte) : RecUnit := if fld d 0 1 = 0x20 then .sorter c else .gather c

/-- A SORT or FETCH completed: counters, record, and then its signal (R167, R373, R515). -/
def endUnitReq (s : State) (c j : Nat) (d : List Byte) (st : Status) (detail extra : Nat) : State :=
  let rec' := unitRecord (sTag d) (fld d 0 1) st (sStep d) detail extra
  let s := if st = .ok then (if fld d 0 1 = 0x20 then inc s .sortOkCnt c else s) else inc s .sortFailCnt c
  let sig := if st = .ok ∧ sSigEn d = true then some (unitSignal j (fSigCore d) (fSigCtr d) (fSigInc d)) else none
  unitEnd s (reqUnit c d) (fCq d) j rec' (st == .ok) (sCrOnOk d) sig

/-- Whether a stage is complete and matches the request in the fields that R177 lists. -/
def stageMatch (j : Nat) (d : List Byte) (x : ListHdr) (h : TblHdr) : Rd Bool := do
  let b ← rdBytes (fAux d) 64
  let want := [(0, 0x47535450), (8, h.reg.tensor), (0xC, sStep d), (0x10, x.u), (0x14, h.rowBytes), (0x18, x.crc)]
  pure (want.all (fun w => fld b w.1 4 == w.2) && fbits b 4 2 11 0 == j && fbit b 6 2 0)

/-- FETCH: the front entry of a queue is a FETCH: checked, and its run begun. -/
def fetch (s : State) (q : Nat) : State :=
  match frontEntry s q with
  | none => s
  | some (c, j, d) =>
    if fld d 0 1 ≠ 0x21 ∨ unitWaits s (.gather c) then s
    else if clusterResetting s c then endUnitReq (popFifo s q) c j d .aborted 0 0
    else
      let s := popFifo s q
      match (fetchCheck c j d).go s with
      | (s, .error st) => endUnitReq s c j d st 0 0
      | (s, .ok (x, h)) =>
        match fetchEntries s d x with
        | (s, some (st, detail)) => endUnitReq s c j d st detail 0
        | (s, none) =>
        let g : GRun := ⟨s.runCount, .fetch j d, c, j, sStep d, fTable d, h.rowBytes, fSrc d + 64, x.u, 0, fDst d, none, none, none, false, none, []⟩
        if fMode d = 0 then beginGather s g
        else if fMode d = 2 then
          match (stageMatch j d x h).go s with
          | (s, .error st) => endUnitReq s c j d st 0 0
          | (s, .ok true) => beginGather s { g with stage := some (fAux d) }
          | (s, .ok false) => beginGather (inc s .gatherStageMissCnt c) g
        else match writeMem s (fAux d) (stageBytes j h.reg.tensor (sStep d) x.u h.rowBytes x.crc false) with
          | (s, some _) => endUnitReq s c j d .uncorrectable 0 0
          | (s, none) => beginGather s { g with dst := fAux d + 64, fill := some (fAux d) }

/-- A FETCH with OK may count the block's edges, and then marks the list (R35, R177). -/
def countEdges (s : State) (j : Nat) (d : List Byte) : State :=
  match (readList j d).go s with
  | (s, .error _) => s
  | (s, .ok x) =>
    match x.target with
    | some l =>
      if fMode d ≠ 1 && !x.counted && inCore l (fDst d) then
        (writeMem (inc s .gatheredEdgeCnt 0 x.edges) (fSrc d + 4) (toLE 1 (memNat s (fSrc d + 4) 1 + 4))).1
      else s
    | none => s

/-- FETCH_COMPLETE: the ended run with a number leaves. -/
def fetchComplete (s : State) (id : Nat) : State :=
  match gatherOf s id with
  | none => s
  | some g =>
    match g.who, g.result with
    | .fetch j d, some (st, detail) =>
      if unitWaits s (.gather g.cluster) then s
      else
        let s := { s with gathers := s.gathers.filter (fun x => x.id != id) }
        let s := if st = .ok then countEdges s j d else s
        endUnitReq s g.cluster j d st detail g.next
    | _, _ => s

/-! ### Rows of peers -/

/-- A request that the device asked answers with TIMEOUT reports that device (R176, R356, Table 12.6). -/
def noteTimeout (s : State) (q : Pkt) (st : Status) : State := if st = .timeout then reportSuspect s q.job q.dst 2 q.step else s

/-- The answer to a row asked of a peer. -/
def rowsResp (s : State) (c id tag : Nat) (st : Status) (b : List Byte) : State :=
  match gatherOf s id with
  | none => inc s .gatherLateReplyCnt c
  | some g =>
    if g.wait ≠ some tag then inc s .gatherLateReplyCnt g.cluster
    else if st ≠ .ok then endGather s { g with wait := none } st
    else
      let s := inc (inc s .gatherRowCnt g.cluster) .gatherPeerRowCnt g.cluster
      runGather id (g.n + 2) (commitRow s g (b.take g.rowBytes))

/-- What a home makes of the entries of a ROW_REQ: their rows, a hold, or the rows up to one that another device holds, with the entries after it. -/
inductive ServeV where
  | answer (st : Status) (data : List Byte)
  | waits (fence : Bool)
  | forward (dev slot entry : Nat) (lost : Bool) (data : List Byte) (rest : List Nat)
  deriving DecidableEq, Repr

/-- One entry of a ROW_REQ at its home. -/
def serveEntry (h : TblHdr) (step e : Nat) : Rd ServeV := do
  if entryBad e then throw .format
  if entrySkip e then return .answer .ok (zeros h.rowBytes)
  let o ← rowOwner h (entryRow e)
  if o ≠ devId (← get) then throw .indexRange
  let s ← get
  match readVerdict s h step (entryRow e) with
  | .fails st => throw st
  | .waits => return .waits false
  | .fenced => return .waits true
  | .place dev slot =>
    let lost := isLost s h.reg.id (entryRow e)
    if dev = devId s then
      let b ← readRow h slot lost
      return .answer .ok b
    else return .forward dev slot e lost [] []

/-- The entries served in order while their rows lie here. -/
def serveEntries (h : TblHdr) (step : Nat) : List Nat → List Byte → Rd ServeV
  | [], acc => pure (.answer .ok acc)
  | e :: t, acc => do
    match ← serveEntry h step e with
    | .answer _ b => serveEntries h step t (acc ++ b)
    | .forward dev slot e lost _ _ => pure (.forward dev slot e lost acc t)
    | .waits f => pure (.waits f)

/-- The whole of a ROW_REQ at its home (R176, R182). -/
def serveRows (p : Pkt) : Rd ServeV := do
  let s ← get
  let pl := p.payload
  match s.bound.regions.find? (fun r => r.job == p.job && r.tensor == fld pl 0 4 && (r.role == 2 || r.role == 3) && partRunning s r.part) with
  | none => throw .permission
  | some r =>
    if pl.length % 8 ≠ 0 ∨ (fld pl 8 8 ≠ 0 ∧ !bit p.aux 23) then throw .format
    let h ← readTable r
    if h.rowBytes ≠ fld pl 4 4 ∨ hdrDiffers h p.aux then throw .permission
    modify (fun s => if r.role = 3 then setHome s r.id (homeOf s h) else s)
    if bit p.aux 23 then
      if h.rows + h.spare ≤ p.addr then throw .indexRange
      let b ← readRow h p.addr (bit p.aux 21)
      return .answer .ok b
    serveEntries h p.step ((chunks 8 (pl.drop 16)).map leNat) []

/-- RESP packets of rows from byte off of the answer on; with more, further packets of the same answer follow (R310). -/
def rowParts (tag job step off : Nat) (b : List Byte) (more : Bool) : List Pkt :=
  (respParts tag 0 job step off (chunks 4096 b)).map (fun p => if more then { p with aux := 1 } else p)

/-- Rows of a home's own in an answer to p, from byte p.addr of it on: the requester's answer so far, or its end. -/
def answerRows (s : State) (p : Pkt) (b : List Byte) (more : Bool) : State :=
  if b = [] then (if more then s else respond s p .ok)
  else if ctxUp s p.ctx then sendAll p.ctx (rowParts p.tag p.job p.step p.addr b more) s
  else inc s .ctxUnknownCnt

/-- What a forwarded ROW_REQ carries for its holder: the device that asked, its tag, where the row lies in the answer in units of 32 bytes, and
whether more follows (log entry 14). -/
def fwdMark (p : Pkt) (more : Bool) : Nat := p.src + p.tag * 2 ^ 16 + p.addr / 32 * 2 ^ 30 + b2n more * 2 ^ 50

/-- A row answered by its holder straight to the device that asked, which may be the holder itself, and the home told (R193). -/
def answerHolder (s : State) (p : Pkt) (st : Status) (b : List Byte) : State :=
  let mark := fld p.payload 8 8
  let dev := bits mark 15 0
  let tag := bits mark 29 16
  if dev = p.src then respond s p st b
  else if st ≠ .ok then respond s p st
  else if dev = devId s then
    respond (match Tbl.find s.tags tag with
      | some ⟨_, _, .rows c id, _, false⟩ => rowsResp (releaseTag s tag) c id tag .ok b
      | _ => s) p .ok
  else match peerRefusal s p.job dev, ctxTo s p.job dev with
    | none, some c => respond (sendAll c (rowParts tag p.job p.step (32 * bits mark 49 30) b (bit mark 50)) s) p .ok
    | some st, _ => respond s p st
    | none, none => respond s p .permission

/-- A row asked of the device that holds its slot, on behalf of the device that asked; p is the request from that row on, rest the entries after it,
which are served once the holder has answered (R193). -/
def forwardRow (s : State) (p : Pkt) (dev slot e : Nat) (lost : Bool) (rest : List Nat) : State :=
  match peerRefusal s p.job dev, ctxTo s p.job dev with
  | none, some c =>
    let rb := fld p.payload 4 4
    let q : Pkt := { ptype := ptRowReq, vc := jobVc s p.job false, step := p.step, addr := slot, aux := slotAux lost,
                     payload := rowReqBytes (fld p.payload 0 4) rb (fwdMark p (!rest.isEmpty)) e }
    sendReq s c q (.rowFwd { p with addr := p.addr + rb, payload := p.payload.take 16 ++ rest.flatMap (toLE 8) })
  | some st, _ => respond s p st
  | none, none => respond s p .permission

/-- A ROW_REQ taken in, new, held before, or with its first rows answered. -/
def rowReq (s : State) (p : Pkt) (again : Bool) : State :=
  match (serveRows p).go s with
  | (s, .error st) => respond s p st
  | (s, .ok (.answer st b)) => if bit p.aux 23 then answerHolder s p st b else answerRows s p b false
  | (s, .ok (.waits fence)) => hold (if fence || again then s else inc s .updReadHoldCnt) (.req p) fence
  | (s, .ok (.forward dev slot e lost b rest)) =>
    forwardRow (answerRows s p b true) { p with addr := p.addr + b.length } dev slot e lost rest

/-- The answer of the holder that a row was asked of: the entries after it are served, or the request fails. -/
def rowFwdResp (s : State) (req : Pkt) (st : Status) (b : List Byte) : State :=
  if st = .ok ∧ b = [] then (if req.payload.length ≤ 16 then s else rowReq s req true) else respond s req st b

/-! ### Meanings -/

/-- GATHER. -/
def execGather (core ctx : Nat) (s : State) : Host.Outcome State Fault Refusal :=
  .next (if unitWaits s (.gather (clusterOf core)) then s else startTile s core ctx opGather (fun s q j => gatherGo s core ctx q j))

/-- FETCH. -/
def execFetch (queue : Nat) (s : State) : Host.Outcome State Fault Refusal := .next (fetch s queue)
/-- FETCH_COMPLETE. -/
def execFetchComplete (run : Nat) (s : State) : Host.Outcome State Fault Refusal := .next (fetchComplete s run)

/-- ROW_REQ. -/
def execRowReq (pkt : Pkt) (s : State) : Host.Outcome State Fault Refusal :=
  .next (match takeRequest s pkt with
    | (s, false) => s
    | (s, true) => rowReq s (if bit pkt.aux 23 then pkt else { pkt with addr := 0 }) false)

end Sys2Proof.Machine
end

