-- ==== Sys2Proof/Machine/Sorter.lean ====
section
/-!
DEFINITION. Sys2Proof/Machine/Sorter.lean: SORT requests and unique lists, RELEASE, and queue entries no unit takes (R166 to R171, R145).
-/
namespace Sys2Proof.Machine

/-! ### Sorting -/

/-- x put behind every element whose key is not larger. -/
def insKey {α : Type} (key : α → Nat) (x : α) : List α → List α
  | [] => [x]
  | y :: t => if key x < key y then x :: y :: t else y :: insKey key x t

/-- A stable sort by key. -/
def sortBy {α : Type} (key : α → Nat) (l : List α) : List α := l.foldl (fun acc x => insKey key x acc) []

/-- Runs of equal key in a sorted list. -/
def runsOf {α : Type} (key : α → Nat) : List α → List (List α)
  | [] => []
  | x :: t =>
    match runsOf key t with
    | [] => [[x]]
    | r :: rs => match r with
      | y :: _ => if key x = key y then (x :: r) :: rs else [x] :: r :: rs
      | [] => [x] :: rs

/-! ### Inputs (R169) -/

/-- A computation that can end with a status and a DETAIL. -/
abbrev RdD (α : Type) := ExceptT (Status × Nat) (StateM State) α

/-- A computation whose failure has a DETAIL. -/
def Rd.at {α : Type} (x : Rd α) (detail : Nat) : RdD α := do
  let r := x.go (← get)
  set r.1
  match r.2 with
  | .ok a => pure a
  | .error st => throw (st, detail)

/-- SRC_COUNT. -/
def sSrcCount (d : List Byte) : Nat := fld d 0xC 4

/-- The header of the block that a request sorts; of an index list, nothing (R170). -/
def blockHdr (d : List Byte) : Rd (List Byte) := if fMode d = 1 then rdBytes (fSrc d) 128 else pure []

/-- HOPS of a block header. -/
def hdrHops (b : List Byte) : Nat := fld b 4 1

/-- Node lists of a block at a with header b: count and address (Table 5.9). -/
def blockLists (a : Nat) (b : List Byte) : List (Nat × Nat) :=
  (List.range (hdrHops b + 1)).map (fun i => (fld b (0x18 + 4 * i) 4, a + fld b (0x40 + 4 * i) 4))

/-- n of a request. -/
def inputCount (d b : List Byte) : Nat :=
  if fMode d = 0 then sSrcCount d else ((blockLists (fSrc d) b).map (·.1)).sum

/-- The addresses of a request's inputs, in order. -/
def inputAddrs (d b : List Byte) : List Nat :=
  if fMode d = 0 then (List.range (sSrcCount d)).map (fun i => fSrc d + 8 * i)
  else (blockLists (fSrc d) b).flatMap (fun (n, a) => (List.range n).map (fun i => a + 8 * i))

/-- The bytes a SORT reads. -/
def srcRange (s : State) (c j : Nat) (d : List Byte) : Nat × Nat :=
  if fMode d = 0 then (fSrc d, 8 * sSrcCount d) else (fSrc d, ((liveBlock s c j (fSrc d)).map (·.bytes)).getD 0)

/-- TOTAL_BYTES of R169. -/
def listBytes (u n : Nat) : Nat := 64 + roundUp (8 * u) 64 + roundUp (4 * u) 64 + roundUp (4 * n) 64

/-- One input: row, owner and skip; faults of R170. -/
def readInput (h : Option TblHdr) (a i : Nat) : RdD (Option (Nat × Nat)) := do
  let e ← (rdNat a 8).at i
  match h with
  | none => pure (some (entryRow e, bits e 55 40))
  | some h =>
    if entryBad e then throw (.format, i)
    if entrySkip e then return none
    let o ← (rowOwner h (entryRow e)).at i
    pure (some (entryRow e, o))

/-- The inputs that are not skipped, as (row, owner, position). -/
def readInputs (h : Option TblHdr) : List Nat → Nat → RdD (List (Nat × Nat × Nat))
  | [], _ => pure []
  | a :: t, i => do
    let x ← readInput h a i
    let r ← readInputs h t (i + 1)
    pure (match x with
      | some (v, o) => (v, o, i) :: r
      | none => r)

/-- The block header of a request and the runs of equal row of its inputs (R169). -/
def sortRuns (d : List Byte) (j : Nat) : RdD (List Byte × List (List (Nat × Nat × Nat))) := do
  let b ← (blockHdr d).at 0
  let s ← get
  let h ← (if fMode d = 0 then do
      match tableRegion s j (fTable d) with
      | some r => let h ← (readTable r).at 0; pure (some h)
      | none => throw (.permission, 0)
    else pure none)
  let p ← readInputs h (inputAddrs d b) 0
  pure (b, runsOf (·.1) (sortBy (·.1) p))

/-- The inverse map: the unique position of each input, all ones for a skipped one. -/
def inverseMap (n : Nat) (runs : List (List (Nat × Nat × Nat))) : List Nat :=
  let t : Tbl Nat := runs.zipIdx.foldl (fun t (r, u) => r.foldl (fun t x => Tbl.set t x.2.2 u) t) []
  (List.range n).map (fun i => Tbl.getD t i 0xFFFFFFFF)

/-- The largest of a list of numbers. -/
def maxNat (l : List Nat) : Nat := l.foldl max 0

/-- The unique list of a request (R169, Table 6.3). -/
def uniqueList (d : List Byte) (j n : Nat) (blk : Option (Nat × Nat × Nat)) (runs : List (List (Nat × Nat × Nat))) : List Byte :=
  let u := runs.length
  let uniq := runs.flatMap (fun r => match r with
    | x :: _ => toLE 8 (x.1 + x.2.1 * 2 ^ 40)
    | [] => [])
  let cnt := runs.map (·.length)
  let cOff := 64 + roundUp (8 * u) 64
  toLE 4 0x4C514E55 ++ toLE 1 (fMode d) ++ toLE 1 ((blk.map (·.1)).getD 0) ++ toLE 2 (fTable d) ++ toLE 4 (sStep d) ++ toLE 2 j ++
  toLE 2 (match blk with
    | some (_, t, _) => t + 32768
    | none => 0) ++
  toLE 4 n ++ toLE 4 u ++ toLE 4 (listBytes u n) ++ toLE 4 (crc32c uniq) ++ toLE 4 64 ++ toLE 4 cOff ++ toLE 4 (cOff + roundUp (4 * u) 64) ++
  toLE 4 ((blk.map (·.2.2)).getD 0) ++ toLE 4 (maxNat cnt) ++ zeros 12 ++
  pad64 uniq ++ pad64 (cnt.flatMap (toLE 4)) ++ pad64 ((inverseMap n runs).flatMap (toLE 4))

/-! ### SORT (R168, Table 6.2) -/

/-- The checks of a SORT in the order of R16; b is its block's header, none where it cannot be read. -/
def sortCheck (s : State) (c j : Nat) (d : List Byte) (b : Option (List Byte)) : Status :=
  let k := fMode d
  let (sa, sn) := srcRange s c j d
  let n := inputCount d (b.getD [])
  let starts := fun (a : Nat) => rangeIn s j a 0 (fun _ => true) != .noRegion
  let fits := fun (a n : Nat) => rangeIn s j a n (fun _ => true) == .inside
  if !(fShared s j d && (k != 0 || (tableRegion s j (fTable d)).isSome) && (k != 1 || (liveBlock s c j (fSrc d)).isSome) && starts (fSrc d) &&
      starts (fDst d) && starts (fAux d) && !writesBlock s (fDst d) (fDstBytes d) && !writesBlock s (fAux d) (fAuxBytes d)) then .permission
  else if !(fReserved d && k ≤ 1 && (k == 0 || (fTable d == 0xFFFF && sSrcCount d == 0)) && sSrcCount d ≤ 0x1FFFFFFF &&
      !overlaps (fDst d) (fDstBytes d) (fAux d) (fAuxBytes d) && !overlaps (fDst d) (fDstBytes d) sa sn && !overlaps (fAux d) (fAuxBytes d) sa sn) then .format
  else if k = 0 ∧ sSrcCount d = 0 then .ok
  else if !(fits sa sn && fits (fDst d) (fDstBytes d) && fits (fAux d) (fAuxBytes d)) then .bounds
  else if b.isNone then .uncorrectable
  else if fAuxBytes d < 16 * n then .bounds
  else if rd s .logicalCoreCount ≤ fSigCore d then .indexRange
  else .ok

/-- The block's header read for the checks of a SORT whose SRC_ADDR is a live block of the job. -/
def sortHdr (s : State) (c j : Nat) (d : List Byte) : State × Option (List Byte) :=
  if (liveBlock s c j (fSrc d)).isSome then
    (match (blockHdr d).go s with
    | (s, .ok b) => (s, some b)
    | (s, .error _) => (s, none))
  else (s, some [])

/-- SORT: the front entry of a queue is a SORT: checked, and begun when the sorter runs no other. -/
def sortStart (s : State) (q : Nat) : State :=
  match frontEntry s q with
  | none => s
  | some (c, j, d) =>
    if fld d 0 1 ≠ 0x20 ∨ unitWaits s (.sorter c) then s
    else if clusterResetting s c then endUnitReq (popFifo s q) c j d .aborted 0 0
    else if s.sorts.any (fun r => r.cluster == c) then s
    else
      let r := sortHdr (popFifo s q) c j d
      let s := r.1
      match sortCheck s c j d r.2 with
      | .ok => if fMode d = 0 ∧ sSrcCount d = 0 then endUnitReq s c j d .ok 0 0 else { s with sorts := s.sorts ++ [⟨c, j, d⟩] }
      | st => endUnitReq s c j d st 0 0

/-- The unique list of a SORT that has sorted its input is written, or does not fit (R168, R169). -/
def sortWrite (s : State) (c j : Nat) (d b : List Byte) (runs : List (List (Nat × Nat × Nat))) : State :=
  let n := inputCount d b
  let u := runs.length
  if fDstBytes d < listBytes u n then endUnitReq s c j d .bounds 0 0
  else
    let s := leaveUndefined s (fAux d) (fAuxBytes d)
    let blk := if fMode d = 1 then
        some (hdrHops b, ((liveBlock s c j (fSrc d)).map (·.target)).getD 0, ((List.range 4).map (fun i => fld b (0x2C + 4 * i) 4)).sum)
      else none
    match writeMem s (fDst d) (uniqueList d j n blk runs) with
    | (s, some _) => endUnitReq s c j d .uncorrectable 0 0
    | (s, none) =>
      let m := maxNat (runs.map (·.length))
      let s := inc s .sortEntryCnt c ((runs.map (·.length)).sum)
      let s := if rd s .maxOccCount c < m then wr s .maxOccCount c m else s
      endUnitReq s c j d .ok 0 u

/-- RELEASEs held on a block are carried out (R171). -/
def releaseHeldOn (c j : Nat) : List (Nat × List Byte) → State → State
  | [], s => s
  | (q, d) :: t, s =>
    match unitQueue s q with
    | some (c', j') => if c' = c ∧ j' = j then releaseHeldOn c j t (doRelease s c j d) else releaseHeldOn c j t { s with heldRel := s.heldRel ++ [(q, d)] }
    | none => releaseHeldOn c j t s

/-- A SORT that fails while it runs: OUT zeroed up to the largest list its input could give, all of it where its block's header cannot be read;
scratch left undefined (R170). -/
def failSort (s : State) (c j : Nat) (d : List Byte) (st : Status) (detail : Nat) : State :=
  let out := match (blockHdr d).go s with
    | (_, .ok b) => listBytes (inputCount d b) (inputCount d b)
    | (_, .error _) => fDstBytes d
  let s := leaveUndefined s (fAux d) (fAuxBytes d)
  endUnitReq (zeroRange s (fDst d) (min (fDstBytes d) out)) c j d st detail 0

/-- SORT_COMPLETE: the cluster's SORT ends (R169 to R171). -/
def sortComplete (s : State) (c : Nat) : State :=
  match s.sorts.find? (fun r => r.cluster == c) with
  | none => s
  | some r =>
    if unitWaits s (.sorter c) then s else
    let d := r.desc
    let s := { s with sorts := s.sorts.filter (fun x => x.cluster != c) }
    let s := match (sortRuns d r.job).run s with
      | (.ok (b, runs), s) => sortWrite s c r.job d b runs
      | (.error (st, det), s) => failSort s c r.job d st det
    if fMode d = 1 then
      let mine := s.heldRel.filter (fun h => sBlockAddr h.2 == fSrc d)
      releaseHeldOn c r.job mine { s with heldRel := s.heldRel.filter (fun h => sBlockAddr h.2 != fSrc d) }
    else s

/-! ### RELEASE (R145, R171) and entries no unit takes (R166) -/

/-- RELEASE: the front entry of a queue is a RELEASE: carried out, or held while a SORT reads its block. -/
def release (s : State) (q : Nat) : State :=
  match frontEntry s q with
  | none => s
  | some (c, j, d) =>
    if fld d 0 1 ≠ 0x11 ∨ unitWaits s (.sampler c) then s
    else if clusterResetting s c then endSampReq (popFifo s q) c j d 0x11 .aborted 0 0
    else
      let s := popFifo s q
      if releaseCheck s c j d = .ok ∧ s.sorts.any (fun r => r.cluster == c && fMode r.desc == 1 && fSrc r.desc == sBlockAddr d) then
        { s with heldRel := s.heldRel ++ [(q, d)] }
      else doRelease s c j d

/-- QENTRY_BAD_OP: the front entry of a queue has an OP that no unit takes. -/
def badOp (s : State) (q : Nat) : State :=
  match frontEntry s q with
  | none => s
  | some (c, _, d) => if [0x10, 0x11, 0x20, 0x21].contains (fld d 0 1) then s else inc (popFifo s q) .qentryBadOpCnt c

/-! ### Meanings -/

/-- SORT. -/
def execSort (queue : Nat) (s : State) : Host.Outcome State Fault Refusal := .next (sortStart s queue)
/-- SORT_COMPLETE. -/
def execSortComplete (cluster : Nat) (s : State) : Host.Outcome State Fault Refusal := .next (sortComplete s cluster)
/-- RELEASE. -/
def execRelease (queue : Nat) (s : State) : Host.Outcome State Fault Refusal := .next (release s queue)
/-- QENTRY_BAD_OP. -/
def execQentryBadOp (queue : Nat) (s : State) : Host.Outcome State Fault Refusal := .next (badOp s queue)

end Sys2Proof.Machine
end

