-- ==== Sys2Proof/Machine/Markers.lean ====
section
/-!
DEFINITION. Sys2Proof/Machine/Markers.lean: reduction trees, streams, RED_CTRL packets and step markers (R335, R341, R345, R351, R353).
-/
namespace Sys2Proof.Machine

/-! ### The tree (R335, R345) -/

/-- JOB_EPOCH of a job: of its slot (R349). -/
def epochOf (s : State) (j : Nat) : Nat := ((slotOf s j).map (fun n => rd s .jobEpoch n)).getD 0
/-- The job's tree of an epoch. -/
def treeOfEpoch (s : State) (j e : Nat) : Option Tree := s.bound.trees.find? (fun t => t.job == j && t.epoch == e && partRunning s t.part)
/-- The job's current tree (R349). -/
def treeNow (s : State) (j : Nat) : Option Tree := treeOfEpoch s j (epochOf s j)

/-- The lowest set bit of q. -/
def lowBit (q : Nat) : Nat := if q % 2 = 1 then 1 else match (List.range 17).find? (fun i => bit q i) with
  | some i => 2 ^ i
  | none => 0
/-- The parent of rank q. -/
def parentOf (q : Nat) : Nat := q - lowBit q
/-- The children of rank q among n ranks, ascending. -/
def childrenOf (n q : Nat) : List Nat :=
  (List.range 17).filterMap (fun j => if (q = 0 ∨ 2 ^ j < lowBit q) ∧ q + 2 ^ j < n then some (q + 2 ^ j) else none)

/-- The device of a rank. -/
def Tree.dev (t : Tree) (q : Nat) : Nat := (t.ranks.getD q (0, 0)).1
/-- The backup device of a rank, where it has one. -/
def Tree.backup (t : Tree) (q : Nat) : Option Nat :=
  match t.ranks[q]? with
  | some (d, b) => if b = d then none else some b
  | none => none
/-- The rank a device holds. -/
def Tree.rankOf (t : Tree) (dev : Nat) : Option Nat := (List.range t.ranks.length).find? (fun q => t.dev q == dev)
/-- The rank whose standby a device is. -/
def Tree.backs (t : Tree) (dev : Nat) : Option Nat := (List.range t.ranks.length).find? (fun q => t.backup q == some dev)
/-- A rank is standby. -/
def Tree.standby (t : Tree) (q : Nat) : Bool := (t.backs (t.dev q)).isSome
/-- The subtree of rank c holds a rank that is not standby. -/
def Tree.present (t : Tree) (c : Nat) : Bool := (List.range t.ranks.length).any (fun q => c ≤ q && q < c + lowBit c && !t.standby q)
/-- The children of rank q that send something: a subtree of standby ranks alone is absent (R335). -/
def Tree.kids (t : Tree) (q : Nat) : List Nat := (childrenOf t.ranks.length q).filter t.present

/-! ### Streams (R341) -/

/-- A packet sent on the stream with a device for a job, in the job's current epoch; nothing on a LOST one. -/
def sendStream (s : State) (dev j : Nat) (p : Pkt) : State :=
  let c := streamId dev j (epochOf s j)
  if flowOpen s c then sendOn s c { p with vc := jobVc s j true } else s

/-- The payload of a RED_CTRL packet (Table 12.4). -/
def redCtrlBytes (ctype cstatus seg arg : Nat) : List Byte := toLE 1 ctype ++ toLE 1 cstatus ++ toLE 2 seg ++ toLE 4 arg ++ zeros 8

/-- A RED_CTRL packet sent. AUX is used as Table 12.3 gives it for RED. -/
def sendCtrl (s : State) (dev j step ctype : Nat) (st : Status) (seg arg aux : Nat) : State :=
  sendStream s dev j { ptype := ptRedCtrl, step := step, aux := aux, payload := redCtrlBytes ctype st.code seg arg }

/-- What the fence of R351 makes of a packet's epoch. -/
inductive Fence where
  | current | stale | ahead
  deriving DecidableEq, Repr

/-- d of R351. -/
def fenceOf (s : State) (j e : Nat) : Fence :=
  let d := (epochOf s j + 256 - e % 256) % 256
  if d = 0 then .current else if d ≤ 128 then .stale else .ahead

/-! ### Step markers (R184, R353) -/

/-- A combined marker has arrived at every table of the tensor on this device. -/
def closeMark (s : State) (j tensor step : Nat) (ok : Bool) : State :=
  match s.bound.regions.find? (fun r => r.job == j && r.tensor == tensor && r.role == 3) with
  | some r => { s with closes := s.closes ++ [⟨r.id, step, ok, false⟩] }
  | none => s

/-- The combined marker sent down from rank q, and taken here: the step's own marker is complete (R350). -/
def markDown (s : State) (t : Tree) (q tensor step : Nat) (ok : Bool) : State :=
  let st := if ok then Status.ok else .checkMismatch
  let s := { s with markers := s.markers.filter (fun x => !(x.job == t.job && x.tensor == tensor && x.step == step)) }
  let s := (childrenOf t.ranks.length q).foldl (fun s c => sendCtrl s (t.dev c) t.job step 3 st 0 tensor (2 ^ 16)) s
  closeMark s t.job tensor step ok

/-- A marker record with everything its node waits for is sent up, or from rank 0 down (R353). -/
def tryMark (s : State) (m : MarkSt) : State :=
  match treeNow s m.job with
  | none => s
  | some t =>
    match t.rankOf (devId s) with
    | none => s
    | some q =>
      let kids := t.kids q
      let ownOk := if t.standby q then some true else m.own
      match ownOk with
      | none => s
      | some o =>
        if !m.up && kids.all (fun c => m.kids.any (fun k => k.1 == c)) then
          let ok := o && m.kids.all (·.2)
          if q = 0 then markDown s t 0 m.tensor m.step ok
          else sendCtrl { s with markers := s.markers.map (fun x => if x = m then { x with up := true } else x) } (t.dev (parentOf q)) m.job m.step 3 (if ok then .ok else .checkMismatch) 0 m.tensor q
        else s

/-- The marker record of (job, tensor, step), changed and looked at. -/
def withMark (s : State) (j tensor step : Nat) (f : MarkSt → MarkSt) : State :=
  let m := f ((s.markers.find? (fun x => x.job == j && x.tensor == tensor && x.step == step)).getD ⟨j, tensor, step, none, [], false⟩)
  tryMark { s with markers := s.markers.filter (fun x => !(x.job == j && x.tensor == tensor && x.step == step)) ++ [m] } m

/-- Step t of a tensor's table has closed at this home, by its combined marker or by time-out (R184). -/
def stepClosed (s : State) (j tensor t : Nat) : Bool :=
  match s.bound.regions.find? (fun r => r.job == j && r.tensor == tensor && r.role == 3) with
  | some r => ((Tbl.find s.homes r.id).map (fun x => decide ((t : Int) ≤ x.lastClosed))).getD false
  | none => false

/-- The own marker of a table's step: with one rank it closes the step (R184). -/
def ownMarker (s : State) (j tensor step : Nat) (ok : Bool) : State :=
  if ((jobOf s j).map (·.rankCount)).getD 1 ≤ 1 then closeMark s j tensor step ok
  else withMark s j tensor step (fun m => { m with own := some ok })

/-- A MARKER taken in: a child's upward, or the combined one. -/
def markerIn (s : State) (p : Pkt) : State :=
  let tensor := fld p.payload 4 4
  let ok := fld p.payload 1 1 == 0
  match treeNow s p.job with
  | none => s
  | some t =>
    if bit p.aux 16 then
      match t.rankOf (devId s) with
      | some q => markDown s t q tensor p.step ok
      | none => s
    else withMark s p.job tensor p.step (fun m => { m with kids := m.kids.filter (fun k => k.1 != bits p.aux 15 0) ++ [(bits p.aux 15 0, ok)] })

end Sys2Proof.Machine
end

