-- ==== Sys2Proof/Machine/Update.lean ====
section
/-!
DEFINITION. Sys2Proof/Machine/Update.lean: SCATTER_ADD, contributions, closing a step, the optimiser, and row migration
(R179 to R192, R232, R395, R398).
-/
namespace Sys2Proof.Machine

/-! ### The optimiser (R185, R186) -/

/-- A binary32 code, and whether a saturation happened on the way to it. -/
abbrev FS := Nat × Bool

/-- A two-operand operation on codes with their saturation marks. -/
def fs2 (op : Nat → Nat → Elem) (a b : FS) : FS :=
  let r := op a.1 b.1
  (r.code, a.2 || b.2 || 0 < r.sat)
/-- The sum, rounded by RNE. -/
def fsAdd : FS → FS → FS := fs2 add32
/-- The difference. -/
def fsSub : FS → FS → FS := fs2 sub32
/-- The product. -/
def fsMul : FS → FS → FS := fs2 mul32
/-- The quotient. -/
def fsDiv : FS → FS → FS := fs2 div32
/-- The square root. -/
def fsSqrt (a : FS) : FS := let r := sqrt32 a.1; (r.code, a.2 || 0 < r.sat)
/-- A code read from memory. -/
def fsIn (c : Nat) : FS := (c, Fmt.isInf .f32 c)
/-- One, as binary32. -/
def fsOne : FS := (0x3F800000, false)
/-- The quotient by a whole number, rounded once (OCC_MEAN of R185). -/
def fsDivNat (a : FS) (n : Nat) : FS :=
  let r := FVal.div .f32 .rne (Fmt.decode .f32 a.1) (.num ⟨false, n, 0, false⟩)
  (r.code, a.2 || 0 < r.sat)

/-- The u32 words of bytes. -/
def words32 (b : List Byte) : List Nat := (chunks 4 b).map leNat

/-- Elementwise combination of two lists. -/
def zipFS (f : FS → FS → FS) (a b : List FS) : List FS := (a.zip b).map (fun (x, y) => f x y)

/-- The optimiser step of Table 6.9: new state words and u, from gradient, weights, state and the once-per-row factors. -/
structure OptOut where
  state : List FS
  u : List FS
  b1t : FS
  b2t : FS

/-- Table 6.9. A saturation of a value that the whole row shares (the sums of ROW_ADAGRAD, a parameter, B1T or B2T) marks every element that
uses it. -/
def optStep (h : TblHdr) (g x st : List FS) (b1t b2t : FS) : OptOut :=
  let lr := fsIn h.lr
  let dec := fsIn h.decay
  let b1 := fsIn h.beta1
  let b2 := fsIn h.beta2
  let eps := fsIn h.eps
  let e := g.length
  if h.opt = 1 then ⟨[], zipFS (fun g x => fsMul lr (fsAdd g (fsMul dec x))) g x, b1t, b2t⟩
  else if h.opt = 2 then
    let m := zipFS (fun m g => fsAdd (fsMul b1 m) g) st g
    ⟨m, zipFS (fun m x => fsMul lr (fsAdd m (fsMul dec x))) m x, b1t, b2t⟩
  else if h.opt = 3 then
    let q := match g.map (fun y => fsMul (y.1, false) (y.1, false)) with
      | [] => (0, false)
      | y :: t => t.foldl fsAdd y
    let a := fsAdd (st.getD 0 (0, false)) (fsDivNat q e)
    let d := fsAdd (fsSqrt a) eps
    ⟨[a], g.map (fun y => fsDiv (fsMul lr y) d), b1t, b2t⟩
  else
    let m := zipFS (fun m g => fsAdd (fsMul b1 m) (fsMul (fsSub fsOne b1) g)) (st.take e) g
    let v := zipFS (fun v g => fsAdd (fsMul b2 v) (fsMul (fsMul (fsSub fsOne b2) g) g)) (st.drop e) g
    let b1t := fsMul b1t b1
    let b2t := fsMul b2t b2
    let u := (m.zip (v.zip x)).map (fun (m, v, x) =>
      fsMul lr (fsAdd (fsDiv (fsDiv m (fsSub fsOne b1t)) (fsAdd (fsSqrt (fsDiv v (fsSub fsOne b2t))) eps)) (fsMul dec x)))
    ⟨m ++ v, u, b1t, b2t⟩

/-- A count of the elements that meet p. -/
def countBy {α : Type} (p : α → Bool) (l : List α) : Nat := (l.filter p).length

/-- A slot after the apply of row x at step t: its bytes, elements saturated, NaNs written (R185). grad is the summed gradient. -/
def applySlot (h : TblHdr) (seed t x : Nat) (grad : List FS) (n : Nat) (slot : List Byte) : List Byte × Nat × Nat :=
  let e := h.elems
  let w := h.fmt.bytes
  let g := if h.occMean then grad.map (fun y => fsDivNat y n) else grad
  let ws := (chunks w (slot.take h.rowBytes)).map leNat
  let xs := ws.map (fun c => ((toF32 h.fmt c).code, h.fmt.isInf c))
  let sb := optState h.opt e
  let st := (words32 (slice slot h.rowBytes sb)).map fsIn
  let tr := h.rowBytes + sb
  let o := optStep h g xs st (fsIn (fld slot (tr + 8) 4)) (fsIn (fld slot (tr + 12) 4))
  let res := (xs.zip o.u).zipIdx.map (fun ((x', u), i) =>
    let r := Fmt.roundV h.fmt (srMode seed h.reg.tensor t (x * 16384 + i) 0)
      (FVal.add (Fmt.decode .f32 x'.1) (Fmt.decode .f32 u.1).negate)
    (r, x'.2 || u.2 || 0 < r.sat))
  let stSat := fun (i : Nat) => (List.range 2).any (fun k => ((o.state[k * e + i]?).map (·.2)).getD false)
  let sats := countBy (fun (i : Nat) => ((res[i]?).map (·.2)).getD false || ((g[i]?).map (·.2)).getD false || stSat i) (List.range e)
  let nans := countBy (fun (r : Elem × Bool) => r.1.nan != 0) res + countBy (fun (c : FS) => Fmt.isNan .f32 c.1) o.state
  let canon := fun (c : FS) => if Fmt.isNan .f32 c.1 then Fmt.nan .f32 else c.1
  let new := res.flatMap (fun r => toLE w r.1.code) ++ o.state.flatMap (fun c => toLE 4 (canon c)) ++
    toLE 4 (fld slot tr 4 + 1) ++ toLE 4 t ++ toLE 4 o.b1t.1 ++ toLE 4 o.b2t.1
  (patch slot 0 new, sats, nans)

/-! ### Applying rows -/

/-- The rank of a device in a job. -/
def rankOfDev (s : State) (j dev : Nat) : Nat := ((s.bound.devs.find? (fun d => d.job == j && d.dev == dev)).map (·.rank)).getD 0

/-- The summed gradient of a row's contributions, ascending rank, and their total count (R185); a saturation is marked by bit 32. -/
def sumContribs (s : State) (j : Nat) (cs : List Contrib) : List Nat × Nat :=
  let l := sortBy (fun c => rankOfDev s j c.src) cs
  let n := min ((l.map (·.count)).sum) 0xFFFFFFFF
  match l with
  | [] => ([], n)
  | c :: t =>
    let g := t.foldl (fun acc c => zipFS fsAdd acc (c.acc.map fsIn)) (c.acc.map fsIn)
    (g.map (fun y => y.1 + b2n y.2 * 2 ^ 32), n)

/-- The gradient of an apply with its marks. -/
def gradOf (l : List Nat) : List FS := l.map (fun y => (y % 2 ^ 32, bit y 32))

/-- UPDATE_ROW_LOST (R187, R191); an error in the slot is remembered for later reads of the row. Its STATUS is UNCORRECTABLE or TIMEOUT; a row lost
for any other reason reads TIMEOUT (Table 13.8, log entry 60). -/
def rowLost (s : State) (r : Region) (row step : Nat) (st : Status) : State :=
  let s := if st = .uncorrectable then { inc s .updUncorrCnt with lostRows := s.lostRows.filter (· != (r.id, row)) ++ [(r.id, row)] } else s
  postEvent s 0x0004 (if st = .uncorrectable then st else Status.timeout).code r.job (devId s) (r.tensor + step * 2 ^ 32) row

/-- A row whose slot has been written is lost no more (R187). -/
def rowWritten (s : State) (region row : Nat) : State := { s with lostRows := s.lostRows.filter (· != (region, row)) }

/-- An apply committed: its counters (R185). -/
def countApply (s : State) (sats nans : Nat) : State := inc (inc (inc s .updRmwCnt) .updSatCnt 0 sats) .updNanCnt 0 nans

/-- The apply of a row whose slot lies here. -/
def applyHere (s : State) (h : TblHdr) (a : ApplyRow) (slot : Nat) : State :=
  match readMem s (h.slotAddr slot) h.slotBytes with
  | (s, .error _) => rowLost s h.reg a.row a.step .uncorrectable
  | (s, .ok b) =>
    let r := applySlot h (seedOf s h.reg.job) a.step a.row (gradOf a.grad) a.count b
    match writeMem s (h.slotAddr slot) r.1 with
    | (s, some _) => rowLost s h.reg a.row a.step .uncorrectable
    | (s, none) => countApply (rowWritten s a.region a.row) r.2.1 r.2.2

/-- An apply that waits, replaced or added. -/
def setApply (s : State) (a : ApplyRow) : State :=
  { s with applies := s.applies.filter (fun x => !(x.region == a.region && x.row == a.row)) ++ [a] }
/-- An apply that waited, gone. -/
def dropApply (s : State) (a : ApplyRow) : State := { s with applies := s.applies.filter (fun x => !(x.region == a.region && x.row == a.row)) }

/-- A packet of an apply to the device that holds its slot; a refusal of R516 loses the row's update. -/
def applySend (s : State) (h : TblHdr) (a : ApplyRow) (dev : Nat) (p : Pkt) (ph : Nat → ApplyPhase) : State :=
  match peerRefusal s h.reg.job dev, ctxTo s h.reg.job dev with
  | none, some c =>
    let t := nextTag s
    sendReq (setApply s { a with phase := ph t }) c { p with vc := jobVc s h.reg.job false, step := a.step } (.apply a.region a.row)
  | some st, _ => rowLost (dropApply s a) h.reg a.row a.step st
  | none, none => rowLost (dropApply s a) h.reg a.row a.step .permission

/-- The next piece of a slot read from its holder. -/
def applyRead (s : State) (h : TblHdr) (a : ApplyRow) (dev slot : Nat) (got : List Byte) : State :=
  applySend s h a dev { ptype := ptRead, addr := h.slotAddr slot + got.length, aux := min 4096 (h.slotBytes - got.length) } (fun t => .reading t got)
/-- The next piece of a slot written to its holder. -/
def applyWrite (s : State) (h : TblHdr) (a : ApplyRow) (dev slot : Nat) (data : List Byte) (off sats nans : Nat) : State :=
  applySend s h a dev { ptype := ptWrite, addr := h.slotAddr slot + off, aux := 2 ^ 23, payload := slice data off 4096 } (fun t => .writing t data off sats nans)

/-- An apply begun: here, at the holder of its slot, or held by the fence. -/
def beginApply (s : State) (h : TblHdr) (a : ApplyRow) : State :=
  if fenced s a.region a.row then setApply s a
  else
    let p := rowPlace s h a.row
    if p.1 = devId s then applyHere (dropApply s a) h a p.2 else applyRead s h a p.1 p.2 []

/-- The answer to a packet of an apply: the next packet, or the apply's end; it is counted once its last write is acknowledged. -/
def applyNext (s : State) (region row : Nat) (st : Status) (b : List Byte) : State :=
  match s.applies.find? (fun a => a.region == region && a.row == row), regionById s region with
  | some a, some r =>
    if st ≠ .ok then rowLost (dropApply s a) r row a.step st
    else match (readTable r).go s with
      | (s, .error st) => rowLost (dropApply s a) r row a.step st
      | (s, .ok h) =>
        let p := rowPlace s h row
        match a.phase with
        | .reading _ got =>
          let got := got ++ b
          if got.length < h.slotBytes then applyRead s h a p.1 p.2 got
          else
            let q := applySlot h (seedOf s r.job) a.step a.row (gradOf a.grad) a.count got
            applyWrite s h a p.1 p.2 q.1 0 q.2.1 q.2.2
        | .writing _ data off sats nans =>
          if off + 4096 < data.length then applyWrite s h a p.1 p.2 data (off + 4096) sats nans
          else countApply (rowWritten (dropApply s a) region row) sats nans
        | .fenced => s
  | _, _ => s

/-! ### Contributions (R180 to R183) -/

/-- Bytes the merge area of a table holds. -/
def mergeUsed (x : HomeSt) : Nat := (x.merge.map (fun c => 16 + 4 * c.acc.length)).sum + (x.parts.map (fun p => 16 + 4 * p.acc.length)).sum

/-- A contribution stored whole. -/
def acceptContrib (s : State) (h : TblHdr) (c : Contrib) : State :=
  let x := homeOf s h
  inc (setHome s h.reg.id { x with merge := x.merge ++ [c] }) .updContribCnt

/-- The SCATTER_ADD with a number. -/
def scatterOf (s : State) (id : Nat) : Option SRun := s.scatters.find? (fun r => r.id == id)
/-- A SCATTER_ADD replaced. -/
def setScatter (s : State) (r : SRun) : State := { s with scatters := s.scatters.map (fun x => if x.id = r.id then r else x) }

/-- The marker of a SCATTER_ADD for its table's step, and the wait for its close (R184). -/
def scatterMark (s : State) (r : Region) (step : Nat) (ok : Bool) : State :=
  let s := match Tbl.find s.homes r.id with
    | some x => setHome s r.id { x with marker := some step }
    | none => s
  ownMarker s r.job r.tensor step ok

/-- A SCATTER_ADD that ends (R183, R184). -/
def endScatter (s : State) (r : SRun) (st : Status) : State :=
  let step := ((flightTile s r.core r.ctx r.seq).map (fun f => dStep f.desc)).getD 0
  let s := setRun { s with scatters := s.scatters.filter (fun x => x.id != r.id) } r.core r.ctx r.seq (.done st (if st = .ok then 0 else r.accepted))
  match regionById s r.region with
  | some g => scatterMark s g step (st == .ok)
  | none => s

/-- The part of a contribution that is due (R181). -/
def contribPart (h : TblHdr) (row count : Nat) (acc : List Nat) (k : Nat) : Pkt :=
  let e := (acc.drop (1020 * k)).take 1020
  let last := acc.length ≤ 1020 * (k + 1)
  { ptype := ptContrib, aux := k % 32 + 32 * b2n last + hdrMark h,
    payload := toLE 4 h.reg.tensor ++ toLE 4 count ++ toLE 8 row ++ e.flatMap (toLE 4) }

/-- The contribution of a row accepted: the next row is due. -/
def contribDone (s : State) (r : SRun) : State :=
  setScatter s { r with todo := r.todo.tail, sending := none, wait := none, held := false, accepted := r.accepted + 1 }

/-- A contribution to a row of this device (R181, R182). -/
def contribHere (s : State) (r : SRun) (h : TblHdr) (step row count : Nat) (acc : List Nat) : State :=
  match stepRule s h step with
  | .past => endScatter s r .format
  | .future => hold (setScatter s { r with held := true }) (.scatter r.id) false
  | .now =>
    if fenced s h.reg.id row then hold (setScatter s { r with held := true }) (.scatter r.id) true
    else if h.mergeBytes < mergeUsed (homeOf s h) + 16 + 4 * acc.length then endScatter (inc s .updMergeFullCnt) r .bounds
    else contribDone (acceptContrib s h ⟨row, devId s, step, count, acc⟩) r

/-- The due part of a contribution to a row of another device. -/
def contribAway (s : State) (r : SRun) (h : TblHdr) (step row count owner : Nat) (acc : List Nat) (k : Nat) : State :=
  match peerRefusal s r.job owner, ctxTo s r.job owner with
  | none, some c =>
    let t := nextTag s
    sendReq (setScatter s { r with sending := some (owner, acc, k), wait := some t }) c
      { contribPart h row count acc k with vc := jobVc s r.job false, step := step } (.contrib r.id k)
  | some st, _ => endScatter s r st
  | none, none => endScatter s r .permission

/-- The segment sum of a row: gradient rows widened and added in ascending position (R179). -/
def segSum (d : List Byte) (h : TblHdr) (pos : List Nat) : Rd (List FS) := do
  match Fmt.ofCode (dFmtA d) with
  | none => throw .format
  | some f =>
    let rd1 := fun (p : Nat) => do
      let b ← rdBytes (dSrcA d + p * dP0 d) (dP0 d)
      pure ((chunks f.bytes b).map (fun c => let e := toF32 f (leNat c); (e.code, decide (0 < e.sat))))
    match pos with
    | [] => pure (List.replicate h.elems (0, false))
    | p :: t =>
      let a ← rd1 p
      t.foldlM (fun acc q => do
        let b ← rd1 q
        pure (zipFS fsAdd acc b)) a

/-- The next contribution of a SCATTER_ADD summed, and stored here or sent. -/
def scatterRow (s : State) (r : SRun) (row : Nat) (pos : List Nat) : State :=
  match regionById s r.region, flightTile s r.core r.ctx r.seq with
  | some g, some f =>
    match (readTable g).go s with
    | (s, .error st) => endScatter s r st
    | (s, .ok h) =>
      match (rowOwner h row).go s with
      | (s, .error st) => endScatter s r st
      | (s, .ok o) =>
        let step := dStep f.desc
        match r.sending with
        | some (owner, acc, k) =>
          if owner = devId s then contribHere s r h step row pos.length acc else contribAway s r h step row pos.length owner acc k
        | none =>
          match (segSum f.desc h pos).go s with
          | (s, .error st) => endScatter s r st
          | (s, .ok sums) =>
            let c := clusterOf r.core
            let s := inc s .segsumRowCnt c pos.length
            let s := if rd s .maxOccCount c < pos.length then wr s .maxOccCount c pos.length else s
            let acc := sums.map (·.1)
            let r := { r with sending := some (o, acc, 0) }
            if o = devId s then contribHere (setScatter s r) r h step row pos.length acc
            else contribAway s r h step row pos.length o acc 0
  | _, _ => s

/-- A SCATTER_ADD taken forward until it waits, is held, or ends. -/
def runScatter (id : Nat) : Nat → State → State
  | 0, s => s
  | n + 1, s =>
    match scatterOf s id with
    | none => s
    | some r =>
      if r.wait.isSome || r.held then s
      else match r.todo with
        | [] => endScatter s r .ok
        | (row, pos) :: _ => runScatter id n (scatterRow s r row pos)

/-- A held contribution of this device tried again. -/
def retryScatter (s : State) (id : Nat) : State :=
  match scatterOf s id with
  | some r =>
    match r.todo with
    | (row, pos) :: _ =>
      let r := { r with held := false }
      runScatter id (r.todo.length + 1) (scatterRow (setScatter s r) r row pos)
    | [] => s
  | none => s

/-- The answer to a part of a contribution. -/
def contribResp (s : State) (id k tag : Nat) (st : Status) : State :=
  match scatterOf s id with
  | none => s
  | some r =>
    if r.wait ≠ some tag then s
    else if st ≠ .ok then endScatter s { r with wait := none } st
    else match r.sending with
      | some (o, acc, _) =>
        let r := { r with wait := none }
        let s := if acc.length ≤ 1020 * (k + 1) then contribDone s r else setScatter s { r with sending := some (o, acc, k + 1) }
        runScatter id (r.todo.length + 1) s
      | none => s

/-! ### SCATTER_ADD starts (R179, R180) -/

/-- Index entries of a tile: rows not skipped with their positions. -/
def readIndex (a : Nat) : Nat → Nat → Rd (List (Nat × Nat))
  | 0, _ => pure []
  | n + 1, i => do
    let e ← rdNat (a + 8 * i) 8
    if entryBad e then throw .format
    if entrySkip e then readIndex a n (i + 1)
    else do
      let r ← readIndex a n (i + 1)
      pure ((entryRow e, i) :: r)

/-- The checks of R179, and the rows with their list positions in order of first position. -/
def scatterPrep (reg : Region) (d : List Byte) : Rd (TblHdr × List (Nat × List Nat)) := do
  let h ← readTable reg
  if Fmt.ofCode (dFmtD d) ≠ some h.fmt ∨ dP0 d / fmtBytes (dFmtA d) ≠ h.elems then throw .format
  let p ← readIndex (dSrcB d) (dRows d) 0
  if h.scrBytes < 16 * p.length then throw .bounds
  let runs := (runsOf (·.1) (sortBy (·.1) p)).filterMap (fun r => match r with
    | x :: _ => some (x.1, r.map (·.2))
    | [] => none)
  pure (h, sortBy (fun x => x.2.headD 0) runs)

/-- This device's rank of a job is standby in the current tree (R345). -/
def isStandby (s : State) (j : Nat) : Bool :=
  match treeNow s j with
  | some t => (t.backs (devId s)).isSome
  | none => false

/-- A SCATTER_ADD of the step has already started for the table on this device (R180). -/
def scatSeen (s : State) (region step : Nat) : Bool := ((Tbl.find s.homes region).map (fun x => x.scats.contains step)).getD false

/-- A SCATTER_ADD of the step noted for the table, where this device already keeps a record for it. -/
def noteScat (s : State) (region step : Nat) : State :=
  match Tbl.find s.homes region with
  | some x => setHome s region { x with scats := x.scats ++ [step] }
  | none => s

/-- The work of a SCATTER_ADD that starts; it goes through these checks with LEN zero too (R180). -/
def scatterGo (s : State) (l k : Nat) (q : QTile) (j : Nat) : State :=
  let d := q.desc
  let fin := fun (s : State) (st : Status) => setRun s l k q.seq (.done st 0)
  match regionOf s j (dDst d) with
  | none => fin s .permission
  | some reg =>
    if reg.role ≠ 3 ∨ reg.trainable = false then fin s .format
    else match (readTable reg).go s with
      | (s, .error st) => if isStandby s j || scatSeen s reg.id (dStep d) then fin s st else scatterMark (fin (noteScat s reg.id (dStep d)) st) reg (dStep d) false
      | (s, .ok h0) =>
        let x := homeOf s h0
        if x.scats.contains (dStep d) then fin s .format
        else
          let s := setHome s reg.id { x with scats := x.scats ++ [dStep d] }
          match (scatterPrep reg d).go s with
          | (s, .error st) => if isStandby s j then fin s st else scatterMark (fin s st) reg (dStep d) false
          | (s, .ok (h, rows)) =>
            let n := (rows.map (fun r => r.2.length)).sum
            let s := inc (leaveUndefined s (reg.base + h.scrOff) (16 * n)) .sortEntryCnt (clusterOf l) n
            if isStandby s j then fin s .ok
            else if rows = [] then scatterMark (fin s .ok) reg (dStep d) true
            else
              let r : SRun := ⟨s.runCount, l, k, q.seq, j, reg.id, rows, none, none, 0, false⟩
              runScatter r.id (rows.length + 1) { s with scatters := s.scatters ++ [r], runCount := s.runCount + 1 }

/-- A SCATTER_ADD of the head's table runs on this device (R179: one at a time). -/
def scatterBusy (s : State) (l k : Nat) : Bool :=
  match headTile s l k, ctxJob s l k with
  | some q, some j => match regionOf s j (dDst q.desc) with
    | some r => s.scatters.any (fun x => x.region == r.id)
    | none => false
  | _, _ => false

/-! ### CONTRIB at a home (R181, R182) -/

/-- The parts of a device's contribution to a table, discarded. -/
def dropParts (s : State) (h : TblHdr) (src : Nat) : State :=
  let x := homeOf s h
  setHome s h.reg.id { x with parts := x.parts.filter (fun p => p.src != src) }

/-- A part stored, and the contribution accepted with its last. -/
def storePart (s : State) (h : TblHdr) (p : Pkt) : State :=
  let pl := p.payload
  let row := fld pl 8 8
  let count := fld pl 4 4
  let k := bits p.aux 4 0
  let es := words32 (pl.drop 16)
  let x := homeOf s h
  let old := (x.parts.find? (fun c => c.src == p.src)).getD ⟨row, p.src, p.step, count, 0, []⟩
  let bad := fun (s : State) (st : Status) => respond (dropParts s h p.src) p st
  if k ≠ old.next ∨ old.row ≠ row ∨ old.count ≠ count ∨ old.step ≠ p.step ∨ h.elems < old.acc.length + es.length ∨ pl.length % 4 ≠ 0 then bad s .format
  else if h.mergeBytes < mergeUsed x + (if k = 0 then 16 else 0) + 4 * es.length then bad (inc s .updMergeFullCnt) .bounds
  else
    let c := { old with next := k + 1, acc := old.acc ++ es }
    let rest := x.parts.filter (fun c => c.src != p.src)
    if bit p.aux 5 then
      if c.acc.length ≠ h.elems then bad s .format
      else respond (acceptContrib (setHome s h.reg.id { x with parts := rest }) h ⟨row, p.src, p.step, count, c.acc⟩) p .ok
    else respond (setHome s h.reg.id { x with parts := rest ++ [c] }) p .ok

/-- A part of this device's table is already held, so later parts of the same contribution wait behind it. -/
def partHeld (s : State) (p : Pkt) : Bool :=
  s.heldRows.any (fun x => match x.1 with
    | .part q => q.src == p.src && q.job == p.job && fld q.payload 0 4 == fld p.payload 0 4
    | _ => false)

/-- A CONTRIB part taken in, new or held before. -/
def contribIn (s : State) (p : Pkt) : State :=
  match s.bound.regions.find? (fun r => r.job == p.job && r.tensor == fld p.payload 0 4 && r.role == 3 && partRunning s r.part) with
  | none => respond s p .permission
  | some reg =>
    match (do let h ← readTable reg; let o ← rowOwner h (fld p.payload 8 5); pure (h, o)).go s with
    | (s, .error st) => respond s p st
    | (s, .ok (h, o)) =>
      let s := setHome s reg.id (homeOf s h)
      if hdrDiffers h p.aux then respond (dropParts s h p.src) p .permission
      else if fld p.payload 0xD 3 ≠ 0 then respond (dropParts s h p.src) p .format
      else if o ≠ devId s then respond (dropParts s h p.src) p .indexRange
      else match stepRule s h p.step with
        | .past => respond (dropParts s h p.src) p .format
        | .future => hold s (.part p) false
        | .now =>
          if fenced s reg.id (fld p.payload 8 5) then hold s (.part p) true
          else if partHeld s p then hold s (.part p) false
          else storePart s h p

/-! ### Held requests -/

/-- One held request tried again. -/
def retryHeld (s : State) : Held → State
  | .run id => retryRun s id
  | .req p => rowReq s p true
  | .scatter id => retryScatter s id
  | .part p => contribIn s p

/-- Held requests tried again in order of arrival. -/
def retryEach : List (Held × Bool) → State → State
  | [], s => s
  | h :: t, s => retryEach t (retryHeld s h.1)

/-- Applies the fence held, begun. -/
def applyEach : List ApplyRow → State → State
  | [], s => s
  | a :: t, s =>
    applyEach t (match a.phase with
      | .fenced => (match regionById s a.region with
        | none => dropApply s a
        | some r => match (readTable r).go s with
          | (s, .error st) => rowLost (dropApply s a) r a.row a.step st
          | (s, .ok h) => beginApply s h a)
      | _ => s)

/-- Everything held looked at again: applies first, then requests in order. -/
def releaseRows (s : State) : State :=
  let s := applyEach s.applies s
  retryEach s.heldRows { s with heldRows := [] }

/-- The answer to a packet of an apply at another device; once the apply has ended, what waited for it is looked at again (R182). -/
def applyResp (s : State) (region row : Nat) (st : Status) (b : List Byte) : State :=
  let s := applyNext s region row st b
  if applyWaits s region row then s else releaseRows s

/-! ### Writes of peers, and the cut holds on them (R395, R397) -/

/-- The tag of a migration copy into a region of job j: LAST_CUT + 1 (R395). -/
def migTag (s : State) (j : Nat) : Nat := ((slotOf s j).map (fun n => rd s .lastCut n + 1)).getD 0

/-- The tag of a WRITE packet: of an apply its STEP, of a migration copy LAST_CUT + 1, of any other write none (log entry 14). -/
def writeTag (s : State) (p : Pkt) : Option Nat := if bit p.aux 23 then some (if bit p.aux 22 then migTag s p.job else p.step) else none

/-- A tagged WRITE waits for a cut of its region. -/
def writeHeld (s : State) (p : Pkt) : Bool :=
  match writeTag s p, s.bound.regions.find? (fun r => r.job == p.job && r.base ≤ p.addr && p.addr < r.base + r.size) with
  | some t, some r => cutHolds s r t p.addr p.payload.length
  | _, _ => false

/-- A WRITE packet carried out: refused, held for a cut, or committed. -/
def serveWrite (s : State) (p : Pkt) (again : Bool) : State :=
  let st := if meetsShadow s p.addr p.payload.length then .permission else rangeStatus s p.job p.addr p.payload.length
  if st ≠ .ok then respond s p st
  else if writeHeld s p then
    let s := { s with heldWrites := s.heldWrites ++ [p] }
    if again then s else inc s .mirrorHoldCnt
  else match writeMem s p.addr p.payload with
    | (s, none) => respond s p .ok
    | (s, some _) => respond s p .uncorrectable

/-- Held WRITE packets tried again in order of arrival. -/
def retryWrites (s : State) : State := s.heldWrites.foldl (fun s p => serveWrite s p true) { s with heldWrites := [] }

/-- A held request that is given up with TIMEOUT (R182, R191). -/
def timeoutHeld (s : State) : Held → State
  | .run id => match gatherOf s id with
    | some g => endGather s g .timeout
    | none => s
  | .req p => respond s p .timeout
  | .scatter id => match scatterOf s id with
    | some r => endScatter s r .timeout
    | none => s
  | .part p => respond s p .timeout

/-! ### Closing a step (R184) -/

/-- The rows of contributions of a step, without repeats. -/
def rowsOfStep (x : HomeSt) (t : Nat) : List Nat := sortNat ((x.merge.filter (fun c => c.step == t)).map (·.row))

/-- MIRROR_FROZEN set and posted for a job with flagged regions (R398). -/
def freezeMirror (s : State) (j : Nat) (st : Status) : State :=
  match slotOf s j with
  | none => s
  | some n =>
    if s.bound.regions.any (fun r => r.job == j && (r.mirror || r.ckpt)) && rd s .mirrorFrozen n == 0 then
      postEvent (wr s .mirrorFrozen n 1) 0x0102 st.code j (devId s) (rd s .lastCut n) 0
    else s

/-- The applies of a step's rows. -/
def applyRows (h : TblHdr) (t : Nat) (x : HomeSt) : List Nat → State → State
  | [], s => s
  | row :: l, s =>
    let g := sumContribs s h.reg.job (x.merge.filter (fun c => c.step == t && c.row == row))
    applyRows h t x l (beginApply s h ⟨h.reg.id, row, t, g.1, g.2, .fenced⟩)

/-- Step t of a table closed as applied or failed at this home. -/
def closeStep (s : State) (reg : Region) (x : HomeSt) (t : Nat) (ok : Bool) (st : Status) : State :=
  let y := { x with lastClosed := t, merge := x.merge.filter (fun c => c.step != t), parts := x.parts.filter (fun c => c.step != t), marker := none }
  if ok then
    match (readTable reg).go s with
    | (s, .error e) => (rowsOfStep x t).foldl (fun s row => rowLost s reg row t e) (setHome s reg.id y)
    | (s, .ok h) => releaseRows (setHome (applyRows h t x (rowsOfStep x t) s) reg.id y)
  else
    let s := postEvent (setHome s reg.id y) 0x0003 st.code reg.job (devId s) (reg.tensor + t * 2 ^ 32) 0
    releaseRows (freezeMirror s reg.job st)

/-- Rows of the step whose slots a cut still holds (R397). -/
def closeHeldRows (s : State) (reg : Region) (x : HomeSt) (t : Nat) : Nat :=
  match (readTable reg).go s with
  | (_, .error _) => 0
  | (_, .ok h) => countBy (fun row => let p := rowPlace s h row; p.1 == devId s && cutHolds s reg t (h.slotAddr p.2) h.slotBytes) (rowsOfStep x t)

/-- UPDATE_STEP_CLOSE: a combined marker that has arrived closes the step that is due, once the applies of the step before have committed (R21);
one whose writes a cut holds waits, counted. -/
def stepClose (s : State) (table step : Nat) : State :=
  match s.closes.find? (fun c => c.region == table && c.step == step), regionById s table with
  | some c, some reg =>
    let out := { s with closes := s.closes.filter (fun d => !(d.region == table && d.step == step)) }
    let x := match Tbl.find s.homes table with
      | some x => x
      | none => ⟨(step : Int) - 1, [], [], [], none⟩
    if (step : Int) ≤ x.lastClosed then out
    else if (step : Int) ≠ x.lastClosed + 1 ∨ (c.ok = true ∧ s.applies.any (fun a => a.region == table) = true) then s
    else
      let n := if c.ok then closeHeldRows s reg x step else 0
      if n = 0 then closeStep out reg x step c.ok .checkMismatch
      else if c.held then s
      else inc { s with closes := s.closes.map (fun d => if d = c then { d with held := true } else d) } .mirrorHoldCnt 0 n
  | some _, none => { s with closes := s.closes.filter (fun d => !(d.region == table && d.step == step)) }
  | none, _ => s

/-- UPDATE_CLOSE_TIMEOUT: the close of the step whose marker was sent has not been received. -/
def closeTimeout (s : State) (table : Nat) : State :=
  match Tbl.find s.homes table, regionById s table with
  | some x, some reg =>
    match x.marker with
    | some t => if (t : Int) = x.lastClosed + 1 ∧ s.closes.any (fun c => c.region == table && c.step == t) = false then closeStep (inc s .updCloseTimeoutCnt) reg x t false .timeout else s
    | none => s
  | _, _ => s

/-! ### Migration (R189 to R192) -/

/-- The migration that the registers of Table 6.13 ask for, of the table with a REGION_ID. -/
def migAsked (s : State) (region : Nat) : Mig :=
  ⟨rd s .migJob, region, rd s .migTensorId, rd s .migFirstRow, rd s .migCount, rd s .migDestDevice, rd s .migDestSlot, .fenced⟩

/-- The Stone record of a migration (R192, R475). -/
def migStone (s : State) (m : Mig) (st : Status) : State :=
  stoneWrite s 0x0012 [(2, m.job), (4, m.tensor), (8, m.first), (4, m.count), (2, m.dest), (8, m.slot), (1, st.code)]

/-- A migration that is refused while another runs: its status, Stone record and message; the one that runs goes on (R189, R192). -/
def refuseMig (s : State) (st : Status) : State :=
  sendMsi (migStone (wr s .migStatus 0 st.code) (migAsked s 0) st) (rd s .migVector)

/-- A migration that ends: registers, Stone, message, and what it held released. -/
def endMig (s : State) (st : Status) : State :=
  let m := s.mig.getD (migAsked s 0)
  let s := migStone (wrs s [(.migBusy, 0, 0), (.migStep, 0, 0), (.migStatus, 0, st.code)]) m st
  releaseRows (sendMsi { s with mig := none } (rd s .migVector))

/-- The range overlaps a redirect entry of the table. -/
def overlapsRedirect (s : State) (job tensor first count : Nat) : Bool :=
  (List.range 256).any (fun n => rd s .redirectValid n == 1 && rd s .redirectJobId n == job && rd s .redirectTensorId n == tensor &&
    overlaps first count (rd s .redirectFirstRow n) (rd s .redirectCountM1 n + 1))

/-- The destination's slots take the range (Table 6.10). -/
def destFits (m : Mig) (rows spare : Nat) : Bool := rows ≤ m.slot && m.slot + m.count ≤ rows + spare

/-- A migration accepted: the range is fenced (Table 6.11). -/
def fenceMig (s : State) (m : Mig) : State := { wrs s [(.migBusy, 0, 1), (.migStep, 0, 3)] with mig := some { m with phase := .fenced } }

/-- MIG_START: the checks of Table 6.10 in the order of R16; a destination on another device is asked for its header first. -/
def migStart (s : State) (vector : Nat) : State :=
  let s := wr s .migVector 0 vector
  let j := rd s .migJob
  let t := rd s .migTensorId
  let first := rd s .migFirstRow
  let n := rd s .migCount
  let dest := rd s .migDestDevice
  let reg := s.bound.regions.find? (fun r => r.job == j && r.tensor == t && (r.role == 2 || r.role == 3) && partRunning s r.part)
  let fail := fun (s : State) (st : Status) => if s.mig.isSome then refuseMig s st else endMig s st
  match reg with
  | none => fail s .permission
  | some r =>
    if s.mig.isSome || !jobRunning s j || (dest != devId s && (ctxTo s j dest).isNone) || overlapsRedirect s j t first n then fail s .permission
    else if 65536 < n then fail s .format
    else match (readTable r).go s with
      | (s, .error st) => fail s st
      | (s, .ok h) =>
        if n = 0 then fail s .ok
        else if !(h.first ≤ first && first + n ≤ h.first + h.rows) || rd s .redirectUsed = 256 then fail s .bounds
        else
          let m := migAsked s r.id
          if dest = devId s then (if destFits m h.rows h.spare then fenceMig s m else fail s .bounds)
          else match peerRefusal s j dest, ctxTo s j dest with
            | none, some c =>
              let tag := nextTag s
              sendReq { wr s .migBusy 0 1 with mig := some { m with phase := .header tag } } c
                { ptype := ptRead, vc := jobVc s j false, addr := r.base, aux := 128 } .migHdr
            | some st, _ => fail s st
            | none, none => fail s .permission

/-- The destination's header has come. -/
def migHdrResp (s : State) (st : Status) (b : List Byte) : State :=
  match s.mig with
  | some m =>
    match m.phase with
    | .header _ => if st ≠ .ok then endMig s st else if destFits m (fld b 0x10 5) (fld b 0x18 4) then fenceMig s m else endMig s .bounds
    | _ => s
  | none => s

/-- A row that a migration could not read (R192). -/
def migUnreadable (s : State) (reg : Region) (row : Nat) : State :=
  let t := match Tbl.find s.homes reg.id with
    | some x => x.lastClosed.toNat
    | none => 0
  rowLost (wr s .migErrRow 0 row) reg row t .uncorrectable

/-- The migration's phase replaced. -/
def setMigPhase (s : State) (m : Mig) (p : MigPhase) : State := { s with mig := some { m with phase := p } }

/-- A piece of slot n sent to the destination. -/
def migSend (s : State) (m : Mig) (h : TblHdr) (n off : Nat) (slot : List Byte) : State :=
  match peerRefusal s m.job m.dest, ctxTo s m.job m.dest with
  | none, some c =>
    let tag := nextTag s
    sendReq (setMigPhase s m (.copying n off slot tag)) c
      { ptype := ptWrite, vc := jobVc s m.job false, addr := h.slotAddr (m.slot + n) + off, aux := 2 ^ 23 + 2 ^ 22, payload := slice slot off 4096 } .mig
  | some st, _ => setMigPhase s m (.ended st)
  | none, none => setMigPhase s m (.ended .permission)

/-- Slot n of the range read and sent to the destination; past the last one the copy is done. -/
def migSlot (s : State) (m : Mig) (reg : Region) (h : TblHdr) (n : Nat) : State :=
  if m.count ≤ n then setMigPhase s m (.ended .ok)
  else match readMem s (h.slotAddr (m.first - h.first + n)) h.slotBytes with
    | (s, .error _) => migUnreadable (setMigPhase s m (.ended .uncorrectable)) reg (m.first + n)
    | (s, .ok b) => migSend s m h n 0 b

/-- The slots of the range copied on this device, in order. -/
def migLocal (m : Mig) (reg : Region) (h : TblHdr) : List Nat → State → State
  | [], s => setMigPhase s m (.ended .ok)
  | n :: t, s =>
    match readMem s (h.slotAddr (m.first - h.first + n)) h.slotBytes with
    | (s, .error _) => migUnreadable (setMigPhase s m (.ended .uncorrectable)) reg (m.first + n)
    | (s, .ok b) =>
      match writeMem s (h.slotAddr (m.slot + n)) b with
      | (s, some _) => setMigPhase s m (.ended .uncorrectable)
      | (s, none) => migLocal m reg h t s

/-- The table of the migration. -/
def migTable (s : State) (m : Mig) : State × Option (Region × TblHdr) :=
  match regionById s m.region with
  | none => (s, none)
  | some r => match (readTable r).go s with
    | (s, .ok h) => (s, some (r, h))
    | (s, .error _) => (s, none)

/-- The next piece of a slot, or the next slot. -/
def migResp (s : State) (st : Status) : State :=
  match s.mig with
  | some m =>
    match m.phase with
    | .copying n off slot _ =>
      if st ≠ .ok then setMigPhase s m (.ended st)
      else match migTable s m with
        | (s, some (r, h)) => if off + 4096 < slot.length then migSend s m h n (off + 4096) slot else migSlot s m r h (n + 1)
        | (s, none) => setMigPhase s m (.ended .format)
    | _ => s
  | none => s

/-- A read or apply of the range still under way: rows being read or written at another device. -/
def migTracked (s : State) (m : Mig) : Bool :=
  s.applies.any (fun a => a.region == m.region && a.phase != .fenced && m.first ≤ a.row && a.row < m.first + m.count)

/-- MIG_DRAIN_DONE: the copy begins, once no captured page of the destination is held (R395, R397). -/
def migDrained (s : State) : State :=
  match s.mig with
  | some m =>
    if m.phase ≠ .fenced ∨ migTracked s m then s
    else match migTable s m with
      | (s, none) => setMigPhase s m (.ended .format)
      | (s, some (r, h)) =>
        let slots := List.range m.count
        if m.dest ≠ devId s then migSlot (wr s .migStep 0 4) m r h 0
        else if slots.any (fun n => cutHolds s r (migTag s m.job) (h.slotAddr (m.slot + n)) h.slotBytes) then
          (if rd s .migStep = 4 then s else inc (wr s .migStep 0 4) .mirrorHoldCnt)
        else migLocal m r h slots (wr s .migStep 0 4)
  | none => s

/-- MIG_COPY_DONE: the redirect entry written on OK; the fence lifted; what was held released (R190, R192). -/
def migCopied (s : State) : State :=
  match s.mig with
  | some m =>
    match m.phase with
    | .ended .ok =>
      match (List.range 256).find? (fun n => rd s .redirectValid n == 0) with
      | none => endMig s .bounds
      | some n =>
        endMig (wrs s [(.redirectFirstRow, n, m.first), (.redirectCountM1, n, m.count - 1), (.redirectValid, n, 1), (.redirectDestDevice, n, m.dest),
          (.redirectDestSlot, n, m.slot), (.redirectJobId, n, m.job), (.redirectTensorId, n, m.tensor), (.redirectUsed, 0, rd s .redirectUsed + 1)]) .ok
    | .ended st => endMig s st
    | _ => s
  | none => s

/-! ### Time-outs -/

/-- PEER_ROW_TIMEOUT: a row, contribution, migration copy or remote apply without a reply (R176, R192); the device asked is reported. -/
def peerRowTimeout (s : State) (tag : Nat) : State :=
  match Tbl.find s.tags tag with
  | none => s
  | some r =>
    if r.quar then s
    else
      let late := fun (s : State) => reportSuspect (quarantine s tag) r.pkt.job r.pkt.dst 2 r.pkt.step
      match r.origin with
      | .rows _ id => match gatherOf s id with
        | some g => if g.wait = some tag then endGather (late s) { g with wait := none } .timeout else late s
        | none => late s
      | .rowFwd p => respond (late s) p .timeout
      | .contrib id _ => match scatterOf s id with
        | some x => if x.wait = some tag then endScatter (late s) { x with wait := none } .timeout else late s
        | none => late s
      | .migHdr => if s.mig.isSome then endMig (late s) .timeout else late s
      | .mig => if s.mig.isSome then endMig (late s) .timeout else late s
      | .apply region row => applyResp (late s) region row .timeout []
      | _ => s

/-! ### Meanings -/

/-- SCATTER_ADD. -/
def execScatterAdd (core ctx : Nat) (s : State) : Host.Outcome State Fault Refusal :=
  .next (if scatterBusy s core ctx || unitWaits s (.sorter (clusterOf core)) then s else startTile s core ctx opScatter (fun s q j => scatterGo s core ctx q j))

/-- CONTRIB. -/
def execContrib (pkt : Pkt) (s : State) : Host.Outcome State Fault Refusal :=
  .next (match takeRequest s pkt with
    | (s, false) => s
    | (s, true) => contribIn s pkt)

/-- UPDATE_HOLD_TIMEOUT: a request held under the step rules is given up (R182). -/
def execUpdateHoldTimeout (index : Nat) (s : State) : Host.Outcome State Fault Refusal :=
  .next (match s.heldRows[index]? with
    | some (h, false) => timeoutHeld { s with heldRows := s.heldRows.eraseIdx index } h
    | _ => s)

/-- MIG_FENCE_HOLD_TIMEOUT: a request or apply held by the fence is given up (R191). -/
def execMigFenceHoldTimeout (index : Nat) (s : State) : Host.Outcome State Fault Refusal :=
  .next (match s.heldRows[index]? with
    | some (h, true) => timeoutHeld (inc { s with heldRows := s.heldRows.eraseIdx index } .updHoldTimeoutCnt) h
    | some _ => s
    | none => match s.applies[index - s.heldRows.length]? with
      | some a => match a.phase, regionById s a.region with
        | .fenced, some r => rowLost (inc (dropApply s a) .updHoldTimeoutCnt) r a.row a.step .timeout
        | _, _ => s
      | none => s)

/-- UPDATE_STEP_CLOSE. -/
def execUpdateStepClose (table step : Nat) (s : State) : Host.Outcome State Fault Refusal := .next (stepClose s table step)
/-- UPDATE_CLOSE_TIMEOUT. -/
def execUpdateCloseTimeout (table : Nat) (s : State) : Host.Outcome State Fault Refusal := .next (closeTimeout s table)
/-- PEER_ROW_TIMEOUT. -/
def execPeerRowTimeout (tag : Nat) (s : State) : Host.Outcome State Fault Refusal := .next (peerRowTimeout s tag)
/-- MIG_START. -/
def execMigStart (vector : Nat) (s : State) : Host.Outcome State Fault Refusal := .next (migStart s vector)
/-- MIG_DRAIN_DONE. -/
def execMigDrainDone (s : State) : Host.Outcome State Fault Refusal := .next (migDrained s)
/-- MIG_COPY_DONE. -/
def execMigCopyDone (s : State) : Host.Outcome State Fault Refusal := .next (migCopied s)

end Sys2Proof.Machine
end

