-- ==== Sys2Proof/Machine/Pairs.lean ====
section
/-!
DEFINITION. Sys2Proof/Machine/Pairs.lean: cuts, mirror frames, checkpoints, Zest digests, replay, loss of a partner and refill
(R391 to R416, R421 to R426). The cut readers copy what they read at the cut; only the mirror sender holds pages past it (log entry 16).
-/
namespace Sys2Proof.Machine

/-! ### The mode (R414, R439) -/

/-- The device mode set, and the VMODE of every core that runs its firmware (R439). -/
def setMode (s : State) (m : Nat) : State := (s.cores.filter (fun e => e.2.hart.live)).foldl (fun s e => wr s .vmode e.1 m) (wr s .deviceVmode 0 m)

/-- Back to NORMAL once no replay and no refill remains (R414). -/
def endRecovery (s : State) : State :=
  if rd s .deviceVmode = 3 ∧ (List.range 64).all (fun n => rd s .replayArmed n == 0 && rd s .refillBusy n == 0) then setMode s 0 else s

/-! ### The job of a slot -/

/-- The job in a slot. -/
def slotJob (s : State) (n : Nat) : Option JobDef := if rd s .jobSlotValid n = 1 then jobOf s (rd s .jobSlotJobId n) else none
/-- The resilience policy of a job. -/
def resilOf (s : State) (j : Nat) : Resil := (s.bound.resils.find? (fun r => r.job == j)).getD ⟨0, 0, j, false, 0, 0, 0⟩
/-- The check policy of a job. -/
def checkOf (s : State) (j : Nat) : CheckPol := (s.bound.checks.find? (fun r => r.job == j)).getD ⟨0, 0, j, 0, 0, 0⟩
/-- Regions of a job that meet p, ascending REGION_ID. -/
def jobRegions (s : State) (j : Nat) (p : Region → Bool) : List Region :=
  sortBy (·.id) (s.bound.regions.filter (fun r => r.job == j && p r && partRunning s r.part))
/-- MIRROR regions of a job. -/
def mirrorRegions (s : State) (j : Nat) : List Region := jobRegions s j (·.mirror)
/-- Regions with DELTA_CKPT and not MIRROR. -/
def deltaRegions (s : State) (j : Nat) : List Region := jobRegions s j (fun r => r.ckpt && !r.mirror)
/-- Trainable HBM regions of ROLE 0x4 (R255). -/
def paramRegions (s : State) (j : Nat) : List Region := jobRegions s j isParam
/-- Pages of a region as (REGION_ID, page). -/
def allPages (r : Region) : List (Nat × Nat) := (List.range (r.size / 4096)).map (fun i => (r.id, i))
/-- The dirty pages of a region. -/
def dirtyPages (s : State) (r : Region) : List (Nat × Nat) :=
  (s.dirty.filter (fun e => r.base ≤ e.1 * 4096 && e.1 * 4096 < r.base + r.size)).map (fun e => (r.id, e.1 - r.base / 4096))
/-- The address of a page. -/
def pageAddr (s : State) (p : Nat × Nat) : Nat := ((regionById s p.1).map (·.base)).getD 0 + 4096 * p.2
/-- Dirty bits of pages cleared or set. -/
def setDirty (s : State) (ps : List (Nat × Nat)) (on : Bool) : State :=
  { s with dirty := ps.foldl (fun d p => if on then Tbl.set d (pageAddr s p / 4096) () else Tbl.del d (pageAddr s p / 4096)) s.dirty }

/-! ### Recovery records (R425, Tables 14.7 and 14.8) -/

/-- The recovery window. -/
def recoveryWindow : Nat := 0xF000018800

/-- A record's bytes. -/
def recordBytes (kind st job step a0 a1 a2 : Nat) : List Byte :=
  toLE 1 kind ++ toLE 1 st ++ toLE 2 job ++ toLE 4 step ++ toLE 8 a0 ++ toLE 8 a1 ++ toLE 8 a2

/-- A record sent to a device of the job. One to this device itself goes round through its router (log entry 17). -/
def sendRecord (s : State) (n j dev kind st step a0 a1 a2 : Nat) : State :=
  let p : Pkt := { ptype := ptWrite, vc := jobVc s j false, step := step, addr := recoveryWindow, payload := recordBytes kind st j step a0 a1 a2, len := 32 }
  if dev = devId s then originate s { p with dst := dev, src := dev, job := j }
  else match peerRefusal s j dev, ctxTo s j dev with
    | none, some c => sendReq s c p (.rcd n kind)
    | _, _ => inc s .ctxUnknownCnt

/-- A page sent to a device. -/
def sendPage (s : State) (n j dev step addr : Nat) (data : List Byte) : State :=
  match peerRefusal s j dev, ctxTo s j dev with
  | none, some c => sendReq s c { ptype := ptWrite, vc := jobVc s j false, step := step, addr := addr, payload := data } (.page n)
  | _, _ => inc s .ctxUnknownCnt

/-- A record packet taken in; one from this device itself needs no context. -/
def takeRecord (s : State) (p : Pkt) : State × Bool := if p.src = devId s then (addDigest s false p, true) else takeRequest s p

/-- A record answered. -/
def answerRecord (s : State) (p : Pkt) (st : Status) : State := if p.src = devId s then s else respond s p st

/-- The record obeys Tables 14.7 and 14.8 for its kind. -/
def recordOk (p : Pkt) (kind : Nat) : Bool :=
  let b := p.payload
  let a0 := fld b 8 8
  b.length == 32 && p.addr == recoveryWindow && fld b 0 1 == kind && fld b 2 2 == p.job &&
  (if kind = 1 then a0 < 2 ^ 32 && fld b 24 8 == 0
   else if kind = 2 then fld b 16 8 == 0 && fld b 24 8 == 0
   else if kind ≤ 5 then a0 < 2 ^ 48 && fld b 16 8 == 0 && fld b 24 8 == 0
   else if kind = 6 then a0 < 2 ^ 32 && fld b 16 8 < 2 ^ 32 && fld b 24 8 == 0
   else if kind = 7 then a0 < 2 ^ 32 && fld b 16 8 < 2 ^ 32
   else if kind = 8 then a0 < 2 ^ 32 && fld b 16 8 == 0 && fld b 24 8 == 0
   else a0 == 0 && fld b 16 8 == 0 && fld b 24 8 == 0)

/-- A record of a kind taken in and checked; a breach is FORMAT (R425). -/
def withRecord (s : State) (p : Pkt) (kind : Nat) (f : State → List Byte → State) : State :=
  match takeRecord s p with
  | (s, false) => s
  | (s, true) => if recordOk p kind then f s p.payload else answerRecord s p .format

/-! ### Frames (R399, R400) -/

/-- The bytes a page adds to a frame's CRC: its index, then its data. -/
def crcPage (i : Nat) (d : List Byte) : List Byte := toLE 4 i ++ d

/-- The shadow and MIRROR region of a job, by the MIRROR region's REGION_ID. -/
def shadowFor (s : State) (j id : Nat) : Option (Region × Region) :=
  match s.bound.regions.find? (fun m => m.id == id && m.job == j && m.mirror) with
  | none => none
  | some m => (s.bound.regions.find? (fun r => r.job == j && isShadow r && r.tensor == m.tensor + 2 ^ 31)).map (fun r => (r, m))

/-- The pages of a list read at their addresses, or the first that cannot be read. -/
def readPages (adr : State → (Nat × Nat) → Nat) : List (Nat × Nat) → State → State × Option (List (List Byte))
  | [], s => (s, some [])
  | p :: t, s =>
    match readMem s (adr s p) 4096 with
    | (s, .error _) => (s, none)
    | (s, .ok d) => match readPages adr t s with
      | (s, some l) => (s, some (d :: l))
      | (s, none) => (s, none)

/-- A frame's packets sent: FRAME_BEGIN (not for a refill), pages, FRAME_END. dst gives the address of a page at the other end. -/
def sendFrame (s : State) (n j dev : Nat) (f : FrameTx) (begin' : Bool) (dst : State → (Nat × Nat) → Nat) (data : List (List Byte)) : State :=
  let crc := crc64 ((f.pages.zip data).flatMap (fun (p, d) => crcPage p.2 d))
  let s := if begin' then sendRecord s n j dev 6 0 f.step f.mseq f.pages.length 0 else s
  let s := (f.pages.zip data).foldl (fun s (p, d) => sendPage s n j dev f.step (dst s p) d) s
  sendRecord s n j dev 7 0 f.step f.mseq f.pages.length crc

/-- Slot A's address of a page in the partner's shadow: the shadow of the same TENSOR_ID, which lies at the same BASE (R393). -/
def shadowDst (j : Nat) (s : State) (p : Nat × Nat) : Nat := ((shadowFor s j p.1).map (fun x => x.1.base)).getD 0 + 4096 * p.2

/-- The frame in flight is given up: its pages are released, and a CLOSE that waited for it ends (R402). -/
def dropFrame (s : State) (n : Nat) : State :=
  let q := pairOf s n
  let s := setPair s n { q with frame := none, pages := [], closing := false }
  retryWrites (if q.closing then wr s .pairState n 1 else s)

/-- The frame of a slot sent, from the pages as they stand; pages that cannot be read freeze the mirror (log entry 18). -/
def transmitFrame (s : State) (n j : Nat) (f : FrameTx) : State :=
  match readPages pageAddr f.pages s with
  | (s, none) => dropFrame (freezeMirror s j .uncorrectable) n
  | (s, some data) => inc (sendFrame s n j (rd s .pairPartner n) f true (shadowDst j) data) .mirrorPageCnt 0 f.pages.length

/-- A new frame of cut u begun (R399). -/
def beginFrame (s : State) (n j u : Nat) (pages : List (Nat × Nat)) (full : Bool) : State :=
  let m := (rd s .mseqSent n + 1) % 2 ^ 32
  let f : FrameTx := ⟨m, u, pages, 0, full⟩
  let s := setPair (wr s .mseqSent n m) n { pairOf s n with frame := some f, pages := pages.map (fun p => pageAddr s p / 4096) }
  transmitFrame s n j f

/-! ### Checkpoints (R411 to R413) -/

/-- The export region of a slot's job. -/
def exportRegion (s : State) (n j : Nat) : Option Region :=
  s.bound.regions.find? (fun r => r.id == rd s .ckptExportRegion n && r.job == j && r.role == 8 && partRunning s r.part)

/-- The log header of Table 14.3. -/
def ckptHeader (s : State) (n j u : Nat) (full : Bool) (pages crc : Nat) : List Byte :=
  toLE 4 0x4B504B43 ++ toLE 2 j ++ toLE 2 (b2n full) ++ toLE 4 u ++ toLE 4 (if full then 0xFFFFFFFF else rd s .lastCkptStep n) ++ toLE 4 pages ++
  toLE 4 (((ownDev s j).map (·.rank)).getD 0) ++ toLE 2 (devId s) ++ zeros 6 ++ toLE 8 (128 + 4128 * pages + 64) ++ toLE 8 crc ++ zeros 80

/-- The page record of Table 14.4. -/
def ckptRecord (s : State) (p : Nat × Nat) (d : List Byte) : List Byte :=
  toLE 2 p.1 ++ zeros 2 ++ toLE 4 (((regionById s p.1).map (·.tensor)).getD 0) ++ toLE 4 p.2 ++ zeros 4 ++ toLE 8 (crc64 d) ++ zeros 8 ++ d

/-- A capture that failed: its DELTA_CKPT pages dirty again, event and Stone record (R413). -/
def ckptFailed (s : State) (n j u : Nat) (delta : List (Nat × Nat)) (st : Status) : State :=
  let s := wr (setDirty s delta true) .ckptStatus n st.code
  let s := postEvent s 0x0104 st.code j (devId s) u 0
  stoneWrite s 0x0016 [(2, j), (4, u), (1, st.code)]

/-- The capture of a checkpoint at cut u: the log but its trailer (R412). -/
def capture (s : State) (n j u : Nat) (mirror delta : List (Nat × Nat)) (full : Bool) (e : Region) : State :=
  let pages := sortBy (fun p => p.1 * 2 ^ 32 + p.2) (mirror ++ delta)
  let len := 128 + 4128 * pages.length + 64
  let s := (writeMem s (e.base + 64) (zeros 4)).1
  if e.size < 64 + len then ckptFailed s n j u delta .bounds
  else match readPages pageAddr pages s with
    | (s, none) => ckptFailed s n j u delta .uncorrectable
    | (s, some data) =>
      let recs := (pages.zip data).flatMap (fun (p, d) => ckptRecord s p d)
      let s := (writeMem s (e.base + 192) recs).1
      let h := ckptHeader s n j u full pages.length (crc64 recs)
      let s := (writeMem s (e.base + 68) (h.drop 4)).1
      let s := (writeMem s (e.base + 64) (h.take 4)).1
      setPair (inc (wr s .ckptStatus n 0) .ckptPageCnt 0 pages.length) n
        { pairOf s n with full := false, trailer := some (u, e.base + 192 + 4128 * pages.length, len) }

/-- The SEND and RECV digests of a step (R354, R355). -/
def digestsOf (s : State) (n step : Nat) : Nat × Nat :=
  match (List.range 16).find? (fun i => rd s .digValid (n * 16 + i) == 1 && rd s .digStep (n * 16 + i) == step) with
  | some i => (rd s .digSend (n * 16 + i), rd s .digRecv (n * 16 + i))
  | none => (0, 0)

/-- The trailer of Table 14.5, at cut C + 1: the log is complete (R412). -/
def writeTrailer (s : State) (n j u z : Nat) : State :=
  match (pairOf s n).trailer with
  | some (c, a, len) =>
    if u ≠ c + 1 then s
    else
      let d := digestsOf s n u
      let s := (writeMem s a (toLE 4 0x4C525443 ++ toLE 4 u ++ toLE 8 d.1 ++ toLE 8 d.2 ++ toLE 8 z ++ zeros 32)).1
      let s := wrs (setPair s n { pairOf s n with trailer := none }) [(.ckptUnacked, n, 1), (.lastCkptStep, n, c)]
      postEvent s 0x0103 0 j (devId s) c len
  | none => s

/-- The checkpoint due at cut u, where one is (R411). -/
def checkpoint (s : State) (n j u : Nat) : State :=
  let k := (resilOf s j).interval
  if k = 0 ∨ u % k ≠ 0 then s
  else match exportRegion s n j with
    | none => s
    | some e =>
      if rd s .ckptUnacked n = 1 then s
      else
        let full := (pairOf s n).full
        let delta := (deltaRegions s j).flatMap (fun r => if full then allPages r else dirtyPages s r)
        let mirror := (mirrorRegions s j).flatMap allPages
        capture (setDirty s delta false) n j u mirror delta full e

/-! ### Zest (R421 to R424) -/

/-- The bytes of a job's parameter regions in ascending TENSOR_ID. -/
def zestBytes (s : State) : List Region → State × Option (List Byte)
  | [] => (s, some [])
  | r :: t => match readMem s r.base r.size with
    | (s, .error _) => (s, none)
    | (s, .ok d) => match zestBytes s t with
      | (s, some l) => (s, some (d ++ l))
      | (s, none) => (s, none)

/-- The digest of cut u, where one is due: latched and reported; zero where none is taken. -/
def zestCut (s : State) (n j u : Nat) : State × Nat :=
  let k := (checkOf s j).zest
  if k = 0 ∨ u % k ≠ 0 then (s, 0)
  else match zestBytes s (sortBy (·.tensor) (paramRegions s j)) with
    | (s, none) => (s, 0)
    | (s, some b) =>
      let z := crc64 b
      let s := wrs s [(.zestDigest, n, z), (.zestLastStep, n, u), (.zestVerdictPending, n, 1)]
      let s := setPair s n { pairOf s n with zestDue := (pairOf s n).zestDue ++ [u] }
      let rank := ((ownDev s j).map (·.rank)).getD 0
      (sendRecord s n j (((jobOf s j).map (·.monitor)).getD 0) 1 0 u rank z 0, z)

/-- The verdict of step v, outstanding, holds cut u of job j (R424). -/
def verdictHolds (s : State) (j u v : Nat) : Bool := let c := checkOf s j; c.zest != 0 && v + c.detect + 1 ≤ u + c.zest

/-- R424 holds cut u. -/
def zestHolds (s : State) (n j u : Nat) : Bool := (pairOf s n).zestDue.any (verdictHolds s j u)

/-- A tally's entry for a digest, one report more. -/
def tallyAdd (t : ZestTally) (z rank : Nat) : ZestTally :=
  if t.entries.any (fun e => e.1 == z) then
    { t with entries := t.entries.map (fun e => if e.1 = z then (e.1, e.2.1 + 1, e.2.2.1, rank) else e) }
  else if t.entries.length < 8 then { t with entries := t.entries ++ [(z, 1, rank, rank)] }
  else { t with others := t.others + 1 }

/-- The verdicts of a complete tally (R422). -/
def zestVerdicts (s : State) (t : ZestTally) (ranks : Nat) : State :=
  let maj := (t.entries.find? (fun e => ranks < 2 * e.2.1)).map (·.1)
  let st := if maj.isSome then Status.ok else .checkMismatch
  let good := ((t.entries.find? (fun e => some e.1 == maj)).map (·.2.1)).getD 0
  let s := inc s .zestMismatchCnt 0 (t.senders.length - good)
  let s := t.entries.foldl (fun s e =>
    if maj.isNone ∨ some e.1 = maj then s
    else
      let s := postEvent s 0x010A Status.checkMismatch.code t.job (devId s) (t.step + e.2.1 * 2 ^ 32) (e.2.2.1 + e.2.2.2 * 2 ^ 32)
      stoneWrite s 0x0014 [(2, t.job), (4, t.step), (4, e.2.1), (4, e.2.2.1), (4, e.2.2.2)]) s
  let s := if maj.isNone then postEvent s 0x010C st.code t.job (devId s) t.step 0 else s
  s

/-- A report tallied; the last one of the ranks brings the verdicts. -/
def zestReport (s : State) (p : Pkt) (b : List Byte) : State :=
  let step := fld b 4 4
  let z := fld b 16 8
  let s := answerRecord s p .ok
  let ranks := ((jobOf s p.job).map (·.rankCount)).getD 1
  let old := (s.zests.find? (fun t => t.job == p.job && t.step == step)).getD ⟨p.job, step, [], 0, []⟩
  let t := tallyAdd old z (fld b 8 4)
  let t := { t with senders := t.senders ++ [p.src * 2 ^ 64 + z] }
  let rest := s.zests.filter (fun x => !(x.job == p.job && x.step == step))
  if t.senders.length < ranks then { s with zests := rest ++ [t] }
  else
    let maj := (t.entries.find? (fun e => ranks < 2 * e.2.1)).map (·.1)
    let s := zestVerdicts { s with zests := rest } t ranks
    t.senders.foldl (fun s x =>
      let ok := some (x % 2 ^ 64) == maj
      sendRecord s 0 p.job (x / 2 ^ 64) 2 (if ok then 0 else Status.checkMismatch.code) step (maj.getD 0) 0 0) s

/-- The apply of a job locked (R266, R423). -/
def lockApply (s : State) (j : Nat) : State := wr s .applyLocked (j / 32) (setBits (rd s .applyLocked (j / 32)) (j % 32) 1 1)
/-- The apply of a job is locked. -/
def applyIsLocked (s : State) (j : Nat) : Bool := bit (rd s .applyLocked (j / 32)) (j % 32)

/-- A verdict taken (R423). -/
def zestVerdict (s : State) (p : Pkt) (b : List Byte) : State :=
  let s := answerRecord s p .ok
  match slotOf s p.job with
  | none => s
  | some n =>
    let st := fld b 1 1
    let due := (pairOf s n).zestDue.filter (· != fld b 4 4)
    let s := setPair (wrs s [(.zestVerdictPending, n, b2n (!due.isEmpty)), (.zestStatus, n, st)]) n { pairOf s n with zestHeld := false, zestDue := due }
    if st = 0 then s else lockApply s p.job

/-! ### Replay (R414) -/

/-- The verdict of a replay at cut u. -/
def replayCut (s : State) (n j u : Nat) : State :=
  if rd s .replayArmed n = 1 ∧ rd s .replayStep n = u then
    let d := digestsOf s n u
    let st := if d.1 = rd s .replaySendExp n ∧ d.2 = rd s .replayRecvExp n then Status.ok else .checkMismatch
    let s := wrs s [(.replayArmed, n, 0), (.replayStatus, n, st.code)]
    let s := postEvent s 0x0108 st.code j (devId s) u 0
    endRecovery (stoneWrite s 0x0017 [(2, j), (4, u), (1, st.code)])
  else s

/-! ### Cuts (R396) -/

/-- The tables of a job with flags have closed step u. -/
def tablesClosed (s : State) (j u : Nat) : Bool :=
  (jobRegions s j (fun r => r.role == 3 && (r.mirror || r.ckpt))).all (fun r =>
    match Tbl.find s.homes r.id with
    | some x => (u : Int) ≤ x.lastClosed
    | none => false)

/-- Conditions 1 to 4 of R396 for cut u. -/
def cutReady (s : State) (n j u : Nat) : Bool :=
  let p := pairOf s n
  rd s .mirrorFrozen n == 0 && (paramRegions s j == [] || (p.applied.map (fun a => decide (u ≤ a))).getD false) && tablesClosed s j u &&
  (!(rd s .pairState n == 2 || rd s .pairState n == 3) || p.frame.isNone)

/-- Cut u taken: capture, readers, and the frame of a pair (R396, R399). -/
def takeCut (s : State) (n j u : Nat) : State :=
  let pages := (mirrorRegions s j).flatMap (dirtyPages s)
  let s := setDirty s pages false
  let s := setPair (wr s .lastCut n u) n { pairOf s n with next := some (u + 1) }
  let (s, z) := zestCut s n j u
  let s := writeTrailer s n j u z
  let s := replayCut s n j u
  let s := checkpoint s n j u
  if rd s .pairState n = 2 ∨ rd s .pairState n = 3 then beginFrame s n j u pages false else s

/-- CUT. -/
def cut (s : State) (n : Nat) : State :=
  match slotJob s n, (pairOf s n).next with
  | some j, some u =>
    if cutReady s n j.id u = false then s
    else if zestHolds s n j.id u then
      (if (pairOf s n).zestHeld then s else setPair (inc s .zestHoldCnt) n { pairOf s n with zestHeld := true })
    else takeCut s n j.id u
  | _, _ => s

/-- What an OPEN at step r adds (R396, R402): cuts start again; a CHERRY job takes a full cut at once. -/
def openCut (s : State) (j r : Nat) : State :=
  match slotOf s j with
  | none => s
  | some n =>
    let s := setPair (wr s .mirrorFrozen n 0) n { pairOf s n with next := some r, applied := none, full := true, trailer := none, closing := false }
    if ((jobOf s j).map (·.cherry)).getD false then
      let mirror := (mirrorRegions s j).flatMap allPages
      let s := setDirty s ((deltaRegions s j).flatMap allPages) true
      let u := (r + 2 ^ 32 - 1) % 2 ^ 32
      let s := wrs (setDirty s mirror false) [(.lastCut, n, u), (.pairState, n, 2)]
      beginFrame s n j u mirror true
    else s

/-- DEGRADED_REFUSED of R402. -/
def openRefused (s : State) (j : Nat) : Bool :=
  match slotOf s j with
  | none => false
  | some n => ((jobOf s j).map (·.cherry)).getD false &&
    ((peerRefusal s j (rd s .pairPartner n)).isSome || rd s .pairState n == 4 || rd s .pairState n == 5)

/-- What a CLOSE adds: SUSPENDED once the frame in flight is done (R402). -/
def closePair (s : State) (j : Nat) : State :=
  match slotOf s j with
  | none => s
  | some n =>
    if rd s .pairState n = 2 ∨ rd s .pairState n = 3 then
      if (pairOf s n).frame.isSome then setPair s n { pairOf s n with closing := true } else wr s .pairState n 1
    else s

/-! ### Losing a partner (R404, R409) -/

/-- The arguments of a refill record. -/
def refillArg (survivor target lost : Nat) : Nat := survivor + target * 2 ^ 16 + lost * 2 ^ 32

/-- A refill that ends with a status (R408, R409). -/
def endRefill (s : State) (n j : Nat) (st : Status) : State :=
  let target := rd s .pairPartner n
  let lost := (pairOf s n).lost.getD 0
  let s := wrs (setPair s n { pairOf s n with refill := none })
    [(.refillBusy, n, 0), (.refillQueued, n, 0), (.refillStatus, n, st.code), (.pairState, n, if st = .ok then 1 else 4)]
  let s := sendRecord s n j (((jobOf s j).map (·.monitor)).getD 0) 5 st.code (rd s .shadowStep n) (refillArg (devId s) target lost) 0 0
  let s := if st = .ok then postEvent s 0x0105 0 j (devId s) target (rd s .shadowStep n) else postEvent s 0x0106 st.code j (devId s) target 0
  endRecovery (sendMsi s (rd s .recVector n))

/-- The pair of slot n is lost with a status (R404); while the survivor refills, the target is lost (R409). -/
def partnerLost (s : State) (n : Nat) (st : Status) : State :=
  match slotJob s n with
  | none => s
  | some j =>
    let k := rd s .pairState n
    if k = 5 then endRefill s n j.id st
    else if j.cherry = false ∨ k = 0 ∨ k = 4 then s
    else
      let dev := rd s .pairPartner n
      let p := pairOf s n
      let refilling := (p.rx.map (·.refill)).getD false
      let s := wrs (setPair s n { p with frame := none, pages := [], rx := none, lost := some dev, rebound := false, closing := false })
        [(.pairState, n, 4), (.pairLossStatus, n, st.code)]
      let s := reportSuspect s j.id dev 6 (rd s .lastCut n)
      let s := postEvent s 0x0100 st.code j.id dev (rd s .shadowStep n) (rd s .lastCut n)
      let s := stoneWrite s 0x0015 [(2, j.id), (2, dev), (1, st.code), (4, rd s .shadowStep n), (4, rd s .lastCut n)]
      retryWrites (if refilling then postEvent (wr s .refillStatus n Status.peerLost.code) 0x0107 Status.peerLost.code j.id dev dev 0 else s)

/-- Any pair context of job j with a device is lost. -/
def pairCtxLost (s : State) (j dev : Nat) : State :=
  match slotOf s j with
  | some n => if rd s .pairPartner n = dev then partnerLost s n .peerLost else s
  | none => s

/-! ### Receiving (R400, R407) -/

/-- The slot of a record's job whose partner sent it. -/
def partnerSlot (s : State) (p : Pkt) : Option Nat :=
  match slotOf s p.job with
  | some n => if rd s .pairPartner n = p.src ∧ rd s .pairState n ≠ 0 then some n else none
  | none => none

/-- FRAME_BEGIN (R400). -/
def frameBegin (s : State) (p : Pkt) (b : List Byte) : State :=
  match partnerSlot s p with
  | none => answerRecord s p .permission
  | some n =>
    if rd s .pairState n = 4 ∨ rd s .pairState n = 5 then answerRecord s p .permission
    else answerRecord (setPair s n { pairOf s n with rx := some ⟨fld b 8 4, fld b 4 4, fld b 16 4, [], false⟩ }) p .ok

/-- A page of a frame written into the slot that is not current, and its tag (R400); none where the WRITE is no such page. -/
def framePage (s : State) (p : Pkt) : Option State :=
  match partnerSlot s p, shadowOf s p.addr with
  | some n, some (r, m) =>
    match (pairOf s n).rx with
    | some x =>
      let i := (p.addr - r.base) / 4096
      if x.refill || r.job != p.job || p.payload.length != 4096 || (p.addr - r.base) % 4096 != 0 || m.size ≤ p.addr - r.base then none
      else
        let b := !slotIsB s r m i
        let s := (writeMem s (shadowSlot r m i b) p.payload).1
        let s := (writeMem s (shadowTag r m i + (if b then 4 else 0)) (toLE 4 x.mseq)).1
        some (setPair s n { pairOf s n with rx := some { x with got := x.got ++ [(m.id, i)] } })
    | none => none
  | _, _ => none

/-- A page of a refill written to a primary region, while the job is CLOSED and from its bound partner (R407). -/
def refillPage (s : State) (p : Pkt) : Option State :=
  match partnerSlot s p, regionOf s p.job p.addr with
  | some n, some m =>
    if m.mirror && !(Tbl.find s.readSteps p.job).isSome && p.payload.length == 4096 && (p.addr - m.base) % 4096 == 0 && rd s .pairState n == 1 then
      let x := (pairOf s n).rx.getD ⟨0, 0, 0, [], true⟩
      if x.refill then
        let s := (writeMem s p.addr p.payload).1
        some (inc (setPair s n { pairOf s n with rx := some { x with got := x.got ++ [(m.id, (p.addr - m.base) / 4096)] } }) .refillPageCnt)
      else none
    else none
  | _, _ => none

/-- The address of a page just received: the slot it went to, or the primary. -/
def rxAddr (j : Nat) (x : FrameRx) (s : State) (p : Nat × Nat) : Nat :=
  if x.refill then pageAddr s p
  else match shadowFor s j p.1 with
    | some (r, m) => shadowSlot r m p.2 (!slotIsB s r m p.2)
    | none => 0

/-- FRAME_END: the frame committed or refused, and acknowledged (R400, R407). -/
def frameEnd (s : State) (p : Pkt) (b : List Byte) : State :=
  match partnerSlot s p with
  | none => answerRecord s p .permission
  | some n =>
    match (pairOf s n).rx with
    | none => answerRecord s p .permission
    | some x =>
      let s := setPair s n { pairOf s n with rx := none }
      let data := x.got.flatMap (fun q => crcPage q.2 (memBytes s (rxAddr p.job x s q) 4096))
      let ok := fld b 16 4 == x.got.length && (x.refill || (x.count == x.got.length && x.mseq == fld b 8 4)) && crc64 data == fld b 24 8
      let s := answerRecord s p .ok
      let s := if ok && !x.refill then wrs s [(.shadowMseq, n, x.mseq), (.shadowStep, n, x.step)] else s
      sendRecord s n p.job p.src 8 (if ok then 0 else Status.checkMismatch.code) (fld b 4 4) (fld b 8 4) 0 0

/-- FRAME_ACK for a mirror frame: pages released, or the frame sent again (R400); a frozen mirror sends no frame (R398). -/
def frameAck (s : State) (p : Pkt) (b : List Byte) : State :=
  match partnerSlot s p with
  | none => answerRecord s p .permission
  | some n =>
    let s := answerRecord s p .ok
    match (pairOf s n).frame with
    | none => s
    | some f =>
      if fld b 8 4 ≠ f.mseq then s
      else if fld b 1 1 = 0 then
        let q := pairOf s n
        let s := wr (setPair s n { q with frame := none, pages := [], closing := false }) .mirrorStep n f.step
        retryWrites (if q.closing then wr s .pairState n 1 else if f.full then wr s .pairState n 3 else s)
      else if 2 ≤ f.refused then partnerLost s n .checkMismatch
      else if rd s .mirrorFrozen n = 1 then dropFrame s n
      else
        let f := { f with refused := f.refused + 1 }
        transmitFrame (inc (setPair s n { pairOf s n with frame := some f }) .mirrorResendCnt) n p.job f

/-! ### Refill (R405 to R409) -/

/-- A REBIND that ends. -/
def endRebind (s : State) (n : Nat) (st : Status) : State :=
  sendMsi (wr (setPair s n { pairOf s n with feedQuery := false }) .refillStatus n st.code) (rd s .recVector n)

/-- The redundancy status of a pair on one feed (R392). -/
def applyFeed (s : State) (n j feed : Nat) : State :=
  if feed = rd s .feedId then
    let s := stoneWrite (wr s .sharedFeed n 1) 0x0015 [(2, j), (2, rd s .pairPartner n), (1, 0), (1, feed)]
    postEvent s 0x0101 0 j (devId s) feed 0
  else wr s .sharedFeed n 0

/-- REBIND: the checks of R405, then the target's feed is asked. A slot that is not VALID ignores the write (R427), as one does whose REBIND still
waits (log entry 17). -/
def rebind (s : State) (n : Nat) : State :=
  match slotJob s n with
  | none => s
  | some j =>
    let dev := rd s .rebindDevice n
    if (pairOf s n).feedQuery = true then s
    else if j.cherry = false ∨ (Tbl.find s.readSteps j.id).isSome ∨ rd s .pairState n ≠ 4 ∨
        s.bound.devs.any (fun d => d.job == j.id && d.dev == dev) = false ∨ (peerRefusal s j.id dev).isSome then endRebind s n .permission
    else if dev = devId s ∨ some dev = (pairOf s n).lost then endRebind s n .format
    else sendReq (setPair s n { pairOf s n with feedQuery := true }) mgmtCtx (mgmtPkt s dev 2 0 false false 0 []) (.feed n)

/-- The target's feed has been read (R405). -/
def rebindFeed (s : State) (n : Nat) (st : Status) (b : List Byte) : State :=
  match slotJob s n with
  | none => s
  | some j =>
    if (pairOf s n).feedQuery = false then s
    else if st ≠ .ok then endRebind s n .peerLost
    else
      let feed := fbits b 0 1 3 0
      if feed = rd s .feedId ∧ (resilOf s j.id).allowShared = false then endRebind s n .permission
      else
        let s := wr (setPair s n { pairOf s n with rebound := true }) .pairPartner n (rd s .rebindDevice n)
        endRebind (applyFeed s n j.id feed) n .ok

/-- REFILL_START (R406); a slot that is not VALID ignores it (R427). -/
def refillStart (s : State) (n : Nat) : State :=
  match slotJob s n with
  | none => s
  | some j =>
    let p := pairOf s n
    if p.rebound = false ∨ rd s .pairState n ≠ 4 ∨ rd s .refillQueued n = 1 then endRebind s n .permission
    else if j.monitor ≠ devId s ∧ (peerRefusal s j.id j.monitor).isSome then endRebind s n .peerLost
    else sendRecord (wr s .refillQueued n 1) n j.id j.monitor 3 0 (rd s .shadowStep n) (refillArg (devId s) (rd s .pairPartner n) (p.lost.getD 0)) 0 0

/-- The answer to a record: a REFILL_REQ that the monitor refuses ends the refill (R406). -/
def recordResp (s : State) (n kind : Nat) (st : Status) : State :=
  if kind = 3 ∧ st ≠ .ok ∧ rd s .refillQueued n = 1 then endRebind (wr s .refillQueued n 0) n st else s

/-- The pages of a refill, each the current slot, sent to the target's primary regions (R407). -/
def transmitRefill (s : State) (n j : Nat) (f : FrameTx) : State :=
  match readPages (fun s p => shadowDst j s p) f.pages s with
  | (s, none) => endRefill s n j .uncorrectable
  | (s, some data) => inc (sendFrame s n j (rd s .pairPartner n) f false pageAddr data) .refillPageCnt 0 f.pages.length

/-- REFILL_GRANT (R407). -/
def refillGrant (s : State) (p : Pkt) : State :=
  let s := answerRecord s p .ok
  match slotOf s p.job with
  | none => s
  | some n =>
    if rd s .refillQueued n = 0 then s
    else
      let s := wrs s [(.refillQueued, n, 0), (.refillBusy, n, 1), (.pairState, n, 5)]
      if (peerRefusal s p.job (rd s .pairPartner n)).isSome then endRefill s n p.job .peerLost
      else
        let f : FrameTx := ⟨0, rd s .shadowStep n, (mirrorRegions s p.job).flatMap allPages, 0, true⟩
        transmitRefill (setPair s n { pairOf s n with refill := some f }) n p.job f

/-- The tag arrays of a job's shadows zeroed (R408). -/
def clearTags (s : State) (j : Nat) : State :=
  (mirrorRegions s j).foldl (fun s m => match shadowFor s j m.id with
    | some (r, m) => zeroRange s (r.base + 2 * m.size) (8 * (m.size / 4096))
    | none => s) s

/-- REFILL_COMPLETE: the target's answer to the refill's FRAME_END (R408, R409). -/
def refillComplete (s : State) (p : Pkt) (b : List Byte) : State :=
  match partnerSlot s p with
  | none => answerRecord s p .permission
  | some n =>
    let s := answerRecord s p .ok
    match (pairOf s n).refill with
    | none => s
    | some f =>
      let st := Status.ofCode (fld b 1 1)
      if st = .ok then endRefill (wr (clearTags s p.job) .shadowMseq n 0) n p.job .ok
      else if st = .checkMismatch ∧ f.refused < 2 then
        let f := { f with refused := f.refused + 1 }
        transmitRefill (setPair s n { pairOf s n with refill := some f }) n p.job f
      else endRefill s n p.job st

/-- The head of a job's refill queue granted, unless one is (R406). -/
def grantNext (s : State) (j : Nat) : State :=
  if s.refills.any (fun r => r.job == j && r.granted) then s
  else match s.refills.find? (fun r => r.job == j) with
    | none => s
    | some r =>
      let s := { s with refills := s.refills.map (fun x => if x = r then { x with granted := true } else x) }
      sendRecord s 0 j r.survivor 4 0 0 (refillArg r.survivor r.target r.lost) 0 0

/-- REFILL_REQ at the monitor (R406). -/
def refillReq (s : State) (p : Pkt) (b : List Byte) : State :=
  if 16 ≤ (s.refills.filter (fun r => r.job == p.job)).length then answerRecord s p .bounds
  else
    let s := answerRecord s p .ok
    grantNext { s with refills := s.refills ++ [⟨p.job, fld b 8 2, fld b 10 2, fld b 12 2, false⟩] } p.job

/-- REFILL_DONE at the monitor (R406); one with OK gives the survivor a partner again (R410). -/
def refillDone (s : State) (p : Pkt) (b : List Byte) : State :=
  let s := answerRecord s p .ok
  let s := if fld b 1 1 = 0 then { s with soleCopies := Tbl.del s.soleCopies (p.job * 65536 + fld b 8 2) } else s
  grantNext { s with refills := s.refills.filter (fun r => !(r.job == p.job && r.survivor == fld b 8 2)) } p.job

/-- A SUSPECT report seen by the monitor (R410): the survivor of a refill, or of a pair, is suspect too. -/
def onSuspect (s : State) (j dev reason : Nat) : State :=
  let sole := s.refills.any (fun r => r.job == j && r.survivor == dev) || (Tbl.find s.soleCopies (j * 65536 + dev)).isSome
  let s := if sole then postEvent s 0x0107 Status.peerLost.code j dev dev 0 else s
  if reason = 6 then
    match (s.bound.devs.find? (fun d => d.job == j && d.dev == dev)).bind (·.partner) with
    | some q => { s with soleCopies := Tbl.set s.soleCopies (j * 65536 + q) () }
    | none => s
  else s

/-! ### Meanings -/

/-- CUT. -/
def execCut (slot : Nat) (s : State) : Host.Outcome State Fault Refusal := .next (retryWrites (cut s slot))
/-- FRAME_BEGIN. -/
def execFrameBegin (pkt : Pkt) (s : State) : Host.Outcome State Fault Refusal := .next (withRecord s pkt 6 (fun s b => frameBegin s pkt b))
/-- FRAME_END. -/
def execFrameEnd (pkt : Pkt) (s : State) : Host.Outcome State Fault Refusal := .next (withRecord s pkt 7 (fun s b => frameEnd s pkt b))
/-- FRAME_ACK. -/
def execFrameAck (pkt : Pkt) (s : State) : Host.Outcome State Fault Refusal := .next (withRecord s pkt 8 (fun s b => frameAck s pkt b))
/-- HEARTBEAT: answered; its arrival is what it says (R399, R404). -/
def execHeartbeat (pkt : Pkt) (s : State) : Host.Outcome State Fault Refusal := .next (withRecord s pkt 9 (fun s _ => answerRecord s pkt .ok))

/-- HEARTBEAT_TIMER: the pair context has carried nothing for a quarter of PEER_TIMEOUT (R399). -/
def execHeartbeatTimer (slot : Nat) (s : State) : Host.Outcome State Fault Refusal :=
  .next (match slotJob s slot with
    | some j => if j.cherry && (1 ≤ rd s .pairState slot && rd s .pairState slot ≤ 3) then
        sendRecord s slot j.id (rd s .pairPartner slot) 9 0 0 0 0 0 else s
    | none => s)

/-- PARTNER_SILENCE_TIMEOUT (R404). -/
def execPartnerSilenceTimeout (slot : Nat) (s : State) : Host.Outcome State Fault Refusal := .next (partnerLost s slot .timeout)

/-- REBIND. -/
def execRebind (slot : Nat) (s : State) : Host.Outcome State Fault Refusal := .next (rebind s slot)
/-- The feed query of a slot is awaited no more (R325). -/
def dropFeed (s : State) (n : Nat) : State :=
  let ts := (s.tags.filter (fun e => e.2.origin == .feed n && !e.2.quar)).map (·.1)
  ts.foldl quarantine { s with tagWait := s.tagWait.filter (fun w => w.2.2 != .feed n) }
/-- REBIND_FEED_QUERY_TIMEOUT. -/
def execRebindFeedQueryTimeout (slot : Nat) (s : State) : Host.Outcome State Fault Refusal :=
  .next (if (pairOf s slot).feedQuery then endRebind (dropFeed s slot) slot .peerLost else s)
/-- REFILL_START. -/
def execRefillStart (slot : Nat) (s : State) : Host.Outcome State Fault Refusal := .next (refillStart s slot)
/-- REFILL_REQ. -/
def execRefillReq (pkt : Pkt) (s : State) : Host.Outcome State Fault Refusal := .next (withRecord s pkt 3 (fun s b => refillReq s pkt b))
/-- REFILL_GRANT. -/
def execRefillGrant (pkt : Pkt) (s : State) : Host.Outcome State Fault Refusal := .next (withRecord s pkt 4 (fun s _ => refillGrant s pkt))
/-- REFILL_COMPLETE. -/
def execRefillComplete (pkt : Pkt) (s : State) : Host.Outcome State Fault Refusal := .next (withRecord s pkt 8 (fun s b => refillComplete s pkt b))
/-- REFILL_DONE. -/
def execRefillDone (pkt : Pkt) (s : State) : Host.Outcome State Fault Refusal := .next (withRecord s pkt 5 (fun s b => refillDone s pkt b))

/-- A write of CKPT_ACK: the checkpoint's step clears CKPT_UNACKED; any other value is ignored (R412). -/
def ckptAck (s : State) (n step : Nat) : State :=
  if rd s .ckptUnacked n = 1 ∧ rd s .lastCkptStep n = step then wr s .ckptUnacked n 0 else s
/-- CKPT_ACK. -/
def execCkptAck (slot step : Nat) (s : State) : Host.Outcome State Fault Refusal := .next (ckptAck s slot step)

/-- A write of REPLAY_ARM, while the job is CLOSED (R414; log entry 19). -/
def replayArm (s : State) (n : Nat) : State :=
  match slotJob s n with
  | some j => if (Tbl.find s.readSteps j.id).isSome then s else setMode (wr s .replayArmed n 1) 3
  | none => s
/-- REPLAY_ARM. -/
def execReplayArm (slot : Nat) (s : State) : Host.Outcome State Fault Refusal := .next (replayArm s slot)

/-- ZEST_REPORT. -/
def execZestReport (pkt : Pkt) (s : State) : Host.Outcome State Fault Refusal := .next (withRecord s pkt 1 (fun s b => zestReport s pkt b))
/-- ZEST_VERDICT. -/
def execZestVerdict (pkt : Pkt) (s : State) : Host.Outcome State Fault Refusal := .next (withRecord s pkt 2 (fun s b => zestVerdict s pkt b))
/-- ZEST_HOLD_TIMEOUT: the verdict is outstanding PEER_TIMEOUT after the hold began (R424). -/
def execZestHoldTimeout (slot : Nat) (s : State) : Host.Outcome State Fault Refusal :=
  .next (match slotJob s slot with
    | some j =>
      match (pairOf s slot).zestHeld, (pairOf s slot).zestDue with
      | true, v :: _ => postEvent s 0x010B Status.timeout.code j.id (devId s) v 0
      | _, _ => s
    | none => s)

end Sys2Proof.Machine
end

