-- ==== Sys2Proof/Machine/Apply.lean ====
section
/-!
DEFINITION. Sys2Proof/Machine/Apply.lean: the apply doorbell, parameter regions between steps, slices and prefetch (R255 to R271,
R241, R377).
-/
namespace Sys2Proof.Machine

/-! ### Parameter regions (R255) -/

/-- READ_STEP_n of a state. -/
def ParamSt.readStep : ParamSt → Nat
  | .closed => 0xFFFFFFFF
  | .opened r => r
  | .applying r => r + 1

/-- The state of a region set, with its READ_STEP_n. -/
def setParam (s : State) (id : Nat) (p : ParamSt) : State :=
  { wr s .readStep id p.readStep with params := Tbl.put s.params id p .closed }

/-- Several regions set. -/
def setParams (s : State) (ids : List Nat) (p : ParamSt) : State := ids.foldl (fun s id => setParam s id p) s

/-! ### The request (R261, R262, R377) -/

/-- The layer entry of Table 9.7 in 32 bytes. -/
def readLayer (b : List Byte) : ApplyLayer :=
  ⟨fld b 0 2, fbits b 2 1 6 0, fbits b 3 1 3 0, fbits b 8 8 39 0, fbits b 0x10 8 39 0, fbits b 0x18 8 39 0⟩

/-- Reserved fields of a layer entry are zero. -/
def layerZeros (b : List Byte) : Bool :=
  !fbit b 2 1 7 && fbits b 3 1 7 4 == 0 && fld b 4 4 == 0 && fbits b 8 8 63 40 == 0 && fbits b 0x10 8 63 40 == 0 && fbits b 0x18 8 63 40 == 0

/-- Reserved fields of the delta header are zero. -/
def deltaZeros (h : List Byte) : Bool :=
  fbits h 4 2 15 12 == 0 && fbits h 6 2 15 2 == 0 && !fbit h 0x10 2 15 && fld h 0x12 2 == 0 && allZero (slice h 0x20 32)

/-- The first entry of a list that meets p, by its index. -/
def firstBad {α : Type} (p : α → Bool) (l : List α) : Option Nat := l.findIdx? p

/-- PERMISSION of an entry. -/
def layerPerm (s : State) (j : Nat) (y : ApplyLayer) : Bool :=
  match regionById s y.region with
  | none => true
  | some r => r.job == j && isParam r

/-- FORMAT of an entry, layers being the number of entries. -/
def layerFormat (layers : Nat) (b : List Byte) : Bool :=
  let y := readLayer b
  layerZeros b && y.k ≤ 126 && (y.fmt == 1 || y.fmt == 2) && y.off % 2 == 0 && y.delta % 64 == 0 && 0x40 + 32 * layers ≤ y.delta

/-- An entry whose parameter range meets that of an earlier one. -/
def layerOverlap : List ApplyLayer → List ApplyLayer → Nat → Option Nat
  | _, [], _ => none
  | before, y :: t, i =>
    if before.any (fun x => x.region == y.region && overlaps x.off (2 * x.count) y.off (2 * y.count)) then some i
    else layerOverlap (y :: before) t (i + 1)

/-- BOUNDS of an entry. -/
def layerBounds (s : State) (d : Region) (y : ApplyLayer) : Bool :=
  (match regionById s y.region with
   | none => true
   | some r => y.off + 2 * y.count ≤ r.size) && y.delta + 2 * y.count ≤ d.size

/-- A request of the job still runs: an apply's slices, a close's readers, or its record waits for room on its queue (R265, R373). -/
def applyBusy (s : State) (j : Nat) : Bool :=
  (Tbl.find s.applyRuns j).isSome ||
  s.heldRecs.any (fun h => h.unit == some .apply && s.bound.queues.any (fun q => q.id == h.queue && q.job == j))

/-- A request that has ended is the last one: LAST_APPLY_JOB, LAST_APPLY_STATUS, and LAST_APPLY_STEP where its header has been read (R271). -/
def lastApply (s : State) (j : Nat) (st : Status) (step : Option Nat) : State :=
  let s := wrs s [(.lastApplyJob, 0, j), (.lastApplyStatus, 0, st.code)]
  match step with
  | some n => wr s .lastApplyStep 0 n
  | none => s

/-- The checks of Table 9.8 that need the header, in the order of R16, with the entry of the first failure. OPEN of a pair that
cannot mirror is DEGRADED_REFUSED (R402). -/
def applyCheck (s : State) (j : Nat) (d : Region) (h : List Byte) (bs : List (List Byte)) : Status × Nat :=
  let mode := fbits h 6 2 1 0
  let step := fld h 8 4
  let n := fld h 0xC 2
  let ys := bs.map readLayer
  let cur := Tbl.find s.readSteps j
  let at0 := fun (c : Bool) => if c then none else some 0
  let perm := firstOff [at0 (!applyBusy s j && !applyIsLocked s j), firstBad (fun y => !layerPerm s j y) ys]
  let form := firstOff [
    at0 (fld h 0 4 == 0x41544C44 && fbits h 4 2 11 0 == j && deltaZeros h && mode != 3 && n ≤ 4096 && (mode == 0 || n == 0) &&
      (if mode = 1 then cur.isNone else cur == some step) && (mode == 2 || step < 0xFFFFFFFE)),
    firstBad (fun b => !layerFormat n b) bs, layerOverlap [] ys 0]
  let bnd := firstOff [at0 (0x40 + 32 * n ≤ d.size), firstBad (fun y => !layerBounds s d y) ys]
  let idx := firstBad (fun (y : ApplyLayer) => (regionById s y.region).isNone) ys
  match perm, form, bnd, idx with
  | some i, _, _, _ => (.permission, i)
  | none, some i, _, _ => (.format, i)
  | none, none, some i, _ => (.bounds, i)
  | none, none, none, some i => (.indexRange, i)
  | _, _, _, _ => if mode = 1 ∧ openRefused s j then (.degradedRefused, 0) else (.ok, 0)

/-- A request ends (R265): header fields, registers, record. -/
def endApply (s : State) (j region mode step tag cq : Nat) (st : Status) (detail elems : Nat) : State :=
  let s := match regionById s region with
    | some d => (writeMem s (d.base + 0x14) (toLE 4 step ++ toLE 1 st.code ++ zeros 3 ++ toLE 4 detail)).1
    | none => s
  let s := lastApply s j st (some step)
  let s := if st = .ok then inc s .applyOkCnt else inc s .applyFailCnt
  postJobRec { s with applyRuns := Tbl.del s.applyRuns j } cq j 2 (unitRecord tag (0x30 + mode) st step detail (min elems 0xFFFFFFFF)) (some .apply)

/-- A doorbell turned away before a delta region and a completion queue are known (R377). -/
def rejectDoorbell (s : State) (v : Nat) (st : Status) (step : Option Nat := none) : State :=
  let s := lastApply s (bits v 11 0) st step
  postEvent (inc s .applyFailCnt) 0x0009 st.code (bits v 11 0) (devId s) (bits v 11 0 + bits v 31 16 * 2 ^ 16) 0

/-- Every trainable parameter region of the job that stands at r or has its apply of r ended moves to r + 1 (R255). Regions still
APPLYING move only when the apply ends with OK (R266). -/
def advanceParams (s : State) (j r : Nat) (ok : Bool) : State :=
  (paramRegions s j).foldl (fun s p => match paramSt s p.id with
    | .opened x => if x = r then setParam s p.id (.opened (r + 1)) else s
    | .applying _ => if ok then setParam s p.id (.opened (r + 1)) else s
    | .closed => s) s

/-- An apply whose slices are all done or failed ends (R265, R266). -/
def finishApply (s : State) (j : Nat) (r : ApplyRun) : State :=
  match r.fail with
  | none =>
    let s := { advanceParams s j r.step true with readSteps := Tbl.set s.readSteps j (r.step + 1) }
    let s := match slotOf s j with
      | some n => setPair s n { pairOf s n with applied := some r.step }
      | none => s
    endApply s j r.region 0 r.step r.tag r.cq .ok 0 r.elems
  | some (st, i) =>
    let s := endApply (advanceParams s j r.step false) j r.region 0 r.step r.tag r.cq st i r.elems
    let s := postEvent (lockApply s j) 0x0005 st.code j (devId s) r.step i
    freezeMirror s j st

/-- The apply of a job ends when no slice runs and none is left to start. -/
def settleApply (s : State) (j : Nat) (r : ApplyRun) : State :=
  if r.active = [] ∧ (r.fail.isSome ∨ r.left.all (fun e => e.2 == 0)) then finishApply s j r
  else { s with applyRuns := Tbl.set s.applyRuns j r }

/-- Slices of each region the layers name. -/
def leftOf (ys : List ApplyLayer) : Tbl Nat :=
  ys.foldl (fun t y => Tbl.set t y.region (Tbl.getD t y.region 0 + layerSlices y)) []

/-- A request that passed its checks. -/
def startApply (s : State) (j : Nat) (d : Region) (h : List Byte) (ys : List ApplyLayer) : State :=
  let mode := fbits h 6 2 1 0
  let step := fld h 8 4
  let tag := fld h 0xE 2
  let cq := fbits h 0x10 2 14 0
  if mode = 1 then
    let s := setParams s ((paramRegions s j).map (·.id)) (.opened step)
    let s := openCut { s with readSteps := Tbl.set s.readSteps j step } j step
    endApply s j d.id 1 step tag cq .ok 0 0
  else
    let cores := sortBy (fun x => x) ((s.bound.cores.filter (fun c => c.job == j && partRunning s c.part)).map (·.core))
    let r : ApplyRun := ⟨mode, d.id, step, tag, cq, ys, cores, [], [], leftOf ys, 0, none, [], []⟩
    if mode = 2 then { s with applyRuns := Tbl.set s.applyRuns j r }
    else settleApply (setParams s (ys.map (·.region)).dedup (.applying step)) j r

/-- A write of APPLY_DB (R377, R262). want is the MODE of the row that is commanded; none takes the header's. -/
def applyDoorbell (s : State) (v : Nat) (want : Option Nat) : State :=
  let j := bits v 11 0
  let id := bits v 31 16
  if bits v 15 12 ≠ 0 then rejectDoorbell s v .format
  else if !(jobRunning s j && s.bound.cores.any (fun c => c.job == j && partRunning s c.part)) then rejectDoorbell s v .permission
  else match s.bound.regions.find? (fun r => r.id == id && r.role == 7 && r.job == j && partRunning s r.part) with
    | none => rejectDoorbell s v .permission
    | some d =>
      match readMem s d.base 64 with
      | (s, .error _) => rejectDoorbell s v .uncorrectable
      | (s, .ok h) =>
        let mode := fbits h 6 2 1 0
        let cq := fbits h 0x10 2 14 0
        if want.any (fun m => mode != 3 && m != mode) then s
        else if !cqBound s cq j 2 then rejectDoorbell s v .permission (some (fld h 8 4))
        else
          let n := min (fld h 0xC 2) (min 4096 ((d.size - 0x40) / 32))
          let stop := fun (s : State) (st : Status) (i : Nat) =>
            let runs := s.applyRuns
            { endApply s j d.id mode (fld h 8 4) (fld h 0xE 2) cq st i 0 with applyRuns := runs }
          match readMem s (d.base + 0x40) (32 * n) with
          | (s, .error _) => stop s .uncorrectable 0
          | (s, .ok t) =>
            let bs := if n = 0 then [] else chunks 32 t
            match applyCheck s j d h bs with
            | (.ok, _) => startApply s j d h (bs.map readLayer)
            | (st, i) => stop s st i

/-! ### Slices (R264, R266, R241) -/

/-- One weight after its delta (R241). A delta of ±0 leaves a finite weight as it is, without a draw; an infinite weight is read as the largest finite
value and a NaN becomes the canonical one whatever the delta (DEDUCED, log entry 62: "unchanged" holds because v then equals w). -/
def applyElem (f : Fmt) (k w d : Nat) (rm : RMode) : Elem :=
  let sat := f.infs [w] + Fmt.infs .e8m7 [d]
  if d % 2 ^ 15 = 0 ∧ f.isNan w = false then ⟨f.finite w, sat, 0⟩
  else match f.decode w, Fmt.decode .e8m7 d with
  | .nan, _ => f.nanElem.addSat sat
  | _, .nan => f.nanElem.addSat sat
  | .num a, .num b => (f.round rm (a.add { b with e := b.e - k })).addSat sat

/-- The elements of a slice, from element index i of the region. -/
def applyElems (f : Fmt) (k seed tensor step : Nat) : Nat → List Nat → List Nat → List Elem
  | i, w :: ws, d :: ds => applyElem f k w d (srMode seed tensor step i 0) :: applyElems f k seed tensor step (i + 1) ws ds
  | _, _, _ => []

/-- The 2-byte codes of a byte string. -/
def halves (b : List Byte) : List Nat := (chunks 2 b).map leNat

/-- A slice of core l starts (R264): its engines are free, the apply unit holds no record (R373), no started tile of the device reads its parameters,
R93 holds on its core, the hold counted once, and no cut holds the pages it writes (R397). -/
def sliceStart (s : State) (l j : Nat) : State :=
  match Tbl.find s.applyRuns j with
  | none => s
  | some r =>
    match nextSlice r l with
    | none => s
    | some (i, n) =>
      match sliceAt r.layers n 0 with
      | none => s
      | some (y, x, _) =>
        let c := sliceLen y x
        let a := sliceAddrs s r y x
        let read := s.cores.any (fun e => (allFlight e.2).any (fun f => f.ranges.any (fun g => overlaps a.1 (2 * c) g.1 g.2.1)))
        if Nat.land (enginesBusy (coreSt s l) ||| Tbl.getD s.engHold l 0) 6 ≠ 0 || resetting s l || unitWaits s .apply || read then s
        else if (allFlight (coreSt s l)).any (fun f => conflict (sliceRanges s r y x) f.ranges) then
          if r.stalled.contains n then s
          else inc { s with applyRuns := Tbl.set s.applyRuns j { r with stalled := n :: r.stalled } } .hazardStallCnt l
        else if ((regionById s y.region).map (fun p => cutHolds s p r.step a.1 (2 * c))).getD false then
          if r.heldCut.contains n then s
          else inc { s with applyRuns := Tbl.set s.applyRuns j { r with heldCut := n :: r.heldCut } } .mirrorHoldCnt
        else
          let r := { r with started := Tbl.set r.started i (Tbl.getD r.started i 0 + 1), active := r.active ++ [(i, n)] }
          { s with applyRuns := Tbl.set s.applyRuns j r, engHold := Tbl.put s.engHold l (Tbl.getD s.engHold l 0 ||| 6) 0 }

/-- The slice of core l no longer runs: its engines are free. -/
def sliceGone (s : State) (l : Nat) : State :=
  { s with engHold := Tbl.put s.engHold l (Tbl.getD s.engHold l 0 - Nat.land (Tbl.getD s.engHold l 0) 6) 0 }

/-- A slice that fails commits nothing; the apply takes the first failure (R266). -/
def sliceFail (s : State) (l j : Nat) (r : ApplyRun) (i n layer : Nat) (st : Status) : State :=
  settleApply (sliceGone s l) j { r with active := r.active.filter (· != (i, n)), fail := some (r.fail.getD (st, layer)) }

/-- The slice of core l commits all its elements at once (R264). -/
def sliceCommit (s : State) (l : Nat) : State :=
  match sliceOn s l with
  | none => s
  | some (j, r, i, n) =>
    if unitWaits s .apply then s else
    match sliceAt r.layers n 0, (sliceAt r.layers n 0).bind (fun q => regionById s q.1.region) with
    | some (y, x, li), some p =>
      let c := sliceLen y x
      let a := sliceAddrs s r y x
      match readMem s a.1 (2 * c) with
      | (s, .error _) => sliceFail s l j r i n li .uncorrectable
      | (s, .ok w) =>
        match readMem s a.2 (2 * c) with
        | (s, .error _) => sliceFail s l j r i n li .uncorrectable
        | (s, .ok d) =>
          let f := (Fmt.ofCode y.fmt).getD .e8m7
          let es := applyElems f y.k (seedOf s j) p.tensor r.step ((a.1 - p.base) / 2) (halves w) (halves d)
          let s := (writeMem s a.1 (es.flatMap (fun e => toLE 2 e.code))).1
          let s := inc (inc s .satCnt l (es.map (·.sat)).sum) .vecNanCnt l (es.map (·.nan)).sum
          let s := inc (inc (sliceGone s l) .applySliceCnt l) .applyElemCnt 0 c
          let left := Tbl.getD r.left y.region 0 - 1
          let r := { r with active := r.active.filter (· != (i, n)), elems := r.elems + c, left := Tbl.set r.left y.region left }
          let s := if left = 0 then setParam s y.region (.opened (r.step + 1)) else s
          settleApply s j r
    | _, _ => s

/-- Slices that run on cores meeting p end with ABORTED: their cores were reset (R266). -/
def abortSlices (p : Nat → Bool) : List Nat → State → State
  | [], s => s
  | l :: t, s =>
    if p l then
      match sliceOn s l with
      | some (j, r, i, n) => abortSlices p t (sliceFail s l j r i n (((sliceAt r.layers n 0).map (·.2.2)).getD 0) .aborted)
      | none => abortSlices p t s
    else abortSlices p t s

/-- A started tile still reads a trainable parameter region of job j (R263). -/
def paramReaders (s : State) (j : Nat) : Bool :=
  s.cores.any (fun e => (allFlight e.2).any (fun f => f.ranges.any (fun g =>
    !aRemote g.1 && (paramsIn s g.1 g.2.1).any (fun p => p.job == j))))

/-- CLOSE goes through: regions CLOSED, no cut further, the pair suspended (R263, R402). -/
def closeDone (s : State) (j : Nat) : State :=
  match Tbl.find s.applyRuns j with
  | none => s
  | some r =>
    if r.mode ≠ 2 ∨ paramReaders s j then s
    else
      let s := setParams s ((paramRegions s j).map (·.id)) .closed
      let s := closePair { s with readSteps := Tbl.del s.readSteps j } j
      endApply s j r.region 2 r.step r.tag r.cq .ok 0 0

/-! ### Prefetch (R259) -/

/-- Runs cut to n bytes in all. -/
def cutRuns : Nat → List (Nat × Nat) → List (Nat × Nat)
  | _, [] => []
  | 0, _ => []
  | n + 1, (a, k) :: t => (a, min k (n + 1)) :: cutRuns (n + 1 - min k (n + 1)) t

/-- The runs of bytes that hold the first block of B of a MATMUL: its columns 0 to 31 over all of K, in ascending address where B is not
compressed, and of a compressed B the values present, element by element (R200, R259). -/
def firstBlockB (s : State) (d : List Byte) : List (Nat × Nat) :=
  let w := fmtBytes (dFmtB d)
  if mmSparse d then
    (List.range (mmK d)).flatMap (fun j => (List.range 32).filterMap (fun c => (offB s d j c).map (fun o => (dSrcB d + o, w))))
  else if mmTransB d then [(dSrcB d, 32 * mmK d * w)]
  else (List.range (mmK d)).map (fun j => (dSrcB d + j * mmN d * w, 32 * w))

/-- Runs read one after the other: their bytes, or nothing where one holds an uncorrectable word. -/
def readRuns : List (Nat × Nat) → State → State × Option (List Byte)
  | [], s => (s, some [])
  | (a, n) :: t, s =>
    match readMem s a n with
    | (s, .error _) => (s, none)
    | (s, .ok b) => match readRuns t s with
      | (s, some r) => (s, some (b ++ r))
      | (s, none) => (s, none)

/-- PARAM_PREFETCH: the first block of B of the next MATMUL goes into its chain's handoff buffer while the head waits. -/
def paramPrefetch (s : State) (l : Nat) : State :=
  match (coreSt s l).c0.queue, ctxJob s l 0 with
  | t :: u :: _, some j =>
    let d := u.desc
    let waits := !tileWaitOk s l t.desc || startVerdict s l 0 (dOp t.desc) == .heldParam
    let role4 := ((regionOf s j (aAddr (dSrcB d))).map (fun r => r.role == 4)).getD false
    match chainOf s l (dChain d) with
    | none => s
    | some c =>
      if s.bound.pipes.any (fun p => p.job == j && p.prefetch) && waits && dOp d == opMatmul && dLen d != 0 && role4 && !inCore l (aAddr (dSrcB d)) &&
          (dOp t.desc == opSync || dChain t.desc != dChain d) && paramVerdicts s (dStep d) (readRanges d (tileRanges s j d .none)) == [] &&
          (Tbl.find s.prefs (l * 8 + dChain d)).isNone then
        let runs := cutRuns c.hbytes (firstBlockB s d)
        let s := inc s .prefetchIssuedCnt l
        match readRuns runs s with
        | (s, none) => inc s .prefetchDiscardCnt l
        | (s, some b) =>
          let s := (writeMem s (coreBase l + c.hoff) b).1
          { s with prefs := Tbl.set s.prefs (l * 8 + dChain d) ⟨u.seq, runs⟩ }
      else s
  | _, _ => s

/-! ### Meanings -/

/-- APPLY. -/
def execApply (doorbell : Nat) (s : State) : Host.Outcome State Fault Refusal := .next (applyDoorbell s doorbell (some 0))
/-- OPEN. -/
def execOpenRegions (doorbell : Nat) (s : State) : Host.Outcome State Fault Refusal := .next (applyDoorbell s doorbell (some 1))
/-- CLOSE. -/
def execCloseRegions (doorbell : Nat) (s : State) : Host.Outcome State Fault Refusal := .next (applyDoorbell s doorbell (some 2))
/-- CLOSE_READERS_DONE. -/
def execCloseReadersDone (job : Nat) (s : State) : Host.Outcome State Fault Refusal := .next (closeDone s job)
/-- APPLY_SLICE_START. -/
def execApplySliceStart (core job : Nat) (s : State) : Host.Outcome State Fault Refusal := .next (sliceStart s core job)
/-- APPLY_SLICE_COMMIT. -/
def execApplySliceCommit (core : Nat) (s : State) : Host.Outcome State Fault Refusal := .next (sliceCommit s core)
/-- PARAM_PREFETCH. -/
def execParamPrefetch (core : Nat) (s : State) : Host.Outcome State Fault Refusal := .next (paramPrefetch s core)

end Sys2Proof.Machine
end

