-- ==== Sys2Proof/Machine/Links.lean ====
section
/-!
DEFINITION. Sys2Proof/Machine/Links.lean: ports, training, flits and their retry, LINK_CTRL, identities, and transit packets (R298 to
R308, R311, R317 to R319, R519).
-/
namespace Sys2Proof.Machine

/-! ### Port states (Table 11.11) -/

/-- STATE codes. -/
def psDown : Nat := 0
/-- TRAINING. -/
def psTraining : Nat := 1
/-- UP. -/
def psUp : Nat := 2
/-- HELD. -/
def psHeld : Nat := 3
/-- HELD_BY_PARTNER. -/
def psHeldBy : Nat := 4

/-- REASON codes. -/
def prNone : Nat := 0
/-- NO_PARTNER. -/
def prNoPartner : Nat := 1
/-- NO_LANES. -/
def prNoLanes : Nat := 2
/-- MISCABLED. -/
def prMiscabled : Nat := 3
/-- RETRY_LIMIT. -/
def prRetryLimit : Nat := 4
/-- DISABLED. -/
def prDisabled : Nat := 5
/-- BELOW_MIN. -/
def prBelowMin : Nat := 6

/-- The port exists on this variant. -/
def portPresent (s : State) (p : Nat) : Bool := p < portCount s
/-- The port is trained: UP, HELD or HELD_BY_PARTNER. -/
def portTrained (s : State) (p : Nat) : Bool := let k := rd s .portState p; portPresent s p && (k == psUp || k == psHeld || k == psHeldBy)
/-- The fabric is powered and its stage of bring-up has begun (Table 15.1). -/
def fabricOn (s : State) : Bool := 6 ≤ rd s .bringupStage

/-- The values of a port that R308 reports. -/
def portVals (s : State) (p : Nat) : List (Nat × Nat) :=
  [(1, p), (1, rd s .portState p), (1, rd s .portReason p), (1, rd s .portWidth p), (1, rd s .portLaneMask p), (1, rd s .portActiveMask p),
   (2, rd s .partnerDevice p), (1, rd s .partnerPort p)]

/-- The Stone record of a port: its values, the time and number of the changes it stands for (R308). -/
def portRecord (s : State) (p ns n : Nat) : State :=
  stoneWrite (setLink s p { linkOf s p with recNs := some s.localNs, changes := 0 }) 0x000F (portVals s p ++ [(8, ns), (4, n)])

/-- Word 0x00 of Table 11.11. -/
def portWord (s : State) (p : Nat) : Nat :=
  if !portPresent s p then 6
  else rd s .portState p + rd s .portReason p * 2 ^ 4 + rd s .portWidth p * 2 ^ 8 + rd s .portLaneMask p * 2 ^ 12 +
    rd s .portActiveMask p * 2 ^ 16 + rd s .portMinLanes p * 2 ^ 20

/-- Word 0x04 of Table 11.11. -/
def partnerWord (s : State) (p : Nat) : Nat := rd s .partnerDevice p + rd s .partnerPort p * 2 ^ 16 + rd s .partnerIdValid p * 2 ^ 20

/-- A change of a port's state, reason, width or working set reported (R308). -/
def portChanged (s : State) (p : Nat) : State :=
  let k := rd s .portState p
  let held := k == psHeld || k == psHeldBy
  let s := wrs s [(.lastChangeNs, p, nowNs s), (.portUpMask, 0, setBits (rd s .portUpMask) p 1 (b2n (k == psUp))),
    (.portHeldMask, 0, setBits (rd s .portHeldMask) p 1 (b2n held))]
  let s := postEvent s 0x0002 0 0 (devId s) (portWord s p + p * 2 ^ 32) (partnerWord s p)
  let x := linkOf s p
  if (x.recNs.map (fun t => decide (t + 1000000000 ≤ s.localNs))).getD true then portRecord s p (nowNs s) 1
  else setLink s p { x with chgNs := nowNs s, changes := x.changes + 1 }

/-- A port put into a state with a reason; entering or leaving HELD is told to the partner (R306, R318). -/
def setPort (s : State) (p st reason : Nat) : State :=
  let old := rd s .portState p
  if old = st ∧ rd s .portReason p = reason then s
  else
    let s := portChanged (wrs s [(.portState, p, st), (.portReason, p, reason)]) p
    if st = psHeld ∧ old ≠ psHeld then sendLink s p 1 (zeros 32)
    else if old = psHeld ∧ (st = psUp ∨ st = psHeldBy) then sendLink s p 0 (zeros 32) else s

/-! ### Leaving UP (R307) -/

/-- Packets routed at this router again, as they came to it. -/
def rerouteAll : List Waiting → State → State
  | [], s => s
  | w :: t, s => rerouteAll t (routePkt s w.orig w.arr w.src)

/-- The packets queued for a port that is no longer UP routed again. -/
def requeue (s : State) (p : Nat) : State :=
  rerouteAll (linkOf s p).queue (setLink s p { linkOf s p with queue := [] })

/-- The packets in a retry buffer, in FSEQ order: acknowledgements are cumulative, so the last flit of each is there (R307). LINK_CTRL ends with its link. -/
def unackedPkts (x : LinkSt) : List Waiting :=
  (x.unacked.filter (fun u => u.part + 1 == pktFlits u.w.pkt && u.w.pkt.ptype != ptLinkCtrl)).map (fun u => { u.w with src := none })

/-- The packets of a port put back into routing: unacknowledged ones in FSEQ order, then those queued. -/
def takeBack (s : State) (p : Nat) : State :=
  let x := linkOf s p
  let s := setLink s p { x with txNext := 0, unacked := [], ctrl := [], rxAny := false, rxNext := 0, discard := false, rxSince := 0, used := [], owed := [],
                                queue := [], resync := false, partnerHeld := false }
  let s := { s with links := s.links.map (fun e => (e.1, { e.2 with queue := e.2.queue.map (fun w =>
    if w.src.any (fun y => y.1 == p) then { w with src := none } else w) })) }
  rerouteAll (unackedPkts x ++ x.queue.map (fun w => if w.src.any (fun y => y.1 == p) then { w with src := none } else w)) s

/-- The port loses its link and goes to a state with a reason; its packets are routed again. -/
def dropPort (s : State) (p st reason : Nat) : State :=
  let s := setLink s p { linkOf s p with attempts := 0, trying := false }
  takeBack (setPort s p st reason) p

/-- A trained port retrains (R307). -/
def retrain (s : State) (p reason : Nat) : State := inc (dropPort s p psTraining reason) .retrainCnt p

/-! ### Identity (R300, R519) -/

/-- This device's identity at a port, as R519 lays it out. -/
def ownIdent (s : State) (p : Nat) : List Byte :=
  toLE 8 s.serial ++ toLE 2 (devId s) ++ toLE 1 (rd s .idValid + 2 * rd s .torusValid) ++ toLE 1 p ++ toLE 1 s.variant ++ zeros 3 ++
  toLE 2 (rd s .dimSizeM1) ++ zeros 14

/-- The bytes of an identity. -/
def identBytes (i : PortIdent) : List Byte :=
  toLE 8 i.serial ++ toLE 2 i.dev ++ toLE 1 (b2n i.idValid + 2 * b2n i.torusValid) ++ toLE 1 i.port ++ toLE 1 i.variant ++ zeros 3 ++ toLE 2 i.dims

/-- R300 finds the port miscabled with this partner. -/
def miscabled (s : State) (p : Nat) (b : List Byte) : Bool :=
  let q := fld b 0xB 1
  let dev := fld b 8 2
  let both := bits (fld b 0xA 1) 1 0 == 3 && routable s
  let d := portDim p
  let n := dimSize s d
  let step := (coordOf s (devId s) d + (if portMinus p then n - 1 else 1)) % n
  portDim q != d || portMinus q == portMinus p || q / 8 != p / 8 || fld b 0 8 == s.serial ||
  (both && (fld b 0x10 2 != rd s .dimSizeM1 ||
    (List.range 4).any (fun e => coordOf s dev e != (if e = d then step else coordOf s (devId s) e))))

/-- The partner's values kept. -/
def setPartner (s : State) (p : Nat) (b : List Byte) : State :=
  let s := wrs s [(.partnerDevice, p, fld b 8 2), (.partnerPort, p, fld b 0xB 1), (.partnerIdValid, p, fld b 0xA 1 % 2), (.partnerSerial, p, fld b 0 8)]
  setLink s p { linkOf s p with ident := b.take 18 }

/-- This device's identity sent in a LINK_CTRL packet; AUX[0] tells whether this end is HELD (R318, R519). -/
def sendIdent (s : State) (p : Nat) : State := sendLink s p (2 + b2n (rd s .portState p == psHeld)) (ownIdent s p)

/-- This device's identity sent on every trained port, after a change (R519). -/
def sendIdents (s : State) : State :=
  (List.range 16).foldl (fun s p => if portTrained s p then
    setLink (sendIdent s p) p { linkOf (sendIdent s p) p with identSent := true } else s) s

/-! ### Training (R304 to R306) -/

/-- The state of a trained port: HELD where its width is below the minimum in force, HELD_BY_PARTNER while the partner says that it is HELD, else UP
(R306). -/
def trainedState (s : State) (p : Nat) : Nat :=
  if rd s .portWidth p < rd s .portMinLanes p then psHeld else if (linkOf s p).partnerHeld then psHeldBy else psUp

/-- A trained port put into its state. The link stays as it is, flits and credits with it; packets queued for a port that is no longer UP are routed
again, and one that is released sends what waits (R306; DEDUCED for the queue, log entry 63). -/
def bringUpPort (s : State) (p : Nat) : State :=
  let st := trainedState s p
  let s := requeue (setPort s p st (if st = psHeld then prBelowMin else prNone)) p
  drainPort p (byPriority (linkOf s p).queue) [] s

/-- TRAINING_ATTEMPT. -/
def trainAttempt (s : State) (p : Nat) : State :=
  let x := linkOf s p
  let k := rd s .portState p
  if !(fabricOn s && portPresent s p) || x.trying || !(k == psTraining || (k == psDown && rd s .portReason p == prNone)) || 3 ≤ x.attempts then s
  else inc (setPort (setLink s p { x with attempts := x.attempts + 1, trying := true }) p psTraining (rd s .portReason p)) .trainAttemptCnt p

/-- An attempt failed: after the third the port is DOWN (R304). -/
def attemptFailed (s : State) (p reason : Nat) : State :=
  if 3 ≤ (linkOf s p).attempts ∨ reason = prMiscabled then setPort s p psDown reason else setPort s p psTraining reason

/-- The lanes that stay active: the lowest 4, 2 or 1 of the working set (R305). -/
def activeLanes (l : Nat) : Nat × Nat :=
  let n := popcount 4 l
  let w := if n = 4 then 4 else if 2 ≤ n then 2 else n
  (w, ((onesOf 4 l).take w).foldl (fun a i => a + 2 ^ i) 0)

/-- TRAINING_END. An attempt that reaches step 5 of Table 11.3 has sent this device's identity (R300, R519). -/
def trainingEnd (s : State) (p : Nat) (r : TrainResult) : State :=
  let x := linkOf s p
  if !x.trying then s
  else
    let s := setLink s p { x with trying := false }
    match r with
    | .noPartner => attemptFailed s p prNoPartner
    | .noLanes => attemptFailed s p prNoLanes
    | .linked id l =>
      if l % 16 = 0 then attemptFailed s p prNoLanes
      else
        let s := emit s (.link p 2 (ownIdent s p))
        let b := identBytes id
        let s := setPartner s p b
        if miscabled s p b then attemptFailed s p prMiscabled
        else
          let a := activeLanes (l % 16)
          let s := wrs s [(.portWidth, p, a.1), (.portLaneMask, p, l % 16), (.portActiveMask, p, a.2)]
          bringUpPort (setLink s p { linkOf s p with attempts := 0 }) p

/-- DOWN_PORT_RETRY: one further attempt of a DOWN port, unless it is MISCABLED or DISABLED (R304). -/
def downRetry (s : State) (p : Nat) : State :=
  let k := rd s .portReason p
  if fabricOn s && portPresent s p && rd s .portState p == psDown && k != prNone && k != prMiscabled && k != prDisabled then
    inc (setPort (setLink s p { linkOf s p with attempts := 3, trying := true }) p psTraining k) .trainAttemptCnt p
  else s

/-- The ports compared with the minima of a whole-device image that commits (R306). -/
def applyMinLanes (s : State) : State :=
  (List.range 16).foldl (fun s p =>
    let m := ((s.bound.routes.find? (fun r => r.kind == 1 && r.port == p)).map (·.minLanes)).getD 1
    let s := wr s .portMinLanes p m
    if portTrained s p && trainedState s p != rd s .portState p then bringUpPort s p else s) s

/-! ### Flits (R302, R303) -/

/-- The FSEQs of what is not acknowledged. -/
def unackedSeqs (x : LinkSt) : List Nat := x.unacked.map (·.fseq)

/-- One more replay of every flit in the retry buffer. -/
def replayed (x : LinkSt) : LinkSt := { x with unacked := x.unacked.map (fun u => { u with replays := u.replays + 1 }) }

/-- Every unacknowledged flit replayed in order; a flit that has been replayed eight times in vain retrains the port (R303). -/
def replayPort (s : State) (p : Nat) : State :=
  let x := linkOf s p
  if x.unacked = [] then s
  else if x.unacked.any (fun u => 8 ≤ u.replays) then retrain s p prRetryLimit
  else inc (emit (setLink s p (replayed x)) (.flits p (x.unacked.map (flitWire s p)))) .linkReplayCnt p x.unacked.length

/-- Flits up to FSEQ a acknowledged: they leave the retry buffer, and what waits for room is sent. -/
def ackFlits (s : State) (p a : Nat) : State :=
  let x := linkOf s p
  let keep := x.unacked.filter (fun u => !((a + 1024 - u.fseq) % 1024 < 512))
  if keep.length = x.unacked.length then s
  else
    let s := drainCtrl p x.ctrl (setLink s p { x with unacked := keep })
    drainPort p (byPriority (linkOf s p).queue) [] s

/-- An IDLE flit as the lanes carry it: no data, FSEQ 0, the latest acknowledgement (R302). -/
def idleWire (s : State) (p : Nat) (nak : Bool) : List (Nat × List Byte) :=
  let x := linkOf s p
  let d := zeros 2048
  stripe (onesOf 4 (rd s .portActiveMask p)) (d ++ flitTrailer d 0 ((x.rxNext + 1023) % 1024) x.rxAny nak true 0x7F)

/-- The acknowledgement of what was accepted, in an IDLE flit. -/
def sendFlitAck (s : State) (p : Nat) (nak : Bool) : State :=
  let x := linkOf s p
  let s := emit (setLink s p { x with rxSince := 0 }) (.flitAck p ((x.rxNext + 1023) % 1024) nak)
  emit s (.flits p [idleWire s p nak])

/-- A field of a flit's trailer (Table 11.2). -/
def flitBits (f : Flit) (hi lo : Nat) : Nat := fbits f.trailer 0 4 hi lo
/-- FSEQ. -/
def flitSeq (f : Flit) : Nat := flitBits f 9 0
/-- ACK_SEQ. -/
def flitAckSeq (f : Flit) : Nat := flitBits f 19 10
/-- ACK_VALID. -/
def flitAckValid (f : Flit) : Bool := flitBits f 20 20 == 1
/-- NAK. -/
def flitNak (f : Flit) : Bool := flitBits f 21 21 == 1
/-- IDLE. -/
def flitIdle (f : Flit) : Bool := flitBits f 22 22 == 1
/-- FIRST_HDR. -/
def flitHdr (f : Flit) : Nat := flitBits f 29 23
/-- The CRC of a flit matches (R303). -/
def flitCrcOk (f : Flit) : Bool := fld f.trailer 4 4 == crc32c (f.data ++ f.trailer.take 4)

/-- A flit arrives: FEC and CRC counters, the trailer's acknowledgement, and acceptance in order (R303). -/
def flitReceive (s : State) (p : Nat) (f : Flit) : State :=
  if !portTrained s p then s
  else
    let s := inc (inc s .fecCorrCnt p f.corrected) .fecUncorrCnt p f.uncorrectable
    let s := if f.uncorrectable = 0 ∧ flitCrcOk f = false then inc s .crcErrCnt p else s
    let good := f.uncorrectable == 0 && flitCrcOk f
    let s := if good && flitAckValid f then ackFlits s p (flitAckSeq f) else s
    let s := if good && flitNak f then replayPort s p else s
    if good && flitIdle f then s
    else
      let x := linkOf s p
      if good && flitSeq f == x.rxNext then
        let s := setLink s p { x with rxAny := true, rxNext := (x.rxNext + 1) % 1024, discard := false, rxSince := x.rxSince + 1,
                                      resync := x.resync && flitHdr f == 0x7F }
        if 16 ≤ x.rxSince + 1 then sendFlitAck s p false else s
      else if x.discard then s
      else sendFlitAck (setLink s p { x with discard := true }) p true

/-! ### Ingress (R311, R312, R283) -/

/-- The payload lengths a packet type allows (Table 11.5). -/
def lenOk (p : Pkt) : Bool :=
  let n := p.len
  if p.ptype = ptWrite then 1 ≤ n && n ≤ 4096
  else if p.ptype = ptRead ∨ p.ptype = ptToken ∨ p.ptype = ptCtxAck ∨ p.ptype = ptCtxClose ∨ p.ptype = 0 then n == 0
  else if p.ptype = ptProbe ∨ p.ptype = ptCtxOpen ∨ p.ptype = ptCtxOpenAck then n == 8
  else if p.ptype = ptRowReq ∨ p.ptype = ptContrib ∨ p.ptype = ptDrawReq then 16 ≤ n && n ≤ 4096
  else if p.ptype = ptQpost then n == 64
  else if p.ptype = ptRedCtrl then n ≤ 256
  else if p.ptype = ptSuspect ∨ p.ptype = ptLinkCtrl then n == 32
  else n ≤ 4096

/-- The type is listed in Table 11.5. -/
def typeKnown (t : Nat) : Bool :=
  t ≤ 8 || t == ptRed || t == ptRedCtrl || t == ptResp || t == ptCtxAck || (0x30 ≤ t && t ≤ 0x34) || t == ptLinkCtrl

/-- The first check of Table 11.6 that a packet fails: its counter, and whether the stream is given up with it. A PAD header is zero throughout. -/
def ingressFault (k : Pkt) : Option (Reg × Bool) :=
  if 4096 < k.len then some (.rxBadlenCnt, true)
  else if !typeKnown k.ptype || k.rsv != 0 || (ptResp ≤ k.ptype && k.vc != 0) || (k.ptype == 0 && !allZero (hdrBytes { k with len := 0 })) then some (.rxBadhdrCnt, false)
  else if !lenOk k then some (.rxBadlenCnt, false)
  else if k.hops = 64 then some (.rxTtlDropCnt, false)
  else none

/-- The checks of Table 11.6 on a packet that arrives at a port: false where it is dropped and counted (R311). src is the buffer it took. -/
def ingress (s : State) (p : Nat) (k : Pkt) (src : Option (Nat × Nat × Nat)) : State × Bool :=
  if (linkOf s p).resync then (inc s .rxResyncCnt p, false)
  else match ingressFault k with
    | some (r, true) => (setLink (inc s r p) p { linkOf s p with resync := true }, false)
    | some (r, false) => (oweCredit (inc s r p) src, false)
    | none => (s, true)

/-! ### LINK_CTRL (R306, R318, R519) -/

/-- The credit returns a port owes, as LINK_CTRL carries them. -/
def creditBytes (x : LinkSt) : List Byte := (List.range 16).flatMap (fun b => toLE 2 (Tbl.getD x.owed b 0))

/-- Credits returned by the partner. -/
def takeCredits (s : State) (p : Nat) (b : List Byte) : State :=
  let x := linkOf s p
  setLink s p { x with used := (List.range 13).foldl (fun u i => Tbl.put u i (Tbl.getD u i 0 - fld b (2 * i) 2) 0) x.used }

/-- What the partner says of itself kept, and the port's state with it (R306). -/
def partnerSays (s : State) (p : Nat) (held : Bool) : State :=
  let s := setLink s p { linkOf s p with partnerHeld := held }
  if trainedState s p = rd s .portState p then s else bringUpPort s p

/-- LINK_CTRL with credit returns, and whether the partner is HELD; the checks of Table 11.6 come first. -/
def linkCtrl (s : State) (p : Nat) (k : Pkt) : State :=
  if !portTrained s p || k.ptype != ptLinkCtrl || bit k.aux 1 then s
  else match ingress s p k none with
    | (s, false) => s
    | (s, true) =>
      let s := partnerSays (takeCredits s p k.payload) p (bit k.aux 0)
      drainPort p (byPriority (linkOf s p).queue) [] s

/-- An identity from the partner: answered unless it is an answer, and R300 applied (R519). -/
def identArrives (s : State) (p : Nat) (k : Pkt) : State :=
  if !portTrained s p || k.ptype != ptLinkCtrl || !bit k.aux 1 then s
  else match ingress s p k none with
    | (s, false) => s
    | (s, true) =>
      let asked := (linkOf s p).identSent
      let s := setLink (setPartner s p k.payload) p { linkOf (setPartner s p k.payload) p with identSent := false }
      let s := if asked then s else sendIdent s p
      if miscabled s p k.payload then dropPort s p psDown prMiscabled
      else
        let s := partnerSays s p (bit k.aux 0)
        drainPort p (byPriority (linkOf s p).queue) [] s

/-- What a router does with a packet in which it found an uncorrectable word: a request, a reduction packet or a response goes on with STATUS UNCORRECTABLE
and none of its data, so that the request it belongs to ends with that status; any other packet is dropped (R281, R283; DEDUCED, log entry 64). -/
def spoilt (k : Pkt) : Option Pkt :=
  if (1 ≤ k.ptype ∧ k.ptype ≤ ptRed) ∨ k.ptype = ptResp then some { k with status := Status.uncorrectable.code, payload := zeros k.payload.length } else none

/-- An uncorrectable word found on an internal path (R281, R283): counted, latched, in Stone, and posted. -/
def pathUe (s : State) (a : Nat) : State :=
  let s := wrs (inc s .pathUeCnt) [(.lastUeDa, 0, a), (.lastUeSource, 0, 3)]
  postEvent (stoneWrite s 0x0009 [(8, a + 3 * 2 ^ 40)]) 0x0001 3 0 (devId s) (a + 3 * 2 ^ 40) 0

/-- A CMD that Table 11.9 or Table 16.13 lists. -/
def listedCmd (cmd : Nat) : Bool := [1, 2, 3, 4, 0x10, 0x11, 0x20, 0x21, 0x22, 0x23, 0x80, 0x81, 0x82, 0x83].contains cmd

/-- A management command that has reached this device with a CMD that no table lists is answered FORMAT, with no parameters and uncounted (R329); not
in ROM recovery, nor in DEAD (R459, R465). Every listed command has a row of its own. -/
def answerUnlisted (s : State) (k : Pkt) : State :=
  if k.ptype = ptMgmt ∧ k.dst = devId s ∧ bit k.aux 8 = false ∧ listedCmd (k.aux % 256) = false ∧ pipRuns s = true ∧ rd s .romRecovery = 0 ∧ lcState s ≠ 4 then
    originate s (mgmtPkt s k.src (k.aux % 256) k.tag true (bit k.aux 9) Status.format.code [])
  else s

/-- A packet arrives at a port and is checked, counted and routed on (R311 to R313). path is what its internal path found: 1 a
corrected word, 2 an uncorrectable one (R280, R283). The packet took the detour buffer if its hop was the detour, which is the one hop that leaves the
dimension DETOUR_DIM names (R315). -/
def transit (s : State) (p : Nat) (k : Pkt) (path : Nat) : State :=
  if !portUp s p || k.ptype == ptLinkCtrl then s
  else
    let src := if k.ptype = 0 then none else some (p, bufOf k (k.detour && portDim p != k.detourDim), pktCredits k)
    match ingress s p k src with
    | (s, false) => s
    | (s, true) =>
      if k.ptype = 0 then s
      else
        let s := inc s .rxPktCnt p
        let s := if path = 1 then inc s .pathCeCnt else if path = 2 then pathUe s k.addr else s
        match if path = 2 then spoilt k else some k with
        | none => oweCredit s src
        | some k => if !routable s then oweCredit (inc s .rxUnroutableCnt) src else answerUnlisted (routePkt s k (some (portDim p, !portMinus p)) src) k

/-! ### Meanings -/

/-- TRAINING_ATTEMPT. -/
def execTrainingAttempt (port : Nat) (s : State) : Host.Outcome State Fault Refusal := .next (trainAttempt s port)
/-- TRAINING_END. -/
def execTrainingEnd (port : Nat) (result : TrainResult) (s : State) : Host.Outcome State Fault Refusal := .next (trainingEnd s port result)
/-- DOWN_PORT_RETRY. -/
def execDownPortRetry (port : Nat) (s : State) : Host.Outcome State Fault Refusal := .next (downRetry s port)
/-- LINK_LOSS: a trained port loses lock on an active lane, or its partner's signal (R307). -/
def execLinkLoss (port : Nat) (_cause : LossCause) (s : State) : Host.Outcome State Fault Refusal :=
  .next (if portTrained s port then retrain s port prNone else s)
/-- PORT_RECORD_TIMER: one second after a port's last Stone record, the changes since then are recorded (R308). -/
def execPortRecordTimer (port : Nat) (s : State) : Host.Outcome State Fault Refusal :=
  .next (if (linkOf s port).changes = 0 then s else portRecord s port (linkOf s port).chgNs (linkOf s port).changes)
/-- FLIT_RECEIVE. -/
def execFlitReceive (port : Nat) (flit : Flit) (s : State) : Host.Outcome State Fault Refusal := .next (flitReceive s port flit)
/-- FLIT_ACK_TIMEOUT. -/
def execFlitAckTimeout (port : Nat) (s : State) : Host.Outcome State Fault Refusal := .next (if portTrained s port then replayPort s port else s)
/-- FLIT_ACK_TIMER: accepted flits acknowledged within 1 µs (R303). -/
def execFlitAckTimer (port : Nat) (s : State) : Host.Outcome State Fault Refusal :=
  .next (if portTrained s port && (linkOf s port).rxSince != 0 then sendFlitAck s port false else s)
/-- CREDIT_RETURN_TIMER: credits owed are returned within 1 µs (R318). -/
def execCreditReturnTimer (port : Nat) (s : State) : Host.Outcome State Fault Refusal :=
  .next (let x := linkOf s port
    if portTrained s port && !x.owed.isEmpty then
      sendLink (setLink s port { x with owed := [] }) port (b2n (rd s .portState port == psHeld)) (creditBytes x)
    else s)
/-- LINK_CTRL. -/
def execLinkCtrl (port : Nat) (pkt : Pkt) (s : State) : Host.Outcome State Fault Refusal := .next (linkCtrl s port pkt)
/-- IDENT. -/
def execIdent (port : Nat) (pkt : Pkt) (s : State) : Host.Outcome State Fault Refusal := .next (identArrives s port pkt)
/-- PACKET_TRANSIT. -/
def execPacketTransit (port : Nat) (pkt : Pkt) (path : Nat) (s : State) : Host.Outcome State Fault Refusal := .next (transit s port pkt path)

end Sys2Proof.Machine
end

