-- ==== Sys2Proof/Machine/Reduce.lean ====
section
/-!
DEFINITION. Sys2Proof/Machine/Reduce.lean: in-fabric reduction, layout epochs, and the monitor's suspect table (R335 to R353, R356, R357, R237, R238).
-/
namespace Sys2Proof.Machine

/-! ### The descriptor (Table 12.1) -/

/-- KIND. -/
def rKind (d : List Byte) : Nat := fbits d 0 1 3 0
/-- SRC_FMT. -/
def rFmt (d : List Byte) : Nat := fbits d 0 1 7 4
/-- CR_ON_OK. -/
def rCrOnOk (d : List Byte) : Bool := fbit d 1 1 0
/-- SIG_EN. -/
def rSigEn (d : List Byte) : Bool := fbit d 1 1 1
/-- ROOT_ONLY. -/
def rRootOnly (d : List Byte) : Bool := fbit d 1 1 2
/-- GRAD_REGION. -/
def rRegion (d : List Byte) : Nat := fld d 2 2
/-- USER_TAG. -/
def rTag (d : List Byte) : Nat := fld d 4 2
/-- SEG. -/
def rSeg (d : List Byte) : Nat := fld d 6 2
/-- STEP. -/
def rStep (d : List Byte) : Nat := fld d 8 4
/-- COUNT. -/
def rCount (d : List Byte) : Nat := fld d 0xC 4
/-- SRC_ADDR. -/
def rSrc (d : List Byte) : Nat := fbits d 0x10 8 39 0
/-- DST_OFF. -/
def rDst (d : List Byte) : Nat := fbits d 0x18 8 39 0
/-- SEG_COUNT. -/
def rSegCount (d : List Byte) : Nat := fbits d 0x20 4 16 0
/-- CQ_ID. -/
def rCq (d : List Byte) : Nat := fbits d 0x24 2 14 0
/-- SIG_CORE. -/
def rSigCore (d : List Byte) : Nat := fbits d 0x26 2 8 0
/-- SIG_CTR. -/
def rSigCtr (d : List Byte) : Nat := fbits d 0x28 2 5 0
/-- SIG_INC. -/
def rSigInc (d : List Byte) : Nat := fld d 0x2A 2

/-- Bytes of a result element by KIND (R337). -/
def resBytes (kind : Nat) : Nat := if kind ≤ 2 then 4 else if kind = 3 then 12 else 8
/-- Elements of a chunk by KIND (R340). -/
def chunkElems (kind : Nat) : Nat := if kind ≤ 2 then 1024 else if kind = 3 then 256 else 512
/-- Chunks of a segment. -/
def chunkCount (d : List Byte) : Nat := (rCount d + chunkElems (rKind d) - 1) / chunkElems (rKind d)
/-- Elements of chunk k. -/
def elemsOf (d : List Byte) (k : Nat) : Nat := min (chunkElems (rKind d)) (rCount d - k * chunkElems (rKind d))

/-! ### Elements (Table 8.8) -/

/-- Results with the saturations and NaNs to count. -/
structure RedOut where
  data : List Byte
  sat : Nat
  nan : Nat

/-- A value's place in the order of R121: a NaN above every number. -/
def orderOf (c : Nat) : Int := if Fmt.isNan .f32 c then 2 ^ 40 else Fmt.orderKey .f32 (Fmt.finite .f32 c)

/-- An element saturated in any of its steps counts once (Table 8.5). -/
def satOnce (n : Nat) : Nat := min n 1

/-- The leaf value of an element from rank q. A NaN is counted where a node combines it, not here. -/
def leafElem (kind fmt q c : Nat) : RedOut :=
  let x := toF32 ((Fmt.ofCode fmt).getD .f32) c
  if kind = 2 then (let y := mul32 x.code x.code; ⟨toLE 4 y.code, satOnce (x.sat + y.sat), 0⟩)
  else if kind = 3 then ⟨toLE 4 0x3F800000 ++ toLE 4 x.code ++ toLE 4 0, x.sat, 0⟩
  else if kind = 1 then ⟨toLE 4 x.code, x.sat, 0⟩
  else ⟨toLE 4 x.code ++ toLE 4 q, x.sat, 0⟩

/-- The combine of operands a and b of an element. -/
def combineElem (kind : Nat) (a b : List Byte) : RedOut :=
  if kind ≤ 2 then (let y := add32 (fld a 0 4) (fld b 0 4); ⟨toLE 4 y.code, satOnce y.sat, y.nan⟩)
  else if kind = 3 then
    let r := mergeMV (fld a 0 4, fld a 4 4, fld a 8 4) (fld b 0 4, fld b 4 4, fld b 8 4)
    ⟨toLE 4 r.1.1 ++ toLE 4 r.1.2.1 ++ toLE 4 r.1.2.2, satOnce r.2.1, nanOut r.1⟩
  else
    let ka := orderOf (fld a 0 4)
    let kb := orderOf (fld b 0 4)
    let w := if kind = 4 then (if ka < kb then b else a) else (if kb < ka then b else a)
    if Fmt.isNan .f32 (fld w 0 4) then ⟨toLE 4 (Fmt.nan .f32) ++ slice w 4 4, 0, 1⟩ else ⟨w, 0, 0⟩

/-- Elements joined. -/
def joinOut (l : List RedOut) : RedOut := ⟨l.flatMap (·.data), (l.map (·.sat)).sum, (l.map (·.nan)).sum⟩

/-- Saturations and NaNs of router arithmetic counted (R232). -/
def countRed (s : State) (r : RedOut) : State := inc (inc s .redSatCnt 0 r.sat) .redNanCnt 0 r.nan

/-! ### Records of segments -/

/-- A segment's record. -/
def segOf (s : State) (k : SegKey) : Option RedSeg := s.redSegs.find? (fun x => x.key == k)
/-- A segment before anything of it is known. -/
def RedSeg.new (k : SegKey) : RedSeg := ⟨k, none, [], 0, 0, 0, [], none, false⟩
/-- A segment's record replaced, or added. -/
def setSeg (s : State) (x : RedSeg) : State :=
  if (segOf s x.key).isSome then { s with redSegs := s.redSegs.map (fun y => if y.key = x.key then x else y) }
  else { s with redSegs := s.redSegs ++ [x] }
/-- The record of a segment, new where there is none. -/
def getSeg (s : State) (k : SegKey) : RedSeg := (segOf s k).getD (RedSeg.new k)
/-- The step's record. -/
def stepOf (s : State) (j t : Nat) : Option RedStep := s.redSteps.find? (fun x => x.job == j && x.step == t)
/-- The step was recorded. -/
def stepRecorded (s : State) (j t : Nat) : Bool := ((stepOf s j t).map (·.recorded)).getD false

/-- The gradient header of Table 9.5 for a region. -/
def gradHeader (j step : Nat) (st : Status) (bytes : Nat) : List Byte :=
  toLE 4 0x44415247 ++ toLE 2 j ++ zeros 2 ++ toLE 4 step ++ toLE 1 st.code ++ zeros 3 ++ toLE 8 bytes ++ zeros 40

/-- The first status of a list that is not OK. -/
def firstBadSt (l : List Status) : Status := (l.find? (· != .ok)).getD .ok

/-- The step's headers and record, once all its segments have completed (R342, R260). unit is the cluster whose unit served the last one; a post whose
CQ_ID was at fault leaves no record anywhere (R515). -/
def recordStep (s : State) (x : RedStep) (d : List Byte) (unit : Option RecUnit) : State :=
  let s := { s with redSteps := s.redSteps.map (fun y => if y.job = x.job ∧ y.step = x.step then { x with recorded := true } else y),
                    redSegs := s.redSegs.filter (fun y => !(y.key.job == x.job && y.key.step == x.step)) }
  let s := (x.segs.map (·.2.1)).dedup.foldl (fun s id => match regionById s id with
    | some r => if r.role = 6 ∧ r.job = x.job then
        let l := x.segs.filter (fun g => g.2.1 == id)
        (writeMem s r.base (gradHeader x.job x.step (firstBadSt (l.map (·.2.2.1))) (l.map (·.2.2.2.1)).sum)).1
      else s
    | none => s) s
  let st := firstBadSt (x.segs.map (·.2.2.1))
  let rec' := unitRecord (rTag d) 0x42 st x.step (x.segs.map (·.2.2.2.2)).sum (min (x.segs.map (·.2.2.2.1)).sum 0xFFFFFFFF)
  match unit with
  | some u => postJobRec s (rCq d) x.job 6 rec' (some u)
  | none => postFailRec s (rCq d) x.job 6 rec'

/-- A posted segment counted as completed for its step. -/
def countSeg (s : State) (k : SegKey) (d : List Byte) (st : Status) (bytes chunks : Nat) (unit : Option RecUnit) : State :=
  let x := (stepOf s k.job k.step).getD ⟨k.job, k.step, [], false⟩
  let x := { x with segs := x.segs ++ [(k.seg, rRegion d, st, bytes, chunks)] }
  let s := if (stepOf s k.job k.step).isSome then { s with redSteps := s.redSteps.map (fun y => if y.job = k.job ∧ y.step = k.step then x else y) }
    else { s with redSteps := s.redSteps ++ [x] }
  if x.segs.length = rSegCount d then recordStep s x d unit else s

/-- A segment completes on this device: counters, record, then signal, and step (R342). While the record waits for room its signal does too (R373). -/
def completeSeg (s : State) (k : SegKey) (st : Status) : State :=
  let x := getSeg s k
  match x.post, x.ended with
  | some (l, d), none =>
    let u := RecUnit.reducer (l / 16)
    let g : Option LocalSig := if st = .ok ∧ rSigEn d then some ⟨none, k.job, rSigCore d, rSigCtr d, rSigInc d⟩ else none
    let s := setSeg s { x with ended := some st, heldRes := [] }
    let s := inc s (if st = .ok then .redSegOkCnt else .redSegFailCnt)
    let s := if st = .ok ∧ rCrOnOk d = false then giveSig s g
      else postJobRec s (rCq d) k.job 6 (unitRecord (rTag d) 0x40 st k.step x.landed (min x.bytes 0xFFFFFFFF)) (some u) g
    countSeg s k d st x.bytes x.landed (some u)
  | _, none => setSeg s { x with ended := some st, heldRes := [] }
  | _, _ => s

/-! ### Failures (R343, R351) -/

/-- The tree of a segment. -/
def segTree (s : State) (k : SegKey) : Option Tree := treeOfEpoch s k.job k.epoch

/-- The devices a segment's nodes here send to or hear from: parent, children, and the standbys of either. -/
def segPeers (s : State) (t : Tree) : List Nat :=
  let ranks := (t.rankOf (devId s)).toList ++ (t.backs (devId s)).toList
  let near := ranks.flatMap (fun q => (if q = 0 then [] else [parentOf q]) ++ childrenOf t.ranks.length q)
  (near.flatMap (fun c => t.dev c :: (t.backup c).toList)).dedup.filter (· != devId s)

/-- FAIL sent up and to the children, but not to the device it came from (R343). Its ARG is the number of chunks landed at the failing node, so one
that is passed on keeps the ARG it came with (Table 12.4). -/
def sendFail (s : State) (k : SegKey) (st : Status) (from' : Option Nat) (arg : Nat) : State :=
  match segTree s k with
  | none => s
  | some t =>
    match t.rankOf (devId s) with
    | none => s
    | some q =>
      let l := (if q = 0 then [] else [t.dev (parentOf q)]) ++ (childrenOf t.ranks.length q).map t.dev
      (l.filter (fun d => some d != from')).foldl (fun s d => sendCtrl s d k.job k.step 1 st k.seg arg 0) s

/-- The segment fails at this device, once: its nodes stop, FAIL goes both ways, and the own post completes where it has not yet (R343). arg is the ARG
of a FAIL that is passed on. -/
def failSeg (s : State) (k : SegKey) (st : Status) (from' : Option Nat) (arg : Option Nat := none) : State :=
  if (getSeg s k).failed then s
  else
    let s := { s with redChunks := s.redChunks.filter (fun c => c.key != k) }
    let s := { s with redPosts := s.redPosts.map (fun e => (e.1, e.2.filter (fun p => p.key != k))) }
    let s := sendFail s k st from' (arg.getD (getSeg s k).landed)
    if stepRecorded s k.job k.step then s
    else completeSeg (setSeg s { getSeg s k with failed := true }) k st

/-! ### Landing (R336, R342) -/

/-- A result chunk written to the gradient region of a posted segment. -/
def landChunk (s : State) (k : SegKey) (core : Nat) (d : List Byte) (chunk : Nat) (data : List Byte) : State :=
  let x := getSeg s k
  let _ := core
  if x.ended.isSome then s
  else if chunkCount d ≤ chunk ∨ data.length ≠ elemsOf d chunk * resBytes (rKind d) then failSeg s k .format none
  else
    let base := ((regionById s (rRegion d)).map (·.base)).getD 0
    match writeMem s (base + rDst d + chunk * chunkElems (rKind d) * resBytes (rKind d)) data with
    | (s, some _) => failSeg s k .uncorrectable none
    | (s, none) =>
      let x := getSeg s k
      let s := setSeg s { x with landed := x.landed + 1, bytes := x.bytes + data.length }
      if x.landed + 1 = chunkCount d then completeSeg s k .ok else s

/-- A result chunk taken in: landed, or held until the rank posts (R342). -/
def takeResult (s : State) (k : SegKey) (chunk : Nat) (data : List Byte) (last : Bool) : State :=
  let x := getSeg s k
  if x.ended.isSome || stepRecorded s k.job k.step then s
  else match x.post with
    | some (core, d) => landChunk s k core d chunk data
    | none => setSeg s { x with heldRes := x.heldRes ++ [(chunk, data, last)] }

/-! ### Nodes (R335, R345 to R348) -/

/-- AUX of a RED packet (Table 12.3). -/
def redAux (rank : Nat) (down backup : Bool) (kind : Nat) (last : Bool) : Nat :=
  rank % 2 ^ 16 + 2 ^ 16 * b2n down + 2 ^ 17 * b2n backup + 2 ^ 18 * (kind % 8) + 2 ^ 21 * b2n last

/-- A RED packet sent on the stream to a device. -/
def sendRed (s : State) (k : SegKey) (dev chunk aux : Nat) (data : List Byte) : State :=
  sendStream s dev k.job { ptype := ptRed, step := k.step, addr := chunk % 2 ^ 24 + k.seg * 2 ^ 24, aux := aux, payload := data }

/-- The result sent to the children of rank q. -/
def sendDown (s : State) (k : SegKey) (t : Tree) (q chunk kind : Nat) (last : Bool) (data : List Byte) : State :=
  (childrenOf t.ranks.length q).foldl (fun s c => sendRed s k (t.dev c) chunk (redAux 0 true false kind last) data) s

/-- The own post asked for the result at rank 0 only. -/
def segRootOnly (s : State) (k : SegKey) : Bool := ((getSeg s k).post.map (fun p => rRootOnly p.2)).getD false

/-- A node's chunk is complete: sent to the parent and its standby, or from rank 0 down and landed here (R336, R346). -/
def nodeDone (s : State) (t : Tree) (c : RedChunk) (kind : Nat) (last : Bool) (data : List Byte) : State :=
  let k := c.key
  let x := getSeg s k
  let s := setSeg { s with redChunks := s.redChunks.filter (fun y => !(y.key == k && y.chunk == c.chunk && y.node == c.node && y.copy == c.copy)) }
    { x with doneNodes := (c.node * 2 + b2n c.copy, c.chunk) :: x.doneNodes }
  if c.copy then sendRed s k (t.dev (parentOf c.node)) c.chunk (redAux c.node false true kind last) data
  else if c.node = 0 then
    let s := if segRootOnly s k then s else sendDown s k t 0 c.chunk kind last data
    takeResult s k c.chunk data last
  else
    let p := parentOf c.node
    let s := (t.dev p :: (t.backup p).toList).foldl (fun s d => sendRed s k d c.chunk (redAux c.node false false kind last) data) s
    if segRootOnly s k then
      let x := getSeg s k
      let s := setSeg s { x with sent := x.sent + 1 }
      match x.post with
      | some (_, d) => if x.sent + 1 = chunkCount d then completeSeg s k .ok else s
      | none => s
    else s

/-- A chunk's record replaced. -/
def setChunk (s : State) (c : RedChunk) : State :=
  { s with redChunks := s.redChunks.map (fun y => if y.key = c.key ∧ y.chunk = c.chunk ∧ y.node = c.node ∧ y.copy = c.copy then c else y) }

/-- A node fails the segment; a standby's copy only stops (R343; log entry 20). -/
def nodeFail (s : State) (c : RedChunk) (st : Status) : State :=
  if c.copy then { s with redChunks := s.redChunks.filter (fun y => !(y.key == c.key && y.copy)) } else failSeg s c.key st none

/-- The partial of child c that a node may use now: the primary's, compared with the copy where both are there, or the copy after
BACKUP_TIMEOUT. -/
inductive Pick where
  | wait
  | differ
  | take (p : RedPart) (viaBackup : Bool)

/-- The choice of R347 for the next child. -/
def pickPart (t : Tree) (c : RedChunk) (kid : Nat) : Pick :=
  match c.parts.find? (fun p => p.child == kid && !p.backup), c.parts.find? (fun p => p.child == kid && p.backup) with
  | some p, some b => if p.data = b.data then .take p false else .differ
  | some p, none => .take p false
  | none, some b => if c.expired && t.backupTimeout != 0 then .take b true else .wait
  | none, none => .wait

/-- The children of a node's chunk combined as far as they are there. -/
def advanceNode (t : Tree) : Nat → RedChunk → State → State
  | 0, _, s => s
  | n + 1, c, s =>
    match c.kids with
    | [] => match c.acc with
      | some (kind, last, data) => nodeDone s t c kind last data
      | none => s
    | kid :: rest =>
      if c.acc.isNone && !t.standby c.node || (c.copy && c.acc.isNone) then setChunk s c
      else match pickPart t c kid with
        | .wait => setChunk s c
        | .differ =>
          let s := inc s .redBackupMismatchCnt
          let s := reportSuspect s c.key.job (t.dev kid) 5 c.key.step
          let s := match t.backup kid with
            | some b => reportSuspect s c.key.job b 5 c.key.step
            | none => s
          nodeFail s c .checkMismatch
        | .take p viaB =>
          let s := if viaB then reportSuspect (inc s .redBackupUsedCnt) c.key.job (t.dev kid) 3 c.key.step else s
          let c := { c with kids := rest, expired := false, parts := c.parts.filter (fun y => y.child != kid) }
          match c.acc with
          | none => advanceNode t n { c with acc := some (p.kind, p.last, p.data) } s
          | some (kind, last, data) =>
            if p.kind ≠ kind ∨ p.last ≠ last ∨ p.data.length ≠ data.length then nodeFail (setChunk s c) c .format
            else
              let w := resBytes kind
              let r := joinOut (((chunks w data).zip (chunks w p.data)).map (fun (a, b) => combineElem kind a b))
              advanceNode t n { c with acc := some (kind, last, r.data) } (countRed s r)

/-- The chunk record of a node, made where there is none. -/
def chunkAt (s : State) (t : Tree) (k : SegKey) (chunk node : Nat) (copy : Bool) : State × RedChunk :=
  match s.redChunks.find? (fun y => y.key == k && y.chunk == chunk && y.node == node && y.copy == copy) with
  | some c => (s, c)
  | none =>
    let c : RedChunk := ⟨k, chunk, node, copy, none, [], t.kids node, false⟩
    ({ s with redChunks := s.redChunks ++ [c] }, c)

/-- The leaf of a posting rank offered to the nodes it is the leaf of: its own rank's, or the copy of the rank it backs (R346). -/
def offerLeaf (s : State) (t : Tree) (k : SegKey) (chunk kind : Nat) (last : Bool) (data : List Byte) : State :=
  let q := (t.rankOf (devId s)).getD 0
  let r := match t.backs (devId s) with
    | some b => (b, true)
    | none => (q, false)
  let (s, c) := chunkAt s t k chunk r.1 r.2
  advanceNode t 33 { c with acc := some (kind, last, data) } s

/-- A partial of child c arrives at the node that is its parent. -/
def takePart (s : State) (t : Tree) (k : SegKey) (chunk : Nat) (p : RedPart) (node : Nat) (copy : Bool) : State :=
  let x := getSeg s k
  let late := x.doneNodes.contains (node * 2 + b2n copy, chunk) || stepRecorded s k.job k.step
  if late then inc s .redLateCopyCnt
  else if x.failed then s
  else
    let (s, c) := chunkAt s t k chunk node copy
    if !c.kids.contains p.child then inc s .redLateCopyCnt
    else advanceNode t 33 { c with parts := c.parts ++ [p] } s

/-! ### Posting (R337 to R339) -/

/-- RED_DESC of a core. -/
def redDescOf (s : State) (l : Nat) : List Byte := (List.range 64).map (fun i => Tbl.getD s.redDesc (l * 64 + i) 0)
/-- Posted segments of a core that its reduction unit has not finished reading; RED_FIFO_FREE is 16 less them. -/
def redFifoUsed (s : State) (l : Nat) : Nat := ((Tbl.getD s.redPosts (l / 16) []).filter (fun p => p.core == l)).length

/-- PERMISSION of Table 12.2. -/
def postPermission (s : State) (j : Nat) (d : List Byte) : Bool :=
  let n := ((jobOf s j).map (·.rankCount)).getD 1
  s.bound.regions.any (fun r => r.id == rRegion d && r.role == 6 && r.job == j && partRunning s r.part) && (regionOf s j (rSrc d)).isSome &&
  cqBound s (rCq d) j 6 && (!rSigEn d || ctrOwned s (rSigCore d) (rSigCtr d) j) &&
  !((rKind d == 4 || rKind d == 5) && modeNormal s) && (n ≤ 1 || (treeNow s j).isSome)

/-- FORMAT of Table 12.2. -/
def postFormat (s : State) (j : Nat) (d : List Byte) : Bool :=
  let k : SegKey := ⟨j, epochOf s j, rStep d, rSeg d⟩
  1 ≤ rKind d && rKind d ≤ 5 && 1 ≤ rFmt d && rFmt d ≤ 3 && fbits d 1 1 7 3 == 0 && fbits d 0x10 8 63 40 == 0 && fbits d 0x18 8 63 40 == 0 &&
  fbits d 0x20 4 31 17 == 0 && !fbit d 0x24 2 15 && fbits d 0x26 2 15 9 == 0 && fbits d 0x28 2 15 6 == 0 && allZero (slice d 0x2C 20) &&
  rSrc d % fmtBytes (rFmt d) == 0 && rDst d % 64 == 0 && 1 ≤ rSegCount d && rSegCount d ≤ 65536 && rSeg d < rSegCount d &&
  (if rSigEn d then 1 ≤ rSigInc d else rSigInc d == 0) && !stepRecorded s j (rStep d) && ((getSeg s k).post).isNone &&
  !((stepOf s j (rStep d)).map (fun x => x.segs.any (fun g => g.1 == rSeg d))).getD false

/-- BOUNDS of Table 12.2. -/
def postBounds (s : State) (j : Nat) (d : List Byte) : Bool :=
  let size := ((regionById s (rRegion d)).map (·.size)).getD 0
  rCount d == 0 || (rSrc d + rCount d * fmtBytes (rFmt d) ≤ regionEnd s j (rSrc d) && 64 ≤ rDst d && rDst d + rCount d * resBytes (rKind d) ≤ size)

/-- A post that fails its checks: a record, none where CQ_ID is at fault, and nothing sent (R338, R515). -/
def failPost (s : State) (j : Nat) (d : List Byte) (st : Status) : State :=
  postFailRec (inc s .redSegFailCnt) (rCq d) j 6 (unitRecord (rTag d) 0x40 st (rStep d) 0 0)

/-- The descriptor names a segment of its step that this device has not posted. -/
def freshSeg (s : State) (j : Nat) (d : List Byte) : Bool :=
  rSegCount d ≤ 65536 && rSeg d < rSegCount d && !stepRecorded s j (rStep d) && ((getSeg s ⟨j, epochOf s j, rStep d, rSeg d⟩).post).isNone &&
  !((stepOf s j (rStep d)).map (fun x => x.segs.any (fun g => g.1 == rSeg d))).getD false

/-- A post that fails: the segment it names, if this device has not posted it, has completed and counts toward SEG_COUNT (R338, R342). -/
def failPosted (s : State) (l j : Nat) (d : List Byte) (st : Status) : State :=
  let k : SegKey := ⟨j, epochOf s j, rStep d, rSeg d⟩
  if freshSeg s j d then
    let x := getSeg s k
    let t := failPost { s with redChunks := s.redChunks.filter (fun c => c.key != k) } j d st
    countSeg (setSeg t { x with post := some (l, d), ended := some st, heldRes := [] }) k d st 0 0 none
  else failPost s j d st

/-- A descriptor that passed its checks: queued for its cluster's reduction unit; what has already come for it is used. -/
def acceptPost (s : State) (l j : Nat) (d : List Byte) : State :=
  let k : SegKey := ⟨j, epochOf s j, rStep d, rSeg d⟩
  let x := getSeg s k
  match x.ended with
  | some st => completeSeg (setSeg s { x with post := some (l, d), ended := none }) k st
  | none =>
    let s := setSeg s { x with post := some (l, d), heldRes := [] }
    if rCount d = 0 then completeSeg s k .ok
    else
      let lost := match segTree s k with
        | some t => (segPeers s t).any (fun p => !flowOpen s (streamId p j k.epoch))
        | none => false
      if lost then failSeg s k .peerLost none
      else
        let q := Tbl.getD s.redPosts (l / 16) []
        let s := { s with redPosts := Tbl.set s.redPosts (l / 16) (q ++ [⟨k, l, d, 0⟩]) }
        x.heldRes.foldl (fun s h => landChunk s k l d h.1 h.2.1) s

/-- RED_POST (R337, R338). -/
def redPost (s : State) (l : Nat) : State :=
  let d := redDescOf s l
  if 16 ≤ redFifoUsed s l then inc s .redPostDropCnt l
  else match ctxJob s l 0 with
    | none => inc s .redSegFailCnt
    | some j =>
      if resetting s l then failPosted s l j d .aborted
      else if !postPermission s j d then
        failPosted (if (rKind d == 4 || rKind d == 5) && modeNormal s then inc s .redMaintRejectCnt else s) l j d .permission
      else if !postFormat s j d then failPosted s l j d .format
      else if !postBounds s j d then failPosted s l j d .bounds
      else acceptPost s l j d

/-- RED_LEAF_READ: the reduction unit, unless it waits with a record (R373), reads the next chunk of the segment at its head and sends it up (R337). -/
def leafRead (s : State) (c : Nat) : State :=
  match Tbl.getD s.redPosts c [] with
  | [] => s
  | p :: rest =>
    if unitWaits s (.reducer c) then s else
    let d := p.desc
    let n := elemsOf d p.next
    let w := fmtBytes (rFmt d)
    match readMem s (rSrc d + p.next * chunkElems (rKind d) * w) (n * w) with
    | (s, .error _) => failSeg s p.key .uncorrectable none
    | (s, .ok b) =>
      let last := p.next + 1 == chunkCount d
      let s := { s with redPosts := Tbl.put s.redPosts c (if last then rest else { p with next := p.next + 1 } :: rest) [] }
      let t := segTree s p.key
      let q := (t.bind (fun t => t.rankOf (devId s))).getD 0
      let q := ((t.bind (fun t => t.backs (devId s))).getD q)
      let r := joinOut ((chunks w b).map (fun e => leafElem (rKind d) (rFmt d) q (leNat e)))
      let s := countRed s r
      if ((jobOf s p.key.job).map (·.rankCount)).getD 1 ≤ 1 then takeResult s p.key p.next r.data last
      else match t with
        | some t => offerLeaf s t p.key p.next (rKind d) last r.data
        | none => s

/-! ### Packets of reduction streams (R341, R351) -/

/-- The segment a RED packet belongs to. -/
def redKey (p : Pkt) : SegKey := ⟨p.job, p.epoch, p.step, bits p.addr 39 24⟩

/-- A stream packet taken in: sequenced, absorbed for a job that loads, fenced by epoch (R341, R351). -/
def takeStream (s : State) (p : Pkt) (k : Option SegKey) (fenced : Bool) : State × Bool :=
  if loadingJob s p.job then
    let s := inc s .absorbCnt
    (match k with
     | some k => sendCtrl s p.src p.job p.step 1 .aborted k.seg 0 0
     | none => s, false)
  else if (slotOf s p.job).isNone then (inc s .ctxUnknownCnt, false)
  else
    let c := streamId p.src p.job p.epoch
    if !flowOpen s c then (inc s .ctxUnknownCnt, false)
    else match rxSeq s c p with
      | (s, false) => (s, false)
      | (s, true) =>
        if !fenced then (s, true)
        else match fenceOf s p.job p.epoch with
          | .current => (s, true)
          | .ahead => (inc s .redEpochAheadCnt, false)
          | .stale =>
            let s := inc s .redEpochStaleCnt
            match k with
            | some k =>
              if s.redNacks.contains (p.src, k) then (s, false)
              else (sendCtrl { s with redNacks := s.redNacks ++ [(p.src, k)] } p.src p.job p.step 2 .epochStale k.seg 0 0, false)
            | none => (s, false)

/-- A RED packet at its node (R336, R344); one in which a router found an uncorrectable word fails the segment (R343, Table 12.5; log entry 64). -/
def redIn (s : State) (p : Pkt) : State :=
  let k := redKey p
  match segTree s k with
  | none => s
  | some t =>
    if p.status ≠ 0 then failSeg s k (Status.ofCode p.status) none else
    let chunk := bits p.addr 23 0
    let kind := bits p.aux 20 18
    let last := bit p.aux 21
    if bit p.aux 16 then
      match t.rankOf (devId s) with
      | some q =>
        if q = 0 ∨ t.dev (parentOf q) ≠ p.src then s
        else takeResult (sendDown s k t q chunk kind last p.payload) k chunk p.payload last
      | none => s
    else
      let c := bits p.aux 15 0
      let backup := bit p.aux 17
      if c = 0 ∨ t.ranks.length ≤ c ∨ (if backup then t.backup c != some p.src else t.dev c != p.src) then s
      else
        let part : RedPart := ⟨c, backup, kind, last, p.payload⟩
        let q := parentOf c
        if t.rankOf (devId s) = some q then takePart s t k chunk part q false
        else if t.backs (devId s) = some q then takePart s t k chunk part q true
        else s

/-- A reduction stream becomes LOST: every segment that uses it fails (R341). -/
def loseStream (s : State) (c : Nat) : State :=
  let dev := flowDst s c
  let j := flowJob s c
  let e := flowEpoch c
  let s := inc (setFlow { s with lostStreams := Tbl.set s.lostStreams c (), txWait := s.txWait.filter (fun w => w.1 != c) } c Flow.init) .ctxLostCnt
  let s := reportSuspect s j dev 1 0
  match treeOfEpoch s j e with
  | none => s
  | some t =>
    if (segPeers s t).contains dev then
      (s.redSegs.filter (fun x => x.key.job == j && x.key.epoch == e && x.ended.isNone)).foldl (fun s x => failSeg s x.key .peerLost none) s
    else s

/-! ### Epoch switch (R350) -/

/-- A segment or marker of the job is outstanding (R350, RED_BUSY). -/
def redOutstanding (s : State) (j : Nat) : Bool :=
  s.redSegs.any (fun x => x.key.job == j && x.post.isSome && x.ended.isNone) || s.markers.any (fun m => m.job == j && m.own.isSome && !stepClosed s j m.tensor m.step)

/-- A write of the EPOCH_SW word with EPOCH_SW_START set. -/
def epochSwitch (s : State) (word : Nat) : State :=
  let s := wrs s [(.epochSwJob, 0, bits word 11 0), (.epochSwNew, 0, bits word 23 16)]
  if !bit word 24 then s
  else
    let j := rd s .epochSwJob
    let e := rd s .epochSwNew
    let d := (e + 256 - epochOf s j) % 256
    match slotOf s j with
    | none => wr s .epochSwStatus 0 Status.permission.code
    | some n =>
      if redOutstanding s j || s.redChunks.any (fun c => c.key.job == j) || s.redSegs.any (fun x => x.key.job == j && x.heldRes != []) then
        wr s .epochSwStatus 0 Status.permission.code
      else if d = 0 ∨ 127 < d then wr s .epochSwStatus 0 Status.format.code
      else if (treeOfEpoch s j e).isNone then wr s .epochSwStatus 0 Status.indexRange.code
      else wrs s [(.jobEpoch, n, e), (.epochSwStatus, 0, 0)]

/-! ### The suspect table (R357) -/

/-- A SUSPECT report taken by the monitor. -/
def suspectIn (s : State) (p : Pkt) : State :=
  let dev := fld p.payload 0 2
  let reason := fld p.payload 2 1
  let bitR := 2 ^ (reason % 8)
  let es := List.range 256
  let s := onSuspect s p.job dev reason
  match es.find? (fun e => rd s .susValid e == 1 && rd s .susJobId e == p.job && rd s .susDevice e == dev) with
  | some e =>
    let m := rd s .susReasons e
    { wrs (inc s .susCount e) [(.susLast, e, p.src), (.susReasons, e, if bit m (reason % 8) then m else m + bitR)] with
      suspLast := Tbl.set s.suspLast e s.localNs }
  | none =>
    match es.find? (fun e => rd s .susValid e == 0) with
    | none =>
      let s := inc s .suspectTableFullCnt
      if s.suspFull then s else { postEvent s 0x0007 0 0 (devId s) 0 0 with suspFull := true }
    | some e =>
      { wrs s [(.susDevice, e, dev), (.susJobId, e, p.job), (.susValid, e, 1), (.susEvented, e, 0), (.susCount, e, 1), (.susFirst, e, p.src),
          (.susLast, e, p.src), (.susReasons, e, bitR), (.susFirstNs, e, nowNs s)] with suspLast := Tbl.set s.suspLast e s.localNs, suspFull := false }

/-- An entry freed. -/
def freeSuspect (s : State) (e : Nat) : State := { wr s .susValid e 0 with suspFull := false, suspLast := Tbl.del s.suspLast e }

/-! ### Meanings -/

/-- RED_POST. -/
def execRedPost (core : Nat) (s : State) : Host.Outcome State Fault Refusal := .next (redPost s core)
/-- RED_LEAF_READ. -/
def execRedLeafRead (cluster : Nat) (s : State) : Host.Outcome State Fault Refusal := .next (leafRead s cluster)
/-- RED. -/
def execRed (pkt : Pkt) (s : State) : Host.Outcome State Fault Refusal :=
  .next (if pkt.ptype ≠ ptRed then s else match takeStream s pkt (some (redKey pkt)) true with
    | (s, true) => redIn s pkt
    | (s, false) => s)

/-- The segment a RED_CTRL packet names. -/
def ctrlKey (p : Pkt) : SegKey := ⟨p.job, p.epoch, p.step, fld p.payload 2 2⟩

/-- FAIL: passed on both ways; the segment stops (R343). -/
def execFail (pkt : Pkt) (s : State) : Host.Outcome State Fault Refusal :=
  .next (if pkt.ptype ≠ ptRedCtrl ∨ fld pkt.payload 0 1 ≠ 1 then s else match takeStream s pkt (some (ctrlKey pkt)) true with
    | (s, true) => failSeg s (ctrlKey pkt) (Status.ofCode (fld pkt.payload 1 1)) (some pkt.src) (some (fld pkt.payload 4 4))
    | (s, false) => s)

/-- NACK: outside the fence; the segment of the sender's own epoch fails with EPOCH_STALE (R351). -/
def execNack (pkt : Pkt) (s : State) : Host.Outcome State Fault Refusal :=
  .next (if pkt.ptype ≠ ptRedCtrl ∨ fld pkt.payload 0 1 ≠ 2 then s else match takeStream s pkt none false with
    | (s, true) => failSeg s { ctrlKey pkt with epoch := epochOf s pkt.job } .epochStale none
    | (s, false) => s)

/-- MARKER. -/
def execMarker (pkt : Pkt) (s : State) : Host.Outcome State Fault Refusal :=
  .next (if pkt.ptype ≠ ptRedCtrl ∨ fld pkt.payload 0 1 ≠ 3 then s else match takeStream s pkt none true with
    | (s, true) => markerIn s pkt
    | (s, false) => s)

/-- BACKUP_TIMEOUT: expires for the child a chunk's node waits for (R347). -/
def execBackupTimeout (index : Nat) (s : State) : Host.Outcome State Fault Refusal :=
  .next (match s.redChunks[index]? with
    | none => s
    | some c => match segTree s c.key with
      | none => s
      | some t => if c.acc.isNone ∨ t.backupTimeout = 0 then s else advanceNode t 33 { c with expired := true } s)

/-- An own post that has not landed in time (R348): it completes with TIMEOUT on this device; while chunks of it are unread its node can send no partial,
so that the segment fails there (DEDUCED, log entry 20). -/
def ownTimeout (s : State) (x : RedSeg) : State :=
  if s.redPosts.any (fun e => e.2.any (fun p => p.key == x.key)) then failSeg s x.key .timeout none else completeSeg s x.key .timeout

/-- RED_WAIT_TIMEOUT: neither copy of a child's chunk is there at its node, or an own posted segment has not landed (R348). -/
def execRedWaitTimeout (index : Nat) (own : Bool) (s : State) : Host.Outcome State Fault Refusal :=
  .next (if own then match s.redSegs[index]? with
      | some x => if x.post.isSome ∧ x.ended.isNone then ownTimeout s x else s
      | none => s
    else match s.redChunks[index]? with
      | none => s
      | some c => match segTree s c.key, c.acc, c.kids with
        | some t, some _, kid :: _ =>
          if c.parts.any (fun p => p.child == kid) then s else nodeFail (reportSuspect s c.key.job (t.dev kid) 4 c.key.step) c .timeout
        | _, _, _ => s)

/-- EPOCH_SW_START. -/
def execEpochSwStart (word : Nat) (s : State) : Host.Outcome State Fault Refusal := .next (epochSwitch s (setBits word 24 1 1))

/-- SUSPECT. -/
def execSuspect (pkt : Pkt) (s : State) : Host.Outcome State Fault Refusal := .next (if pkt.ptype = ptSuspect then suspectIn s pkt else s)

/-- SUSPECT_ENTRY_TIMER: 100 ms after an entry opened its event is posted (R357). -/
def execSuspectEntryTimer (entry : Nat) (s : State) : Host.Outcome State Fault Refusal :=
  .next (if rd s .susValid entry = 0 ∨ rd s .susEvented entry = 1 then s
    else
      let s := postEvent s 0x0006 0 (rd s .susJobId entry) (rd s .susDevice entry) (rd s .susCount entry + rd s .susReasons entry * 2 ^ 32)
        (rd s .susFirst entry + rd s .susLast entry * 2 ^ 16)
      wr (stoneWrite s 0x0013 [(2, rd s .susDevice entry), (2, rd s .susJobId entry), (4, rd s .susCount entry), (2, rd s .susFirst entry),
        (2, rd s .susLast entry), (1, rd s .susReasons entry), (8, rd s .susFirstNs entry)]) .susEvented entry 1)

/-- SUSPECT_ENTRY_EXPIRY: an EVENTED entry freed 10 s after its last report (R357). -/
def execSuspectEntryExpiry (entry : Nat) (s : State) : Host.Outcome State Fault Refusal :=
  .next (if rd s .susValid entry = 1 ∧ rd s .susEvented entry = 1 then freeSuspect s entry else s)

/-- SUS_VALID_CLEAR. -/
def execSusValidClear (entry : Nat) (s : State) : Host.Outcome State Fault Refusal := .next (if rd s .susValid entry = 1 then freeSuspect s entry else s)

end Sys2Proof.Machine
end

