-- ==== Sys2Proof/Machine/Contexts.lean ====
section
/-!
DEFINITION. Sys2Proof/Machine/Contexts.lean: peer contexts opened, closed and lost, acknowledgements, responses, and the requests a peer
sends (R319 to R326, R516, R518).
-/
namespace Sys2Proof.Machine

/-! ### Responses (R325) -/

/-- The answer to a request handed to who waits for it: its origin, its packet, the tag it went by, status and data. -/
def answerOrigin (s : State) (o : Origin) (q : Pkt) (tag : Nat) (st : Status) (b : List Byte) : State :=
  match o with
  | .probe l k seq which => probeResp s l k seq which st b
  | .copyRead l k seq off len => copyReadResp s l k seq off len st b
  | .copyWrite l k seq off len => copyWriteResp s l k seq off len st
  | .token l k seq => signalResp s l k seq st
  | .rows c id => rowsResp (noteTimeout s q st) c id tag st b
  | .rowFwd req => rowFwdResp s req st b
  | .draws c base level pos => drawsResp s tag c base level pos q.dst st b
  | .contrib id k => contribResp (noteTimeout s q st) id k tag st
  | .migHdr => migHdrResp s st b
  | .mig => migResp s st
  | .apply region row => applyResp s region row st b
  | .page _ => s
  | .rcd slot kind => recordResp s slot kind st
  | .feed _ => s
  | .loadFeed _ => s
  | .imgRead _ _ => s
  | .mbox => s

/-- The engine's own late-reply counter for a reply that came after its request's timeout (R325). -/
def countLate (s : State) (o : Origin) : State :=
  match o with
  | .rows c _ => inc s .gatherLateReplyCnt c
  | .draws c _ _ _ => inc s .sampLateReplyCnt c
  | _ => s

/-- Requests of a list completed with a status, their tags released (R323, R324). -/
def completeAll (st : Status) : List (Nat × Pkt × Origin) → State → State
  | [], s => s
  | (t, q, o) :: r, s => completeAll st r (answerOrigin (releaseTag s t) o q t st [])

/-- The requests outstanding on context c, those that still wait for a tag among them. -/
def reqsOn (s : State) (c : Nat) : List (Nat × Pkt × Origin) :=
  (s.tags.filter (fun e => e.2.ctx == c && !e.2.quar)).map (fun e => (e.1, e.2.pkt, e.2.origin)) ++
  (s.tagWait.filter (fun w => w.1 == c)).map (fun w => (w.2.1.tag, w.2.1, w.2.2))

/-- Held probes of a context that ceases to be OPEN are discarded (R518). -/
def dropProbes (s : State) (c : Nat) : State := { s with heldProbes := s.heldProbes.filter (fun p => p.ctx != c) }

/-- What waits to be sent on context c forgotten, and its retransmit entries freed. -/
def clearFlow (s : State) (c : Nat) : State :=
  { setFlow s c Flow.init with txWait := s.txWait.filter (fun w => w.1 != c), tagWait := s.tagWait.filter (fun w => w.1 != c) }

/-- The operation of PEER_START ends (R320, R324). -/
def endPeerOp (s : State) (st : Status) : State :=
  let s := wrs { s with peerOp := .none } [(.peerBusy, 0, 0), (.peerStatus, 0, st.code)]
  sendMsi s (rd s .peerVector)

/-- A LOST context freed, with one CTX_CLOSE (R324). -/
def closeLost (s : State) (c : Nat) : State :=
  let st := rd s .ctxLastStatus c
  endPeerOp (freeCtx (originate s (closePkt s c .peerLost)) c st) .ok

/-- Context c becomes LOST (R323): its requests complete with PEER_LOST, the remote device is a suspect, a pair on it is broken. A close that
waits for it then goes on as the close of a LOST context (R324). -/
def loseCtx (s : State) (c : Nat) (st : Nat) : State :=
  if !ctxUp s c then s
  else
    let j := rd s .ctxJobId c
    let dev := rd s .ctxRemoteDevice c
    let reqs := reqsOn s c
    let s := inc (wrs (dropProbes (clearFlow s c) c) [(.ctxState, c, ctxLost), (.ctxLastStatus, c, st)]) .ctxLostCnt
    let s := drainTx s.txWait.length (completeAll .peerLost reqs s)
    let s := pairCtxLost (reportSuspect s j dev 1 0) j dev
    if s.peerOp = .closing c then closeLost s c else s

/-- The response to the request under a tag has come whole: the tag is freed and who waits gets it; PEER_LOST makes the context LOST (R323). -/
def finishReq (s : State) (t : Nat) (r : Req) (st : Status) (b : List Byte) : State :=
  let s := answerOrigin (releaseTag s t) r.origin r.pkt t st b
  if st = .peerLost then loseCtx s r.ctx Status.peerLost.code else s

/-- A response that was taken in, matched by tag, source and context (R325); rows may come from the device that holds them (R193). -/
def matchResp (s : State) (p : Pkt) (loose : Bool) : State :=
  match Tbl.find s.tags p.tag with
  | none => inc s .rspOrphanCnt
  | some r =>
    let rows := match r.origin with
      | .rows _ _ => flowJob s r.ctx == p.job
      | _ => false
    let same := r.pkt.dst == p.src && (loose || r.ctx == p.ctx)
    if r.ctx = mgmtCtx ∨ !(same || rows) then inc s .rspOrphanCnt
    else if r.quar then countLate (inc s .rspOrphanCnt) r.origin
    else if bit p.aux 0 then { s with tags := Tbl.set s.tags p.tag { r with data := r.data ++ p.payload } }
    else finishReq s p.tag r (Status.ofCode p.status) (r.data ++ p.payload)

/-- A RESP packet: in sequence on its context, or outside it (log entry 15). -/
def respIn (s : State) (p : Pkt) : State :=
  if p.ptype ≠ ptResp then s
  else if bit p.aux 1 then matchResp (addDigest s false p) p true
  else if ctxMatches s p then
    (match rxSeq s p.ctx p with
     | (s, true) => matchResp s p false
     | (s, false) => s)
  else inc s .ctxUnknownCnt

/-! ### Acknowledgements (R322) -/

/-- A stored packet sent again, counted. -/
def resendAll : List Pkt → State → State
  | [], s => s
  | p :: t, s => resendAll t (originate (inc s .ctxRetxCnt) { p with retx := true })

/-- PSN u lies before the acknowledged number a. -/
def psnCovered (u a : Nat) : Bool := let d := (a + 2 ^ 24 - u % 2 ^ 24) % 2 ^ 24; 1 ≤ d && d ≤ 2 ^ 23

/-- The flow that an acknowledgement names: a context, or with AUX[1] a stream. -/
def ackFlow (p : Pkt) : Nat := if bit p.aux 1 then streamId p.src p.job p.epoch else p.ctx

/-- A CTX_ACK: packets before PSN are released; a NAK asks for the rest again. -/
def ackIn (s : State) (p : Pkt) : State :=
  let c := ackFlow p
  if p.ptype ≠ ptCtxAck then s
  else if !(if bit p.aux 1 then flowOpen s c else ctxMatches s p) then inc s .ctxUnknownCnt
  else
    let f := flowOf s c
    let rest := f.unacked.filter (fun u => !psnCovered u.psn p.psn)
    let s := setFlow s c { f with unacked := rest, misses := if rest.length < f.unacked.length then 0 else f.misses }
    let s := drainTx s.txWait.length s
    if bit p.aux 0 then resendAll rest s else s

/-- A flow's timeout without progress: sent again, and LOST at the eighth in a row (R322, R323). -/
def retxTimeout (s : State) (c : Nat) : State :=
  let f := flowOf s c
  if f.unacked = [] ∨ !flowOpen s c then s
  else if 8 ≤ f.misses + 1 then (if isStream c then loseStream s c else loseCtx s c Status.timeout.code)
  else resendAll f.unacked (setFlow s c { f with misses := f.misses + 1 })

/-! ### Opening and closing (R319 to R324) -/

/-- A CTX_OPEN for context c. -/
def openPkt (s : State) (c : Nat) : Pkt :=
  { ptype := ptCtxOpen, dst := rd s .ctxRemoteDevice c, src := devId s, job := rd s .ctxJobId c, payload := toLE 2 c ++ zeros 6, len := 8 }

/-- A CTX_OPEN_ACK to a device: the context number here and a status. -/
def openAck (s : State) (dev job c : Nat) (st : Status) : Pkt :=
  { ptype := ptCtxOpenAck, dst := dev, src := devId s, job := job, status := st.code, payload := toLE 2 c ++ zeros 6, len := 8 }

/-- The status of the checks of Table 11.8, in the order of R16. -/
def peerCheck (s : State) (op j i dev : Nat) : Status :=
  let cs := jobCtxs s j
  let st := (cs[i]?).map (fun c => rd s .ctxState c)
  let perm : Bool :=
    if op = 1 then jobRunning s j && (slotOf s j).isSome && st.getD ctxFree == ctxFree && s.bound.devs.any (fun d => d.job == j && d.dev == dev) &&
      !cs.any (fun c => rd s .ctxState c != ctxFree && rd s .ctxRemoteDevice c == dev)
    else if op = 2 then (slotOf s j).isSome && (st.getD ctxOpen == ctxOpen || st.getD ctxOpen == ctxLost)
    else true
  if !perm then .permission
  else if (op ≠ 1 ∧ op ≠ 2) ∨ (op = 1 ∧ dev = devId s) then .format
  else if cs.length ≤ i then .indexRange
  else .ok

/-- A write of 1 to PEER_START with PEER_OP and PEER_VECTOR. -/
def peerStart (s : State) (op vector : Nat) : State :=
  let s := wrs s [(.peerOp, 0, op), (.peerVector, 0, vector)]
  let j := rd s .peerOpJob
  let dev := rd s .peerOpDevice
  if rd s .peerBusy = 1 then s
  else match peerCheck s op j (rd s .peerOpIndex) dev, (jobCtxs s j)[rd s .peerOpIndex]? with
    | .ok, some c =>
      let s := wr s .peerCtxNum 0 c
      if op = 1 then
        let s := wrs { setFlow s c Flow.init with peerOp := .opening c 1 }
          [(.peerBusy, 0, 1), (.ctxState, c, ctxOpening), (.ctxJobId, c, j), (.ctxRemoteDevice, c, dev), (.ctxRemoteCtx, c, 0)]
        originate s (openPkt s c)
      else if rd s .ctxState c = ctxLost then closeLost s c
      else dropProbes (wrs { s with peerOp := .closing c } [(.peerBusy, 0, 1), (.ctxState, c, ctxClosing)]) c
    | st, _ => endPeerOp s st

/-- Context c becomes OPEN with a remote number, at PSN 0. -/
def setOpen (s : State) (c j dev remote : Nat) : State :=
  wrs (setFlow s c Flow.init) [(.ctxState, c, ctxOpen), (.ctxJobId, c, j), (.ctxRemoteDevice, c, dev), (.ctxRemoteCtx, c, remote)]

/-- Contexts made LOST one after the other. -/
def loseAll (st : Nat) : List Nat → State → State
  | [], s => s
  | c :: t, s => loseAll st t (loseCtx s c st)

/-- A CTX_OPEN (R320, R321). -/
def ctxOpenIn (s : State) (p : Pkt) : State :=
  let o := fld p.payload 0 2 % 2 ^ 13
  let cs := jobCtxs s p.job
  let refuse := fun (st : Status) => originate s (openAck s p.src p.job 0 st)
  if p.ptype ≠ ptCtxOpen then s
  else if loadingJob s p.job then refuse .aborted
  else if !jobRunning s p.job || !s.bound.devs.any (fun d => d.job == p.job && d.dev == p.src) then refuse .permission
  else match cs.find? (fun c => rd s .ctxState c == ctxOpening && rd s .ctxRemoteDevice c == p.src) with
    | some c =>
      if devId s < p.src then s
      else
        let s := setOpen s c p.job p.src o
        endPeerOp (originate s (openAck s p.src p.job c .ok)) .ok
    | none =>
      match cs.find? (fun c => rd s .ctxState c == ctxOpen && rd s .ctxRemoteDevice c == p.src && rd s .ctxRemoteCtx c == o) with
      | some c => originate s (openAck s p.src p.job c .ok)
      | none =>
        match cs.find? (fun c => rd s .ctxState c == ctxFree) with
        | none => refuse .permission
        | some c =>
          let s := loseAll Status.peerLost.code (cs.filter (fun c => ctxUp s c && rd s .ctxRemoteDevice c == p.src)) s
          let s := setOpen s c p.job p.src o
          originate s (openAck s p.src p.job c .ok)

/-- A CTX_OPEN_ACK ends this device's own open (R320). -/
def ctxOpenAckIn (s : State) (p : Pkt) : State :=
  match s.peerOp with
  | .opening c _ =>
    if p.ptype ≠ ptCtxOpenAck ∨ rd s .ctxJobId c ≠ p.job ∨ rd s .ctxRemoteDevice c ≠ p.src then s
    else if p.status = 0 then endPeerOp (setOpen s c p.job p.src (fld p.payload 0 2)) .ok
    else endPeerOp (freeCtx s c p.status) (Status.ofCode p.status)
  | _ => s

/-- 1 ms without an answer to CTX_OPEN (R320). -/
def openResend (s : State) (pctx : Nat) : State :=
  match s.peerOp with
  | .opening c n =>
    if c ≠ pctx then s
    else if n < 3 then originate { s with peerOp := .opening c (n + 1) } (openPkt s c)
    else endPeerOp (freeCtx s c Status.timeout.code) .timeout
  | _ => s

/-- Nothing is outstanding, waiting or unacknowledged on context c. -/
def ctxDrained (s : State) (c : Nat) : Bool :=
  (reqsOn s c).isEmpty && (flowOf s c).unacked.isEmpty && !s.txWait.any (fun w => w.1 == c)

/-- The drain of a close is done (R324). -/
def closeDrained (s : State) (c : Nat) : State :=
  if s.peerOp = .closing c ∧ ctxDrained s c = true then endPeerOp (freeCtx (originate s (closePkt s c .ok)) c 0) .ok else s

/-- A CTX_CLOSE (R323, R324). -/
def ctxCloseIn (s : State) (p : Pkt) : State :=
  if p.ptype ≠ ptCtxClose then s
  else if !ctxMatches s p then inc s .ctxUnknownCnt
  else if p.status ≠ 0 then loseCtx s p.ctx p.status
  else
    let reqs := reqsOn s p.ctx
    let closing := s.peerOp == .closing p.ctx
    let s := completeAll .peerLost reqs (freeCtx (dropProbes s p.ctx) p.ctx 0)
    let s := drainTx s.txWait.length s
    if closing then endPeerOp s .ok else s

/-- The tags of context c quarantined: who asked is gone (Table 15.5). -/
def quarantineCtx (s : State) (c : Nat) : State := (tagsOn s c).foldl quarantine s

/-- The contexts of a list each send CTX_CLOSE with ABORTED and are freed (R324). -/
def abortCtxs : List Nat → State → State
  | [], s => s
  | c :: t, s =>
    if rd s .ctxState c = ctxFree then abortCtxs t s
    else
      let op := s.peerOp == .closing c || (match s.peerOp with
        | .opening d _ => d == c
        | _ => false)
      let s := originate s (closePkt s c .aborted)
      let s := freeCtx (dropProbes (quarantineCtx s c) c) c Status.aborted.code
      abortCtxs t (if op then endPeerOp s .aborted else s)

/-- Every context of job j closed with ABORTED. -/
def abortJobCtxs (s : State) (j : Nat) : State := abortCtxs (jobCtxs s j) s

/-! ### Requests of a peer -/

/-- The address lies in a store of a core or cluster in reset (Table 15.5). -/
def inReset (s : State) (a : Nat) : Bool :=
  match coreOfAddr a with
  | some (l, _) => resetting s l
  | none => match gbufOfAddr a with
    | some (c, _) => clusterResetting s c
    | none => false

/-- A sequenced request taken in, unless it is for a store in reset: absorbed in its sequence with ABORTED (R446). -/
def takeAt (s : State) (p : Pkt) (ptype : Nat) : State × Bool :=
  if p.ptype ≠ ptype then (s, false)
  else match takeRequest s p with
    | (s, false) => (s, false)
    | (s, true) => if inReset s p.addr then (respond (inc s .absorbCnt) p .aborted, false) else (s, true)

/-- A record of the recovery window by its kind (R425); another kind is FORMAT. -/
def recordIn (s : State) (p : Pkt) : State :=
  let k := fld p.payload 0 1
  if k = 1 then withRecord s p 1 (fun s b => Machine.zestReport s p b)
  else if k = 2 then withRecord s p 2 (fun s b => Machine.zestVerdict s p b)
  else if k = 3 then withRecord s p 3 (fun s b => Machine.refillReq s p b)
  else if k = 4 then withRecord s p 4 (fun s _ => Machine.refillGrant s p)
  else if k = 5 then withRecord s p 5 (fun s b => Machine.refillDone s p b)
  else if k = 6 then withRecord s p 6 (fun s b => Machine.frameBegin s p b)
  else if k = 7 then withRecord s p 7 (fun s b => Machine.frameEnd s p b)
  else if k = 8 then withRecord s p 8 (fun s b =>
    if ((slotOf s p.job).map (fun n => (pairOf s n).refill.isSome)).getD false then Machine.refillComplete s p b else Machine.frameAck s p b)
  else if k = 9 then withRecord s p 9 (fun s _ => answerRecord s p .ok)
  else withRecord s p 0 (fun s _ => answerRecord s p .format)

/-- A WRITE packet (R310, R394, R400, R407). -/
def writeIn (s : State) (p : Pkt) : State :=
  if p.ptype = ptWrite ∧ p.addr = recoveryWindow then recordIn s p
  else match takeAt s p ptWrite with
    | (s, false) => s
    | (s, true) =>
      match framePage s p with
      | some s => respond s p .ok
      | none => match refillPage s p with
        | some s => respond s p .ok
        | none => serveWrite s p false

/-- A READ packet. -/
def readIn (s : State) (p : Pkt) : State :=
  match takeAt s p ptRead with
  | (s, false) => s
  | (s, true) =>
    let n := bits p.aux 12 0
    let st := rangeStatus s p.job p.addr n
    if st = .permission then respond s p .permission
    else if n = 0 ∨ 4096 < n then respond s p .format
    else if st ≠ .ok then respond s p st
    else match readMem s p.addr n with
      | (s, .ok b) => respond s p .ok b
      | (s, .error _) => respond s p .uncorrectable

/-- The queue of a post window address. -/
def postQueue (a : Nat) : Nat := (a - 0xF000600000) / 64

/-- The checks of R326 before the queue's room: PERMISSION, BOUNDS, OK. -/
def postCheck (s : State) (p : Pkt) (n : Nat) : Status :=
  let ok := match queueOf s (postQueue p.addr) with
    | some b => b.job == p.job && (b.kind == 5 || (b.kind == 4 && (jobCtxs s p.job)[b.owner]? == some p.ctx))
    | none => false
  if !ok then .permission else if n ≠ 64 ∨ p.addr % 64 ≠ 0 then .bounds else .ok

/-- Entries of queue q taken in and not yet taken by its consumer are at the limit (R326). -/
def queueFull (s : State) (q : Nat) : Bool := 2 ^ rd s .qDepthLog2 q ≤ (fifoOf s q).length + 1

/-- What a range probe meets: its answer, or none while it is held (R90, R146, R256, R257, R518). AUX[0] marks a range to be written. -/
def probeVerdict (s : State) (p : Pkt) : Option (Status × List Byte) :=
  let n := fld p.payload 0 8
  if inPostWindow p.addr then some (postCheck s p n, zeros 16)
  else
    let rs := [(p.addr, n, bit p.aux 0)]
    let st := rangeStatus s p.job p.addr n
    let wr' := bit p.aux 0 && (blockWritten s rs || paramWriteBad s rs || meetsShadow s p.addr n)
    if st = .permission ∨ wr' then some (.permission, toLE 8 (b2n (st != .permission && bit p.aux 0 && paramWriteBad s rs)) ++ zeros 8)
    else if !bit p.aux 0 && (paramVerdicts s p.step rs).contains false then some (.format, zeros 16)
    else if st ≠ .ok then some (st, zeros 16)
    else if (!bit p.aux 0 && (paramVerdicts s p.step rs).contains true) || s.blocks.any (fun b => !b.committed && conflict rs [(b.base, b.bytes, true)]) then none
    else match regionOf s p.job p.addr with
      | some r => some (.ok, toLE 8 (r.base + b2n (bit p.aux 23) * 2 ^ 63) ++ toLE 8 r.size)
      | none => some (.permission, zeros 16)

/-- A probe answered, or held; one that Table 9.4 holds is marked in AUX[23] (log entry 15). -/
def probeAnswer (s : State) (p : Pkt) : State :=
  match probeVerdict s p with
  | some (st, b) => respond s p st b
  | none =>
    let param := !bit p.aux 0 && (paramVerdicts s p.step [(p.addr, fld p.payload 0 8, false)]).contains true
    { s with heldProbes := s.heldProbes ++ [if param then { p with aux := p.aux % 2 ^ 23 + 2 ^ 23 } else p] }

/-- A PROBE packet. -/
def probeIn (s : State) (p : Pkt) : State :=
  match takeAt s p ptProbe with
  | (s, false) => s
  | (s, true) => probeAnswer s { p with aux := p.aux % 2 ^ 23 }

/-- A held probe whose range is no longer held is answered (R518). -/
def probeRelease (s : State) (i : Nat) : State :=
  match s.heldProbes[i]? with
  | none => s
  | some p => if (probeVerdict s p).isNone then s else probeAnswer { s with heldProbes := s.heldProbes.eraseIdx i } p

/-- A TOKEN packet (R97, R99). -/
def tokenIn (s : State) (p : Pkt) : State :=
  match takeAt s p ptToken with
  | (s, false) => s
  | (s, true) =>
    let r := applySignal s p.job (bits p.aux 14 6) (bits p.aux 5 0) (bits p.addr 15 0)
    respond r.1 p r.2

/-- A QPOST packet (R326). -/
def qpostIn (s : State) (p : Pkt) : State :=
  match takeAt s p ptQpost with
  | (s, false) => s
  | (s, true) =>
    let q := postQueue p.addr
    let st := if inPostWindow p.addr then postCheck s p p.payload.length else .permission
    if st ≠ .ok then respond s p st
    else if queueFull s q then respond (inc s .qpostFullCnt) p .bounds
    else respond (setFifo s q (fifoOf s q ++ [p.payload])) p .ok

/-! ### Meanings -/

/-- PROBE_HOLD_RELEASE. -/
def execProbeHoldRelease (index : Nat) (s : State) : Host.Outcome State Fault Refusal := .next (probeRelease s index)
/-- WRITE. -/
def execWrite (pkt : Pkt) (s : State) : Host.Outcome State Fault Refusal := .next (writeIn s pkt)
/-- READ. -/
def execRead (pkt : Pkt) (s : State) : Host.Outcome State Fault Refusal := .next (readIn s pkt)
/-- PROBE. -/
def execProbe (pkt : Pkt) (s : State) : Host.Outcome State Fault Refusal := .next (probeIn s pkt)
/-- TOKEN. -/
def execToken (pkt : Pkt) (s : State) : Host.Outcome State Fault Refusal := .next (tokenIn s pkt)
/-- QPOST. -/
def execQpost (pkt : Pkt) (s : State) : Host.Outcome State Fault Refusal := .next (qpostIn s pkt)
/-- RESP. -/
def execResp (pkt : Pkt) (s : State) : Host.Outcome State Fault Refusal := .next (respIn s pkt)
/-- CTX_ACK. -/
def execCtxAck (pkt : Pkt) (s : State) : Host.Outcome State Fault Refusal := .next (ackIn s pkt)
/-- CTX_ACK_TIMER: accepted packets acknowledged within 2 µs (R322). -/
def execCtxAckTimer (pctx : Nat) (s : State) : Host.Outcome State Fault Refusal :=
  .next (if flowOpen s pctx && (flowOf s pctx).rxSince != 0 then sendAck s pctx false else s)
/-- CTX_RETX_TIMEOUT. -/
def execCtxRetxTimeout (pctx : Nat) (s : State) : Host.Outcome State Fault Refusal := .next (retxTimeout s pctx)
/-- PEER_OPEN: PEER_START with PEER_OP OPEN. -/
def execPeerOpen (vector : Nat) (s : State) : Host.Outcome State Fault Refusal := .next (peerStart s 1 vector)
/-- PEER_CLOSE: PEER_START with PEER_OP CLOSE. -/
def execPeerClose (vector : Nat) (s : State) : Host.Outcome State Fault Refusal := .next (peerStart s 2 vector)
/-- CTX_OPEN. -/
def execCtxOpen (pkt : Pkt) (s : State) : Host.Outcome State Fault Refusal := .next (ctxOpenIn s pkt)
/-- CTX_OPEN_ACK. -/
def execCtxOpenAck (pkt : Pkt) (s : State) : Host.Outcome State Fault Refusal := .next (ctxOpenAckIn s pkt)
/-- CTX_OPEN_RESEND_TIMEOUT. -/
def execCtxOpenResendTimeout (pctx : Nat) (s : State) : Host.Outcome State Fault Refusal := .next (openResend s pctx)
/-- PEER_CLOSE_DRAIN_DONE. -/
def execPeerCloseDrainDone (pctx : Nat) (s : State) : Host.Outcome State Fault Refusal := .next (closeDrained s pctx)
/-- PEER_CLOSE_TIMEOUT: the wait of a close passed 10 ms: the context is made LOST, then closed (R324). -/
def execPeerCloseTimeout (pctx : Nat) (s : State) : Host.Outcome State Fault Refusal :=
  .next (if s.peerOp = .closing pctx then loseCtx s pctx Status.timeout.code else s)
/-- CTX_CLOSE. -/
def execCtxClose (pkt : Pkt) (s : State) : Host.Outcome State Fault Refusal := .next (ctxCloseIn s pkt)
/-- TAG_QUARANTINE_END: 1 s after a timeout released the tag (R325). -/
def execTagQuarantineEnd (tag : Nat) (s : State) : Host.Outcome State Fault Refusal :=
  .next (match Tbl.find s.tags tag with
    | some r => if r.quar then releaseTag s tag else s
    | none => s)

end Sys2Proof.Machine
end

