-- ==== Sys2Proof/Machine/Memory.lean ====
section
/-!
DEFINITION. Sys2Proof/Machine/Memory.lean: patrol scrub, stack loss, error injection, the host's window to HBM and its decoders (R284 to R287,
R293 to R295, R380, R382, R403).
-/
namespace Sys2Proof.Machine

/-! ### Patrol scrub (R284, R285) -/

/-- Words that the scrubber of a unit reads in one pass: units 0 to 11 are stacks, 16 + c the gather buffer of cluster c, 64 + l the store of
core l. -/
def scrubWords (unit : Nat) : Nat := if unit < 16 then 0x900000000 / 8 else if unit < 64 then 0x1800000 / 4 else 0x180000 / 4

/-- The device address of word i of a unit, in ascending stack-local address (R274). -/
def scrubAddr (s : State) (unit i : Nat) : Nat :=
  if unit < 16 then (8 * i / 256 * stackCount s + unit) * 256 + 8 * i % 256
  else if unit < 64 then gbufBase (unit - 16) + 4 * i
  else coreBase (unit - 64) + 4 * i

/-- The unit is there to scrub. -/
def scrubUnit (s : State) (unit : Nat) : Bool :=
  if unit < 16 then unit < stackCount s else if unit < 64 then unit < 48 else corePresent s (unit - 64)

/-- A stack's pass ends: when every stack has passed, SCRUB_PASS_CNT rises. -/
def scrubPassed (s : State) (unit : Nat) : State :=
  if 16 ≤ unit then s
  else
    let m := Nat.lor s.scrubDone (2 ^ unit)
    if popcount 16 m = stackCount s then { inc s .scrubPassCnt with scrubDone := 0 } else { s with scrubDone := m }

/-- What a stack does of itself to a burst that is read: an error corrected on the die is counted and otherwise invisible, one reported uncorrectable
makes every word of the burst uncorrectable (R279), and a parity error costs one retry (Table 10.1). -/
def hbmEvent (s : State) (w : Nat) : State :=
  let e := Config.hbmEvent s.freeCount
  let s := { s with freeCount := s.freeCount + 1 }
  if e = 1 then inc s .hbmOdeccCnt
  else if e = 3 then inc s .hbmParityRetryCnt
  else if e = 2 then { s with marks := (wordsOf (w / 32 * 32) 32).foldl (fun m v => Tbl.set m v ⟨2, false⟩) s.marks }
  else s

/-- PATROL_SCRUB: the next word of a unit is read. -/
def patrolScrub (s : State) (unit : Nat) : State :=
  if !scrubUnit s unit then s
  else
    let i := Tbl.getD s.scrubPos unit 0
    let s := if unit < 16 then hbmEvent s (scrubAddr s unit i) else s
    let s := (readWord s (scrubAddr s unit i) (if unit < 16 then 4 else 5)).1
    if i + 1 < scrubWords unit then { s with scrubPos := Tbl.put s.scrubPos unit (i + 1) 0 }
    else scrubPassed { s with scrubPos := Tbl.put s.scrubPos unit 0 0 } unit

/-! ### Stack loss (R287, R403) -/

/-- CTX_CLOSE with PEER_LOST sent on every pair context that is OPEN (R403). -/
def reportLost : List Nat → State → State
  | [], s => s
  | n :: t, s =>
    if rd s .jobSlotValid n = 1 ∧ rd s .pairState n ≠ 0 then
      match ctxTo s (rd s .jobSlotJobId n) (rd s .pairPartner n) with
      | some c => reportLost t (if rd s .ctxState c = ctxOpen then originate s (closePkt s c .peerLost) else s)
      | none => reportLost t s
    else reportLost t s

/-- The device reports itself lost to its partners. -/
def deviceLost (s : State) : State := reportLost (List.range 64) s

/-- STACK_LOST: the controller loses a stack at run time. -/
def stackLost (s : State) (stack : Nat) : State :=
  if stackCount s ≤ stack ∨ bit (rd s .stackFailMask) stack = true then s
  else deviceLost (wr s .stackFailMask 0 (setBits (rd s .stackFailMask) stack 1 1))

/-! ### Error injection (R295) -/

/-- The address names a word of an HBM, core store or gather buffer that can take an injection. -/
def injectable (s : State) (a : Nat) : Bool :=
  if a < hbmBytes s then a % 8 == 0
  else match coreOfAddr a with
    | some (l, o) => corePresent s l && o < 0x180000 && a % 4 == 0
    | none => match gbufOfAddr a with
      | some (_, o) => o < 0x1800000 && a % 4 == 0
      | none => false

/-- A write of word 0x050 of Table 10.5. -/
def injectWrite (s : State) (word : Nat) : State :=
  let s := wr s .injectDouble 0 (bits word 1 1)
  if bit word 0 && !modeNormal s && injectable s (rd s .memInjectAddr) then wr s .injectPending 0 1 else s

/-- An armed injection inside a range that a reset covers is disarmed. -/
def disarmIn (s : State) (p : Nat → Bool) : State := if rd s .injectPending = 1 ∧ p (rd s .memInjectAddr) = true then wr s .injectPending 0 0 else s

/-! ### The host's window (R293, R294, R380, R382) -/

/-- Where decoder n's device addresses begin. -/
def hdmStart (s : State) (n : Nat) : Nat :=
  match n, Tbl.find s.hdm 0, Tbl.find s.hdm n with
  | 0, some (_, _, skip, _), _ => skip
  | _, some (_, size0, skip0, _), some (_, _, skip, _) => skip0 + size0 + skip
  | _, _, _ => 0

/-- The device address of a host address, by the committed decoders. -/
def hdmAddr (s : State) (a : Nat) : Option Nat :=
  match [0, 1].find? (fun n => match Tbl.find s.hdm n with
      | some (base, size, _, _) => base ≤ a && a < base + size
      | none => false) with
  | some n => (Tbl.find s.hdm n).map (fun d => hdmStart s n + (a - d.1))
  | none => none

/-- The device address that a host access names: a BAR2 offset in PCIe mode, a decoded address in CXL mode (R365, R293). -/
def hostAddr (s : State) (a : Nat) (bar2 : Bool) : Option Nat := if bar2 then some a else hdmAddr s a

/-- The port is up in the mode that serves the access. -/
def hostPath (s : State) (bar2 : Bool) : Bool := rd s .linkWidth != 0 && rd s .cxlMode == b2n (!bar2)

/-- The access falls inside a HOST_VISIBLE region of a RUNNING partition that no reset holds (R293, Table 15.5). -/
def hostServed (s : State) (a n : Nat) : Bool :=
  s.bound.regions.any (fun r => r.hostVisible && r.base < 0x8000000000 && within a n r.base r.size && partServes s r.part)

/-- HDM_READ: an access inside one 64-byte line. -/
def hdmRead (s : State) (a n : Nat) (bar2 : Bool) : State :=
  if !hostPath s bar2 then s
  else match hostAddr s a bar2 with
    | some x =>
      if !hostServed s x n then emit (inc s .hdmDenyCnt) (.hostData (some (zeros n)))
      else match readMem s x n 7 with
        | (s, .ok b) => emit s (.hostData (some b))
        | (s, .error _) => emit s (.hostData none)
    | none => emit (inc s .hdmDenyCnt) (.hostData (some (zeros n)))

/-- One word of a host write, its enabled bytes merged; part of an uncorrectable word is dropped and recorded (R282, R293). -/
def mergeWord (s : State) (w a : Nat) (d : List Byte) (en : List Bool) : State :=
  let on := fun (i : Nat) => a ≤ w + i && en.getD (w + i - a) false
  let is := List.range (wordBytes w)
  if !is.any on then s
  else if (markOf s w).err = 2 ∧ is.all on = false then recordUe s w 8
  else (writeWord s w w (is.map (fun i => if on i then d.getD (w + i - a) 0 else memByte s (w + i)))).1

/-- The words of a host write in ascending order. -/
def mergeWords (a : Nat) (d : List Byte) (en : List Bool) : List Nat → State → State
  | [], s => s
  | w :: t, s => mergeWords a d en t (mergeWord s w a d en)

/-- HDM_WRITE: an access inside one 64-byte line. -/
def hdmWrite (s : State) (a : Nat) (d : List Byte) (en : List Bool) (poison bar2 : Bool) : State :=
  if !hostPath s bar2 then s
  else match hostAddr s a bar2 with
    | some x =>
      if poison then
        let s := inc (if bar2 then aer s 12 else s) .hdmPoisonWriteCnt
        if hostServed s x d.length then s else inc s .hdmDenyCnt
      else if !hostServed s x d.length then inc s .hdmDenyCnt
      else mergeWords x d en (wordsOf x d.length) (dropPrefs s x d.length)
    | none => inc s .hdmDenyCnt

/-- The commit of a decoder: its checks; a failure leaves Error Not Committed (R380). -/
def hdmTry (s : State) (n base size ways skip : Nat) (lock : Bool) : State :=
    let others := [0, 1].filterMap (fun m => if m = n then none else Tbl.find s.hdm m)
    let start := if n = 0 then skip else ((Tbl.find s.hdm 0).map (fun d => d.2.2.1 + d.2.1)).getD 0 + skip
    let bad := ways != 1 || size == 0 || base % 2 ^ 28 != 0 || size % 2 ^ 28 != 0 || hbmBytes s < start + size ||
      others.any (fun d => overlaps base size d.1 d.2.1) || (n == 1 && (Tbl.find s.hdm 0).isNone)
    if bad then { s with hdmError := Tbl.set s.hdmError n (), hdm := Tbl.del s.hdm n }
    else { s with hdmError := Tbl.del s.hdmError n, hdm := Tbl.set s.hdm n (base, size, skip, lock) }

/-- The decoder is committed and locked. -/
def hdmLocked (s : State) (n : Nat) : Bool := ((Tbl.find s.hdm n).map (fun d => d.2.2.2)).getD false

/-! ### Component registers (R368, R380, R385; their layout is the CXL 2.0 family's, log entry 30) -/

/-- The reset values of the component registers that software writes, by dword: the masks and severities of the RAS capability. -/
def compReset (d : Nat) : Nat := if d = 0x441 ∨ d = 0x442 then 0x1CFFF else if d = 0x444 then 0x7F else 0

/-- A component register that software writes. -/
def compReg (s : State) (d : Nat) : Nat := Tbl.getD s.comp d (compReset d)

/-- A component register replaced. -/
def setComp (s : State) (d v : Nat) : State := { s with comp := Tbl.put s.comp d v (compReset d) }

/-- The interleave ways that an IW code names; 0 for a reserved code. -/
def iwWays (c : Nat) : Nat := if c ≤ 4 then 2 ^ c else if c = 8 then 3 else if c = 9 then 6 else if c = 10 then 12 else 0

/-- The IW code of a number of ways. -/
def iwCode (ways : Nat) : Nat := ((List.range 16).find? (fun c => iwWays c == ways && (ways != 0 || c == 15))).getD 15

/-- The first dword of decoder n. -/
def decoderReg (n : Nat) : Nat := 0x484 + 8 * n

/-- A decoder's base, size, control with Commit set, and DPA skip written. -/
def setDecoder (s : State) (n base size ways skip : Nat) (lock : Bool) : State :=
  let d := decoderReg n
  let hi := fun (v : Nat) => v / 2 ^ 32 % 2 ^ 32
  let lo := fun (v : Nat) => v % 2 ^ 32 / 2 ^ 28 * 2 ^ 28
  [(d, lo base), (d + 1, hi base), (d + 2, lo size), (d + 3, hi size), (d + 4, iwCode ways * 16 + b2n lock * 256 + 512), (d + 5, lo skip),
    (d + 6, hi skip)].foldl (fun s x => setComp s x.1 x.2) s

/-- HDM_DECODER_COMMIT: the decoder's registers written and its commit tried. A locked decoder does not change (R380). -/
def hdmCommit (s : State) (n base size ways skip : Nat) (lock : Bool) : State :=
  if 2 ≤ n ∨ hdmLocked s n = true then s else hdmTry (setDecoder s n base size ways skip lock) n base size ways skip lock

/-- A write of a decoder's control register: Commit set tries to commit what the registers hold, Commit cleared ends the commit of the decoder, and of
decoder 1 with that of decoder 0, where whose range ends its own begins. -/
def decoderControl (s : State) (n v : Nat) : State :=
  let d := decoderReg n
  let was := bit (compReg s (d + 4)) 9
  let s := setComp s (d + 4) (v % 2 ^ 10)
  if bit v 9 then
    if was then s
    else hdmTry s n (compReg s d + compReg s (d + 1) * 2 ^ 32) (compReg s (d + 2) + compReg s (d + 3) * 2 ^ 32) (iwWays (bits v 7 4))
      (compReg s (d + 5) + compReg s (d + 6) * 2 ^ 32) (bit v 8)
  else if !was then s
  else if n = 0 then { s with hdm := [], hdmError := Tbl.del s.hdmError 0 }
  else { s with hdm := Tbl.del s.hdm n, hdmError := Tbl.del s.hdmError n }

/-- A component register read, by dword: the capability array at 0x1000, the RAS capability at 0x1100 and the HDM decoder capability at 0x1200, with
Committed and Error Not Committed in a decoder's control; every other dword reads 0. -/
def compRead (s : State) (d : Nat) : Nat :=
  if d = 0x400 then 0x02110001 else if d = 0x401 then 0x10020002 else if d = 0x402 then 0x20010005
  else if d = 0x480 then 1
  else if d = 0x488 ∨ d = 0x490 then
    let n := (d - 0x488) / 8
    compReg s d + b2n (Tbl.find s.hdm n).isSome * 2 ^ 10 + b2n (Tbl.find s.hdmError n).isSome * 2 ^ 11
  else compReg s d

/-- A component register written, by dword: status bits are cleared by writing 1, masks, severities and the decoder enable hold what is written, and
the registers of a locked decoder do not change. -/
def compWrite (s : State) (d v : Nat) : State :=
  if d = 0x440 ∨ d = 0x443 then setComp s d (Nat.xor (compReg s d) (Nat.land (compReg s d) v))
  else if d = 0x441 ∨ d = 0x442 then setComp s d (Nat.land v 0x1CFFF)
  else if d = 0x444 then setComp s d (Nat.land v 0x7F)
  else if d = 0x481 then setComp s d (Nat.land v 2)
  else if d < 0x484 ∨ 0x494 ≤ d ∨ hdmLocked s ((d - 0x484) / 8) = true then s
  else
    let k := (d - 0x484) % 8
    if k = 4 then decoderControl s ((d - 0x484) / 8) v
    else if k = 0 ∨ k = 2 ∨ k = 5 then setComp s d (v / 2 ^ 28 * 2 ^ 28)
    else if k = 7 then s
    else setComp s d v

/-! ### Meanings -/

/-- PATROL_SCRUB. -/
def execPatrolScrub (unit : Nat) (s : State) : Host.Outcome State Fault Refusal := .next (patrolScrub s unit)
/-- STACK_LOST. -/
def execStackLost (stack : Nat) (s : State) : Host.Outcome State Fault Refusal := .next (stackLost s stack)
/-- HDM_READ. -/
def execHdmRead (addr len : Nat) (bar2 : Bool) (s : State) : Host.Outcome State Fault Refusal := .next (hdmRead s addr len bar2)
/-- HDM_WRITE. -/
def execHdmWrite (addr : Nat) (data : List Byte) (enables : List Bool) (poison bar2 : Bool) (s : State) : Host.Outcome State Fault Refusal :=
  .next (hdmWrite s addr data enables poison bar2)
/-- INJECT_ARM: a write of 1 to INJECT_ARM. -/
def execInjectArm (word : Nat) (s : State) : Host.Outcome State Fault Refusal := .next (injectWrite s (setBits word 0 1 1))
/-- HDM_DECODER_COMMIT. -/
def execHdmDecoderCommit (decoder base size ways skip : Nat) (lock : Bool) (s : State) : Host.Outcome State Fault Refusal :=
  .next (hdmCommit s decoder base size ways skip lock)

end Sys2Proof.Machine
end

