-- ==== Sys2Proof/Machine/Host.lean ====
section
/-!
DEFINITION. Sys2Proof/Machine/Host.lean: host queues and their doorbells, interrupts, the event ring and the CXL link (R364 to R378, R386, R389,
R453).
-/
namespace Sys2Proof.Machine

/-! ### Queues (R370 to R376) -/

/-- The ring's entries, and its bytes. -/
def queueDepth (s : State) (q : Nat) : Nat := 2 ^ rd s .qDepthLog2 q
/-- The bytes of an entry: 64 for submission, 16 for records (R370). -/
def entryBytes (kind : Nat) : Nat := if kind = 1 ∨ kind = 5 then 64 else 16

/-- The KIND 0x1 queue that context 1 of a core fetches: its IDLE_FILL_JOB's with the lowest QUEUE_ID. -/
def idleQueue (s : State) (l : Nat) : Option Nat :=
  match ctxJob s l 1 with
  | none => none
  | some j => (s.bound.queues.filter (fun q => q.job == j && q.kind == 1 && q.owner == l)).foldl (fun a q => match a with
    | none => some q.id
    | some m => some (min m q.id)) none

/-- The queue's entries are never fetched (R372). -/
def neverFetched (s : State) (b : QueueBind) : Bool := b.kind == 1 && idleQueue s b.owner != some b.id

/-- The binding of queue q, while its partition is RUNNING (R371, R375). -/
def liveQueue (s : State) (q : Nat) : Option QueueBind := (queueOf s q).filter (fun b => partState s b.part == 2)

/-- A write of 1 to ENABLE (R371). -/
def enableQueue (s : State) (q : Nat) : State :=
  match liveQueue s q with
  | none => if (s.bound.queues.any (fun b => b.id == q && (b.kind == 3 || b.kind == 4))) then s else wr s .qErrStatus q Status.format.code
  | some b =>
    if b.kind = 3 ∨ b.kind = 4 ∨ rd s .qEnable q = 1 then s
    else
      let a := rd s .qRingAddr q
      if a % (entryBytes b.kind * queueDepth s q) ≠ 0 ∨ a % 4096 ≠ 0 then wr s .qErrStatus q Status.format.code
      else wrs s [(.qEnable, q, 1), (.qError, q, 0), (.qDevIndex, q, 0), (.qHostIndex, q, 0), (.qDevPhase, q, 1)]

/-- Tiles of context 1 that wait for room in queue q complete while they can. -/
def releaseCtx1 (q : Nat) : List Nat → State → State
  | [], s => s
  | l :: t, s =>
    if ((ctxJob s l 1).bind (ctx1Queue s)) = some q then releaseCtx1 q t (releaseHeld l 1 (coreSt s l).c1.flight s) else releaseCtx1 q t s

/-- ENABLE cleared: records that a unit holds for the queue are discarded, each counted, and the unit goes on (R371). -/
def disableQueue (s : State) (q : Nat) : State :=
  if rd s .qEnable q = 0 then s
  else
    let mine := s.heldRecs.filter (fun h => h.queue == q)
    let s := { inc (wr s .qEnable q 0) .cqDropCnt 0 mine.length with heldRecs := s.heldRecs.filter (fun h => h.queue != q) }
    let s := mine.foldl (fun s h => giveSig s h.sig) s
    releaseCtx1 q (s.cores.map (·.1)) s

/-- A doorbell that is ignored (R375). -/
def badDoorbell (s : State) (q v : Nat) : State := wrs (inc s .dbInvalidCnt) [(.lastBadDbQueue, 0, q), (.lastBadDbValue, 0, v)]

/-- A doorbell write (R372, R373, R375). -/
def doorbell (s : State) (q v : Nat) : State :=
  match liveQueue s q with
  | none => badDoorbell s q v
  | some b =>
    if b.kind = 3 ∨ b.kind = 4 ∨ neverFetched s b = true ∨ rd s .qEnable q = 0 ∨ 2 ^ 15 ≤ v ∨ queueDepth s q ≤ v then badDoorbell s q v
    else
      let s := wr s .qHostIndex q v
      if b.kind = 1 ∨ b.kind = 5 then s
      else
        let s := drainRecs q s.heldRecs.length s
        releaseCtx1 q (s.cores.map (·.1)) s

/-- A ring fetch fails (R376). -/
def fetchFailed (s : State) (q : Nat) (st : Status) : State :=
  let s := inc (wrs s [(.qError, q, 1), (.qErrStatus, q, st.code)]) .ringFetchErrCnt
  postEvent s 0x000A st.code (((queueOf s q).map (·.job)).getD 0) (devId s) q 0

/-- An entry of queue q waits in its ring and may be fetched: the ring is on, has not failed, and the consumer's side has room (R326, R372).
Context 1 fetches nothing while its core or cluster is reset (R449). -/
def fetchDue (s : State) (q : Nat) : Option QueueBind :=
  match queueOf s q with
  | none => none
  | some b =>
    let room := if b.kind = 5 then !queueFull s q
      else b.kind == 1 && !neverFetched s b && (coreSt s b.owner).c1.queue.length < 64 && !(partServes s b.part && resetting s b.owner)
    if rd s .qEnable q = 1 ∧ rd s .qError q = 0 ∧ rd s .qDevIndex q ≠ rd s .qHostIndex q ∧ room = true then some b else none

/-- RING_FETCH: what the host's memory answers for the entry at DEV_INDEX. -/
def ringFetch (s : State) (q : Nat) (r : RingData) : State :=
  match fetchDue s q with
  | none => s
  | some b =>
    match r with
    | .poison => fetchFailed (aer s 12) q .uncorrectable
    | .error => fetchFailed s q .uncorrectable
    | .entry d =>
      let s := wr s .qDevIndex q ((rd s .qDevIndex q + 1) % queueDepth s q)
      if b.kind = 5 then setFifo s q (fifoOf s q ++ [fit d 64]) else issueTile s b.owner 1 (fit d 64)

/-! ### Interrupts (R374) -/

/-- INT_HOLDOFF µs after a message: one message covers the records written since. -/
def holdoffEnd (s : State) (v : Nat) : State :=
  match Tbl.find s.holdoff v with
  | none => s
  | some false => { s with holdoff := Tbl.del s.holdoff v }
  | some true =>
    let s := sendMsi s v
    { s with holdoff := if rd s .intHoldoff = 0 then Tbl.del s.holdoff v else Tbl.set s.holdoff v false }

/-- A dword of the MSI-X table written; a vector unmasked with its pending bit set sends its message (R374, PCIe). -/
def msixWrite (s : State) (i v : Nat) : State :=
  let s := { s with msixTable := Tbl.put s.msixTable i (if i % 4 = 0 then v / 4 * 4 else if i % 4 = 3 then v % 2 else v) (if i % 4 = 3 then 1 else 0) }
  let n := i / 4
  if i % 4 = 3 ∧ v % 2 = 0 ∧ (Tbl.find s.msixPend n).isSome ∧ s.cfg.msixEnable = true ∧ s.cfg.msixMask = false then sendMsi { s with msixPend := Tbl.del s.msixPend n } n else s

/-! ### The event ring (R378, R389, R453) -/

/-- BRINGUP_REPORT (Table 15.8). -/
def bringupBytes (s : State) : List Byte :=
  let ready := rd s .bringupState == 1
  eventBytes s 0x0202 (if ready then 0 else Status.degradedRefused.code) 0 (devId s)
    (rd s .logicalCoreCount + rd s .healthyPhysical * 2 ^ 16) (rd s .stageUs 9)

/-- A write of word 0x010 of Table 13.9. -/
def evqControl (s : State) (word : Nat) : State :=
  let on := rd s .evqEnable == 1
  let lg := bits word 7 4
  let s := wr s .evqVector 0 (bits word 18 8)
  let s := if !on && 6 ≤ lg then wr s .evqLog2 0 lg else s
  if bits word 0 0 = 0 then wr s .evqEnable 0 0
  else if on then s
  else
    let a := rd s .evqAddr
    if a % (32 * 2 ^ rd s .evqLog2) ≠ 0 ∨ a % 4096 ≠ 0 then s
    else
      let s := wrs s [(.evqEnable, 0, 1), (.evqTail, 0, 0), (.evqHead, 0, 0), (.evqPhase, 0, 1)]
      if s.evqReport then
        let s := writeEvent { s with evqReport := false } (bringupBytes s)
        if s.evqLost = 0 then s else { writeEvent s (eventBytes s 0x000B 0 0 (devId s) s.evqLost 0) with evqLost := 0 }
      else s

/-- EVQ_HEAD written (R378, R389). -/
def evqHeadWrite (s : State) (v : Nat) : State := if 2 ^ rd s .evqLog2 ≤ v then inc s .dbInvalidCnt else wr s .evqHead 0 v

/-! ### The CXL link (R365, R366) -/

/-- The rates of Table 13.1, by PCIe speed encoding: 8, 16 and 32 GT/s in CXL mode; also 2.5 and 5 GT/s in PCIe mode. -/
def rateOk (cxl : Bool) (speed : Nat) : Bool := decide ((if cxl then 3 else 1) ≤ speed) && decide (speed ≤ 5)

/-- The link comes up, or retrains to another width, rate or mode: from stage 6 on and while PERST_N is high (R430). As it comes up, software enumerates
the device, which enables MSI-X and leaves the function unmasked (R388, log entry 30). -/
def cxlLinkUp (s : State) (cxl : Bool) (width speed : Nat) : State :=
  if !(width == 4 || width == 8 || width == 16) || !rateOk cxl speed || !s.perstN || !s.pwrGood || s.devReset.isSome || rd s .bringupStage < 6 then s
  else
    let same := rd s .linkWidth == width && rd s .linkSpeed == speed && rd s .cxlMode == b2n cxl
    let s := if rd s .linkWidth = 0 then { s with cfg := { s.cfg with msixEnable := true, msixMask := false } } else s
    let s := wrs s [(.cxlMode, 0, b2n cxl), (.linkWidth, 0, width), (.linkSpeed, 0, speed)]
    if same then s
    else
      let w := width + speed * 32 + b2n cxl * 512
      let s := stoneWrite s 0x0010 [(2, w)]
      if width = 16 ∧ speed = 5 ∧ cxl = true then s else postEvent s 0x000C 0 0 (devId s) w 0

/-! ### Configuration space (R367) -/

/-- What Tables 13.2 and 13.3 hold: the header, the capabilities (PCI Express 0x10, MSI-X 0x11 and its vectors, power management 0x01, in state D0), the
extended capabilities (AER 0x1, serial number 0x3, DOE 0x2E twice, DVSECs 0x23), the advertised completion timeout ranges (R386), the DVSEC for CXL
devices (Cache_Capable, IO_Capable, Mem_Capable, HDM_Count, CXL Reset Capable, Viral Capable, Range 1 size), the protocols of the Flex Bus Port, and
the BAR, block and offset of the Register Locator's entry. -/
structure PciHeader where
  vendor : Nat
  device : Nat
  revision : Nat
  classCode : Nat
  bar0Bytes : Nat
  bar2Bytes : Nat
  vectors : Nat
  serial : Nat
  otherBars : Nat
  caps : List Nat
  extCaps : List Nat
  msixTable : Nat
  msixPba : Nat
  powerState : Nat
  timeoutRanges : List Char
  dvsecs : List Nat
  cacheCapable : Bool
  ioCapable : Bool
  memCapable : Bool
  hdmCount : Nat
  rangeBytes : Nat
  cxlReset : Bool
  viral : Bool
  flexBus : List Bool
  locator : Nat × Nat × Nat
  deriving DecidableEq, Repr

/-- What configuration space holds that no write changes, as the device and its link give it (R364, R367). No command of the table reads or writes it: a
write that requests D3hot, were there one, is ignored and the state stays D0. What changes is in State.cfg. -/
def pciHeader (s : State) : PciHeader :=
  let cxl := rd s .cxlMode == 1
  { vendor := 0x1D9A, device := 0x5900 + s.variant, revision := s.stepping, classCode := 0x120000
    bar0Bytes := 64 * 2 ^ 20, bar2Bytes := if cxl then 0 else 512 * 2 ^ 30, vectors := 2048, serial := s.serial, otherBars := 0
    caps := [0x10, 0x11, 0x01], extCaps := [0x1, 0x3, 0x2E, 0x2E, 0x23, 0x23, 0x23], msixTable := 0x3030000, msixPba := 0x3038000
    powerState := 0, timeoutRanges := ['B', 'C'], dvsecs := [0, 7, 8], cacheCapable := true, ioCapable := true, memCapable := true
    hdmCount := 1, rangeBytes := hbmBytes s, cxlReset := false, viral := false, flexBus := [true, true, true], locator := (0, 1, 0x3010000) }

/-! ### Meanings -/

/-- QUEUE_ENABLE. -/
def execQueueEnable (queue : Nat) (s : State) : Host.Outcome State Fault Refusal := .next (enableQueue s queue)
/-- QUEUE_DISABLE. -/
def execQueueDisable (queue : Nat) (s : State) : Host.Outcome State Fault Refusal := .next (disableQueue s queue)
/-- SUBMISSION_DOORBELL. -/
def execSubmissionDoorbell (queue value : Nat) (s : State) : Host.Outcome State Fault Refusal := .next (doorbell s queue value)
/-- COMPLETION_DOORBELL. -/
def execCompletionDoorbell (queue value : Nat) (s : State) : Host.Outcome State Fault Refusal := .next (doorbell s queue value)
/-- RING_FETCH. -/
def execRingFetch (queue : Nat) (entry : RingData) (s : State) : Host.Outcome State Fault Refusal := .next (ringFetch s queue entry)
/-- INT_HOLDOFF_EXPIRY. -/
def execIntHoldoffExpiry (vector : Nat) (s : State) : Host.Outcome State Fault Refusal := .next (holdoffEnd s vector)
/-- EVQ_ENABLE: a write of 1 to EVQ_ENABLE. -/
def execEvqEnable (word : Nat) (s : State) : Host.Outcome State Fault Refusal := .next (evqControl s (setBits word 0 1 1))
/-- EVQ_HEAD_WRITE. -/
def execEvqHeadWrite (value : Nat) (s : State) : Host.Outcome State Fault Refusal := .next (evqHeadWrite s value)
/-- CXL_LINK_UP. -/
def execCxlLinkUp (cxl : Bool) (width speed : Nat) (s : State) : Host.Outcome State Fault Refusal := .next (cxlLinkUp s cxl width speed)

end Sys2Proof.Machine
end

