-- ==== Sys2Proof/Machine/Stone.lean ====
section
/-!
DEFINITION. Sys2Proof/Machine/Stone.lean: Stone's records, its scan, its state records and its reads (R469 to R477).
-/
namespace Sys2Proof.Machine

/-- The first-fault section of a life-cycle state: its first position and its size (Table 16.10). -/
def ffSection : Nat → Nat × Nat
  | 0 => (0, 256)
  | 1 => (256, 1024)
  | 2 => (1280, 2048)
  | 3 => (3328, 512)
  | _ => (3840, 256)

/-- The first position of the ring, and the number of positions of Stone. -/
def ringBase : Nat := 4096
/-- Positions of Stone (R469). -/
def stonePositions : Nat := 65536

/-- The 256 bytes at a position: all ones where none was written (R469). -/
def stoneAt (s : State) (i : Nat) : List Byte := Tbl.getD s.stone i (List.replicate 256 0xFF)

/-- A position that was written. -/
def stoneWritten (s : State) (i : Nat) : Bool := (Tbl.find s.stone i).isSome

/-- A record's SEQ and KIND, and its payload area (Table 16.11). -/
def recSeq (b : List Byte) : Nat := fld b 0 4
/-- KIND. -/
def recKind (b : List Byte) : Nat := fld b 4 2
/-- A record is valid (R471). -/
def recValid (b : List Byte) : Bool := recSeq b != 0xFFFFFFFF && fld b 0xFC 4 == crc32c (b.take 0xFC)

/-- The record of Table 16.11. -/
def recBytes (s : State) (seq : Nat) (r : StoneRec) (first copy : Bool) : List Byte :=
  let b := toLE 4 seq ++ toLE 2 r.kind ++ toLE 1 (lcState s) ++ toLE 1 (b2n first + 2 * b2n copy) ++ toLE 8 r.ns ++ toLE 4 s.bootCount ++
    toLE 2 ((deviceId s).getD 0) ++ toLE 2 (min r.payload.length 228) ++ fit r.payload 228
  b ++ toLE 4 (crc32c b)

/-- The SEQ that the next record takes (R472). -/
def nextSeq (s : State) : Nat := (rd s .stoneHeadSeq + 1) % 2 ^ 32

/-- A record written at a position. -/
def writePos (s : State) (i : Nat) (r : StoneRec) (first copy : Bool) : State :=
  let q := if nextSeq s = 0xFFFFFFFF then 0 else nextSeq s
  wr { s with stone := Tbl.set s.stone i (recBytes s q r first copy) } .stoneHeadSeq 0 q

/-- A record written in the ring, and the index moved on (R472). -/
def writeRing (s : State) (r : StoneRec) (first copy : Bool) : State :=
  let i := rd s .stoneWrIndex
  let s := writePos s i r first copy
  wr { s with setAge := s.setAge.map (fun e => (e.1, e.2 + 1)) } .stoneWrIndex 0 (if i + 1 = stonePositions then ringBase else i + 1)

/-- Positions of the current state's first-fault section not yet written, ascending (R473). -/
def ffFree (s : State) : List Nat :=
  let x := ffSection (lcState s)
  ((List.range x.2).map (fun i => x.1 + i)).filter (fun i => !stoneWritten s i)

/-- STONE_FF_USED and STONE_FF_FULL follow the section. -/
def setFf (s : State) : State :=
  let n := (ffSection (lcState s)).2 - (ffFree s).length
  wrs s [(.stoneFfUsed, 0, n), (.stoneFfFull, 0, b2n (n == (ffSection (lcState s)).2))]

/-- One queued record written: a first-fault record twice, in the section of the state and in the ring; once, in the ring, when the section is full
(R473). -/
def writeStone (s : State) (r : StoneRec) : State :=
  if r.first then
    match ffFree s with
    | i :: _ => writeRing (setFf (writePos s i r true false)) r true true
    | [] => writeRing (setFf s) r true false
  else writeRing s r false false

/-! ### State records (R474) -/

/-- Physical core b is in the defect list. -/
def defective (s : State) (b : Nat) : Bool := bit (rd s .defect (b / 32)) (b % 32)

/-- The payload of a DEFECT_LIST record. -/
def defectPayload (s : State) : List Byte := (List.range 17).flatMap (fun i => toLE 4 (rd s .defect i))

/-- Entry n of the retired-page table as RETIRED_PAGES holds it. -/
def retiredEntry (s : State) (n : Nat) : Nat :=
  if n < 1024 then rd s .retiredPage n % 2 ^ 31 + 2 ^ 31 * rd s .retiredValid n else 0

/-- The payload of part p of the retired-page table. -/
def retiredPayload (s : State) (p : Nat) : List Byte :=
  let es := (List.range 56).map (fun i => retiredEntry s (56 * p + i))
  toLE 2 p ++ toLE 2 (es.filter (fun e => 2 ^ 31 ≤ e)).length ++ es.flatMap (toLE 4)

/-- The records of a set. -/
def setOf (s : State) (kind : Nat) : List StoneRec :=
  if kind = 0x0100 then [⟨0x0100, false, nowNs s, defectPayload s⟩]
  else (List.range 19).map (fun p => ⟨0x0101, false, nowNs s, retiredPayload s p⟩)

/-- A set falls due. -/
def setChanged (s : State) (kind : Nat) : State := { s with setDue := s.setDue.filter (· != kind) ++ [kind] }

/-- The sets that 30,720 ring positions make due again. -/
def ageSets (s : State) : State :=
  let old := (s.setAge.filter (fun e => 30720 ≤ e.2)).map (·.1)
  old.foldl setChanged { s with setAge := s.setAge.map (fun e => (e.1, if 30720 ≤ e.2 then 0 else e.2)) }

/-- Pip writes one record (R471): what was lost first, then a set that is due, then the oldest of the queue. -/
def stoneStep (s : State) : State :=
  if s.boot.stone = false then s
  else if s.stoneLost ≠ 0 then
    let n := s.stoneLost
    postEvent (writeRing { s with stoneLost := 0 } ⟨0x0018, false, nowNs s, toLE 4 n⟩ false false) 0x0304 0 0 (devId s) n 0
  else match s.setRecs, s.setDue with
    | r :: t, _ => ageSets (writeRing { s with setRecs := t } r false false)
    | [], k :: d => 
      match setOf s k with
      | r :: t => writeRing { s with setDue := d, setRecs := t, setAge := Tbl.set s.setAge k 0 } r false false
      | [] => { s with setDue := d }
    | [], [] =>
      match s.stoneQ with
      | r :: t => ageSets (writeStone { s with stoneQ := t } r)
      | [] => s

/-- Something waits to be written. -/
def stonePending (s : State) : Bool := s.stoneLost != 0 || !s.setRecs.isEmpty || !s.setDue.isEmpty || !s.stoneQ.isEmpty

/-- Everything that waits written, in at most n records (R476). -/
def stoneFlush : Nat → State → State
  | 0, s => s
  | n + 1, s => if stonePending s then stoneFlush n (stoneStep s) else s

/-- What waits to be written lost (R476). -/
def stoneLose (s : State) : State := { s with stoneQ := [], stoneLost := 0, setDue := [], setRecs := [] }

/-! ### The scan of stage 2 (R472, R474) -/

/-- The valid records as (position, bytes). -/
def validRecs (s : State) : List (Nat × List Byte) := s.stone.filter (fun e => recValid e.2)

/-- The record with the highest SEQ. -/
def newest (l : List (Nat × List Byte)) : Option (Nat × List Byte) :=
  l.foldl (fun a e => match a with
    | none => some e
    | some b => if recSeq b.2 < recSeq e.2 then some e else some b) none

/-- The registers that the scan sets. -/
def stoneScan (s : State) : State :=
  let v := validRecs s
  let head := ((newest v).map (fun e => recSeq e.2)).getD 0xFFFFFFFF
  let wi := match newest (v.filter (fun e => ringBase ≤ e.1)) with
    | some e => if e.1 + 1 = stonePositions then ringBase else e.1 + 1
    | none => ringBase
  setFf (wrs s [(.stoneHeadSeq, 0, head), (.stoneWrIndex, 0, wi), (.stoneTornCnt, 0, s.stone.length - v.length)])

/-- The newest valid defect list: a word per 32 physical cores (R474). -/
def loadDefects (s : State) : List Nat :=
  match newest ((validRecs s).filter (fun e => recKind e.2 == 0x0100)) with
  | some e => (List.range 17).map (fun i => fld e.2 (0x18 + 4 * i) 4)
  | none => List.replicate 17 0

/-- The parts of a retired-page set that begins at SEQ q: every part valid, with SEQ q to q + 18. -/
def retiredSet (v : List (Nat × List Byte)) (q : Nat) : Option (List (List Byte)) :=
  let ps := (List.range 19).filterMap (fun p => (v.find? (fun e => recSeq e.2 == q + p && fld e.2 0x18 2 == p)).map (·.2))
  if ps.length = 19 then some ps else none

/-- The newest valid retired-page table: its entries (R474). -/
def loadRetired (s : State) : List Nat :=
  let v := (validRecs s).filter (fun e => recKind e.2 == 0x0101)
  let starts := v.filter (fun e => fld e.2 0x18 2 == 0 && (retiredSet v (recSeq e.2)).isSome)
  match (newest starts).bind (fun e => retiredSet v (recSeq e.2)) with
  | some ps => (ps.flatMap (fun b => (List.range 56).map (fun i => fld b (0x1C + 4 * i) 4))).take 1024
  | none => []

/-- HEALTHY_PHYSICAL follows the defect list. -/
def setHealthy (s : State) : State := wr s .healthyPhysical 0 ((List.range 544).filter (fun b => !defective s b)).length

/-- The DEFECT words set. -/
def setDefects (s : State) (l : List Nat) : State :=
  setHealthy (wrs s ((List.range 17).map (fun i => (.defect, i, l.getD i 0))))

/-- The pages that PAGE_RETIRED records name: those whose payload is a page and nothing more (R286). -/
def retiredPages (s : State) : List Nat :=
  ((validRecs s).filter (fun e => recKind e.2 == 0x000A && fld e.2 0x1C 12 == 0)).map (fun e => fld e.2 0x18 4)

/-- The retired-page registers set from a table's entries; RETIRE_OVERFLOW is set when the table is full and Stone names a page that it lacks (R286, R296). -/
def setRetired (s : State) (l : List Nat) : State :=
  let es := l.filter (fun e => 2 ^ 31 ≤ e)
  let s := wr s .retireOverflow 0 (b2n (es.length == 1024 && (retiredPages s).any (fun p => !es.contains (p + 2 ^ 31))))
  let s := wrs s (((List.range 1024).filter (fun n => n < l.length)).flatMap (fun n =>
    [(Reg.retiredPage, n, l.getD n 0 % 2 ^ 31), (Reg.retiredValid, n, l.getD n 0 / 2 ^ 31)]))
  wr s .retiredCount 0 es.length

/-- A physical core added to the defect list (R436). -/
def addDefect (s : State) (b : Nat) : State :=
  if 544 ≤ b ∨ defective s b = true then s
  else setChanged (setHealthy (wr s .defect (b / 32) (setBits (rd s .defect (b / 32)) (b % 32) 1 1))) 0x0100

/-- The 17 cores of a cluster added (R436). -/
def addCluster (s : State) (c : Nat) : State := (List.range 17).foldl (fun s i => addDefect s (17 * c + i)) s

/-! ### Reads (R477) -/

/-- STONE_RD_INDEX written: STONE_RD_BUF shows that position from then on. -/
def stoneRdIndex (s : State) (i : Nat) : State := wrs { s with stoneBuf := stoneAt s i } [(.stoneRdIndex, 0, i), (.stoneRdValid, 0, 1)]

/-- The response of STONE_INFO (Table 16.13), packed in the order listed. -/
def stoneInfoBytes (s : State) : List Byte :=
  let used := fun (k : Nat) => let x := ffSection k
    ((List.range x.2).filter (fun i => stoneWritten s (x.1 + i))).length
  toLE 2 (rd s .stoneWrIndex) ++ toLE 4 (rd s .stoneHeadSeq) ++ [0, 1, 2, 3, 4].flatMap (fun k => toLE 2 (used k)) ++ toLE 4 (rd s .stoneDropCnt)

/-- STONE_RECORD_WRITE. -/
def execStoneRecordWrite (s : State) : Host.Outcome State Fault Refusal := .next (stoneStep s)
/-- STONE_RD_INDEX_WRITE. -/
def execStoneRdIndexWrite (index : Nat) (s : State) : Host.Outcome State Fault Refusal := .next (stoneRdIndex s index)

end Sys2Proof.Machine
end

