-- ==== Sys2Proof/Machine/Boot.lean ====
section
/-!
DEFINITION. Sys2Proof/Machine/Boot.lean: the fuses, the firmware in flash, the device identity, and the stages of bring-up (R429 to R439, R455 to
R462, R465, R472, R486).
-/
namespace Sys2Proof.Machine

/-! ### Fuses and flash (R455 to R460) -/

/-- The bytes of an ASCII string. -/
def ascii (t : String) : List Byte := t.toList.map (fun c => BitVec.ofNat 8 c.toNat)

/-- FW_MIN_SVN: the number of blown thermometer bits (Table 16.3). -/
def fwMinSvn (f : Fuses) : Nat := popcount 63 f.minSvn

/-- n bytes of the flash from an offset; erased bytes read all ones. -/
def flashBytes (s : State) (off n : Nat) : List Byte := (List.range n).map (fun i => Tbl.getD s.flash (off + i) 0xFF)

/-- Bytes written to the flash. -/
def putFlash (f : Tbl Byte) (off : Nat) : List Byte → Tbl Byte
  | [] => f
  | b :: t => putFlash (Tbl.put f off b 0xFF) (off + 1) t

/-- The bytes of a firmware slot: 8 MiB (Table 16.2). -/
def slotBytes : Nat := 0x800000
/-- Where slot A (0) or B (1) begins. -/
def slotBase (slot : Nat) : Nat := slot * slotBytes

/-- VERSION, SVN and PKG_LEN of a package. -/
def pkgVersion (p : List Byte) : Nat := fld p 4 4
/-- SVN. -/
def pkgSvn (p : List Byte) : Nat := fld p 8 4
/-- PKG_LEN. -/
def pkgLen (p : List Byte) : Nat := fld p 0xC 4
/-- The Pip section. -/
def pkgPip (p : List Byte) : List Byte := slice p (fld p 0x10 4) (fld p 0x14 4)
/-- The core firmware section. -/
def pkgCore (p : List Byte) : List Byte := slice p (fld p 0x18 4) (fld p 0x1C 4)

/-- The header of a package against R456; the reserved bytes of its signature body are those of R59. -/
def pkgHdrOk (p : List Byte) : Bool :=
  let po := fld p 0x10 4
  let pl := fld p 0x14 4
  let co := fld p 0x18 4
  let cl := fld p 0x1C 4
  512 ≤ p.length && fld p 0 4 == 0x50495046 && pkgSvn p ≤ 63 && pkgLen p % 16 == 0 && pkgLen p ≤ slotBytes && 1 ≤ cl && cl ≤ 49152 &&
  512 ≤ po && 512 ≤ co && po + pl ≤ pkgLen p && co + cl ≤ pkgLen p && !overlaps po pl co cl &&
  allZero (slice p 0x20 0x10) && allZero (slice p 0x60 0xD0) && allZero (slice p 0x130 0x10)

/-- DIGEST as R456 computes it. -/
def pkgDigest (p : List Byte) : List Byte :=
  let b := p.take (pkgLen p)
  sha384 (patch (patch b 0x30 (zeros 48)) 0x130 (zeros 0xD0))

/-- The digest matches. -/
def pkgDigestOk (p : List Byte) : Bool := p.length == pkgLen p && pkgDigest p == slice p 0x30 48
/-- The key's hash is VENDOR_FW_KEY_HASH. -/
def pkgKeyOk (f : Fuses) (p : List Byte) : Bool := sha384 (slice p 0x140 96) == f.fwKey
/-- The signature verifies over DIGEST (R59). -/
def pkgSigOk (p : List Byte) : Bool :=
  ecdsaVerify (beNat (slice p 0x140 48)) (beNat (slice p 0x170 48)) (beNat (slice p 0x1A0 48)) (beNat (slice p 0x1D0 48)) (slice p 0x30 48)

/-- The package that a slot holds. -/
def slotPkg (s : State) (slot : Nat) : List Byte :=
  let h := flashBytes s (slotBase slot) 512
  if pkgHdrOk h then flashBytes s (slotBase slot) (pkgLen h) else h

/-- A slot is valid (R457). -/
def slotValid (s : State) (slot : Nat) : Bool :=
  let p := slotPkg s slot
  pkgHdrOk p && fwMinSvn s.fuses ≤ pkgSvn p && pkgDigestOk p && pkgKeyOk s.fuses p && pkgSigOk p

/-- The slot that PREFERRED names; slot A when the boot sector's CRC fails (R457). -/
def preferred (s : State) : Nat :=
  let b := flashBytes s 0x1000000 8
  if fld b 4 4 = crc32c (b.take 4) ∧ fld b 0 1 = 1 then 1 else 0

/-- The boot sector written (Table 16.2). -/
def setPreferred (s : State) (slot : Nat) : State :=
  let b := toLE 4 (slot % 2)
  { s with flash := putFlash s.flash 0x1000000 (b ++ toLE 4 (crc32c b)) }

/-- The slot that the ROM runs (R457). -/
def chooseSlot (s : State) : Option Nat := [preferred s, 1 - preferred s].find? (slotValid s)

/-- The message of the fuse configuration measurement (R460). -/
def fuseMessage (s : State) : List Byte :=
  let f := s.fuses
  toLE 8 s.serial ++ toLE 1 f.lc ++ fit f.fwKey 48 ++ fit f.mfgKey 48 ++ fit f.damsonKey 48 ++
    [0, 1, 2, 3].flatMap (fun k => fit (Tbl.getD f.cust k []) 48) ++ toLE 1 f.programmed ++ toLE 1 f.revoked ++ toLE 1 (b2n f.sigRequired) ++ toLE 8 f.minSvn

/-- Fuse bits of b blown into a: a bit goes only from 0 to 1 (R460). -/
def blow (a b : Nat) : Nat := Nat.lor a b
/-- The same over bytes. -/
def blowBytes (a b : List Byte) : List Byte := (List.range 48).map (fun i => a.getD i 0 ||| b.getD i 0)

/-- What the factory put in before a power-on. -/
def applyFitting (s : State) (f : Fitting) : State :=
  let u := s.fuses
  { s with
    variant := f.variant, stepping := f.stepping, serial := blow s.serial f.serial
    fuses := { u with uds := blowBytes u.uds f.uds, lc := blow u.lc f.lc % 16, fwKey := blowBytes u.fwKey f.fwKey, mfgKey := blowBytes u.mfgKey f.mfgKey,
                      damsonKey := blowBytes u.damsonKey f.damsonKey }
    flash := f.flash.foldl (fun t e => putFlash t e.1 e.2) s.flash }

/-! ### Identity (R461) -/

/-- The device public key of a secret under a life-cycle code. -/
def deviceKey (uds : List Byte) (code : Nat) : EcPt :=
  let k := hmac384 (hmac384 uds (ascii "S9-LC" ++ toLE 1 code)) (ascii "S9-DEVICEID")
  ecMul 384 (beNat k % (p384N - 1) + 1) (some (p384Gx, p384Gy))

/-! ### The core map (R437) -/

/-- Physical cores (R4). -/
def physCount : Nat := 544
/-- The healthy physical cores of cluster c, ascending. -/
def healthyOf (s : State) (c : Nat) : List Nat := ((List.range 17).map (fun i => 17 * c + i)).filter (fun p => !defective s p)
/-- The map: logical core to physical core. -/
def buildMap (s : State) : Tbl Nat := (List.range 32).flatMap (fun c => ((healthyOf s c).take 16).zipIdx.map (fun x => (16 * c + x.2, x.1)))
/-- The logical core of a physical one. -/
def logicalOf (s : State) (p : Nat) : Option Nat := (s.coreMap.find? (fun e => e.2 == p)).map (·.1)
/-- PRESENT_n from the map. -/
def presentWord (m : Tbl Nat) (n : Nat) : Nat := ((List.range 32).map (fun b => if (Tbl.find m (32 * n + b)).isSome then 2 ^ b else 0)).sum

/-! ### Firmware delivery and known-answer runs (R432 to R435) -/

/-- Chunks of the core firmware, and the bitmap of all of them. -/
def fwChunkCount (s : State) : Nat := (s.boot.coreFw.length + 4095) / 4096
/-- Every chunk. -/
def allChunks (s : State) : Nat := 2 ^ fwChunkCount s - 1
/-- The target of a multicast in Output.fwChunks. -/
def multicast : Nat := 1023

/-- Delivery to physical cores begins: the manifest and every chunk once (R432). -/
def deliver (s : State) (ps : List Nat) : State :=
  if ps = [] then s else emit { s with fwRounds := ps.foldl (fun t p => Tbl.set t p 0) s.fwRounds } (.fwChunks multicast (allChunks s))

/-- The code of a unit in State.kats. -/
def katCode : KatUnit → Nat
  | .engine p e => p % 1024 * 8 + e % 8
  | .unit c u => 8192 + c % 64 * 8 + u % 8
  | .adder n => 16384 + n

/-- The engines of a physical core that run the known-answer set. -/
def coreKats (p : Nat) : List Nat := (List.range 5).map (fun e => katCode (.engine p e))
/-- The units of a cluster. -/
def clusterKats (c : Nat) : List Nat := (List.range 4).map (fun u => katCode (.unit c u))
/-- Runs begun (R435). -/
def startKats (s : State) (l : List Nat) : State := { s with kats := l.foldl (fun t k => Tbl.set t k 0) s.kats }
/-- I/O dies of the variant (R1). -/
def ioDieCount (s : State) : Nat := if s.variant = 2 then 2 else 4

/-- A physical core fails: it joins the defect list and nothing more of it is awaited. -/
def failPhys (s : State) (p : Nat) : State :=
  { addDefect s p with fwRounds := Tbl.del s.fwRounds p, kats := Tbl.drop s.kats (fun k => k < 8192 && k / 8 == p) }

/-! ### The rails as bring-up drives them (R485 to R487) -/

/-- The rails the variant has (Table 17.1). -/
def railPresent (s : State) (r : Nat) : Bool := r < 32 && !(s.variant == 2 && (r == 10 || r == 11))
/-- Nominal voltage in mV, at OP-nom with trim 0 (Table 17.1). -/
def railNominal (r : Nat) : Nat :=
  if r < 4 then 750 else if r < 8 then 800 else if r < 12 then 750 else if r < 16 then 1100 else if r < 20 then 400 else if r < 24 then 1800
  else if r < 28 then 750 else if r = 28 then 900 else if r = 29 then 1200 else if r = 30 then 850 else 900
/-- Overcurrent limit in A (Table 17.1). -/
def railAmps (r : Nat) : Nat :=
  if r < 4 then 400 else if r < 8 then 90 else if r < 12 then 80 else if r < 16 then 40 else if r < 20 then 30 else if r < 24 then 4
  else if r < 28 then 25 else if r = 28 then 90 else if r = 29 then 30 else if r = 30 then 10 else 3
/-- The rails in the order of Table 17.2, steps 2 to 8. -/
def railOrder : List Nat :=
  [31, 8, 9, 10, 11, 0, 1, 2, 3, 4, 5, 6, 7, 24, 25, 26, 27, 30, 28, 29, 20, 21, 22, 23, 12, 13, 14, 15, 16, 17, 18, 19]

/-- PMBus command codes (log entry 24): OPERATION, VOUT_COMMAND, VOUT_OV_FAULT_LIMIT, VOUT_UV_FAULT_LIMIT, IOUT_OC_FAULT_LIMIT. -/
def pmbOperation : Nat := 0x01
/-- VOUT_COMMAND. -/
def pmbVout : Nat := 0x21
/-- VOUT_OV_FAULT_LIMIT. -/
def pmbOv : Nat := 0x40
/-- VOUT_UV_FAULT_LIMIT. -/
def pmbUv : Nat := 0x44
/-- IOUT_OC_FAULT_LIMIT. -/
def pmbOc : Nat := 0x46

/-- The commands that turn rail r on (R486): limits, target, OPERATION on. -/
def railOn (r : Nat) : List Output :=
  let v := railNominal r
  [.pmbus r pmbOv (v * 108 / 100), .pmbus r pmbUv (v * 92 / 100), .pmbus r pmbOc (railAmps r), .pmbus r pmbVout v, .pmbus r pmbOperation 0x80]

/-- Every rail turned on in the order of Table 17.2. -/
def powerUp (s : State) : State :=
  { s with out := s.out ++ (railOrder.filter (railPresent s)).flatMap railOn, railsUp := true }

/-- Every rail turned off in the reverse order (R487). -/
def powerDown (s : State) : State :=
  if s.railsUp then
    { s with out := s.out ++ (railOrder.reverse.filter (railPresent s)).map (fun r => Output.pmbus r pmbOperation 0), railsUp := false }
  else s

/-- TRIM_Cn. -/
def trimReg (n : Nat) : Reg := if n = 0 then .trimC0 else if n = 1 then .trimC1 else if n = 2 then .trimC2 else .trimC3

/-- The trims set: multiples of 5 mV from 0 to 30 (R489), each sent to its rail. -/
def setTrims (s : State) (l : List Nat) : State :=
  [0, 1, 2, 3].foldl (fun s n =>
    let t := min 30 (l.getD n 0 / 5 * 5)
    if t = rd s (trimReg n) then s else emit (wr s (trimReg n) 0 t) (.pmbus n pmbVout (railNominal n + t))) s

/-! ### Operating points (R488, R490) -/

/-- VCORE's nominal value at an operating point, in mV (Table 17.3). -/
def pointMv (p : Nat) : Nat := if p = 1 then 650 else if p = 3 then 850 else 750

/-- VOUT_COMMAND of the four VCORE rails: the nominal value and each die's trim. -/
def sendVcore (s : State) : State := { s with out := s.out ++ [0, 1, 2, 3].map (fun n => Output.pmbus n pmbVout (s.power.mv + rd s (trimReg n))) }

/-- The effective operating point: the lowest of OP_REQ, the cap point and the thermal point; OP_REQ counts from stage 10 on (R490). -/
def effectivePoint (s : State) : Nat := min (if ready s then rd s .opReq else 2) (min s.power.cap s.power.therm)

/-- The next step of a move: at most 25 mV. -/
def moveStep (s : State) : State :=
  let t := pointMv (rd s .opEffective)
  let v := s.power.mv
  sendVcore { s with power := { s.power with mv := if v < t then min t (v + 25) else max t (v - 25) } }

/-- A change of the effective point starts a move; one that comes while a move runs turns it (R490). -/
def opUpdate (s : State) : State :=
  let e := effectivePoint s
  if s.railsUp = false ∨ e = rd s .opEffective then s
  else
    let moving := rd s .opChanging
    let s := inc (wrs s [(.opEffective, 0, e), (.opChanging, 0, 1)]) .opChangeCnt
    if moving = 1 then s else moveStep s

/-! ### Stages (R429 to R431) -/

/-- FAULT_N driven. -/
def setFault (s : State) (on : Bool) : State := if s.faultN = on then s else emit { s with faultN := on } (.pin 1 (!on))

/-- µs from step 1, as STAGE_US holds them. -/
def sinceStart (s : State) : Nat := min ((s.localNs - s.boot.start) / 1000) 0xFFFFFFFE

/-- Bring-up starts at stage 1 (R429). -/
def startBoot (s : State) : State :=
  wrs { s with boot := { BringUp.init with on := true, start := s.localNs } } [(.bringupStage, 0, 1), (.bringupState, 0, 0)]

/-- Stage n has ended, and stage m is next. -/
def endStage (s : State) (n m : Nat) : State :=
  let u := sinceStart s
  let s := wr s .stageUs (n - 1) u
  let s := if m = n + 2 then wr s .stageUs n u else s
  wr s .bringupStage 0 m

/-- The stop state (R431): FAILED with the stage and status, FAULT_N, a first-fault record. -/
def stopState (s : State) (st : Status) : State :=
  let s := setFault (wrs { s with boot := { s.boot with on := false } } [(.bringupState, 0, 3), (.bringupFailStatus, 0, st.code)]) true
  stoneWrite { s with fwRounds := [], kats := [] } 0x000D [(1, rd s .bringupStage), (1, st.code)] true

/-- Bring-up stops at the present stage; the stages not reached are marked. -/
def stopBoot (s : State) (st : Status) : State :=
  let n := rd s .bringupStage
  wrs (stopState s st) (((List.range 10).filter (fun i => n ≤ i + 1)).map (fun i => (.stageUs, i, 0xFFFFFFFF)))

/-- Stone put into service: its scan, and the defect list it holds (R472, R474). -/
def openStone (s : State) : State :=
  let s := stoneScan s
  setDefects { s with boot := { s.boot with stone := true } } (loadDefects s)

/-- What stage 2 takes from the running package and the fuses (R457, R461, R462). -/
def runFirmware (s : State) (slot : Nat) (chain : Option (List Byte)) : State :=
  let p := slotPkg s slot
  let m := [(1, (List.range 48).map Config.romDigest), (2, sha384 (pkgPip p)), (3, sha384 (pkgCore p)), (4, sha384 (fuseMessage s)),
    (7, toLE 4 (pkgSvn p) ++ toLE 4 (fwMinSvn s.fuses))]
  let s := wrs s [(.pipFwVersion, 0, pkgVersion p), (.pipFwSvn, 0, pkgSvn p), (.activeSlot, 0, slot)]
  { s with
    meas := m
    certChain := chain
    boot := { s.boot with coreFw := pkgCore p, devId := deviceKey s.fuses.uds (lcState s) } }

/-- Stage 1 ends: STRAP[7:4] must be 0 (R497). A stop this early still reaches Stone. -/
def stage1 (s : State) : State := if s.strap / 16 % 16 ≠ 0 then stopBoot (openStone s) .format else endStage s 1 2

/-- A trip of the time before this power-on goes to Stone (R444). -/
def recordTrip (s : State) : State := if s.tripLatch then stoneWrite { s with tripLatch := false } 0x000E [] true else s

/-- Stage 2 ends (R457, R459, R465). -/
def stage2 (s : State) (r : StageResult) : State :=
  let s := recordTrip (openStone s)
  let chain := match r with
    | .identity c => c
    | _ => none
  let readable := match r with
    | .timeout => false
    | .fault => false
    | _ => true
  if lcState s = 0 then stopBoot s .permission
  else match (if readable then chooseSlot s else none) with
    | none => stopBoot (wr s .romRecovery 0 1) .checkMismatch
    | some slot =>
      let s := runFirmware s slot chain
      if lcState s = 4 then stopBoot s .permission
      else if s.railsUp then sendVcore (endStage s 2 4) else endStage s 2 3

/-- Stage 3 ends (R485 to R487). -/
def stage3 (s : State) (r : StageResult) : State :=
  match r with
  | .timeout => stopBoot (powerDown { s with railsUp := true }) .timeout
  | .fault => stopBoot (powerDown { s with railsUp := true }) .uncorrectable
  | .format => stopBoot (powerDown { s with railsUp := true }) .format
  | .trimmed l => endStage (setTrims (powerUp s) l) 3 4
  | _ => endStage (powerUp s) 3 4

/-- Stage 4 ends: clocks, PLLs, the network; the trims of a warm reset (R487). -/
def stage4 (s : State) (r : StageResult) : State :=
  match r with
  | .timeout => stopBoot s .timeout
  | .trimmed l => endStage (setTrims s l) 4 5
  | _ => endStage s 4 5

/-- Stage 5 ends: stacks trained, the retired-page table loaded, HBM wiped (R286, R287). -/
def stage5 (s : State) (r : StageResult) : State :=
  match r with
  | .stacks m =>
    if m % 2 ^ stackCount s = 0 then endStage (setRetired (wipeRange (wr s .stackFailMask 0 0) 0 (hbmBytes s)) (loadRetired s)) 5 6
    else
      let s := wr s .stackFailMask 0 (m % 2 ^ stackCount s)
      stopBoot (stoneWrite s 0x000C [(2, m % 2 ^ stackCount s)] true) .uncorrectable
  | _ => endStage (setRetired (wipeRange (wr s .stackFailMask 0 0) 0 (hbmBytes s)) (loadRetired s)) 5 6

/-- Stage 6 ends, and firmware goes to every physical core not in the defect list (R432). -/
def stage6 (s : State) : State := endStage (deliver s ((List.range physCount).filter (fun p => !defective s p))) 6 7

/-- Stage 7 ends once every delivery has, and the known-answer runs begin (R435). -/
def stage7 (s : State) : State :=
  if s.fwRounds ≠ [] then s
  else
    let cores := ((List.range physCount).filter (fun p => !defective s p)).flatMap coreKats
    endStage (startKats s (cores ++ (List.range 32).flatMap clusterKats ++ (List.range (ioDieCount s)).map (fun n => katCode (.adder n)))) 7 8

/-- Stage 8 ends once every run has. -/
def stage8 (s : State) : State := if s.kats ≠ [] then s else endStage s 8 9

/-- The core firmware in the firmware area of logical core l's store (R80, R432). -/
def putFirmware (s : State) (l : Nat) : State :=
  let s := wipeRange s (coreBase l) 0x20000
  { s with mem := putBytes s.mem (coreBase l) (s.boot.coreFw.take 0x20000) }

/-- Stage 9 ends: the map (R437). Every present core has accepted its firmware. -/
def stage9 (s : State) : State :=
  let m := buildMap s
  let s := { s with coreMap := m, cores := m.map (fun e => (e.1, { CoreSt.init with hart := { Hart.init with live := true } })) }
  let s := (m.map (·.1)).foldl putFirmware (wrs s ((List.range 16).map (fun n => (.present, n, presentWord m n))))
  endStage (wr s .logicalCoreCount 0 m.length) 9 10

/-- The mode of stage 10 (R439): a free one in RETURNED, for which the spec names none (log entry 25). -/
def bootMode (s : State) : State :=
  if lcState s = 2 then setMode s 0 else if lcState s = 1 then setMode s 2
  else
    let x := fresh s 2
    setMode x.1 x.2

/-- Stage 10 ends: READY or DEGRADED, or nothing to run on (R438, R453). The BOOT record holds BRINGUP_STATE, LOGICAL_CORE_COUNT, HEALTHY_PHYSICAL,
STAGE_US_10 and LAST_RESET_REASON (R476). -/
def stage10 (s : State) : State :=
  let n := rd s .logicalCoreCount
  if n = 0 then stopBoot s .degradedRefused
  else
    let s := wr s .stageUs 9 (sinceStart s)
    let s := bootMode (wr { s with boot := { s.boot with on := false } } .bringupState 0 (if n = 512 then 1 else 2))
    let s := stoneWrite s 0x0001 [(1, rd s .bringupState), (2, n), (2, rd s .healthyPhysical), (4, rd s .stageUs 9), (1, rd s .lastResetReason)]
    let s := opUpdate s
    if rd s .evqEnable = 1 then
      postEvent s 0x0202 (if n = 512 then 0 else Status.degradedRefused.code) 0 (devId s) (n + rd s .healthyPhysical * 2 ^ 16) (rd s .stageUs 9)
    else { s with evqReport := true }

/-- BRINGUP_STAGE_DONE: the stage in progress ends. -/
def bringupDone (s : State) (r : StageResult) : State :=
  if s.boot.on = false then s
  else match rd s .bringupStage with
    | 1 => stage1 s
    | 2 => stage2 s r
    | 3 => stage3 s r
    | 4 => stage4 s r
    | 5 => stage5 s r
    | 6 => stage6 s
    | 7 => stage7 s
    | 8 => stage8 s
    | 9 => stage9 s
    | _ => stage10 s

/-! ### Power-on (R429, R444, R497) -/

/-- SENSOR_WARN_s at reset (Table 16.15): TJ in quarter degrees, HBM_TEMP in degrees, PKG_POWER in tenths of a watt. -/
def warnDefaults (v : Nat) : List (Reg × Nat × Nat) :=
  (List.range 9).map (fun i => (.sensorWarn, i, 380)) ++ (List.range (if v = 3 then 8 else 12)).map (fun i => (.sensorWarn, 16 + i, 85)) ++
  [(.sensorWarn, 0x80, if v = 2 then 17000 else if v = 3 then 16500 else 18000)]

/-- The registers whose reset value is the variant's (Tables 16.15, 17.10). -/
def variantRegs (s : State) : State :=
  let tdp := if s.variant = 2 then 1700 else if s.variant = 3 then 1650 else 1800
  wrs s ((.powerLimit, 0, tdp) :: warnDefaults s.variant)

/-- What outlives every reset: the queue of commands, what has left the block, the free values taken, the silicon, fuses, flash and Stone, and the pins. -/
def bare (s : State) : State :=
  { State.reset with
    pending := s.pending, out := s.out, freeCount := s.freeCount, variant := s.variant, stepping := s.stepping, serial := s.serial
    fuses := s.fuses, flash := s.flash, stone := s.stone, bootCount := s.bootCount, powered := s.powered, perstN := s.perstN
    tripLatch := s.tripLatch, feedStrap := s.feedStrap, strap := s.strap }

/-- POWER_ON: PWR_GOOD and SYS_RST_N are high (R429); straps are read (R497). -/
def powerOn (s : State) (feed strap : Nat) (fit : Option Fitting) : State :=
  if s.pwrGood then s
  else
    let s := match fit with
      | some f => applyFitting s f
      | none => s
    let s := bare s
    let s := variantRegs { s with pwrGood := true, feedStrap := feed % 16, strap := strap % 256, bootCount := if s.powered then s.bootCount + 1 else s.bootCount, powered := true }
    let s := wrs s [(.feedId, 0, feed % 16), (.lastResetReason, 0, 1), (.lastResetDomain, 0, 4)]
    startBoot (stoneWrite s 0x0002 [(1, 1), (1, 4), (4, 0), (8, 0), (4, 0)])

/-- PWR_GOOD falls: what is not in fuses, flash or Stone is lost, queued Stone records among it (R444, R476). -/
def powerFall (s : State) : State :=
  if s.pwrGood = false then s
  else
    let s := setFault s false
    let s := if s.trip then emit { s with trip := false } (.pin 2 true) else s
    { bare s with localNs := s.localNs }

/-- POWER_ON. -/
def execPowerOn (feed smb : Nat) (fit : Option Fitting) (s : State) : Host.Outcome State Fault Refusal := .next (powerOn s feed smb fit)
/-- BRINGUP_STAGE_DONE. -/
def execBringupStageDone (result : StageResult) (s : State) : Host.Outcome State Fault Refusal := .next (bringupDone s result)
/-- PWR_GOOD_FALL. -/
def execPwrGoodFall (s : State) : Host.Outcome State Fault Refusal := .next (powerFall s)

end Sys2Proof.Machine
end

