-- ==== Sys2Proof/Machine/Manage.lean ====
section
/-!
DEFINITION. Sys2Proof/Machine/Manage.lean: answers to management commands and requests of the device's own, and the end of a load (R68 to R76,
R327, R331).
-/
namespace Sys2Proof.Machine

/-! ### The mailbox and answers (R327, R329) -/

/-- n bytes of MBOX_BUF. -/
def mboxBytes (s : State) (n : Nat) : List Byte := (List.range n).map (fun i => Tbl.getD s.mbox i 0)

/-- Bytes put at the beginning of MBOX_BUF. -/
def putMbox (t : Tbl Byte) (i : Nat) : List Byte → Tbl Byte
  | [] => t
  | b :: r => putMbox (Tbl.put t i b 0) (i + 1) r

/-- The mailbox's command ends: status, response, message (R327). -/
def endMbox (s : State) (st : Nat) (b : List Byte) : State :=
  let s := { s with mbox := putMbox s.mbox 0 (b.take 4096) }
  sendMsi (wrs s [(.mboxBusy, 0, 0), (.mboxStatus, 0, st), (.mboxRspLen, 0, min b.length 4096)]) (rd s .mboxVector)

/-- A command answered where it came from. -/
def mgmtAnswer (s : State) (r : MgmtReq) (cmd : Nat) (st : Status) (b : List Byte := []) : State :=
  match r.route with
  | .mailbox => endMbox s st.code b
  | .sideband => emit s (.local st.code b)
  | .packet src tag => originate s (mgmtPkt s src cmd tag true r.session.isSome st.code b)

/-- A MGMT request of this device to another. -/
def mgmtRequest (s : State) (dst cmd : Nat) (b : List Byte) (o : Origin) : State := sendReq s mgmtCtx (mgmtPkt s dst cmd 0 false false 0 b) o

/-! ### A load's source and end (R66 to R76, R331) -/

/-- The partitions that a load names (R66); none for a whole-device image. -/
def loadTargets (x : LoadSt) : Nat := let h := readHdr x.img; if h.scope = 1 then h.mask else 0

/-- The next IMAGE_READ of a fabric load, of up to 4,096 bytes (R331). -/
def readImage (s : State) (x : LoadSt) : State :=
  match x.who with
  | .mgmt _ dev addr =>
    if x.len ≤ x.got.length then s
    else
      let off := x.got.length
      mgmtRequest s dev 0x23 (toLE 8 (addr + off + dev * 2 ^ 40) ++ toLE 4 (min 4096 (x.len - off))) (.imgRead off 0)
  | .host => s

/-- The bytes of the image that a load has read. -/
def LoadSt.bytes (x : LoadSt) : List Byte := if x.img = [] then x.got else x.img

/-- STEP of Table 2.18 set, and the load's state kept. -/
def setLoad (s : State) (x : LoadSt) : State := { wr s .qimgStep 0 x.step with load := some x }

/-- The load record of Stone (R73): of the header the bytes that have been read, the rest zero. -/
def loadRecord (s : State) (b : List Byte) (f : Fail) : State :=
  let h := readHdr b
  stoneWrite s 0x0006 [(8, h.imageId), (48, leNat h.digest), (4, h.mask), (1, h.scope), (1, f.status.code), (1, f.reason), (4, f.off)]

/-- A request of the loader. -/
def loadOrigin : Origin → Bool
  | .loadFeed _ => true
  | .imgRead _ _ => true
  | _ => false

/-- The requests of a load that has ended are awaited no more (R325). -/
def dropLoadTags (s : State) : State :=
  let ts := (s.tags.filter (fun e => loadOrigin e.2.origin && !e.2.quar)).map (·.1)
  ts.foldl quarantine { s with tagWait := s.tagWait.filter (fun w => !loadOrigin w.2.2) }

/-- A load ends (R64, R73, R76): record, status registers, and the message or the answer. -/
def endLoad (s : State) (x : LoadSt) (f : Fail) : State :=
  let s := dropLoadTags (loadRecord { s with load := none } x.bytes f)
  let s := wrs s [(.qimgBusy, 0, 0), (.qimgStep, 0, 0), (.qimgStatus, 0, f.status.code), (.qimgReason, 0, f.reason), (.qimgErrOffset, 0, f.off)]
  match x.who with
  | .host => sendMsi s (rd s .qimgVector)
  | .mgmt r _ _ => mgmtAnswer s r 0x20 f.status (toLE 1 f.reason)

/-- The end of a load that a reset interrupts (R71). -/
def interrupted : Fail := ⟨0x17, .aborted, noOff⟩

/-- A reset of partition p runs. -/
def partResetting (s : State) (p : Nat) : Bool := s.resets.any (fun r => r.domain == 2 && bit r.target p)

/-- The targets of a load that no reset holds are left EMPTY. -/
def emptyTargets (s : State) (m : Nat) : State := (onesOf 32 m).foldl (fun s p => if partResetting s p then s else setPartState s p 0) s

/-- A load in steps 4 and 5 goes on once every target has been wiped: to its apply pass, or to its end when it was interrupted (R66, R71). -/
def loadWiped (s : State) : State :=
  match s.load with
  | none => s
  | some x =>
    if x.step ≠ 4 ∧ x.step ≠ 5 then s
    else if (onesOf 32 (loadTargets x)).any (partResetting s) then s
    else match x.fail with
      | some f => endLoad (emptyTargets s (loadTargets x)) x f
      | none =>
        let x := { x with step := 6, got := [] }
        readImage (setLoad s x) x

/-- A reset from another source names target partitions of the load (R71); in step 2 they are not known yet. -/
def interruptLoad (s : State) (mask : Nat) : State :=
  match s.load with
  | none => s
  | some x =>
    if x.step = 2 then { s with load := some { x with hit := Nat.lor x.hit mask } }
    else if Nat.land mask (loadTargets x) = 0 then s
    else if x.step = 4 ∨ x.step = 5 then { s with load := some { x with fail := some interrupted } }
    else if x.step = 6 then endLoad (emptyTargets s (loadTargets x)) x interrupted
    else endLoad s x interrupted

end Sys2Proof.Machine
end

