-- ==== Sys2Proof/Machine/Reset.lean ====
section
/-!
DEFINITION. Sys2Proof/Machine/Reset.lean: resets of a core, cluster, partition and the device, their wipes, and the firmware and known-answer runs
that follow (R289 to R292, R433 to R436, R440 to R451).
-/
namespace Sys2Proof.Machine

/-! ### Domains -/

/-- Logical core l lies in the domain of a reset. -/
def inDomain (s : State) (o : ResetOp) (l : Nat) : Bool :=
  if o.domain = 0 then o.target == l else if o.domain = 1 then o.target == l / 16
  else s.bound.map.any (fun p => bit o.target p.id && bit p.mask (l / 16))

/-- The present logical cores of the domain. -/
def opCores (s : State) (o : ResetOp) : List Nat := (s.coreMap.map (·.1)).filter (inDomain s o)

/-- The clusters of the domain. -/
def opClusters (s : State) (o : ResetOp) : List Nat :=
  if o.domain = 0 then [] else if o.domain = 1 then [o.target]
  else (List.range 32).filter (fun c => s.bound.map.any (fun p => bit o.target p.id && bit p.mask c))

/-- The jobs of the domain. -/
def opJobs (s : State) (o : ResetOp) : List Nat := if o.domain = 2 then (s.bound.jobs.filter (fun j => bit o.target j.part)).map (·.id) else []

/-- Domain a lies wholly in domain b (R450). -/
def opInside (s : State) (a b : ResetOp) : Bool :=
  if a.domain = 2 then b.domain == 2 && Nat.land a.target b.target == a.target
  else if b.domain = 2 then inDomain s b (if a.domain = 0 then a.target else 16 * a.target)
  else if b.domain = 1 then b.target == (if a.domain = 0 then a.target / 16 else a.target)
  else a.domain == 0 && a.target == b.target

/-! ### Stone records of resets (R442, R451) -/

/-- The payload of a RESET record: REASON, domain, TARGET, LOCAL_NS, forced blocks, and the covering reset if there was one. -/
def resetVals (r : ResetRec) : List (Nat × Nat) :=
  [(1, r.reason), (1, r.domain), (4, r.target), (8, r.ns), (4, r.forced)] ++
  (match r.cover with
   | some (d, t) => [(1, d), (4, t)]
   | none => [])

/-- Records that are ready go to Stone in the order of arrival; BLOCK_FAILED and THERM_TRIP are first faults (R473). -/
def flushRecs : List ResetRec → State → State
  | [], s => { s with resetRecs := [] }
  | r :: t, s =>
    if r.ready then flushRecs t (stoneWrite s 0x0002 (resetVals r) (r.reason == 9 || r.reason == 7)) else { s with resetRecs := r :: t }

/-- A request's record put in line. -/
def addRec (s : State) (r : ResetRec) : State := flushRecs (s.resetRecs ++ [r]) s

/-- The record of a running reset becomes ready with its forced blocks. -/
def readyRec (s : State) (o : ResetOp) (forced : Nat) : State :=
  flushRecs (s.resetRecs.map (fun r => if r.domain = o.domain ∧ r.target = o.target ∧ r.ns = o.ns ∧ r.cover.isNone then { r with ready := true, forced := forced } else r)) s

/-! ### Idleness (R106, R445) -/

/-- The dispatcher of core l holds no tile. -/
def coreIdle (s : State) (l : Nat) : Bool :=
  let c := coreSt s l
  c.c0.queue.isEmpty && c.c0.flight.isEmpty && c.c1.queue.isEmpty && c.c1.flight.isEmpty

/-- A FETCH's run of cluster c. -/
def isFetch (c : Nat) (g : GRun) : Bool :=
  g.cluster == c && (match g.who with
    | .fetch _ _ => true
    | .tile _ _ _ => false)

/-- Units of cluster c that run a request: sampler, sorter, gather engine, reduction unit. -/
def unitsBusy (s : State) (c : Nat) : Nat :=
  b2n (s.samps.any (fun r => r.cluster == c)) + b2n (s.sorts.any (fun r => r.cluster == c)) + b2n (s.gathers.any (isFetch c)) +
  b2n (!(Tbl.getD s.redPosts c []).isEmpty)

/-- The region is of one of the jobs. -/
def regionIn (s : State) (js : List Nat) (id : Nat) : Bool := ((regionById s id).map (fun r => js.contains r.job)).getD false

/-- An apply, close, migration or capture of the jobs runs, or a request of theirs awaits a response. -/
def jobsBusy (s : State) (js : List Nat) : Nat :=
  b2n (s.applyRuns.any (fun e => js.contains e.1)) + b2n (s.closes.any (fun c => regionIn s js c.region) || s.applies.any (fun a => regionIn s js a.region)) +
  b2n ((s.mig.map (fun m => js.contains m.job)).getD false) +
  b2n ((List.range 64).any (fun n => rd s .jobSlotValid n == 1 && js.contains (rd s .jobSlotJobId n) && rd s .ckptBusy n == 1)) +
  b2n (s.tags.any (fun e => !e.2.quar && e.2.ctx != mgmtCtx && js.contains e.2.pkt.job))

/-- Blocks of the domain that are not idle. -/
def opBusy (s : State) (o : ResetOp) : Nat :=
  ((opCores s o).filter (fun l => !coreIdle s l)).length + ((opClusters s o).map (unitsBusy s)).sum + jobsBusy s (opJobs s o)

/-! ### Step 1: the domain asked to go idle (R106, R445, R449) -/

/-- Core l goes idle: QUIESCING, and what is issued and not started completes with ABORTED. -/
def quiesceCore (s : State) (l : Nat) : State :=
  let s := wr s .quiescing l 1
  let a := ((coreSt s l).ctx 0).queue
  let s := finishAborted l 0 a (flushCtx s l 0)
  let b := ((coreSt s l).ctx 1).queue
  finishAborted l 1 b (flushCtx s l 1)

/-- Held SAMPLEs of a cluster are held no more: they complete with ABORTED (R144). -/
def freeHeld (s : State) (cs : List Nat) : State :=
  { s with heldSamp := s.heldSamp.filter (fun q => !(((unitQueue s q).map (fun x => cs.contains x.1)).getD false)) }

/-- A reset of a core, cluster or partition that no other covers begins. -/
def beginReset (s : State) (o : ResetOp) : State :=
  let smaller := s.resets.filter (fun r => opInside s r o)
  let s := smaller.foldl (fun s r => readyRec s r r.forced) s
  let s := { s with resets := s.resets.filter (fun r => !opInside s r o) ++ [o] }
  let s := addRec s ⟨false, o.domain, o.target, o.reason, o.ns, 0, none⟩
  let s := if o.domain = 2 then (onesOf 32 o.target).foldl (fun s p => setPartState (inc s .partResetCnt p) p 1) s else s
  (opCores s o).foldl quiesceCore (freeHeld s (opClusters s o))

/-- The reset that already covers a request (R450). -/
def covering (s : State) (o : ResetOp) : Option ResetOp := s.resets.find? (fun r => opInside s o r)

/-- A request for a reset of a core, cluster or partition, accepted (R442, R450). A partition's reset interrupts a load unless it is the load's own. -/
def startReset (s : State) (domain target reason : Nat) : State :=
  let o : ResetOp := ⟨domain, target, reason, 1, s.localNs, 0⟩
  let s := if domain = 2 ∧ reason ≠ 0x0A then interruptLoad s target else s
  match covering s o with
  | some r => addRec s ⟨true, domain, target, reason, s.localNs, 0, some (r.domain, r.target)⟩
  | none => beginReset s o

/-! ### Step 3: the domain forced (R445, Table 15.5) -/

/-- Who waits for a response lies in the domain. -/
def originIn (s : State) (o : ResetOp) (r : Req) : Bool :=
  match r.origin with
  | .probe l _ _ _ => inDomain s o l
  | .copyRead l _ _ _ _ => inDomain s o l
  | .copyWrite l _ _ _ _ => inDomain s o l
  | .token l _ _ => inDomain s o l
  | .rows c id => (opClusters s o).contains c || s.gathers.any (fun g => g.id == id && (match g.who with
      | .tile l _ _ => inDomain s o l
      | .fetch _ _ => false))
  | .draws c _ _ _ => (opClusters s o).contains c
  | .contrib id _ => s.scatters.any (fun x => x.id == id && inDomain s o x.core)
  | .feed n => (opJobs s o).contains (rd s .jobSlotJobId n)
  | .loadFeed _ => false
  | .imgRead _ _ => false
  | .mbox => false
  | _ => (opJobs s o).contains r.pkt.job

/-- Requests of the domain are awaited no more: their tags are quarantined, and those without a tag are dropped (Table 15.5, R325). -/
def dropRequests (s : State) (o : ResetOp) : State :=
  let ts := (s.tags.filter (fun e => !e.2.quar && originIn s o e.2)).map (·.1)
  ts.foldl quarantine { s with tagWait := s.tagWait.filter (fun w => !originIn s o ⟨w.1, w.2.1, w.2.2, [], false⟩) }

/-- SCATTER_ADDs of the cores end with ABORTED. -/
def killScatters (s : State) (ls : List Nat) : State :=
  (s.scatters.filter (fun r => ls.contains r.core)).foldl
    (fun s r => endScatter { s with heldRows := s.heldRows.filter (fun h => h.1 != .scatter r.id) } r .aborted) s

/-- Gather runs of the cores and clusters end with ABORTED and the rows committed: a tile's with the tile, a FETCH's with its record (R91, R167). -/
def killGathers (s : State) (ls cs : List Nat) : State :=
  let gone := s.gathers.filter (fun g => match g.who with
    | .tile l _ _ => ls.contains l
    | .fetch _ _ => cs.contains g.cluster)
  let s := { s with
    gathers := s.gathers.filter (fun g => !gone.any (fun x => x.id == g.id))
    heldRows := s.heldRows.filter (fun h => !gone.any (fun x => h.1 == .run x.id)) }
  gone.foldl (fun s g => match g.who with
    | .fetch j d =>
      let r := putRows g.dst g.rowBytes (chunks g.rowBytes g.got) 0 s
      endUnitReq r.1 g.cluster j d .aborted 0 r.2
    | .tile l k seq => setRun s l k seq (.done .aborted g.next)) s

/-- Segments posted by the cores that the reduction unit has not finished reading fail with ABORTED (R343). -/
def killPosts (s : State) (ls : List Nat) : State :=
  let ks := (s.redPosts.flatMap (·.2)).filter (fun p => ls.contains p.core)
  ks.foldl (fun s p => failSeg s p.key .aborted none) s

/-- An entry taken in by a cluster's queue completes with ABORTED (R68, Table 15.5). -/
def abortEntry (s : State) (c j : Nat) (d : List Byte) : State :=
  let op := fld d 0 1
  if op = 0x10 ∨ op = 0x11 then endSampReq s c j d op .aborted 0 0
  else if op = 0x20 ∨ op = 0x21 then endUnitReq s c j d .aborted 0 0
  else inc s .qentryBadOpCnt c

/-- The unit is one of the clusters. -/
def unitIn (cs : List Nat) : RecUnit → Bool
  | .sampler c => cs.contains c
  | .sorter c => cs.contains c
  | .gather c => cs.contains c
  | .reducer c => cs.contains c
  | .apply => false

/-- Samplers, sorters and gather engines of the clusters stop: what runs or waits there completes with ABORTED, a record held for room among it, and
blocks are released (R30, R144, R145, R373). The step marks of R24 stay: the binding does. -/
def killUnits (s : State) (cs : List Nat) : State :=
  let s := (s.samps.filter (fun r => cs.contains r.cluster)).foldl (fun s r => endFailed s r .aborted 0) s
  let s := { s with heldRecs := s.heldRecs.map (abortHeld (unitIn cs)) }
  let s := (s.sorts.filter (fun r => cs.contains r.cluster)).foldl (fun s r => failSort s r.cluster r.job r.desc .aborted 0) s
  let rel := s.heldRel.filter (fun h => ((unitQueue s h.1).map (fun x => cs.contains x.1)).getD false)
  let s := rel.foldl (fun s h => match unitQueue s h.1 with
    | some (c, j) => abortEntry s c j h.2
    | none => s) s
  let qs := s.qfifo.filter (fun e => ((unitQueue s e.1).map (fun x => cs.contains x.1)).getD false)
  let s := qs.foldl (fun s e => match unitQueue s e.1 with
    | some (c, j) => e.2.foldl (fun s d => abortEntry s c j d) s
    | none => s) s
  { s with
    sorts := s.sorts.filter (fun r => !cs.contains r.cluster)
    blocks := s.blocks.filter (fun b => !cs.contains b.cluster)
    heldRel := s.heldRel.filter (fun h => !rel.contains h)
    qfifo := s.qfifo.filter (fun e => !qs.any (fun x => x.1 == e.1)) }

/-- How a started tile ends that is stopped: DETAIL is what it has committed (R91, R183). -/
def abortRun : TileRun → TileRun
  | .done .aborted n => .done .aborted n
  | .copy n _ _ _ => .done .aborted n
  | _ => .done .aborted 0

/-- Started tiles of a context end with ABORTED, as far as their records can be written. -/
def killFlight (l k : Nat) : List FTile → State → State
  | [], s => s
  | f :: t, s => killFlight l k t (tileComplete (setRun s l k f.seq (abortRun f.run)) l k f.seq)

/-- Core l stops: its tiles end, its program with it; a core or cluster reset stops its firmware too (R442, Table 15.6). -/
def killCore (firmware : Bool) (s : State) (l : Nat) : State :=
  let s := killFlight l 0 ((coreSt s l).ctx 0).flight s
  let s := killFlight l 1 ((coreSt s l).ctx 1).flight s
  let h := (coreSt s l).hart
  let kept : Hart := if firmware then Hart.init else { Hart.init with live := h.live, csr := h.csr }
  setCore { s with engHold := Tbl.del s.engHold l, latches := Tbl.del s.latches (2 + l) } l { CoreSt.init with hart := kept }

/-- Requests of an apply doorbell that run for the jobs end with ABORTED, without header field or record (R266). -/
def killApplies (s : State) (js : List Nat) : State :=
  (s.applyRuns.filter (fun e => js.contains e.1)).foldl
    (fun s e => lastApply { s with applyRuns := Tbl.del s.applyRuns e.1 } e.1 .aborted (some e.2.step)) s

/-- A held request of a peer for the jobs is absorbed. -/
def killHeld (s : State) (js : List Nat) : State :=
  let mine := fun (h : Held × Bool) => match h.1 with
    | .req p => js.contains p.job
    | .part p => js.contains p.job
    | _ => false
  let ws := s.heldWrites.filter (fun p => js.contains p.job)
  let s' := { s with heldRows := s.heldRows.filter (fun h => !mine h), heldWrites := s.heldWrites.filter (fun p => !js.contains p.job) }
  let s' := ws.foldl (fun s p => respond (inc s .absorbCnt) p .aborted) s'
  (s.heldRows.filter mine).foldl (fun s h => match h.1 with
    | .req p => respond (inc s .absorbCnt) p .aborted
    | .part p => respond (inc s .absorbCnt) p .aborted
    | _ => s) s'

/-- What runs for the jobs of a partition ends (Table 15.5). -/
def killJobs (s : State) (js : List Nat) : State :=
  if js = [] then s
  else
    let s := killHeld s js
    let s := match s.mig with
      | some m => if js.contains m.job then endMig s .aborted else s
      | none => s
    let segs := s.redSegs.filter (fun x => js.contains x.key.job && x.ended.isNone && x.post.isSome)
    let s := segs.foldl (fun s x => failSeg s x.key .aborted none) s
    js.foldl abortJobCtxs s

/-- Every engine and unit of the domain stopped, started work ended with ABORTED (Table 15.4, step 3). -/
def forceDomain (s : State) (o : ResetOp) : State :=
  let ls := opCores s o
  let cs := opClusters s o
  let js := opJobs s o
  let s := killGathers (killScatters (dropRequests (killApplies s js) o) ls) ls cs
  let s := killUnits (killPosts (abortSlices (fun l => ls.contains l) ls s) ls) cs
  let s := killJobs s js
  let s := ls.foldl (killCore (o.domain != 2)) s
  { s with
    signals := s.signals.filter (fun g => !((g.tile.map (fun t => ls.contains t.1)).getD false))
    prefs := s.prefs.filter (fun e => !ls.contains (e.1 / 8)) }

/-- A running reset replaced. -/
def setOp (s : State) (a b : ResetOp) : State := { s with resets := s.resets.map (fun r => if r = a then b else r) }

/-- The oldest reset at step 1 with the domain as given: idle or busy. -/
def waitingOp (s : State) (idle : Bool) : Option ResetOp := s.resets.find? (fun o => o.step == 1 && (opBusy s o == 0) == idle)

/-- Step 2 and step 3: the domain is idle, or forced at T_q and counted (R445). -/
def stopDomain (s : State) (o : ResetOp) (timeout : Bool) : State :=
  let n := if timeout then opBusy s o else 0
  let s := if timeout then postEvent (inc s .quiesceForceCnt) 0x0201 Status.timeout.code 0 (devId s) (o.reason + o.domain * 256) o.target else s
  let s := readyRec s o n
  forceDomain (setOp s o { o with step := 3, forced := n }) o

/-! ### Steps 4 and 5: drain and wipe (R289 to R292, R447) -/

/-- What the domain handed outside has drained, and the wipe begins. -/
def drained (s : State) : State :=
  match s.resets.find? (fun o => o.step == 3) with
  | none => s
  | some o =>
    let s := setOp s o { o with step := 5 }
    let s := match s.load with
      | some x => if o.reason = 0x0A ∧ x.step = 4 then setLoad s { x with step := 5 } else s
      | none => s
    if o.domain = 2 then wr s .wipeBusy 0 1 else s

/-- A wiped range is no place for an injection (R295). -/
def wipe (s : State) (a n : Nat) : State := disarmIn (wipeRange s a n) (fun x => a ≤ x && x < a + n)

/-- The store of core l wiped (Table 10.4), the firmware area included. A core or cluster reset delivers the firmware afresh; after a partition's, for
which the spec names no delivery and whose cores go on in machine mode, the accepted firmware is put back (DEDUCED, log entry 48). -/
def wipeCore (firmware : Bool) (s : State) (l : Nat) : State :=
  let s := wipe s (coreBase l) 0x180000
  let s := if firmware then s else putFirmware s l
  { s with redDesc := Tbl.drop s.redDesc (fun k => k / 64 == l), scrubPos := Tbl.del s.scrubPos (64 + l) }

/-- The gather buffer of cluster c wiped. -/
def wipeGbuf (s : State) (c : Nat) : State :=
  let s := wipe s (gbufBase c) 0x1800000
  { s with scrubPos := Tbl.del s.scrubPos (16 + c) }

/-- Registers of the blocks of cores and clusters return to their reset values (R12, Table 15.6). -/
def resetBlocks (s : State) (ls cs : List Nat) : State :=
  resetRegs s (fun r i => (r.info.block == .core && ls.contains (if r = .token then i / 64 else i)) || (r.info.block == .cluster && cs.contains i))

/-- The slots of jobs. -/
def slotsOf (s : State) (js : List Nat) : List Nat := (List.range 64).filter (fun n => rd s .jobSlotValid n == 1 && js.contains (rd s .jobSlotJobId n))

/-- A register that belongs to a job slot, and its slot. -/
def slotReg (r : Reg) (i : Nat) : Option Nat :=
  if r.info.cnt = 64 ∧ (r.info.block = .resilience ∨ r.info.block = .fabric ∨ r.info.block = .reduction) then some i
  else if r = .digStep ∨ r = .digValid ∨ r = .digSend ∨ r = .digRecv then some (i / 16) else none

/-- The read-back of a WIPE_ON_UNBIND region (R291). bad lists the words that did not read back, one that failed again twice: each failing word is
counted and recorded as uncorrectable with source read-back (R281), a page that fails twice is retired, a region that passes is named in Stone. -/
def readBack (bad : List Nat) (s : State) (r : Region) : State :=
  let mine := bad.filter (fun a => r.base ≤ a && a < r.base + r.size)
  let once := sortNat mine
  let twice := once.filter (fun a => 2 ≤ (mine.filter (· == a)).length)
  let s := inc s .wipeVerifyFailCnt 0 once.length
  let s := once.foldl (fun s a => recordUe s a 6) s
  let s := twice.foldl (fun s a => stoneWrite s 0x000A [(2, r.id), (8, a)]) s
  let s := (sortNat (twice.map (· / 4096))).foldl retirePage s
  if twice = [] then stoneWrite s 0x000B [(2, r.id)] else s

/-- The redirect entries of jobs freed. -/
def freeRedirects (s : State) (js : List Nat) : State :=
  let mine := (List.range 256).filter (fun n => rd s .redirectValid n == 1 && js.contains (rd s .redirectJobId n))
  let s := resetRegs s (fun r i => mine.contains i && r.info.cnt == 256 && r.info.block == .update)
  wr s .redirectUsed 0 ((List.range 256).filter (fun n => rd s .redirectValid n == 1)).length

/-- What the partitions of a mask bind is unbound: bindings, queue contexts, job slots and everything kept for their jobs (R39, R324, Table 15.6). Records
held for their queues are discarded and counted (R515); the jobs are kept in mind while the partition reads LOADING (R68). -/
def unbind (s : State) (mask : Nat) : State :=
  let js := (s.bound.jobs.filter (fun j => bit mask j.part)).map (·.id)
  let qs := (s.bound.queues.filter (fun q => bit mask q.part)).map (·.id)
  let rs := (s.bound.regions.filter (fun r => bit mask r.part)).map (·.id)
  let ns := slotsOf s js
  let s := freeRedirects (inc s .cqDropCnt 0 (s.heldRecs.filter (fun h => qs.contains h.queue)).length) js
  let s := resetRegs s (fun r i => (r.info.block == .queue && qs.contains i) || (r == .readStep && rs.contains i) ||
    ((slotReg r i).map (fun n => ns.contains n)).getD false)
  let s := wrs s ((onesOf 32 mask).flatMap (fun p => [(Reg.jobsBound, p, 0), (.coresAssigned, p, 0), (.queuesBound, p, 0), (.regionsBound, p, 0),
    (.partImageId, p, 0), (.partCommitNs, p, 0)]))
  let b := s.bound
  let keep := fun (p : Nat) => !bit mask p
  endRecovery { s with
    bound := { b with
      cores := b.cores.filter (fun x => keep x.part), chains := b.chains.filter (fun x => keep x.part), routes := b.routes.filter (fun x => keep x.part)
      queues := b.queues.filter (fun x => keep x.part), regions := b.regions.filter (fun x => keep x.part), samps := b.samps.filter (fun x => keep x.part)
      trees := b.trees.filter (fun x => keep x.part), jobs := b.jobs.filter (fun x => keep x.part), devs := b.devs.filter (fun x => keep x.part)
      resils := b.resils.filter (fun x => keep x.part), checks := b.checks.filter (fun x => keep x.part), pipes := b.pipes.filter (fun x => keep x.part)
      blobs := b.blobs.filter (fun x => keep x.part) }
    qfifo := s.qfifo.filter (fun e => !qs.contains e.1), heldRecs := s.heldRecs.filter (fun h => !qs.contains h.queue)
    leaving := s.leaving ++ (onesOf 32 mask).map (fun p => ⟨p, (b.jobs.filter (fun j => j.part == p)).map (·.id)⟩)
    sampStep := Tbl.drop s.sampStep (fun k => js.contains (k % 4096)), heldWrites := s.heldWrites.filter (fun p => !js.contains p.job)
    lostRows := s.lostRows.filter (fun e => !rs.contains e.1)
    heldSamp := s.heldSamp.filter (fun q => !qs.contains q)
    homes := s.homes.filter (fun e => !rs.contains e.1), applies := s.applies.filter (fun a => !rs.contains a.region)
    closes := s.closes.filter (fun c => !rs.contains c.region), params := s.params.filter (fun e => !rs.contains e.1)
    markers := s.markers.filter (fun m => !js.contains m.job), readSteps := s.readSteps.filter (fun e => !js.contains e.1)
    pairs := s.pairs.filter (fun e => !ns.contains e.1), refills := s.refills.filter (fun r => !js.contains r.job)
    soleCopies := s.soleCopies.filter (fun e => !js.contains (e.1 / 65536)), zests := s.zests.filter (fun z => !js.contains z.job)
    flows := s.flows.filter (fun e => !(isStream e.1 && js.contains (flowJob s e.1)))
    lostStreams := s.lostStreams.filter (fun e => !js.contains (flowJob s e.1))
    redSegs := s.redSegs.filter (fun x => !js.contains x.key.job), redSteps := s.redSteps.filter (fun x => !js.contains x.job)
    redChunks := s.redChunks.filter (fun c => !js.contains c.key.job), redNacks := s.redNacks.filter (fun n => !js.contains n.2.job)
    suspSent := s.suspSent.filter (fun e => !js.contains (e.1 / 65536)) }

/-- The memory of a partition wiped, with the read-back of flagged regions (Table 10.4, R291). HBM is interleaved over every stack, so each stack's
scrub pass restarts (R274, R284). -/
def wipePart (s : State) (o : ResetOp) (bad : List Nat) : State :=
  let rs := s.bound.regions.filter (fun r => bit o.target r.part)
  let s := rs.foldl (fun s r => wipe s r.base r.size) s
  let s := if rs.any (fun r => r.base < 0x8000000000) then { s with scrubPos := Tbl.drop s.scrubPos (· < 16), scrubDone := 0 } else s
  (rs.filter (fun r => r.wipe && r.base < 0x8000000000)).foldl (readBack bad) s

/-- What a reset wipes, and the registers it resets (Tables 10.4, 15.6). A load returns the APPLY_LOCKED bits of its jobs (R271); WIPE_BUSY stands while
another partition's wipe runs. -/
def wipeDomain (s : State) (o : ResetOp) (bad : List Nat) : State :=
  let ls := opCores s o
  let cs := opClusters s o
  let s := cs.foldl wipeGbuf (ls.foldl (wipeCore (o.domain != 2)) s)
  let s := resetBlocks s ls cs
  if o.domain = 2 then
    let js := if o.reason = 0x0A then opJobs s o else []
    let s := js.foldl (fun s j => wr s .applyLocked (j / 32) (setBits (rd s .applyLocked (j / 32)) (j % 32) 1 0)) s
    wr (unbind (wipePart s o bad) o.target) .wipeBusy 0 (b2n (s.resets.any (fun r => r != o && r.domain == 2 && r.step == 5)))
  else s

/-! ### Steps 6 and 7 (R433 to R436, R442) -/

/-- A reset ends: RESET_DONE, LAST_RESET, the mode of its cores, its partitions EMPTY (R439, R442, R449, R451). -/
def endReset (s : State) (o : ResetOp) : State :=
  let ls := opCores s o
  let s := { s with resets := s.resets.filter (fun r => r != o) }
  let s := wrs s [(.lastResetReason, 0, o.reason), (.lastResetDomain, 0, o.domain), (.lastResetTarget, 0, o.target), (.lastResetNs, 0, o.ns)]
  let s := (ls.filter (fun l => (coreSt s l).hart.live)).foldl (fun s l => wr s .vmode l (rd s .deviceVmode)) s
  let held := (s.load.map (fun x => if 4 ≤ x.step then loadTargets x else 0)).getD 0
  let s := if o.domain = 2 then (onesOf 32 o.target).foldl (fun s p => if bit held p || partResetting s p then s else setPartState s p 0) s else s
  loadWiped (postEvent s 0x0200 0 0 (devId s) (o.reason + o.domain * 256) o.target)

/-- The physical cores whose firmware a reset delivers again: of a cluster its healthy ones, the spare among them. -/
def opPhys (s : State) (o : ResetOp) : List Nat :=
  if o.domain = 0 then (Tbl.find s.coreMap o.target).toList else if o.domain = 1 then healthyOf s o.target else []

/-- Deliveries and known-answer runs of the reset go on. -/
def opPending (s : State) (o : ResetOp) : Bool :=
  let ps := if o.domain = 1 then (List.range 17).map (fun i => 17 * o.target + i) else opPhys s o
  s.fwRounds.any (fun e => ps.contains e.1) || s.kats.any (fun e => e.1 < 8192 && ps.contains (e.1 / 8)) ||
  (o.domain == 1 && s.kats.any (fun e => (clusterKats o.target).contains e.1))

/-- Resets at step 6 that wait for nothing more end. -/
def settleOps : List ResetOp → State → State
  | [], s => s
  | o :: t, s => if o.step = 6 && !opPending s o then settleOps t (endReset s o) else settleOps t s

/-- Every reset settled. -/
def settle (s : State) : State := settleOps s.resets s

/-- The wipe of a core, cluster or partition has ended. -/
def wiped (s : State) (o : ResetOp) (bad : List Nat) : State :=
  let s := wipeDomain s o bad
  let o' := { o with step := 6 }
  let s := setOp s o o'
  if o.domain = 2 then endReset s o'
  else settle (startKats (deliver s (opPhys s o)) (if o.domain = 1 then clusterKats o.target else []))

/-! ### Device resets (R440, R443, R448, R476) -/

/-- A context on which a CTX_CLOSE can still be sent. -/
def closable (s : State) (c : Nat) : Bool := ctxUp s c || rd s .ctxState c == ctxLost

/-- Every context this device holds, by number. -/
def heldCtxs (s : State) : List Nat := (s.regs.filter (fun e => e.1 % 1024 == Reg.ctxState.ctorIdx)).map (fun e => e.1 / 1024)

/-- CTX_CLOSE with PEER_LOST on every context that can be reached (R403, R448). -/
def closeAll (s : State) : State := ((heldCtxs s).filter (closable s)).foldl (fun s c => originate s (closePkt s c .peerLost)) s

/-- Registers that a device reset keeps (Table 15.6, R296, R332, R427, R502). -/
def keptRegs (cold : Bool) : List Reg :=
  [.feedId, .stackFailMask, .railFault] ++ (if cold then [] else [.deviceId, .idValid, .dimSizeM1, .torusValid, .coord, .warmResetCnt])

/-- The registers of a list as they stand, to be written again. -/
def saveRegs (s : State) (l : List Reg) : List (Reg × Nat × Nat) := l.map (fun r => (r, 0, rd s r))

/-- The retired-page registers as they stand (R296). -/
def saveRetired (s : State) : List (Reg × Nat × Nat) :=
  [(.retiredCount, 0, rd s .retiredCount), (.retireOverflow, 0, rd s .retireOverflow)] ++
  ((List.range 1024).filter (fun n => rd s .retiredValid n == 1)).flatMap (fun n => [(Reg.retiredPage, n, rd s .retiredPage n), (.retiredValid, n, 1)])

/-- Stone before the reset: records of running resets, of a load, of the reset itself, then everything queued; all of it lost under PIP_WATCHDOG and
THERM_TRIP (R73, R442, R476). -/
def stoneBefore (s : State) (domain reason : Nat) : State :=
  if reason = 6 ∨ reason = 7 then stoneLose s
  else
    let s := flushRecs (s.resetRecs.map (fun r => { r with ready := true })) s
    let s := match s.load with
      | some x => loadRecord s x.bytes interrupted
      | none => s
    let s := stoneWrite s 0x0002 (resetVals ⟨true, domain, 0, reason, s.localNs, 0, none⟩) (reason == 9)
    stoneFlush (s.stoneQ.length + s.setRecs.length + 64) s

/-- The reset itself: the pin driven low, contexts closed, ports DOWN, and all that it clears cleared (Table 15.6). The memory is wiped by WIPE_DONE. -/
def clearDevice (s : State) (cold : Bool) (reason : Nat) : State :=
  let s := stoneBefore s (if cold then 4 else 3) reason
  let s := setFault (closeAll (emit s (.pin 0 false))) s.trip
  let s := if cold then powerDown s else s
  let saved := saveRegs s (keptRegs cold) ++ saveRetired s
  let b : State := { bare s with
    localNs := s.localNs, pwrGood := true, trip := s.trip, faultN := s.faultN, railsUp := s.railsUp, mem := s.mem, junk := s.junk, marks := s.marks
    dirty := s.dirty, devReset := some ⟨cold, false, true⟩ }
  let b := wrs (variantRegs b) saved
  let b := if cold then b else inc b .warmResetCnt
  wrs b [(.lastResetReason, 0, reason), (.lastResetDomain, 0, if cold then 4 else 3), (.lastResetTarget, 0, 0), (.lastResetNs, 0, s.localNs)]

/-- A device warm or cold reset from a source (R440, R448, R450): a cold reset overrides a warm one; a request that the reset under way covers is
satisfied by it, and its Stone record says so, but that of a trip, which the latch keeps (R444, R476). -/
def deviceReset (s : State) (cold : Bool) (reason : Nat) : State :=
  if s.pwrGood = false then s
  else
    let covered := match s.devReset with
      | some r => r.cold || !cold
      | none => false
    if covered && reason = 7 then s
    else if covered then
      let c := (s.devReset.map (fun r => if r.cold then 4 else 3)).getD 3
      stoneWrite s 0x0002 (resetVals ⟨true, if cold then 4 else 3, 0, reason, s.localNs, 0, some (c, 0)⟩) (reason == 9)
    else clearDevice s cold reason

/-- Bring-up starts once the wipe and the stretch have ended and SYS_RST_N is high; a trip holds the device in reset (R444, R448). -/
def leaveReset (s : State) : State :=
  match s.devReset with
  | some r => if r.wiped && !r.low && !s.trip then startBoot { s with devReset := none } else s
  | none => s

/-- WIPE_DONE: the device's wipe, or that of the oldest smaller reset at step 5. -/
def wipeDone (s : State) (bad : List Nat) : State :=
  match s.devReset with
  | some r => if r.wiped then s else leaveReset { s with mem := [], junk := [], marks := [], dirty := [], devReset := some { r with wiped := true } }
  | none =>
    match s.resets.find? (fun o => o.step == 5) with
    | some o => wiped s o bad
    | none => s

/-- SYS_RST_N_STRETCH_END: the pin is released, and high (R443). -/
def stretchEnd (s : State) : State :=
  match s.devReset with
  | some r => if r.low then leaveReset (emit { s with devReset := some { r with low := false } } (.pin 0 true)) else s
  | none => s

/-- THERM_TRIP (R444, R494): THERM_TRIP_N and FAULT_N asserted, and a device cold reset that lasts until PWR_GOOD falls. -/
def thermTrip (s : State) : State :=
  if s.pwrGood = false ∨ s.trip = true then s
  else
    let s := emit { s with trip := true, tripLatch := true } (.pin 2 false)
    setFault (deviceReset s true 7) true

/-! ### Requests for the smaller resets (R330, R441) -/

/-- The target of a reset exists (R441): a present logical core, a cluster, partitions of the committed map. -/
def targetExists (s : State) (domain target : Nat) : Bool :=
  if domain = 0 then corePresent s target else if domain = 1 then target < 32
  else target != 0 && (onesOf 40 target).all (fun p => s.bound.map.any (fun d => d.id == p)) && target < 2 ^ 32

/-- The checks of R441 in the order of R16; RESET_BUSY is for the caller. -/
def resetStatus (s : State) (domain target : Nat) : Status :=
  if domain < 3 && !ready s then .permission else if 4 < domain then .format
  else if domain < 3 && !targetExists s domain target then .indexRange else .ok

/-- A reset requested through RESET_CTRL, the fabric or a unit of the device: started where its checks pass. -/
def requestReset (s : State) (domain target reason : Nat) : State :=
  if resetStatus s domain target ≠ .ok then s
  else if domain < 3 then startReset s domain target reason else deviceReset s (domain == 4) reason

/-- RESET_CTRL (R441): ignored and counted while a reset runs; otherwise its status is latched. -/
def resetCtrl (s : State) : State :=
  if s.resets ≠ [] then inc s .resetRejectCnt
  else
    let st := resetStatus s (rd s .resetDomain) (rd s .resetTarget)
    let dom := rd s .resetDomain
    let s := requestReset s dom (rd s .resetTarget) 8
    if st = .ok ∧ 3 ≤ dom then s else wr s .resetStatus 0 st.code

/-! ### A block that fails (R436, R445) -/

/-- A forced block does not acknowledge: its cores join the defect list, and the device takes a warm reset. block is the number of a logical core below
512, or 512 and above a cluster unit, four to a cluster. -/
def forceAckTimeout (s : State) (block : Nat) : State :=
  match s.resets.find? (fun o => o.step == 3) with
  | none => s
  | some o =>
    if block < 512 then
      match Tbl.find s.coreMap block with
      | some p => if inDomain s o block then deviceReset (addDefect s p) false 9 else s
      | none => s
    else if (opClusters s o).contains ((block - 512) / 4) then deviceReset (addCluster s ((block - 512) / 4)) false 9 else s

/-! ### Deliveries and known-answer runs (R433 to R436) -/

/-- The delivery to physical core p fails for good. -/
def deliveryFailed (s : State) (p : Nat) : State := settle (failPhys s p)

/-- A core's firmware is accepted: in bring-up the core waits for stage 8; after a reset its known-answer run begins. -/
def delivered (s : State) (p : Nat) : State :=
  let s := { s with fwRounds := Tbl.del s.fwRounds p }
  if s.boot.on then s else startKats s (coreKats p)

/-- A delivery report: chunks missing, and whether the digest of all of them matches (R433, R434). -/
def chunkReport (s : State) (p missing : Nat) (digestOk : Bool) : State :=
  match Tbl.find s.fwRounds p with
  | none => s
  | some n =>
    let m := Nat.land missing (allChunks s)
    if m = 0 ∧ digestOk = true then delivered s p
    else if 8 ≤ n then deliveryFailed s p
    else
      let m := if m = 0 then allChunks s else m
      emit (inc { s with fwRounds := Tbl.set s.fwRounds p (n + 1) } .fwResendChunkCnt 0 (popcount 16 m)) (.fwChunks p m)

/-- A core whose engines have all passed after a reset runs its firmware (R439). -/
def katsPassed (s : State) (k : Nat) : State :=
  if s.boot.on || 8192 ≤ k || s.kats.any (fun e => e.1 < 8192 && e.1 / 8 == k / 8) then s
  else match logicalOf s (k / 8) with
    | some l => let c := coreSt s l; putFirmware (setCore s l { c with hart := { c.hart with live := true } }) l
    | none => s

/-- A unit fails its known-answer run (Table 15.2). -/
def katFailed (s : State) (k : Nat) : State :=
  if k < 8192 then failPhys s (k / 8)
  else if k < 16384 then
    let c := (k - 8192) / 8
    { addCluster s c with kats := Tbl.drop s.kats (fun x => (x < 8192 && x / 8 / 17 == c) || (8192 ≤ x && x < 16384 && (x - 8192) / 8 == c)) }
  else if s.boot.on then stopBoot s .checkMismatch else s

/-- KAT_DONE: a run's CRC-64 compared with its expected value; a mismatch is run once more (R435). -/
def katDone (s : State) (u : KatUnit) (crc : Nat) : State :=
  let k := katCode u
  match Tbl.find s.kats k with
  | none => s
  | some n =>
    if crc = (Config.katCrc k).toNat then settle (katsPassed { s with kats := Tbl.del s.kats k } k)
    else if n = 0 then { s with kats := Tbl.set s.kats k 1 }
    else settle (katFailed s k)

/-! ### Meanings -/

/-- CORE_RESET. -/
def execCoreReset (target reason : Nat) (s : State) : Host.Outcome State Fault Refusal := .next (requestReset s 0 target reason)
/-- CLUSTER_RESET. -/
def execClusterReset (target reason : Nat) (s : State) : Host.Outcome State Fault Refusal := .next (requestReset s 1 target reason)
/-- PARTITION_RESET. -/
def execPartitionReset (target reason : Nat) (s : State) : Host.Outcome State Fault Refusal := .next (requestReset s 2 target reason)
/-- DEVICE_WARM_RESET. -/
def execDeviceWarmReset (reason : Nat) (s : State) : Host.Outcome State Fault Refusal := .next (deviceReset s false reason)
/-- DEVICE_COLD_RESET. -/
def execDeviceColdReset (reason : Nat) (s : State) : Host.Outcome State Fault Refusal := .next (deviceReset s true reason)
/-- QUIESCE_DONE. -/
def execQuiesceDone (s : State) : Host.Outcome State Fault Refusal :=
  .next (match waitingOp s true with
    | some o => stopDomain s o false
    | none => s)
/-- QUIESCE_TIMEOUT. -/
def execQuiesceTimeout (s : State) : Host.Outcome State Fault Refusal :=
  .next (match waitingOp s false with
    | some o => stopDomain s o true
    | none => s)
/-- FORCE_ACK_TIMEOUT. -/
def execForceAckTimeout (block : Nat) (s : State) : Host.Outcome State Fault Refusal := .next (forceAckTimeout s block)
/-- BOUNDARY_DRAIN_DONE. -/
def execBoundaryDrainDone (s : State) : Host.Outcome State Fault Refusal := .next (drained s)
/-- WIPE_DONE. -/
def execWipeDone (bad : List Nat) (s : State) : Host.Outcome State Fault Refusal := .next (wipeDone s bad)
/-- SYS_RST_N_INPUT: ignored while the device drives the pin itself (R443). -/
def execSysRstNInput (s : State) : Host.Outcome State Fault Refusal :=
  .next (if (s.devReset.map (·.low)).getD false then s else deviceReset s true 3)
/-- SYS_RST_N_STRETCH_END. -/
def execSysRstNStretchEnd (s : State) : Host.Outcome State Fault Refusal := .next (stretchEnd s)
/-- PIP_WATCHDOG (R454). -/
def execPipWatchdog (s : State) : Host.Outcome State Fault Refusal := .next (deviceReset s false 6)
/-- THERM_TRIP. -/
def execThermTrip (s : State) : Host.Outcome State Fault Refusal := .next (thermTrip s)
/-- PERST_N_FALL (R440). -/
def execPerstNFall (s : State) : Host.Outcome State Fault Refusal :=
  .next (if s.perstN then deviceReset { s with perstN := false } false 2 else s)
/-- PERST_N_RISE: CXL training may begin (R430). -/
def execPerstNRise (s : State) : Host.Outcome State Fault Refusal := .next { s with perstN := true }
/-- DL_ACTIVE_LOSS (R387): a reset while PERST_N is high. -/
def execDlActiveLoss (s : State) : Host.Outcome State Fault Refusal :=
  .next (if s.perstN && rd s .linkWidth != 0 then deviceReset s false 4 else s)
/-- FW_CHUNK_REPORT. -/
def execFwChunkReport (phys missing : Nat) (digestOk : Bool) (s : State) : Host.Outcome State Fault Refusal := .next (chunkReport s phys missing digestOk)
/-- FW_REPORT_TIMEOUT: treated as every chunk missing (R433). -/
def execFwReportTimeout (phys : Nat) (s : State) : Host.Outcome State Fault Refusal := .next (chunkReport s phys (allChunks s) false)
/-- KAT_DONE. -/
def execKatDone (unit : KatUnit) (crc : Nat) (s : State) : Host.Outcome State Fault Refusal := .next (katDone s unit crc)
/-- KAT_TIMEOUT: a core's run does not finish (R435). -/
def execKatTimeout (phys : Nat) (s : State) : Host.Outcome State Fault Refusal :=
  .next (if s.kats.any (fun e => e.1 < 8192 && e.1 / 8 == phys) then settle (failPhys s phys) else s)

end Sys2Proof.Machine
end

