-- ==== Sys2Proof/Machine/Loader.lean ====
section
/-!
DEFINITION. Sys2Proof/Machine/Loader.lean: a load from its start to its commit (R60 to R76, R80, R319, R463).
-/
namespace Sys2Proof.Machine

/-! ### What the checks read of the device -/

/-- The hash in customer key slot k, where it is programmed and not revoked (R60). -/
def custKey (s : State) (k : Nat) : Option (List Byte) :=
  if bit s.fuses.programmed k && !bit s.fuses.revoked k then Tbl.find s.fuses.cust k else none

/-- The partitions whose state is one of a list, as a mask. -/
def partsIn (s : State) (l : List Nat) : Nat := ((List.range 32).map (fun p => if l.contains (partState s p) then 2 ^ p else 0)).sum

/-- What the checks of Table 2.17 need of the device as it stands. -/
def loadEnv (s : State) : LoadEnv :=
  { variant := s.variant, stepping := s.stepping, deviceId := deviceId s, ports := portCount s, hbmBytes := hbmBytes s
    lifeOk := lcState s == 1 || lcState s == 2, keys := [0, 1, 2, 3].map (custKey s), sigFuse := s.fuses.sigRequired, bound := s.bound
    committed := s.committed, active := partsIn s [1, 2], running := partsIn s [2], present := s.coreMap.map (·.1)
    retired := ((List.range 1024).filter (fun n => rd s .retiredValid n == 1)).map (fun n => rd s .retiredPage n) }

/-! ### Steps 1 to 3 (R64, R66, R69) -/

/-- A load accepted: BUSY, and the verify pass begins (step 2). -/
def acceptLoad (s : State) (who : LoadWho) (len : Nat) (verifyOnly : Bool) : State :=
  let x : LoadSt := ⟨who, len, verifyOnly, 2, [], [], [], [], none, 0⟩
  readImage (setLoad (wr s .qimgBusy 0 1) x) x

/-- START written to QIMG_CTRL: ignored and counted while a load runs (R69), and before bring-up has ended (R63). -/
def startLoad (s : State) (vector : Nat) (verifyOnly : Bool) : State :=
  let s := wrs s [(.qimgVerifyOnly, 0, b2n verifyOnly), (.qimgVector, 0, vector)]
  if rd s .qimgBusy = 1 then inc s .qimgBusyRejectCnt
  else if !ready s then s
  else acceptLoad s .host (rd s .qimgLen) verifyOnly

/-- The feed queries of a load: the own device entry, job and partner of every job with CHERRY (R64). -/
def feedQueries (s : State) (img : List Byte) : List (Nat × Nat × Nat) :=
  let b := imageBound img
  (b.jobs.filter (·.cherry)).filterMap (fun j =>
    match b.devs.find? (fun d => d.job == j.id && some d.dev == deviceId s) with
    | some d => d.partner.map (fun p => (d.off, j.id, p))
    | none => none)

/-- Step 4: the targets are reset, as a partition reset resets them (R66). -/
def beginTargets (s : State) (x : LoadSt) : State :=
  let x := { x with step := 4 }
  let s := setLoad s x
  if loadTargets x = 0 then loadWiped s else startReset s 2 (loadTargets x) 0x0A

/-- The job of an image allows a shared feed (R65). -/
def sharedAllowed (img : List Byte) (j : Nat) : Bool := (imageBound img).resils.any (fun r => r.job == j && r.allowShared)

/-- The end of step 3: check 20, the end of a verify-only load, or step 4 (R64, R74). -/
def feedsDone (s : State) (x : LoadSt) : State :=
  if x.asked ≠ [] then setLoad s x
  else
    match lowestOff (x.feeds.map (fun f => orAt (!(f.2.2 == rd s .feedId && !sharedAllowed x.img f.2.1)) f.1)) with
    | some o => endLoad s x ⟨0x14, .permission, o⟩
    | none => if x.verifyOnly then endLoad s x ⟨0, .ok, noOff⟩ else beginTargets s x

/-- A partner's answer to a feed query (R64): anything but OK is no answer. -/
def loadFeedAnswer (s : State) (dev : Nat) (st : Status) (b : List Byte) : State :=
  match s.load with
  | none => s
  | some x =>
    if x.step ≠ 3 ∨ st ≠ .ok then s
    else
      let mine := x.asked.filter (fun a => a.2.2 == dev)
      feedsDone s { x with asked := x.asked.filter (fun a => a.2.2 != dev), feeds := x.feeds ++ mine.map (fun a => (a.1, a.2.1, fbits b 0 1 3 0)) }

/-- The source as a pass of the load read it: from the host as the command gives it, from the fabric once all of it has come. No byte past the
command's length is read (DEDUCED, log entry 8): a signature section header that would lie there breaks R59 at check 3. -/
def passSource (x : LoadSt) (src : Option (List Byte)) : Option (Option (List Byte)) :=
  match x.who with
  | .host => some (src.map (fun b => b.take x.len))
  | .mgmt _ _ _ => if x.got.length < x.len then none else some (some (x.got.take x.len))

/-- LOAD_VERIFY_PASS_END: the end of a load whose targets were reset meanwhile, or checks 2 to 18, then the feed queries (R62, R64, R71). -/
def verifyPassEnd (s : State) (src : Option (List Byte)) : State :=
  match s.load with
  | none => s
  | some x =>
    if x.step ≠ 2 then s
    else match passSource x src with
      | none => s
      | some none =>
        if (loadEnv s).lifeOk then endLoad s x ⟨0x15, .uncorrectable, noOff⟩ else endLoad s x ⟨0x02, .permission, noOff⟩
      | some (some img) =>
        let x := { x with img := img }
        if Nat.land x.hit (loadTargets x) ≠ 0 then endLoad s x interrupted
        else match verifyImage (loadEnv s) img x.len with
        | some f => endLoad s x f
        | none =>
          let asked := feedQueries s img
          let x := { x with step := 3, asked := asked, got := [] }
          let s := setLoad s x
          let s := (asked.map (fun a => a.2.2)).dedup.foldl (fun s d => mgmtRequest s d 0x02 [] (.loadFeed d)) s
          feedsDone s x

/-- LOAD_FEED_QUERY_TIMEOUT: a partner has not answered within 100 ms (check 19). -/
def feedTimeout (s : State) : State :=
  match s.load with
  | none => s
  | some x =>
    match lowestOff (x.asked.map (fun a => some a.1)) with
    | some o => if x.step = 3 then endLoad s x ⟨0x13, .peerLost, o⟩ else s
    | none => s

/-! ### IMAGE_READ answers (R331) -/

/-- The source of a load from the fabric fails: in the apply pass the targets stay EMPTY (R70). -/
def sourceFailed (s : State) (x : LoadSt) : State :=
  endLoad (if x.step = 6 then emptyTargets s (loadTargets x) else s) x ⟨0x15, .uncorrectable, noOff⟩

/-- An answer to IMAGE_READ: data in order, or a failed read. -/
def imageReadAnswer (s : State) (off : Nat) (st : Status) (b : List Byte) : State :=
  match s.load with
  | none => s
  | some x =>
    if x.got.length ≠ off then s
    else if st ≠ .ok ∨ b.length ≠ min 4096 (x.len - off) then sourceFailed s x
    else
      let x := { x with got := x.got ++ b }
      readImage (setLoad s x) x

/-! ### The commit (R72, R80, R319, R427, R463, R513) -/

/-- A measurement slot extended: SHA-384(slot ‖ DIGEST) (R72). -/
def extendSlot (s : State) (i kind id : Nat) (digest : List Byte) : State :=
  let s := { s with meas := Tbl.set s.meas i (sha384 (Tbl.getD s.meas i (zeros 48) ++ digest)) }
  let e := toLE 1 i ++ toLE 1 kind ++ zeros 6 ++ toLE 8 id ++ digest
  if s.measLog.length < 256 then { s with measLog := s.measLog ++ [e] }
  else
    let s := { s with measLog := s.measLog.drop 1 ++ [e], measDrops := s.measDrops + 1 }
    if (s.measDrops - 1) % 256 = 0 then postEvent s 0x0303 0 0 (devId s) 0 0 else s

/-- Structures newly bound join those that stay bound. A requirement of signatures that a whole-device image set stays until the next device warm
or cold reset (R61). -/
def mergeBound (old new : Bound) (whole : Bool) : Bound :=
  if whole then { new with requireSig := old.requireSig || new.requireSig }
  else
    { old with
      cores := old.cores ++ new.cores, chains := old.chains ++ new.chains, routes := old.routes ++ new.routes, queues := old.queues ++ new.queues
      regions := old.regions ++ new.regions, samps := old.samps ++ new.samps, trees := old.trees ++ new.trees, jobs := old.jobs ++ new.jobs
      devs := old.devs ++ new.devs, resils := old.resils ++ new.resils, checks := old.checks ++ new.checks, pipes := old.pipes ++ new.pipes
      blobs := old.blobs ++ new.blobs }

/-- The contexts in use by job slots, as (base, count). -/
def ctxRanges (s : State) : List (Nat × Nat) :=
  ((List.range 64).filter (fun n => rd s .jobSlotValid n == 1)).map (fun n => (rd s .jobSlotCtxBase n, rd s .jobSlotCtxCount n))

/-- The lowest free range of n contexts (R319): it starts at 0 or where a range in use ends. -/
def freeRange (s : State) (n : Nat) : Nat :=
  let u := ctxRanges s
  let starts := sortNat (0 :: u.map (fun r => r.1 + r.2))
  (starts.find? (fun b => u.all (fun r => !overlaps b n r.1 r.2) && b + n ≤ 8192)).getD 0

/-- A job takes the lowest free slot and its contexts, and its apply is not locked (R271, R319, R342, R427). -/
def bindJob (s : State) (j : JobDef) : State :=
  match (List.range 64).find? (fun n => rd s .jobSlotValid n == 0) with
  | none => s
  | some n =>
    let partner := (s.bound.devs.find? (fun d => d.job == j.id && some d.dev == deviceId s)).bind (·.partner)
    wrs { s with pairs := Tbl.put s.pairs n PairSt.init PairSt.init }
      [(.jobSlotJobId, n, j.id), (.jobSlotCtxBase, n, freeRange s j.ctxCount), (.jobSlotCtxCount, n, j.ctxCount), (.jobSlotValid, n, 1),
       (.applyLocked, j.id / 32, setBits (rd s .applyLocked (j.id / 32)) (j.id % 32) 1 0), (.jobEpoch, n, j.epoch), (.pairState, n, b2n j.cherry), (.pairPartner, n, partner.getD 0)]

/-- The queue registers of a binding. -/
def bindQueue (s : State) (q : QueueBind) : State := wrs s [(.qKind, q.id, q.kind), (.qDepthLog2, q.id, q.depthLog2)]

/-- The status entry of a partition at a commit (Table 18.4). -/
def bindPart (s : State) (b : Bound) (id : Nat) (p : Nat) : State :=
  inc (wrs s [(.jobsBound, p, (b.jobs.filter (fun x => x.part == p)).length), (.coresAssigned, p, (b.cores.filter (fun x => x.part == p)).length),
    (.queuesBound, p, (b.queues.filter (fun x => x.part == p)).length), (.regionsBound, p, (b.regions.filter (fun x => x.part == p)).length),
    (.partImageId, p, id), (.partCommitNs, p, nowNs s)]) .partCommitCnt p

/-- PART_STATE and CLUSTER_MASK of every partition after a whole-device image; those it populates run (R44, R45, R513). -/
def mapParts (s : State) (b : Bound) (run : List Nat) : State :=
  (List.range 32).foldl (fun s p =>
    match b.map.find? (fun d => d.id == p) with
    | some d => wr (setPartState s p (if run.contains p then 2 else 0)) .partClusterMask p d.mask
    | none => wr (setPartState s p 3) .partClusterMask p 0) s

/-- The blob that core assignment c names. -/
def blobOf (b : Bound) (c : CoreAsg) : Option Blob := if c.prog = 0xFFFF then none else b.blobs.find? (fun g => g.part == c.part && g.id == c.prog)

/-- The program of a core placed at its LOAD_OFFSET, and entered in user mode by the core's firmware (R80). -/
def enterProgram (s : State) (b : Bound) (c : CoreAsg) : State :=
  match blobOf b c with
  | none => s
  | some g =>
    let s := (writeMem s (coreBase c.core + g.loadOff) g.bytes).1
    let k := coreSt s c.core
    if k.hart.live then
      let x := [(10, BitVec.ofNat 64 c.job), (11, BitVec.ofNat 64 c.core), (12, BitVec.ofNat 64 (devId s))]
      setCore s c.core { k with hart := { Hart.init with live := true, user := true, csr := k.hart.csr, pc := BitVec.ofNat 64 g.loadOff, x := x.filter (fun e => e.2 != 0) } }
    else s

/-- SHARED_FEED of every Cherry job of the image (R65, R392). -/
def bindFeeds (s : State) (x : LoadSt) : State :=
  x.feeds.foldl (fun s f => match slotOf s f.2.1 with
    | some n => applyFeed s n f.2.1 f.2.2
    | none => s) s

/-- Step 7: everything the image binds takes effect together. -/
def commitImage (s : State) (x : LoadSt) : State :=
  let h := readHdr x.img
  let b := imageBound x.img
  let whole := h.scope == 0
  let ps := if whole then sortNat (b.map.map (·.id)) else onesOf 32 h.mask
  let nb := mergeBound s.bound { b with requireSig := h.requireSig } whole
  let s := { s with bound := nb, committed := true }
  let s := ps.foldl (fun s p => extendSlot s (0x10 + p) 1 h.imageId h.digest) s
  let s := if whole then mapParts s b (populated (imageSections x.img)) else ps.foldl (fun s p => setPartState s p 2) s
  let s := (b.jobs.foldl (fun l j => (l.filter (fun y => y.id < j.id)) ++ [j] ++ l.filter (fun y => j.id < y.id)) []).foldl bindJob s
  let s := b.queues.foldl bindQueue s
  let s := ps.foldl (fun s p => bindPart s b h.imageId p) s
  let s := bindFeeds (wr s .lastImageId 0 h.imageId) x
  endLoad (b.cores.foldl (fun s c => enterProgram s b c) (applyMinLanes s)) x ⟨0, .ok, noOff⟩

/-- LOAD_APPLY_PASS_END: the source read again, its digest compared, and the commit (R70, R72). -/
def applyPassEnd (s : State) (src : Option (List Byte)) : State :=
  match s.load with
  | none => s
  | some x =>
    if x.step ≠ 6 then s
    else match passSource x src with
      | none => s
      | some none => sourceFailed s x
      | some (some img) =>
        let h := readHdr x.img
        if imageDigest img (readHdr img) = h.digest ∧ readHdr img = h then commitImage (setLoad s { x with step := 7 }) { x with img := img, step := 7 }
        else endLoad (emptyTargets s (loadTargets x)) x ⟨0x16, .checkMismatch, 0x30⟩

/-! ### Meanings -/

/-- QIMG_START. -/
def execQimgStart (vector : Nat) (s : State) : Host.Outcome State Fault Refusal := .next (startLoad s vector false)
/-- QIMG_VERIFY_ONLY. -/
def execQimgVerifyOnly (vector : Nat) (s : State) : Host.Outcome State Fault Refusal := .next (startLoad s vector true)
/-- LOAD_VERIFY_PASS_END. -/
def execLoadVerifyPassEnd (src : Option (List Byte)) (s : State) : Host.Outcome State Fault Refusal := .next (verifyPassEnd s src)
/-- LOAD_FEED_QUERY_TIMEOUT. -/
def execLoadFeedQueryTimeout (s : State) : Host.Outcome State Fault Refusal := .next (feedTimeout s)
/-- LOAD_APPLY_PASS_END. -/
def execLoadApplyPassEnd (src : Option (List Byte)) (s : State) : Host.Outcome State Fault Refusal := .next (applyPassEnd s src)

end Sys2Proof.Machine
end

