-- ==== Sys2Proof/Machine/Spdm.lean ====
section
/-!
DEFINITION. Sys2Proof/Machine/Spdm.lean: SPDM requests, management contexts, measurements, and the fuse and identity requests (R328, R460 to R468).
Message layouts are those of DSP0274 1.2 (log entry 26); signatures, nonces and key shares are free bytes (log entry 5).
-/
namespace Sys2Proof.Machine

/-! ### Paths and answers -/

/-- The key of a path in State.spdm. -/
def spdmKey : SpdmPath → Nat
  | .doe => 0
  | .sideband => 1
  | .mailbox => 2
  | .packet src _ => 16 + src

/-- The SPDM state of a path. -/
def spdmOf (s : State) (p : SpdmPath) : SpdmLink := Tbl.getD s.spdm (spdmKey p) SpdmLink.init
/-- The SPDM state of a path replaced. -/
def setSpdm (s : State) (p : SpdmPath) (x : SpdmLink) : State := { s with spdm := Tbl.put s.spdm (spdmKey p) x SpdmLink.init }

/-- A path that is a local entry (R327). -/
def localPath : SpdmPath → Bool
  | .sideband => true
  | .mailbox => true
  | _ => false

/-- A data object of a DOE instance: vendor 0x0001, its type, its length in doublewords (log entry 26). -/
def doeObject (typ : Nat) (b : List Byte) : List Byte :=
  let n := roundUp b.length 4
  toLE 2 1 ++ toLE 1 typ ++ [0] ++ toLE 4 (n / 4 + 2) ++ fit b n

/-- A message sent on a path; in a session it travels as a secured message, shown here decrypted (log entry 26). -/
def spdmOut (s : State) (r : SpdmReq) (b : List Byte) : State :=
  match r.path with
  | .doe => emit s (.object 0 (doeObject (if r.session.isSome then 2 else 1) b))
  | .sideband => emit s (.object 2 (toLE 1 (if r.session.isSome then 6 else 5) ++ b))
  | .mailbox => endMbox s 0 b
  | .packet src tag => originate s (mgmtPkt s src 3 tag true r.session.isSome 0 b)

/-- An ERROR response. -/
def spdmError (code : Nat) (extra : List Byte := []) : List Byte := [0x12, 0x7F] ++ toLE 1 code ++ [0] ++ extra

/-- A response sent, in chunks where it exceeds the requester's DataTransferSize (R464). -/
def spdmAnswer (s : State) (r : SpdmReq) (b : List Byte) : State :=
  let x := spdmOf s r.path
  if b.length ≤ min 4096 x.size then spdmOut s r b
  else spdmOut (setSpdm s r.path { x with large := some (x.handle, 0, b), handle := (x.handle + 1) % 256 }) r (spdmError 0x0F (toLE 1 x.handle))

/-- The management context of a secured message that arrives on a path: one open there, which expects the message's sequence number; a replayed
message is one of no session (R328, log entry 26). -/
def sessionAt (s : State) (path : SpdmPath) (session : Option Nat) (seq : Nat) : Option Session :=
  session.bind (fun n => (Tbl.find s.sessions n).bind (fun x => if spdmKey x.path = spdmKey path ∧ x.seq = seq then some x else none))

/-- The management context of a request (R328). -/
def sessionOf (s : State) (r : SpdmReq) : Option Session := sessionAt s r.path r.session r.seq

/-- A secured message taken: its session, where that is still open, expects the next number. -/
def seqTaken (s : State) (path : SpdmPath) (session : Option Nat) (seq : Nat) : State :=
  match session, sessionAt s path session seq with
  | some n, some x => { s with sessions := Tbl.set s.sessions n { x with seq := seq + 1 } }
  | _, _ => s

/-! ### Measurements (R462, R463) -/

/-- The indices of Table 16.4, ascending. -/
def measIndices : List Nat := (List.range 7).map (· + 1) ++ (List.range 32).map (· + 0x10) ++ [0xFD]

/-- DMTF value type of a slot. -/
def measType (i : Nat) : Nat :=
  if i = 1 then 0x00 else if i = 2 ∨ i = 3 then 0x01 else if i = 4 then 0x02 else if i = 6 then 0x85 else if i = 7 then 0x87 else if i = 0xFD then 0x84 else 0x03

/-- The value of a slot now. -/
def measValue (s : State) (i : Nat) : List Byte :=
  if i = 6 then toLE 1 (lcState s) ++ toLE 1 (rd s .deviceVmode) ++ toLE 1 (rd s .bringupState) ++ [0] ++ toLE 2 (rd s .logicalCoreCount) ++ [0, 0]
  else if i = 0xFD then s.measLog.flatten
  else Tbl.getD s.meas i (zeros 48)

/-- The measurement block of a slot. -/
def measBlock (s : State) (i : Nat) : List Byte :=
  let v := measValue s i
  toLE 1 i ++ [1] ++ toLE 2 (v.length + 3) ++ toLE 1 (measType i) ++ toLE 2 v.length ++ v

/-- The measurement summary hash of a type: 0xFF all blocks, 1 those of the firmware that runs. -/
def measSummary (s : State) (typ : Nat) : List Byte :=
  if typ = 0 then [] else sha384 ((if typ = 0xFF then measIndices else [1, 2, 3]).flatMap (measBlock s))

/-! ### Requests outside sessions -/

/-- GET_VERSION: 1.2 only; the connection begins anew. -/
def spdmVersion (s : State) (r : SpdmReq) : State × List Byte :=
  (setSpdm s r.path { SpdmLink.init with level := 1 }, [0x10, 0x04, 0, 0, 0, 1, 0x00, 0x12])

/-- The capability flags of Table 16.5. -/
def spdmFlags : Nat := 0x2 + 0x4 + 0x10 + 0x20 + 0x40 + 0x80 + 0x100 + 0x200 + 0x1000 + 0x2000 + 0x4000 + 0x20000

/-- GET_CAPABILITIES; CTExponent is free. -/
def spdmCaps (s : State) (r : SpdmReq) : State × List Byte :=
  if r.body.length < 16 ∨ fld r.body 8 4 < 42 then (s, spdmError 1)
  else
    let f := freshBytes (setSpdm s r.path { spdmOf s r.path with level := 2, size := fld r.body 8 4 }) 1
    (f.1, [0x12, 0x61, 0, 0, 0] ++ f.2 ++ [0, 0] ++ toLE 4 spdmFlags ++ toLE 4 4096 ++ toLE 4 65536)

/-- NEGOTIATE_ALGORITHMS: what Table 16.5 lists, where the requester offers it. -/
def spdmAlgs (s : State) (r : SpdmReq) : State × List Byte :=
  if r.body.length < 28 then (s, spdmError 1)
  else
    let asym := if bit (fld r.body 4 4) 7 then 0x80 else 0
    let hash := if bit (fld r.body 8 4) 1 then 0x2 else 0
    let tables := [2, 0x20, 0x10, 0, 3, 0x20, 0x2, 0, 4, 0x20, 0x80, 0, 5, 0x20, 0x1, 0]
    (setSpdm s r.path { spdmOf s r.path with level := 3 },
     [0x12, 0x63, 4, 0] ++ toLE 2 52 ++ [1, 2] ++ toLE 4 0x4 ++ toLE 4 asym ++ toLE 4 hash ++ zeros 16 ++ tables)

/-- GET_DIGESTS: no slot while slot 0 is unprovisioned (R461). -/
def spdmDigests (s : State) (_ : SpdmReq) : State × List Byte :=
  match s.certChain with
  | none => (s, [0x12, 0x01, 0, 0])
  | some c => (s, [0x12, 0x01, 0, 1] ++ sha384 c)

/-- GET_CERTIFICATE of slot 0. -/
def spdmCert (s : State) (r : SpdmReq) : State × List Byte :=
  match s.certChain with
  | none => (s, spdmError 5)
  | some c =>
    let off := fld r.body 0 2
    if r.param1 % 16 ≠ 0 ∨ r.body.length < 4 ∨ c.length ≤ off then (s, spdmError 1)
    else
      let n := min (fld r.body 2 2) (c.length - off)
      (s, [0x12, 0x02, 0, 0] ++ toLE 2 n ++ toLE 2 (c.length - off - n) ++ slice c off n)

/-- CHALLENGE. -/
def spdmChallenge (s : State) (r : SpdmReq) : State × List Byte :=
  match s.certChain with
  | none => (s, spdmError 5)
  | some c =>
    if r.param1 ≠ 0 ∨ r.body.length < 32 then (s, spdmError 1)
    else
      let a := freshBytes s 32
      let b := freshBytes a.1 96
      (b.1, [0x12, 0x03, 0, 1] ++ sha384 c ++ a.2 ++ measSummary s r.param2 ++ [0, 0] ++ b.2)

/-- GET_MEASUREMENTS: one snapshot of every slot and of the log (R464). -/
def spdmMeas (s : State) (r : SpdmReq) : State × List Byte :=
  let sig := bit r.param1 0
  let ids := if r.param2 = 0 then [] else if r.param2 = 0xFF then measIndices else measIndices.filter (· == r.param2)
  if (r.param2 ≠ 0 ∧ ids = []) ∨ (sig ∧ r.body.length < 33) then (s, spdmError 1)
  else if sig && s.certChain.isNone then (s, spdmError 5)
  else
    let rec' := ids.flatMap (measBlock s)
    let a := freshBytes s 32
    let b := if sig then freshBytes a.1 96 else (a.1, [])
    (b.1, [0x12, 0x60] ++ toLE 1 (if r.param2 = 0 then measIndices.length else 0) ++ [0] ++ toLE 1 ids.length ++ toLE 3 rec'.length ++ rec' ++ a.2 ++ [0, 0] ++ b.2)

/-! ### Sessions (R328) -/

/-- The session numbers in use: open, or awaiting a FINISH. -/
def sessionsUsed (s : State) : List Nat := s.sessions.map (·.1) ++ s.spdm.filterMap (fun e => e.2.hs)

/-- KEY_EXCHANGE: one of at most 16 sessions (Table 16.5). -/
def spdmKeyExchange (s : State) (r : SpdmReq) : State × List Byte :=
  let x := spdmOf s r.path
  if s.certChain.isNone then (s, spdmError 5)
  else if r.param2 ≠ 0 ∨ r.body.length < 134 then (s, spdmError 1)
  else match (List.range 16).find? (fun n => !(sessionsUsed s).contains n) with
    | none => (s, spdmError 0x0A)
    | some n =>
      let a := freshBytes (setSpdm s r.path { x with hs := some n }) 225
      (a.1, [0x12, 0x64] ++ a.2.take 1 ++ [0] ++ toLE 2 n ++ [2, 0] ++ slice a.2 1 32 ++ slice a.2 33 96 ++ measSummary s r.param1 ++ [0, 0] ++ slice a.2 129 96)

/-- The customer key slots that are programmed and not revoked. -/
def custSlots (s : State) : List Nat := (List.range 4).filter (fun k => (custKey s k).isSome)
/-- The hash is that of a usable customer key. -/
def isCust (s : State) (h : List Byte) : Bool := (custSlots s).any (fun k => custKey s k == some h)
/-- The hash is that of the manufacturing key. -/
def isMfg (s : State) (h : List Byte) : Bool := h == s.fuses.mfgKey
/-- A key that a management context accepts in the present state (Table 16.6). -/
def keyAccepted (s : State) (h : List Byte) : Bool :=
  ((lcState s == 1 || lcState s == 2) && isCust s h) || ((lcState s == 1 || lcState s == 3) && isMfg s h)

/-- FINISH: the requester is authenticated, and the session is a management context (R328). -/
def spdmFinish (s : State) (r : SpdmReq) : State × List Byte :=
  let x := spdmOf s r.path
  match x.hs with
  | none => (s, spdmError 4)
  | some n =>
    let s := setSpdm s r.path { x with hs := none }
    let h := sha384 r.key
    if r.verifies = false then (s, spdmError 6)
    else if keyAccepted s h = false then (s, spdmError 5)
    else ({ s with sessions := Tbl.set s.sessions n ⟨r.path, h, r.certHash, isMfg s h && lcState s != 2, 0⟩ }, [0x12, 0x65, 0, 0])

/-- HEARTBEAT in a session. -/
def spdmHeartbeat (s : State) (r : SpdmReq) : State × List Byte := if (sessionOf s r).isSome then (s, [0x12, 0x68, 0, 0]) else (s, spdmError 4)

/-- KEY_UPDATE in a session: operations 1 to 3. -/
def spdmKeyUpdate (s : State) (r : SpdmReq) : State × List Byte :=
  if (sessionOf s r).isNone then (s, spdmError 4)
  else if r.param1 = 0 ∨ 3 < r.param1 then (s, spdmError 1)
  else (s, [0x12, 0x69] ++ toLE 1 r.param1 ++ toLE 1 r.param2)

/-- A management context ends. -/
def endSession (s : State) (n : Nat) : State := { s with sessions := Tbl.del s.sessions n }

/-- END_SESSION. -/
def spdmEnd (s : State) (r : SpdmReq) : State × List Byte :=
  match sessionOf s r, r.session with
  | some _, some n => (endSession s n, [0x12, 0x6C, 0, 0])
  | _, _ => (s, spdmError 4)

/-! ### Fuse and identity requests (R466 to R468) -/

/-- The session is of a usable customer key. -/
def custSession (s : State) (r : SpdmReq) : Bool := ((sessionOf s r).map (fun x => isCust s x.keyHash)).getD false
/-- The session is of the manufacturing key. -/
def mfgSession (s : State) (r : SpdmReq) : Bool := ((sessionOf s r).map (·.mfg)).getD false

/-- A request that succeeded: its Stone record, and KEY_CHANGED (R468). -/
def fuseDone (s : State) (code arg : Nat) : State :=
  postEvent (stoneWrite s 0x0004 [(1, code), (1, arg)]) 0x0302 0 0 (devId s) (code + arg * 256) 0

/-- A blow: CHECK_MISMATCH where it does not read back, which the request's field verifies says (log entry 26). -/
def fuseBlow (s : State) (r : SpdmReq) (code arg : Nat) (f : Fuses) : State × Status × List Byte :=
  if r.verifies then (fuseDone { s with fuses := f } code arg, .ok, []) else (s, .checkMismatch, [])

/-- KEY_ENROLL. -/
def keyEnroll (s : State) (r : SpdmReq) : State × Status × List Byte :=
  let k := fld r.body 0 1
  let f := s.fuses
  if !(lcState s == 1 || lcState s == 2) || !(custSession s r || (f.programmed % 16 == 0 && localPath r.path && r.session.isNone)) then (s, .permission, [])
  else if r.body.length ≠ 97 then (s, .format, [])
  else if 3 < k then (s, .indexRange, [])
  else if bit f.programmed k then (s, .permission, [])
  else fuseBlow s r 1 k { f with cust := Tbl.set f.cust k (sha384 (r.body.drop 1)), programmed := setBits f.programmed k 1 1 }

/-- KEY_REVOKE: every session of that key ends at once. -/
def keyRevoke (s : State) (r : SpdmReq) : State × Status × List Byte :=
  let k := fld r.body 0 1
  let f := s.fuses
  let own := (sessionOf s r).map (·.keyHash)
  if custSession s r = false then (s, .permission, [])
  else if r.body.length ≠ 1 then (s, .format, [])
  else if 3 < k then (s, .indexRange, [])
  else if (custKey s k).isNone ∨ !((custSlots s).any (fun j => j != k)) ∨ own = custKey s k then (s, .permission, [])
  else
    let h := custKey s k
    let x := fuseBlow s r 2 k { f with revoked := setBits f.revoked k 1 1 }
    if r.verifies then ({ x.1 with sessions := x.1.sessions.filter (fun e => some e.2.keyHash != h) }, x.2) else x

/-- SET_SIG_REQUIRED. -/
def setSigRequired (s : State) (r : SpdmReq) : State × Status × List Byte :=
  if !(lcState s == 1 || lcState s == 2) || !custSession s r || (custSlots s).isEmpty then (s, .permission, [])
  else if r.body.length ≠ 0 then (s, .format, [])
  else fuseBlow s r 3 0 { s.fuses with sigRequired := true }

/-- RAISE_MIN_SVN. -/
def raiseMinSvn (s : State) (r : SpdmReq) : State × Status × List Byte :=
  let t := fld r.body 0 1
  if !(custSession s r || (lcState s == 1 && mfgSession s r)) then (s, .permission, [])
  else if r.body.length ≠ 1 then (s, .format, [])
  else if t ≤ fwMinSvn s.fuses ∨ rd s .pipFwSvn < t then (s, .permission, [])
  else fuseBlow s r 4 t { s.fuses with minSvn := blow s.fuses.minSvn (2 ^ t - 1) }

/-- A transition of Table 16.7, authorised as the table says. -/
def lcAllowed (s : State) (r : SpdmReq) (t : Nat) : Bool :=
  (lcState s == 1 && t == 2 && mfgSession s r) || (lcState s == 2 && t == 3 && custSession s r) ||
  (t == 4 && (lcState s == 1 || lcState s == 2 || lcState s == 3) && ((sessionOf s r).map (fun x => keyAccepted s x.keyHash)).getD false)

/-- LC_TRANSITION up to its answer (R467): the Stone record is written before the bit is blown. The cold reset follows the answer. -/
def lcTransition (s : State) (r : SpdmReq) : State × Status × List Byte :=
  let t := fld r.body 0 1
  let old := lcState s
  let hash := ((sessionOf s r).map (fun x => leNat x.certHash)).getD 0
  if r.body.length ≠ 1 then (s, if (sessionOf s r).isSome then .format else .permission, [])
  else if lcAllowed s r t = false then (s, .permission, [])
  else
    let s := stoneWrite s 0x0003 [(1, old), (1, t), (48, hash)]
    let s := stoneFlush (s.stoneQ.length + s.setRecs.length + 64) s
    if r.verifies then (fuseDone { s with fuses := { s.fuses with lc := setBits s.fuses.lc (t - 1) 1 1 } } 5 t, .ok, [])
    else (stoneWrite s 0x0003 [(1, old), (1, old), (48, hash)], .checkMismatch, [])

/-- GET_SEALED_DEVID: the identity under the SEALED code. -/
def sealedDevid (s : State) (r : SpdmReq) : State × Status × List Byte :=
  if lcState s ≠ 1 ∨ mfgSession s r = false then (s, .permission, [])
  else if r.body.length ≠ 0 then (s, .format, [])
  else match deviceKey s.fuses.uds 2 with
    | some (x, y) => (fuseDone s 6 0, .ok, toBE 48 x ++ toBE 48 y)
    | none => (fuseDone s 6 0, .ok, zeros 96)

/-- The response to a vendor-defined request: its status and what it returns (log entry 26). -/
def vendorReply (st : Status) (b : List Byte) : List Byte :=
  [0x12, 0x7E, 0, 0] ++ toLE 2 3 ++ [2] ++ toLE 2 0x1D9A ++ toLE 2 (b.length + 1) ++ toLE 1 st.code ++ b

/-! ### Serving (R464, R465) -/

/-- Pip answers SPDM on the path: in DEAD only GET_MEASUREMENTS on the local entries. A mailbox request must be the one that waits there. -/
def spdmServes (s : State) (r : SpdmReq) (code : Nat) : Bool :=
  pipRuns s && (lcState s != 4 || (code == 0xE0 && localPath r.path)) &&
  (r.path != .mailbox || (rd s .mboxBusy == 1 && rd s .mboxLocal == 1 && rd s .mboxCmd == 3))

/-- The set-up that a request needs, and its session (R464). -/
def spdmGate (s : State) (r : SpdmReq) (level : Nat) : Option (List Byte) :=
  if lcState s = 4 then none
  else if r.session.isSome && (sessionOf s r).isNone then some (spdmError 2)
  else if (spdmOf s r.path).level < level ∨ (level < 3 ∧ (spdmOf s r.path).level ≠ level) then some (spdmError 4)
  else none

/-- An SPDM request answered. -/
def spdmServe (s : State) (r : SpdmReq) (code level : Nat) (f : State → SpdmReq → State × List Byte) : State :=
  if spdmServes s r code = false then s
  else match spdmGate s r level with
    | some e => seqTaken (spdmAnswer s r e) r.path r.session r.seq
    | none => let x := f s r; seqTaken (spdmAnswer x.1 r x.2) r.path r.session r.seq

/-- A fuse or identity request as an SPDM request. -/
def vendorRun (f : State → SpdmReq → State × Status × List Byte) (s : State) (r : SpdmReq) : State × List Byte :=
  let x := f s r
  (x.1, vendorReply x.2.1 x.2.2)

/-- GET_VERSION, at any time. -/
def serveVersion (s : State) (r : SpdmReq) : State :=
  if spdmServes s r 0x84 then
    let x := spdmVersion s r
    seqTaken (spdmAnswer x.1 r x.2) r.path r.session r.seq
  else s

/-- LC_TRANSITION with the cold reset that follows its answer. -/
def serveLc (s : State) (r : SpdmReq) : State :=
  let old := s.fuses.lc
  let s := spdmServe s r 0xFE 3 (vendorRun lcTransition)
  if s.fuses.lc = old then s else deviceReset s true 0x0B

/-! ### Raw messages and chunks -/

/-- The fuse request of a code. -/
def vendorOf (code : Nat) : Option (State → SpdmReq → State × Status × List Byte) :=
  if code = 1 then some keyEnroll else if code = 2 then some keyRevoke else if code = 3 then some setSigRequired
  else if code = 4 then some raiseMinSvn else if code = 5 then some lcTransition else if code = 6 then some sealedDevid else none

/-- VENDOR_DEFINED_REQUEST: the PCI-SIG standard and vendor 0x1D9A; the first payload byte is the request's code (R468). -/
def spdmVendor (s : State) (r : SpdmReq) : State × List Byte :=
  let b := r.body
  if b.length < 8 ∨ fld b 0 2 ≠ 3 ∨ fld b 2 1 ≠ 2 ∨ fld b 3 2 ≠ 0x1D9A ∨ b.length < 7 + fld b 5 2 then (s, spdmError 7)
  else match vendorOf (fld b 7 1) with
    | some f => vendorRun f s { r with body := slice b 8 (fld b 5 2 - 1), verifies := true }
    | none => (s, vendorReply .format [])

/-- The handler of a request code and the set-up it needs; FINISH has a row of its own, since what it proves is found by cryptography. -/
def spdmHandler (code : Nat) : Option (Nat × (State → SpdmReq → State × List Byte)) :=
  if code = 0x81 then some (3, spdmDigests) else if code = 0x82 then some (3, spdmCert) else if code = 0x83 then some (3, spdmChallenge)
  else if code = 0xE0 then some (3, spdmMeas) else if code = 0xE1 then some (1, spdmCaps) else if code = 0xE3 then some (2, spdmAlgs)
  else if code = 0xE4 then some (3, spdmKeyExchange) else if code = 0xE8 then some (3, spdmHeartbeat) else if code = 0xE9 then some (3, spdmKeyUpdate)
  else if code = 0xEC then some (3, spdmEnd) else if code = 0xFE then some (3, spdmVendor) else none

/-- The request that the bytes of a message spell, on a path and in a session. -/
def spdmParse (path : SpdmPath) (session : Option Nat) (seq : Nat) (b : List Byte) : SpdmReq :=
  ⟨path, session, fld b 2 1, fld b 3 1, b.drop 4, [], [], false, seq⟩

/-- A message handled: its response. -/
def spdmMessage (s : State) (r : SpdmReq) (ver code : Nat) : State × List Byte :=
  if code = 0x84 then spdmVersion s r
  else if ver ≠ 0x12 ∧ lcState s ≠ 4 then (s, spdmError 0x41)
  else match spdmHandler code with
    | none => (s, spdmError 7 (toLE 1 code))
    | some (level, f) =>
      match spdmGate s r level with
      | some e => (s, e)
      | none => f s r

/-- A large request complete: handled as it would be in one piece. -/
def spdmWhole (s : State) (r : SpdmReq) (b : List Byte) : State × List Byte := spdmMessage s (spdmParse r.path r.session r.seq b) (fld b 0 1) (fld b 1 1)

/-- CHUNK_SEND: the chunks in order, at most 65,536 bytes in all; the acknowledgement of the last carries the response. -/
def spdmChunkSend (s : State) (r : SpdmReq) : State × List Byte :=
  let x := spdmOf s r.path
  let seq := fld r.body 0 2
  let n := fld r.body 4 4
  let total := if seq = 0 then fld r.body 8 4 else ((x.inMsg.map (fun m => m.2.2.1)).getD 0)
  let data := slice r.body (if seq = 0 then 12 else 8) n
  let have' := if seq = 0 then some [] else x.inMsg.bind (fun m => if m.1 = r.param2 ∧ m.2.1 = seq then some m.2.2.2 else none)
  let ack := fun (m : List Byte) => [0x12, 0x05, 0] ++ toLE 1 r.param2 ++ toLE 2 seq ++ m
  match have' with
  | none => (setSpdm s r.path { x with inMsg := none }, spdmError 4)
  | some h =>
    let h' := h ++ data
    if data.length ≠ n ∨ 65536 < total ∨ total < h'.length then (setSpdm s r.path { x with inMsg := none }, spdmError 1)
    else if bit r.param1 0 then
      let y := spdmWhole (setSpdm s r.path { x with inMsg := none }) r h'
      (y.1, ack y.2)
    else (setSpdm s r.path { x with inMsg := some (r.param2, seq + 1, total, h') }, ack [])

/-- CHUNK_GET: the next chunk of a large response. -/
def spdmChunkGet (s : State) (r : SpdmReq) : State × List Byte :=
  let x := spdmOf s r.path
  let seq := fld r.body 0 2
  match x.large with
  | none => (s, spdmError 4)
  | some (h, k, b) =>
    if h ≠ r.param2 ∨ k ≠ seq then (s, spdmError 1)
    else
      let n := min 4096 x.size - 16
      let last := decide (b.length ≤ n)
      let d := b.take n
      (setSpdm s r.path { x with large := if last then none else some (h, k + 1, b.drop n) },
       [0x12, 0x06] ++ toLE 1 (b2n last) ++ toLE 1 h ++ toLE 2 seq ++ [0, 0] ++ toLE 4 d.length ++ (if seq = 0 then toLE 4 b.length else []) ++ d)

/-- A raw SPDM message that arrives on a path (CMD 0x03, a DOE object): chunks here, FINISH left to its own row, the cold reset of a life-cycle
transition after its answer. -/
def spdmRaw (s : State) (path : SpdmPath) (session : Option Nat) (seq : Nat) (b : List Byte) : State :=
  let r := spdmParse path session seq b
  let code := fld b 1 1
  let old := s.fuses.lc
  if code = 0xE5 ∨ spdmServes s r code = false then s
  else if b.length < 4 then spdmAnswer s r (spdmError 1)
  else
    let x := if code = 0x85 ∨ code = 0x86 then
        (match spdmGate s r 3 with
         | some e => (s, e)
         | none => if code = 0x85 then spdmChunkSend s r else spdmChunkGet s r)
      else spdmMessage s r (fld b 0 1) code
    let s := spdmAnswer x.1 r x.2
    if s.fuses.lc = old then s else deviceReset s true 0x0B

/-! ### Meanings -/

/-- GET_VERSION. -/
def execGetVersion (req : SpdmReq) (s : State) : Host.Outcome State Fault Refusal := .next (serveVersion s req)
/-- GET_CAPABILITIES. -/
def execGetCapabilities (req : SpdmReq) (s : State) : Host.Outcome State Fault Refusal := .next (spdmServe s req 0xE1 1 spdmCaps)
/-- NEGOTIATE_ALGORITHMS. -/
def execNegotiateAlgorithms (req : SpdmReq) (s : State) : Host.Outcome State Fault Refusal := .next (spdmServe s req 0xE3 2 spdmAlgs)
/-- GET_DIGESTS. -/
def execGetDigests (req : SpdmReq) (s : State) : Host.Outcome State Fault Refusal := .next (spdmServe s req 0x81 3 spdmDigests)
/-- GET_CERTIFICATE. -/
def execGetCertificate (req : SpdmReq) (s : State) : Host.Outcome State Fault Refusal := .next (spdmServe s req 0x82 3 spdmCert)
/-- CHALLENGE. -/
def execChallenge (req : SpdmReq) (s : State) : Host.Outcome State Fault Refusal := .next (spdmServe s req 0x83 3 spdmChallenge)
/-- GET_MEASUREMENTS. -/
def execGetMeasurements (req : SpdmReq) (s : State) : Host.Outcome State Fault Refusal := .next (spdmServe s req 0xE0 3 spdmMeas)
/-- KEY_EXCHANGE. -/
def execKeyExchange (req : SpdmReq) (s : State) : Host.Outcome State Fault Refusal := .next (spdmServe s req 0xE4 3 spdmKeyExchange)
/-- FINISH. -/
def execFinish (req : SpdmReq) (s : State) : Host.Outcome State Fault Refusal :=
  .next (spdmServe s { req with session := none } 0xE5 3 spdmFinish)
/-- HEARTBEAT of SPDM. -/
def execHeartbeatSpdm (req : SpdmReq) (s : State) : Host.Outcome State Fault Refusal := .next (spdmServe s req 0xE8 3 spdmHeartbeat)
/-- KEY_UPDATE. -/
def execKeyUpdate (req : SpdmReq) (s : State) : Host.Outcome State Fault Refusal := .next (spdmServe s req 0xE9 3 spdmKeyUpdate)
/-- END_SESSION. -/
def execEndSession (req : SpdmReq) (s : State) : Host.Outcome State Fault Refusal := .next (spdmServe s req 0xEC 3 spdmEnd)
/-- CHUNK_SEND. -/
def execChunkSend (req : SpdmReq) (s : State) : Host.Outcome State Fault Refusal :=
  let t := spdmServe s req 0x85 3 spdmChunkSend
  .next (if t.fuses.lc = s.fuses.lc then t else deviceReset t true 0x0B)
/-- CHUNK_GET. -/
def execChunkGet (req : SpdmReq) (s : State) : Host.Outcome State Fault Refusal := .next (spdmServe s req 0x86 3 spdmChunkGet)
/-- KEY_ENROLL. -/
def execKeyEnroll (req : SpdmReq) (s : State) : Host.Outcome State Fault Refusal := .next (spdmServe s req 0xFE 3 (vendorRun keyEnroll))
/-- KEY_REVOKE. -/
def execKeyRevoke (req : SpdmReq) (s : State) : Host.Outcome State Fault Refusal := .next (spdmServe s req 0xFE 3 (vendorRun keyRevoke))
/-- SET_SIG_REQUIRED. -/
def execSetSigRequired (req : SpdmReq) (s : State) : Host.Outcome State Fault Refusal := .next (spdmServe s req 0xFE 3 (vendorRun setSigRequired))
/-- RAISE_MIN_SVN. -/
def execRaiseMinSvn (req : SpdmReq) (s : State) : Host.Outcome State Fault Refusal := .next (spdmServe s req 0xFE 3 (vendorRun raiseMinSvn))
/-- LC_TRANSITION. -/
def execLcTransition (req : SpdmReq) (s : State) : Host.Outcome State Fault Refusal := .next (serveLc s req)
/-- GET_SEALED_DEVID. -/
def execGetSealedDevid (req : SpdmReq) (s : State) : Host.Outcome State Fault Refusal := .next (spdmServe s req 0xFE 3 (vendorRun sealedDevid))

end Sys2Proof.Machine
end

