-- ==== Sys2Proof/Machine/Mgmt.lean ====
section
/-!
DEFINITION. Sys2Proof/Machine/Mgmt.lean: the mailbox, the management commands, and the answers to this device's own (R312, R327 to R331, R458,
R459, R477, R517, R519).
-/
namespace Sys2Proof.Machine

/-! ### Who may ask (R327 to R329, R459, R465) -/

/-- Classes of Table 11.9, and those of Table 16.13. -/
inductive MgmtClass where
  | anyone
  | localOnly
  | privileged
  /-- STONE_INFO, STONE_READ: local entries, or a secured message. -/
  | stone
  /-- RECOVERY_WRITE, RECOVERY_COMMIT. -/
  | recovery
  deriving DecidableEq, Repr

/-- The SPDM path of a route. -/
def routePath : MgmtRoute → SpdmPath
  | .mailbox => .mailbox
  | .sideband => .sideband
  | .packet src tag => .packet src tag

/-- The management context in which a command came: a secured message with the sequence number that the session expects (R328). -/
def mgmtSession (s : State) (r : MgmtReq) : Option Session := sessionAt s (routePath r.route) r.session r.seq

/-- The route is a local entry. -/
def localRoute (r : MgmtReq) : Bool := localPath (routePath r.route)

/-- Pip answers a command on the route at all: in ROM recovery only IDENTIFY and Table 16.13 on the sideband; in DEAD only IDENTIFY, SPDM and the Stone
requests on the local entries (R459, R465). -/
def mgmtAnswers (s : State) (r : MgmtReq) (cmd : Nat) : Bool :=
  if rd s .romRecovery = 1 then s.pwrGood && r.route == .sideband && (cmd == 1 || (0x80 ≤ cmd && cmd ≤ 0x83))
  else pipRuns s && (lcState s != 4 || (localRoute r && (cmd == 1 || cmd == 3 || cmd == 0x80 || cmd == 0x81)))

/-- The command as it stands at Pip: a mailbox command is due while it waits there, and unless it is a secured message the buffer holds its
parameters (R327). -/
def mgmtDue (s : State) (r : MgmtReq) (cmd : Nat) : Option MgmtReq :=
  match r.route with
  | .mailbox =>
    if rd s .mboxBusy = 1 ∧ rd s .mboxLocal = 1 ∧ rd s .mboxCmd = cmd then
      some (if rd s .mboxSecured = 1 then r else { r with session := none, params := mboxBytes s (min 4096 (rd s .mboxLen)) })
    else none
  | _ => some r

/-- The source of a command, as State.rejectNs numbers it. -/
def mgmtSource (r : MgmtReq) : Nat :=
  match r.route with
  | .mailbox => 0
  | .sideband => 1
  | .packet src _ => src + 2

/-- A command of a restricted class refused: PERMISSION, counted, and in Stone at most once per source per second (R327). The record holds the source
device, or this one for a local entry, and CMD. -/
def mgmtReject (s : State) (r : MgmtReq) (cmd : Nat) : State :=
  let k := mgmtSource r
  let dev := match r.route with
    | .packet src _ => src
    | _ => devId s
  let due := match Tbl.find s.rejectNs k with
    | some t => decide (t + 1000000000 ≤ s.localNs)
    | none => true
  let s := inc s .mgmtRejectCnt
  let s := if due then stoneWrite { s with rejectNs := Tbl.set s.rejectNs k s.localNs } 0x0011 [(2, dev), (1, cmd)] else s
  mgmtAnswer s r cmd .permission

/-- The class is served to whoever sent the command. -/
def classOk (s : State) (r : MgmtReq) (c : MgmtClass) : Bool :=
  match c with
  | .anyone => true
  | .localOnly => localRoute r
  | .privileged => (mgmtSession s r).isSome
  | .stone => localRoute r || (mgmtSession s r).isSome
  | .recovery => true

/-- A path that the table serves the command on (R329). -/
def pathOk (s : State) (r : MgmtReq) (c : MgmtClass) : Bool := c != .recovery || (r.route == .sideband && rd s .romRecovery == 1)

/-- A management command served: path and length first, then its class, then its own checks and effect; the session that it came in expects the
next number. -/
def mgmtServe (s : State) (r : MgmtReq) (cmd : Nat) (c : MgmtClass) (lenOk : Nat → Bool) (f : State → MgmtReq → State) : State :=
  match mgmtDue s r cmd with
  | none => s
  | some r =>
    if mgmtAnswers s r cmd = false then s
    else
      let t := if !(pathOk s r c) || !(lenOk r.params.length) then mgmtAnswer s r cmd .format
        else if classOk s r c = false then mgmtReject s r cmd
        else f s r
      seqTaken t (routePath r.route) r.session r.seq

/-! ### The open commands (R331, R517) -/

/-- The bytes of IDENTIFY (Table 11.13). -/
def identifyBytes (s : State) : List Byte :=
  toLE 8 s.serial ++ toLE 1 (s.variant % 16) ++ toLE 1 s.stepping ++ toLE 1 (lcState s) ++ toLE 1 (rd s .idValid + 2 * rd s .torusValid) ++
  toLE 2 (if rd s .idValid = 1 then devId s else 0) ++ toLE 2 (if rd s .torusValid = 1 then rd s .dimSizeM1 else 0) ++
  toLE 2 (rd s .logicalCoreCount) ++ toLE 1 (rd s .bringupState) ++ zeros 5

/-- The bytes of PORT_REPORT. -/
def portReportBytes (s : State) : List Byte :=
  (List.range 16).flatMap (fun p => toLE 4 (portWord s p) ++ toLE 4 (if portPresent s p then partnerWord s p else 0))

/-- The requester of a command. -/
def requester (s : State) (r : MgmtReq) : Nat :=
  match r.route with
  | .packet src _ => src
  | _ => devId s

/-- IMAGE_READ: a range of a ROLE 0x8 region of a RUNNING partition, for a device of its job (R331). -/
def imageRead (s : State) (r : MgmtReq) : State :=
  let fa := fld r.params 0 8
  let n := fld r.params 8 4
  let a := fa % 2 ^ 40
  let ok := fa / 2 ^ 40 == devId s && s.bound.regions.any (fun g => g.role == 8 && g.base ≤ a && a + n ≤ g.base + g.size && partServes s g.part &&
    s.bound.devs.any (fun d => d.job == g.job && d.dev == requester s r))
  if ok = false then mgmtAnswer s r 0x23 .permission
  else if 4096 < n then mgmtAnswer s r 0x23 .format
  else match readMem s a n with
    | (s, .ok b) => mgmtAnswer s r 0x23 .ok b
    | (s, .error _) => mgmtAnswer s r 0x23 .uncorrectable

/-- SPDM: a message to Pip (R464). -/
def spdmCommand (s : State) (r : MgmtReq) : State := spdmRaw s (routePath r.route) r.session r.seq r.params

/-! ### The local commands (R312, R519) -/

/-- A partition is LOADING or RUNNING. -/
def anyActive (s : State) : Bool := partsIn s [1, 2] != 0

/-- SET_TORUS: sizes of 1 to 16; a change clears the ID. -/
def setTorus (s : State) (r : MgmtReq) : State :=
  let d := (List.range 4).map (fun i => fld r.params i 1)
  let m := ((List.range 4).map (fun i => (d.getD i 1 - 1) * 16 ^ i)).sum
  if anyActive s then mgmtAnswer s r 0x10 .permission
  else if d.any (fun x => x == 0 || 16 < x) then mgmtAnswer s r 0x10 .format
  else if rd s .torusValid = 1 ∧ rd s .dimSizeM1 = m then mgmtAnswer s r 0x10 .ok
  else
    let s := wrs s [(.dimSizeM1, 0, m), (.torusValid, 0, 1), (.deviceId, 0, 0), (.idValid, 0, 0), (.coord, 0, 0)]
    mgmtAnswer (sendIdents s) r 0x10 .ok

/-- The coordinates of a device, as COORD holds them. -/
def coordWord (s : State) (dev : Nat) : Nat := ((List.range 4).map (fun d => coordOf s dev d * 16 ^ d)).sum

/-- SET_ID: an ID below the product of the sizes. -/
def setId (s : State) (r : MgmtReq) : State :=
  let id := fld r.params 0 2
  let n := dimSize s 0 * dimSize s 1 * dimSize s 2 * dimSize s 3
  if anyActive s ∨ rd s .torusValid = 0 then mgmtAnswer s r 0x11 .permission
  else if n ≤ id then mgmtAnswer s r 0x11 .indexRange
  else
    let same := rd s .idValid == 1 && devId s == id
    let s := wrs s [(.deviceId, 0, id), (.idValid, 0, 1), (.coord, 0, coordWord s id)]
    mgmtAnswer (if same then s else sendIdents s) r 0x11 .ok

/-! ### The privileged commands (R304, R307, R330, R331) -/

/-- IMAGE_LOAD: answered when the load ends; BUSY at once while another runs (R69, R75). Before bring-up has ended it is refused as R63's scope
rule refuses (log entry 10). -/
def imageLoad (s : State) (r : MgmtReq) : State :=
  let fa := fld r.params 0 8
  let flags := fld r.params 12 4
  let refuse := fun (reason : Nat) => mgmtAnswer (loadRecord s [] ⟨reason, .permission, noOff⟩) r 0x20 .permission (toLE 1 reason)
  if fa / 2 ^ 56 ≠ 0 ∨ 1 < flags then mgmtAnswer s r 0x20 .format
  else if rd s .qimgBusy = 1 then refuse 1
  else if !ready s then refuse 6
  else acceptLoad s (.mgmt r (fa / 2 ^ 40) (fa % 2 ^ 40)) (fld r.params 8 4) (flags == 1)

/-- RESET: checked, answered, recorded and begun (R330). -/
def resetCommand (s : State) (r : MgmtReq) : State :=
  let dom := fld r.params 0 1
  let tgt := fld r.params 1 4
  let hash := ((mgmtSession s r).map (fun x => leNat x.certHash)).getD 0
  let st := if dom < 3 && !ready s then Status.permission else if 4 < dom ∨ (3 ≤ dom ∧ tgt ≠ 0) then .format else resetStatus s dom tgt
  if st ≠ .ok then mgmtAnswer s r 0x21 st
  else
    let s := mgmtAnswer s r 0x21 .ok
    requestReset (stoneWrite s 0x0002 [(1, dom), (4, tgt), (4, fld r.params 5 4), (48, hash)]) dom tgt 5

/-- A port retrained on command; one that is disabled stays so until it is enabled (log entry 11). -/
def portRetrain (s : State) (p : Nat) : State :=
  if rd s .portState p = psDown ∧ rd s .portReason p = prDisabled then s
  else if portTrained s p then retrain s p prNone else dropPort s p psTraining prNone

/-- A port disabled. -/
def portDisable (s : State) (p : Nat) : State := dropPort s p psDown prDisabled
/-- A port that was disabled enabled: it trains (R304). -/
def portEnable (s : State) (p : Nat) : State :=
  if rd s .portState p = psDown ∧ rd s .portReason p = prDisabled then dropPort s p psTraining prNone else s

/-- PORT_CTRL with the action that the row names; an action outside 0x1 to 0x3 is a malformed command of any of its rows. -/
def portCtrl (act : Nat) (f : State → Nat → State) (s : State) (r : MgmtReq) : State :=
  let p := fld r.params 0 1
  let a := fld r.params 1 1
  if a = 0 ∨ 3 < a then mgmtAnswer s r 0x22 .format
  else if a ≠ act then s
  else if !portPresent s p then mgmtAnswer s r 0x22 .indexRange
  else mgmtAnswer (f s p) r 0x22 .ok

/-! ### Stone and recovery (R459, R477) -/

/-- STONE_READ. -/
def stoneRead (s : State) (r : MgmtReq) : State := mgmtAnswer s r 0x81 .ok (stoneAt s (fld r.params 0 2))

/-- RECOVERY_WRITE: bytes into slot A. -/
def recoveryWrite (s : State) (r : MgmtReq) : State :=
  let off := fld r.params 0 4
  let d := r.params.drop 4
  if slotBytes < off + d.length then mgmtAnswer s r 0x82 .bounds
  else mgmtAnswer { s with flash := putFlash s.flash off d } r 0x82 .ok

/-- RECOVERY_COMMIT: a valid slot A is preferred, and bring-up restarts; FAULT_N stays asserted until the next device reset (R431). -/
def recoveryCommit (s : State) (r : MgmtReq) : State :=
  if slotValid s 0 then
    let s := mgmtAnswer (setPreferred s 0) r 0x83 .ok
    startBoot (wrs s [(.romRecovery, 0, 0), (.bringupFailStatus, 0, 0)])
  else mgmtAnswer s r 0x83 .checkMismatch

/-! ### The mailbox (R327, R329) -/

/-- The commands that Tables 11.9 and 16.13 serve at the mailbox. -/
def mailboxCmds : List Nat := [1, 2, 3, 4, 0x10, 0x11, 0x20, 0x21, 0x22, 0x23, 0x80, 0x81]

/-- MBOX_START: a command for this device waits for Pip, or is answered FORMAT where no table serves it; another is sent once. -/
def mboxStart (s : State) (vector : Nat) : State :=
  if rd s .mboxBusy = 1 then wr s .mboxVector 0 vector
  else
    let s := wrs s [(.mboxVector, 0, vector), (.mboxBusy, 0, 1)]
    let cmd := rd s .mboxCmd
    if rd s .mboxLocal = 1 then (if mailboxCmds.contains cmd then s else endMbox s Status.format.code [])
    else sendReq s mgmtCtx (mgmtPkt s (rd s .mboxDst) cmd 0 false (rd s .mboxSecured == 1) 0 (mboxBytes s (min 4096 (rd s .mboxLen)))) .mbox

/-- MBOX_TIMEOUT: a forwarded command has no response; its tag is quarantined. -/
def mboxTimeout (s : State) : State :=
  match s.tags.find? (fun e => e.2.origin == .mbox && !e.2.quar), s.tagWait.any (fun w => w.2.2 == .mbox) with
  | some e, _ => endMbox (quarantine s e.1) Status.timeout.code []
  | none, true => endMbox { s with tagWait := s.tagWait.filter (fun w => w.2.2 != .mbox) } Status.timeout.code []
  | none, false => s

/-- MGMT_RESPONSE: matched by tag and source (R325), and given to who asked. -/
def mgmtResponse (s : State) (p : Pkt) : State :=
  if p.ptype ≠ ptMgmt ∨ !bit p.aux 8 then s
  else match Tbl.find s.tags p.tag with
    | none => inc s .rspOrphanCnt
    | some q =>
      if q.ctx ≠ mgmtCtx ∨ q.quar ∨ q.pkt.dst ≠ p.src then inc s .rspOrphanCnt
      else
        let s := releaseTag s p.tag
        let st := Status.ofCode p.status
        match q.origin with
        | .mbox => endMbox s p.status p.payload
        | .feed n => rebindFeed s n st p.payload
        | .loadFeed d => loadFeedAnswer s d st p.payload
        | .imgRead off _ => imageReadAnswer s off st p.payload
        | _ => s

/-- IMAGE_READ_TIMEOUT: sent again under its tag; after two resends the load fails (R331). -/
def imageReadTimeout (s : State) (t : Nat) : State :=
  match Tbl.find s.tags t with
  | none => s
  | some q =>
    match q.origin with
    | .imgRead off n =>
      if q.quar then s
      else if n < 2 then originate { s with tags := Tbl.set s.tags t { q with origin := .imgRead off (n + 1) } } { q.pkt with tag := t }
      else match s.load with
        | some x => sourceFailed (quarantine s t) x
        | none => quarantine s t
    | _ => s

/-! ### Meanings -/

/-- MBOX_START. -/
def execMboxStart (vector : Nat) (s : State) : Host.Outcome State Fault Refusal := .next (mboxStart s vector)
/-- MBOX_TIMEOUT. -/
def execMboxTimeout (s : State) : Host.Outcome State Fault Refusal := .next (mboxTimeout s)
/-- MGMT_RESPONSE. -/
def execMgmtResponse (pkt : Pkt) (s : State) : Host.Outcome State Fault Refusal := .next (mgmtResponse s pkt)
/-- MGMT_SESSION_IDLE_TIMEOUT. -/
def execMgmtSessionIdleTimeout (session : Nat) (s : State) : Host.Outcome State Fault Refusal := .next (endSession s session)
/-- IDENTIFY. -/
def execIdentify (req : MgmtReq) (s : State) : Host.Outcome State Fault Refusal :=
  .next (mgmtServe s req 1 .anyone (· == 0) (fun s r => mgmtAnswer s r 1 .ok (identifyBytes s)))
/-- FEED_QUERY. -/
def execFeedQuery (req : MgmtReq) (s : State) : Host.Outcome State Fault Refusal :=
  .next (mgmtServe s req 2 .anyone (· == 0) (fun s r => mgmtAnswer s r 2 .ok (toLE 1 (rd s .feedId % 16))))
/-- SPDM. -/
def execSpdm (req : MgmtReq) (s : State) : Host.Outcome State Fault Refusal := .next (mgmtServe s req 3 .anyone (fun _ => true) spdmCommand)
/-- PORT_REPORT. -/
def execPortReport (req : MgmtReq) (s : State) : Host.Outcome State Fault Refusal :=
  .next (mgmtServe s req 4 .anyone (· == 0) (fun s r => mgmtAnswer s r 4 .ok (portReportBytes s)))
/-- SET_TORUS. -/
def execSetTorus (req : MgmtReq) (s : State) : Host.Outcome State Fault Refusal := .next (mgmtServe s req 0x10 .localOnly (· == 4) setTorus)
/-- SET_ID. -/
def execSetId (req : MgmtReq) (s : State) : Host.Outcome State Fault Refusal := .next (mgmtServe s req 0x11 .localOnly (· == 2) setId)
/-- IMAGE_LOAD. -/
def execImageLoad (req : MgmtReq) (s : State) : Host.Outcome State Fault Refusal := .next (mgmtServe s req 0x20 .privileged (· == 16) imageLoad)
/-- RESET. -/
def execReset (req : MgmtReq) (s : State) : Host.Outcome State Fault Refusal := .next (mgmtServe s req 0x21 .privileged (· == 9) resetCommand)
/-- PORT_CTRL with action 0x1. -/
def execPortCtrlRetrain (req : MgmtReq) (s : State) : Host.Outcome State Fault Refusal :=
  .next (mgmtServe s req 0x22 .privileged (· == 2) (portCtrl 1 portRetrain))
/-- PORT_CTRL with action 0x2. -/
def execPortCtrlDisable (req : MgmtReq) (s : State) : Host.Outcome State Fault Refusal :=
  .next (mgmtServe s req 0x22 .privileged (· == 2) (portCtrl 2 portDisable))
/-- PORT_CTRL with action 0x3. -/
def execPortCtrlEnable (req : MgmtReq) (s : State) : Host.Outcome State Fault Refusal :=
  .next (mgmtServe s req 0x22 .privileged (· == 2) (portCtrl 3 portEnable))
/-- IMAGE_READ. -/
def execImageRead (req : MgmtReq) (s : State) : Host.Outcome State Fault Refusal := .next (mgmtServe s req 0x23 .anyone (· == 12) imageRead)
/-- IMAGE_READ_TIMEOUT. -/
def execImageReadTimeout (tag : Nat) (s : State) : Host.Outcome State Fault Refusal := .next (imageReadTimeout s tag)
/-- STONE_INFO. -/
def execStoneInfo (req : MgmtReq) (s : State) : Host.Outcome State Fault Refusal :=
  .next (mgmtServe s req 0x80 .stone (· == 0) (fun s r => mgmtAnswer s r 0x80 .ok (stoneInfoBytes s)))
/-- STONE_READ. -/
def execStoneRead (req : MgmtReq) (s : State) : Host.Outcome State Fault Refusal := .next (mgmtServe s req 0x81 .stone (· == 2) stoneRead)
/-- RECOVERY_WRITE. -/
def execRecoveryWrite (req : MgmtReq) (s : State) : Host.Outcome State Fault Refusal :=
  .next (mgmtServe s req 0x82 .recovery (fun n => 5 ≤ n && n ≤ 4100) recoveryWrite)
/-- RECOVERY_COMMIT. -/
def execRecoveryCommit (req : MgmtReq) (s : State) : Host.Outcome State Fault Refusal := .next (mgmtServe s req 0x83 .recovery (· == 0) recoveryCommit)

end Sys2Proof.Machine
end

