-- ==== Sys2Proof/Machine/Firmware.lean ====
section
/-!
DEFINITION. Sys2Proof/Machine/Firmware.lean: staging of a firmware package (R458).
-/
namespace Sys2Proof.Machine

/-- The checks of R458, in order; a source that cannot be read is UNCORRECTABLE (log entry 10). -/
def stageCheck (s : State) (src : Option (List Byte)) : Status :=
  if lcState s = 0 ∨ lcState s = 4 then .permission
  else match src with
    | none => .uncorrectable
    | some b =>
      let p := b.take (rd s .fwStageLen)
      if !pkgHdrOk p || pkgSvn p < fwMinSvn s.fuses then .format
      else if rd s .fwStageLen ≠ pkgLen p then .bounds
      else if !pkgDigestOk p then .checkMismatch
      else if !pkgKeyOk s.fuses p then .permission
      else if !pkgSigOk p then .checkMismatch
      else .ok

/-- The end of a staging: Stone record (VERSION, SVN, status, slot), FW_STAGE_DONE, message. -/
def stageEnd (s : State) (p : List Byte) (st : Status) (slot : Nat) : State :=
  let s := wrs s [(.fwStageBusy, 0, 0), (.fwStageStatus, 0, st.code)]
  let s := stoneWrite s 0x0005 [(4, pkgVersion p), (4, pkgSvn p), (1, st.code), (1, slot)]
  let s := postEvent s 0x0301 st.code 0 (devId s) (pkgVersion p + pkgSvn p % 64 * 2 ^ 32) slot
  sendMsi s (rd s .fwVector)

/-- FW_STAGE_START: the package is checked, written to the slot that does not run, and preferred from the next device reset on. -/
def stageStart (s : State) (vector : Nat) (src : Option (List Byte)) : State :=
  let s := wr s .fwVector 0 vector
  if rd s .fwStageBusy = 1 ∨ pipRuns s = false then s
  else
    let p := (src.getD []).take (rd s .fwStageLen)
    let st := stageCheck s src
    if st ≠ .ok then stageEnd s p st 0
    else
      let slot := 1 - rd s .activeSlot
      stageEnd (setPreferred { s with flash := putFlash s.flash (slotBase slot) p } slot) p .ok slot

/-- FW_STAGE_START. -/
def execFwStageStart (vector : Nat) (src : Option (List Byte)) (s : State) : Host.Outcome State Fault Refusal := .next (stageStart s vector src)

end Sys2Proof.Machine
end

