-- ==== Sys2Proof/Machine/Sideband.lean ====
section
/-!
DEFINITION. Sys2Proof/Machine/Sideband.lean: the MCTP control and PLDM endpoint of the sideband (R478 to R480). Message layouts are those of DSP0236,
DSP0240 and DSP0248 (log entry 27).
-/
namespace Sys2Proof.Machine

/-- The endpoint answers MCTP control and PLDM: not in ROM recovery, nor in DEAD (R459, R465). -/
def sideServes (s : State) : Bool := pipRuns s && lcState s != 4

/-- An MCTP control response: type 0x00, instance, command, completion code and data. -/
def ctlReply (s : State) (r : SbReq) (cmd : Nat) (cc : Nat) (b : List Byte) : State :=
  emit s (.object 2 ([0x00] ++ toLE 1 (r.inst % 32) ++ toLE 1 cmd ++ toLE 1 cc ++ b))

/-- A PLDM response: type 0x01, instance, PLDM type, command, completion code and data. -/
def pldmReply (s : State) (r : SbReq) (typ cmd cc : Nat) (b : List Byte) : State :=
  emit s (.object 2 ([0x01] ++ toLE 1 (r.inst % 32) ++ toLE 1 typ ++ toLE 1 cmd ++ toLE 1 cc ++ b))

/-- A sideband request served when its data has a length that the standard gives it; 0x03 is the standards' invalid length. -/
def ctlServe (s : State) (r : SbReq) (cmd n : Nat) (f : State → SbReq → State) : State :=
  if sideServes s = false then s else if r.data.length ≠ n then ctlReply s r cmd 0x03 [] else f s r

/-- The same for PLDM. -/
def pldmServe (s : State) (r : SbReq) (typ cmd n : Nat) (f : State → SbReq → State) : State :=
  if sideServes s = false then s else if r.data.length ≠ n then pldmReply s r typ cmd 0x03 [] else f s r

/-! ### MCTP control (Table 16.14) -/

/-- Set Endpoint ID: operations 0 and 1 assign it. -/
def setEid (s : State) (r : SbReq) : State :=
  let e := fld r.data 1 1
  if 1 < fld r.data 0 1 ∨ e = 0 ∨ e = 0xFF then ctlReply s r 1 0x02 []
  else ctlReply { s with side := { s.side with eid := e } } r 1 0 ([0] ++ toLE 1 e ++ [0])

/-- Get Endpoint ID: a simple endpoint with a dynamic ID. -/
def getEid (s : State) (r : SbReq) : State := ctlReply s r 2 0 (toLE 1 s.side.eid ++ [0, 0])

/-- Get MCTP Version Support: MCTP 1.3, or no such type. -/
def mctpVersion (s : State) (r : SbReq) : State :=
  let t := fld r.data 0 1
  if t = 0xFF ∨ t = 0 then ctlReply s r 4 0 [1, 0xF1, 0xF3, 0xFF, 0x00]
  else if t = 1 ∨ t = 5 ∨ t = 6 then ctlReply s r 4 0 [1, 0xF1, 0xF0, 0xFF, 0x00]
  else ctlReply s r 4 0x80 []

/-- Get Message Type Support: PLDM, SPDM, secured messages, vendor-defined. -/
def mctpTypes (s : State) (r : SbReq) : State := ctlReply s r 5 0 [4, 0x01, 0x05, 0x06, 0x7E]

/-- Get Vendor Defined Message Support: PCI vendor 0x1D9A. -/
def mctpVendor (s : State) (r : SbReq) : State :=
  if fld r.data 0 1 ≠ 0 then ctlReply s r 6 0x02 [] else ctlReply s r 6 0 [0xFF, 0x00, 0x1D, 0x9A, 0x00, 0x00]

/-! ### PLDM type 0 (R479) -/

/-- The CRC-32 of PLDM transfers. -/
def crc32 (l : List Byte) : Nat := Nat.xor (l.foldl (crcByte 0xEDB88320) 0xFFFFFFFF) 0xFFFFFFFF

/-- The version bytes of a PLDM type. -/
def pldmVer (typ : Nat) : Option (List Byte) := if typ = 0 then some [0x00, 0xF0, 0xF1, 0xF1] else if typ = 2 then some [0x00, 0xF0, 0xF2, 0xF1] else none

/-- The commands of a PLDM type, as a bitmap. -/
def pldmCmds (typ : Nat) : Nat :=
  if typ = 0 then 2 ^ 1 + 2 ^ 2 + 2 ^ 3 + 2 ^ 4 + 2 ^ 5
  else 2 ^ 0x04 + 2 ^ 0x0A + 2 ^ 0x0B + 2 ^ 0x0C + 2 ^ 0x0D + 2 ^ 0x11 + 2 ^ 0x21 + 2 ^ 0x50 + 2 ^ 0x51

/-- GetTID. -/
def getTid (s : State) (r : SbReq) : State := pldmReply s r 0 2 0 (toLE 1 s.side.tid)
/-- SetTID. -/
def setTid (s : State) (r : SbReq) : State :=
  let t := fld r.data 0 1
  if t = 0 ∨ t = 0xFF then pldmReply s r 0 1 0x02 [] else pldmReply { s with side := { s.side with tid := t } } r 0 1 0 []
/-- GetPLDMVersion. -/
def getPldmVersion (s : State) (r : SbReq) : State :=
  if fld r.data 4 1 ≠ 1 then pldmReply s r 0 3 0x81 []
  else match pldmVer (fld r.data 5 1) with
    | some v => pldmReply s r 0 3 0 (zeros 4 ++ [5] ++ v ++ toLE 4 (crc32 v))
    | none => pldmReply s r 0 3 0x83 []
/-- GetPLDMTypes: types 0 and 2. -/
def getPldmTypes (s : State) (r : SbReq) : State := pldmReply s r 0 4 0 (toLE 8 5)
/-- GetPLDMCommands. -/
def getPldmCommands (s : State) (r : SbReq) : State :=
  let t := fld r.data 0 1
  match pldmVer t with
  | none => pldmReply s r 0 5 0x83 []
  | some v => if slice r.data 1 4 = v then pldmReply s r 0 5 0 (toLE 32 (pldmCmds t)) else pldmReply s r 0 5 0x84 []

/-! ### Sensors and PDRs (R479, R480) -/

/-- I/O die i of the variant exists. -/
def ioDie (s : State) (i : Nat) : Bool := i < ioDieCount s

/-- The sensor is present on the variant (R480). -/
def sensorPresent (s : State) (i : Nat) : Bool :=
  i < 4 || (4 ≤ i && i < 8 && ioDie s (i - 4)) || i == 8 || (0x10 ≤ i && i < 0x10 + stackCount s) ||
  (0x20 ≤ i && i < 0x80 && railPresent s (i % 32)) || i == 0x80 || (0x81 ≤ i && i < 0x85) || (0x90 ≤ i && i ≤ 0x95)

/-- The sensor is a state sensor (Table 16.15). -/
def stateSensor (i : Nat) : Bool := 0x90 ≤ i && i ≤ 0x93

/-- The sensors of the variant, ascending. -/
def sensors (s : State) : List Nat := (List.range 256).filter (sensorPresent s)

/-- The reading of a sensor that no sample was taken of. -/
def noReading : Nat := 0x80000000

/-- A PDR's bytes: common header and a body whose fields the standard names and the spec does not give, free bytes but for the sensor ID (log entry
27). Record 1 is the terminus locator; record n + 2 is that of the n-th sensor. -/
def pdrBytes (s : State) (n : Nat) : Option (List Byte) :=
  let free := fun (k : Nat) => (List.range k).map (Config.freeByte (2 ^ 64 + n))
  if n = 1 then some (toLE 4 1 ++ [1, 1, 0, 0] ++ toLE 2 9 ++ free 9)
  else match (sensors s)[n - 2]? with
    | some i =>
      if n < 2 then none
      else if stateSensor i then some (toLE 4 n ++ [1, 4, 0, 0] ++ toLE 2 20 ++ (free 20).take 2 ++ toLE 2 i ++ (free 20).drop 4)
      else some (toLE 4 n ++ [1, 2, 0, 0] ++ toLE 2 60 ++ (free 60).take 2 ++ toLE 2 i ++ (free 60).drop 4)
    | none => none

/-- The records of the repository. -/
def pdrCount (s : State) : Nat := (sensors s).length + 1

/-- GetPDRRepositoryInfo: available, its times free, its size and its largest record. -/
def pdrInfo (s : State) (r : SbReq) : State :=
  let ls := (List.range (pdrCount s)).map (fun n => ((pdrBytes s (n + 1)).map (·.length)).getD 0)
  let f := freshBytes s 27
  pldmReply f.1 r 2 0x50 0 ([0] ++ f.2.take 26 ++ toLE 4 (pdrCount s) ++ toLE 4 ls.sum ++ toLE 4 (ls.foldl max 0) ++ f.2.drop 26)

/-- GetPDR: record 0 is the first; a record is given whole, or up to the count asked for. -/
def getPdr (s : State) (r : SbReq) : State :=
  let n := max 1 (fld r.data 0 4)
  let off := fld r.data 4 4
  match pdrBytes s n with
  | none => pldmReply s r 2 0x51 0x82 []
  | some b =>
    let d := slice b off (min (fld r.data 9 2) (b.length - off))
    let last := decide (b.length ≤ off + d.length)
    let flag := if off = 0 ∧ last = true then 5 else if off = 0 then 0 else if last then 4 else 1
    pldmReply s r 2 0x51 0 (toLE 4 (if n < pdrCount s then n + 1 else 0) ++ toLE 4 (if last then 0 else off + d.length) ++ [flag] ++ toLE 2 d.length ++ d ++
      (if last && off != 0 then toLE 1 (crc32 b % 256) else []))

/-- Whether the sensor's warning has been given and not re-armed. -/
def warned (s : State) (i : Nat) : Bool := (Tbl.find s.power.warned i).isSome

/-- GetSensorReading: a signed 32-bit reading; upper warning or normal. The previous state is free. -/
def sensorReading (s : State) (r : SbReq) : State :=
  let i := fld r.data 0 2
  if sensorPresent s i = false ∨ stateSensor i = true then pldmReply s r 2 0x11 0x80 []
  else
    let v := rd s .sensor i
    let st := if warned s i then 8 else 1
    let f := freshBytes s 2
    pldmReply f.1 r 2 0x11 0 ([5] ++ toLE 1 (if v = noReading then 2 else 0) ++ f.2.take 1 ++ toLE 1 st ++ f.2.drop 1 ++ toLE 1 st ++ toLE 4 v)

/-- GetStateSensorReadings. -/
def stateReadings (s : State) (r : SbReq) : State :=
  let i := fld r.data 0 2
  if sensorPresent s i = false ∨ stateSensor i = false then pldmReply s r 2 0x21 0x80 []
  else
    let v := rd s .sensor i
    let f := freshBytes s 1
    pldmReply f.1 r 2 0x21 0 ([1] ++ toLE 1 (if v = noReading then 2 else 0) ++ toLE 1 v ++ f.2 ++ toLE 1 v)

/-! ### Events (R479, R481) -/

/-- SetEventReceiver: mode 0 off, 1 or 3 sent at once, 2 polled. -/
def setReceiver (s : State) (r : SbReq) : State :=
  let m := fld r.data 0 1
  if 3 < m then pldmReply s r 2 4 0x02 []
  else if fld r.data 1 1 ≠ 0 then pldmReply s r 2 4 0x80 []
  else pldmReply { s with side := { s.side with receiver := if m = 0 then none else some (m, fld r.data 2 1) } } r 2 4 0 []

/-- EventMessageSupported: sensor events, asynchronous or polled. -/
def eventSupported (s : State) (r : SbReq) : State :=
  pldmReply s r 2 0x0C 0 (toLE 1 ((s.side.receiver.map (·.1)).getD 0) ++ [7, 1, 0])

/-- EventMessageBufferSize: messages up to 4,224 bytes are assembled (Table 16.14). -/
def eventBuffer (s : State) (r : SbReq) : State := pldmReply s r 2 0x0D 0 (toLE 2 (min 4224 (fld r.data 0 2)))

/-- A PlatformEventMessage: sent at once, or kept to be polled (R479). -/
def platformEvent (s : State) (cls : Nat) (d : List Byte) : State :=
  match s.side.receiver with
  | none => s
  | some (2, _) =>
    let n := s.side.last % 65534 + 1
    { s with side := { s.side with events := s.side.events ++ [(n, toLE 1 cls ++ d)], last := n } }
  | some _ => emit s (.object 2 ([0x01, 0x80, 0x02, 0x0A, 0x01] ++ toLE 1 s.side.tid ++ toLE 1 cls ++ d))

/-- The data of a sensorEvent for a numeric sensor that reached its warning. -/
def sensorEvent (i v : Nat) : List Byte := toLE 2 i ++ [2, 8, 1, 5] ++ toLE 4 v

/-- PollForPlatformEventMessage: the oldest event, or the end of one that is acknowledged. -/
def pollEvent (s : State) (r : SbReq) : State :=
  let ack := fld r.data 6 2
  let s := { s with side := { s.side with events := s.side.events.filter (fun e => fld r.data 1 1 != 2 || e.1 != ack) } }
  match s.side.events with
  | [] => pldmReply s r 2 0x0B 0 (toLE 1 s.side.tid ++ [0, 0])
  | (n, d) :: _ =>
    pldmReply s r 2 0x0B 0 (toLE 1 s.side.tid ++ toLE 2 n ++ zeros 4 ++ [5] ++ d.take 1 ++ toLE 4 (d.drop 1).length ++ d.drop 1 ++ toLE 4 (crc32 (d.drop 1)))

/-! ### Meanings -/

/-- SET_ENDPOINT_ID. -/
def execSetEndpointId (req : SbReq) (s : State) : Host.Outcome State Fault Refusal := .next (ctlServe s req 1 2 setEid)
/-- GET_ENDPOINT_ID. -/
def execGetEndpointId (req : SbReq) (s : State) : Host.Outcome State Fault Refusal := .next (ctlServe s req 2 0 getEid)
/-- GET_MCTP_VERSION_SUPPORT. -/
def execGetMctpVersionSupport (req : SbReq) (s : State) : Host.Outcome State Fault Refusal := .next (ctlServe s req 4 1 mctpVersion)
/-- GET_MESSAGE_TYPE_SUPPORT. -/
def execGetMessageTypeSupport (req : SbReq) (s : State) : Host.Outcome State Fault Refusal := .next (ctlServe s req 5 0 mctpTypes)
/-- GET_VENDOR_DEFINED_MESSAGE_SUPPORT. -/
def execGetVendorDefinedMessageSupport (req : SbReq) (s : State) : Host.Outcome State Fault Refusal := .next (ctlServe s req 6 1 mctpVendor)
/-- GETTID. -/
def execGettid (req : SbReq) (s : State) : Host.Outcome State Fault Refusal := .next (pldmServe s req 0 2 0 getTid)
/-- SETTID. -/
def execSettid (req : SbReq) (s : State) : Host.Outcome State Fault Refusal := .next (pldmServe s req 0 1 1 setTid)
/-- GETPLDMVERSION. -/
def execGetpldmversion (req : SbReq) (s : State) : Host.Outcome State Fault Refusal := .next (pldmServe s req 0 3 6 getPldmVersion)
/-- GETPLDMTYPES. -/
def execGetpldmtypes (req : SbReq) (s : State) : Host.Outcome State Fault Refusal := .next (pldmServe s req 0 4 0 getPldmTypes)
/-- GETPLDMCOMMANDS. -/
def execGetpldmcommands (req : SbReq) (s : State) : Host.Outcome State Fault Refusal := .next (pldmServe s req 0 5 5 getPldmCommands)
/-- GETPDRREPOSITORYINFO. -/
def execGetpdrrepositoryinfo (req : SbReq) (s : State) : Host.Outcome State Fault Refusal := .next (pldmServe s req 2 0x50 0 pdrInfo)
/-- GETPDR. -/
def execGetpdr (req : SbReq) (s : State) : Host.Outcome State Fault Refusal := .next (pldmServe s req 2 0x51 13 getPdr)
/-- GETSENSORREADING. -/
def execGetsensorreading (req : SbReq) (s : State) : Host.Outcome State Fault Refusal := .next (pldmServe s req 2 0x11 3 sensorReading)
/-- GETSTATESENSORREADINGS. -/
def execGetstatesensorreadings (req : SbReq) (s : State) : Host.Outcome State Fault Refusal := .next (pldmServe s req 2 0x21 4 stateReadings)
/-- SETEVENTRECEIVER. -/
def execSeteventreceiver (req : SbReq) (s : State) : Host.Outcome State Fault Refusal := .next (pldmServe s req 2 4 5 setReceiver)
/-- EVENTMESSAGESUPPORTED. -/
def execEventmessagesupported (req : SbReq) (s : State) : Host.Outcome State Fault Refusal := .next (pldmServe s req 2 0x0C 1 eventSupported)
/-- EVENTMESSAGEBUFFERSIZE. -/
def execEventmessagebuffersize (req : SbReq) (s : State) : Host.Outcome State Fault Refusal := .next (pldmServe s req 2 0x0D 2 eventBuffer)
/-- POLLFORPLATFORMEVENTMESSAGE. -/
def execPollforplatformeventmessage (req : SbReq) (s : State) : Host.Outcome State Fault Refusal := .next (pldmServe s req 2 0x0B 8 pollEvent)

end Sys2Proof.Machine
end

