-- ==== Sys2Proof/Machine/Power.lean ====
section
/-!
DEFINITION. Sys2Proof/Machine/Power.lean: sensors, operating points, trims, power capping, rail faults, lost clocks and dies (R403, R480, R481, R487
to R496).
-/
namespace Sys2Proof.Machine

/-- The supplies' state replaced. -/
def setPower (s : State) (p : PowerSt) : State := { s with power := p }

/-! ### Sensors (R480, R481, R495) -/

/-- The reading of a sensor that shows the block's own state, where it is one of them. -/
def ownReading (s : State) (i : Nat) : Option Nat :=
  if i = 0x90 then some (rd s .opEffective) else if i = 0x91 then some (rd s .capActive) else if i = 0x92 then some (rd s .bringupState)
  else if i = 0x93 then some (lcState s)
  else if i = 0x94 then some ((List.range 16).filter (fun p => rd s .portState p == psUp)).length
  else none

/-- The warning of a numeric sensor (R481): at or above a threshold that is not zero, once until the reading is eight steps below it. -/
def checkWarning (s : State) (i v : Nat) : State :=
  let t := rd s .sensorWarn i
  if stateSensor i ∨ v = noReading then s
  else if t ≠ 0 ∧ warned s i = false ∧ signed 32 t ≤ signed 32 v then
    let s := setPower s { s.power with warned := Tbl.set s.power.warned i () }
    let s := postEvent s 0x0300 0 0 (devId s) (i + v * 2 ^ 32) t
    platformEvent s 0 (sensorEvent i v)
  else if warned s i && decide (signed 32 v ≤ signed 32 t - 8) then setPower s { s.power with warned := Tbl.del s.power.warned i }
  else s

/-- Some temperature is at or above a limit: TJ_MAX in quarter degrees, the stacks in degrees. -/
def anyAtLeast (s : State) (tj hbm : Int) : Bool :=
  decide (tj ≤ signed 32 (rd s .sensor 8)) || (List.range (stackCount s)).any (fun i => decide (hbm ≤ signed 32 (rd s .sensor (0x10 + i))))

/-- The thermal point (R495). -/
def thermal (s : State) : State :=
  if anyAtLeast s 400 95 then
    let s := setPower s { s.power with therm := 1, cool := none }
    if rd s .thermalThrottle = 1 then s else opUpdate (inc (wr s .thermalThrottle 0 1) .throttleCnt)
  else if anyAtLeast s 380 90 then setPower s { s.power with cool := none }
  else match s.power.cool with
    | none => setPower s { s.power with cool := some s.localNs }
    | some t =>
      if rd s .thermalThrottle = 1 ∧ t + 1000000000 ≤ s.localNs then
        opUpdate (wr (setPower s { s.power with therm := 3 }) .thermalThrottle 0 0)
      else s

/-- While a rail's READ_POUT cannot be read the cap point is held at OP-low (R493). -/
def holdCap (s : State) (i v : Nat) : State :=
  if 0x60 ≤ i ∧ i < 0x80 then
    let m := setBits s.power.poutBad (i - 0x60) 1 (b2n (v == noReading))
    let s := setPower s { s.power with poutBad := m }
    if m ≠ 0 then opUpdate (wr (setPower s { s.power with cap := 1 }) .capActive 0 1) else s
  else s

/-- SENSOR_SAMPLE: a reading in the resolution of Table 16.15; 0x8000_0000 is a READ_POUT that failed. -/
def sensorSample (s : State) (i reading : Nat) : State :=
  if pipRuns s = false ∨ sensorPresent s i = false then s
  else
    let v := (ownReading s i).getD (reading % 2 ^ 32)
    let s := wr s .sensor i v
    thermal (holdCap (checkWarning s i v) i v)

/-! ### OP_REQ and POWER_LIMIT (R490, R492) -/

/-- OP_REQ written: 0 is ignored. -/
def opReqWrite (s : State) (v : Nat) : State := if v % 4 = 0 then s else opUpdate (wr s .opReq 0 (v % 4))

/-- TDP and floor of the variant (Table 17.4). -/
def tdpOf (s : State) : Nat := if s.variant = 2 then 1700 else if s.variant = 3 then 1650 else 1800
/-- The floor at OP-low. -/
def floorOf (s : State) : Nat := if s.variant = 2 then 1200 else if s.variant = 3 then 1150 else 1300

/-- POWER_LIMIT written: ignored and counted outside floor and TDP. -/
def powerLimitWrite (s : State) (v : Nat) : State :=
  if tdpOf s < v ∨ v < floorOf s then inc s .pmbusErrCnt else wr s .powerLimit 0 v

/-! ### Moves and trims (R489, R490) -/

/-- OP_MOVE_STEP: READ_VOUT has confirmed the step; the next follows, or the move ends and the trims are found afresh. -/
def moveConfirmed (s : State) (confirmed : Bool) : State :=
  if rd s .opChanging = 0 ∨ confirmed = false then s
  else if s.power.mv ≠ pointMv (rd s .opEffective) then moveStep s
  else
    let s := wrs s ((.opChanging, 0, 0) :: [0, 1, 2, 3].map (fun n => (trimReg n, 0, 0)))
    sendVcore (setPower s { s.power with trimming := 15, high := [] })

/-- TRIM_Cn set and sent to its rail. -/
def putTrim (s : State) (n t : Nat) : State := emit (wr s (trimReg n) 0 t) (.pmbus n pmbVout (s.power.mv + t))

/-- One die's monitors read: its lowest, in thousandths of the guaranteed rate (R489). -/
def paceDie (second : Bool) (s : State) (n r : Nat) : State :=
  let t := rd s (trimReg n)
  let high := if 1080 < r then (match Tbl.find s.power.high n with
      | some x => some x
      | none => some s.localNs) else none
  let s := setPower s { s.power with high := match high with
      | some x => Tbl.set s.power.high n x
      | none => Tbl.del s.power.high n }
  if bit s.power.trimming n then
    if 1030 ≤ r ∨ 30 ≤ t then setPower s { s.power with trimming := setBits s.power.trimming n 1 0 } else putTrim s n (t + 5)
  else if second then
    let short := decide (r < 1010)
    let s := wr s .paceShortMask 0 (setBits (rd s .paceShortMask) n 1 (b2n (short && decide (30 ≤ t))))
    if short then (if t < 30 ∧ signed 32 (rd s .sensor n) ≤ 380 then putTrim s n (t + 5) else s)
    else match high with
      | some x => if x + 10000000000 ≤ s.localNs ∧ 5 ≤ t then putTrim s n (t - 5) else s
      | none => s
  else s

/-- PACE_MONITOR_READ: the four dies; second marks the reads at whole seconds. -/
def paceRead (s : State) (slack : List Nat) (second : Bool) : State :=
  if !s.railsUp || rd s .opChanging == 1 then s
  else [0, 1, 2, 3].foldl (fun s n => paceDie second s n (slack.getD n 0)) s

/-! ### Power windows (R493) -/

/-- POWER_WINDOW_END: the mean of PKG_POWER over 100 ms, in watts. -/
def windowEnd (s : State) (w : Nat) : State :=
  let lim := rd s .powerLimit
  let p := { s.power with since := s.power.since + 1, low := if w * 10 < lim * 9 then s.power.low + 1 else 0 }
  let s := setPower s p
  if !s.railsUp then s
  else if lim < w then
    (if 1 < p.cap then opUpdate (inc (wr (setPower s { p with cap := p.cap - 1, since := 0 }) .capActive 0 1) .capEventCnt) else s)
  else if p.cap < 3 ∧ p.poutBad = 0 ∧ 100 ≤ p.since ∧ 10 ≤ p.low then
    let s := setPower s { p with cap := p.cap + 1 }
    opUpdate (if p.cap = 2 then wr s .capActive 0 0 else s)
  else s

/-! ### Rail faults, clocks, dies (R287, R403, R487, R496) -/

/-- The units of a device whose rails are off: nothing runs. What Pip keeps on 3V3_AUX, the registers and the bindings stand. -/
def unitsOff (s : State) : State :=
  { bare s with
    localNs := s.localNs, regs := s.regs, mem := s.mem, junk := s.junk, marks := s.marks, dirty := s.dirty, bound := s.bound, committed := s.committed
    evqLost := s.evqLost, evqReport := s.evqReport, stoneQ := s.stoneQ, stoneLost := s.stoneLost, pwrGood := s.pwrGood, faultN := s.faultN
    trip := s.trip, setDue := s.setDue, setRecs := s.setRecs, setAge := s.setAge, boot := s.boot, coreMap := s.coreMap, meas := s.meas
    measLog := s.measLog, measDrops := s.measDrops, certChain := s.certChain, sessions := s.sessions, rejectNs := s.rejectNs, spdm := s.spdm
    side := s.side, msixTable := s.msixTable, cfg := s.cfg, comp := s.comp, hdm := s.hdm, hdmError := s.hdmError, latches := s.latches, stoneBuf := s.stoneBuf }

/-- RAIL_FAULT_ALERT: a run-time rail fault, in the order of R487. A fault before stage 4 is stage 3's own (Table 15.2). -/
def railFaultAlert (s : State) (r : Nat) : State :=
  if !s.railsUp || !railPresent s r || rd s .bringupStage < 4 then s
  else
    let s := powerDown (deviceLost s)
    let s := wrs s ((.railFault, 0, setBits (rd s .railFault) r 1 1) :: (.bringupStage, 0, 3) :: (.linkWidth, 0, 0) :: (.linkSpeed, 0, 0) :: (.cxlMode, 0, 0) ::
      (List.range 16).map (fun p => (.portState, p, psDown)))
    stopState (unitsOff s) .uncorrectable

/-- The ports of an I/O die. -/
def diePorts (s : State) (i : Nat) : List Nat := (List.range (portCount s)).filter (fun p => p / 4 == i)

/-- REFCLK_LOSS after stage 4 (R496): of the CXL reference, as DL_Active lost; of a fabric reference, its die's ports DOWN; of the HBM reference, every
stack lost. -/
def refclkLoss (s : State) (c : RefClk) : State :=
  if rd s .bringupStage ≤ 4 then s
  else match c with
    | .cxl => if s.perstN && rd s .linkWidth != 0 then deviceReset s false 4 else s
    | .fabric i => (diePorts s i).foldl (fun s p => if portTrained s p then dropPort s p psDown prNoPartner else s) s
    | .hbm =>
      let all := 2 ^ stackCount s - 1
      if rd s .stackFailMask % 2 ^ stackCount s = all then s else deviceLost (wr s .stackFailMask 0 all)

/-- COMPUTE_DIE_LOST: the device reports itself lost (R403). -/
def dieLost (s : State) : State := if s.railsUp then deviceLost s else s

/-! ### Meanings -/

/-- SENSOR_SAMPLE. -/
def execSensorSample (sensor reading : Nat) (s : State) : Host.Outcome State Fault Refusal := .next (sensorSample s sensor reading)
/-- OP_REQ. -/
def execOpReq (value : Nat) (s : State) : Host.Outcome State Fault Refusal := .next (opReqWrite s value)
/-- POWER_LIMIT. -/
def execPowerLimit (value : Nat) (s : State) : Host.Outcome State Fault Refusal := .next (powerLimitWrite s value)
/-- OP_MOVE_STEP. -/
def execOpMoveStep (confirmed : Bool) (s : State) : Host.Outcome State Fault Refusal := .next (moveConfirmed s confirmed)
/-- PACE_MONITOR_READ. -/
def execPaceMonitorRead (slack : List Nat) (second : Bool) (s : State) : Host.Outcome State Fault Refusal := .next (paceRead s slack second)
/-- POWER_WINDOW_END. -/
def execPowerWindowEnd (watts : Nat) (s : State) : Host.Outcome State Fault Refusal := .next (windowEnd s watts)
/-- RAIL_FAULT_ALERT. -/
def execRailFaultAlert (rail : Nat) (s : State) : Host.Outcome State Fault Refusal := .next (railFaultAlert s rail)
/-- REFCLK_LOSS. -/
def execRefclkLoss (clock : RefClk) (s : State) : Host.Outcome State Fault Refusal := .next (refclkLoss s clock)
/-- COMPUTE_DIE_LOST. -/
def execComputeDieLost (_die : Nat) (s : State) : Host.Outcome State Fault Refusal := .next (dieLost s)

end Sys2Proof.Machine
end

