-- ==== Sys2Proof/Machine/Damson.lean ====
section
/-!
DEFINITION. Sys2Proof/Machine/Damson.lean: Damson packs and their patterns (R417 to R420).
-/
namespace Sys2Proof.Machine

/-- Entry n of the pattern table. -/
def patEntry (p : List Byte) (n : Nat) : List Byte := slice p (0x80 + 32 * n) 32
/-- PATTERN_COUNT. -/
def patCount (p : List Byte) : Nat := fld p 6 2
/-- PACK_LEN. -/
def packLen (p : List Byte) : Nat := fld p 0xC 4
/-- PACK_ID. -/
def packId (p : List Byte) : Nat := fld p 8 4
/-- The signature body: the last 208 bytes. -/
def packSig (p : List Byte) : List Byte := slice p (packLen p - 0xD0) 0xD0

/-- The header of R417. -/
def packHdrOk (p : List Byte) : Bool :=
  0x80 ≤ p.length && fld p 0 4 == 0x4E534D44 && fld p 4 1 == 1 && fld p 5 1 == 0 && 1 ≤ patCount p && patCount p ≤ 4096 && packLen p % 16 == 0 &&
  fbits p 0x10 1 7 4 == 0 && fbits p 0x10 1 3 0 ≤ 3 && allZero (slice p 0x12 0x1E) && allZero (slice p 0x60 0x20) &&
  0x80 + 32 * patCount p + 0xD0 ≤ packLen p && allZero (slice (packSig p) 1 15)

/-- The ranges of a pattern descriptor: windows of a VECTOR run to the end of the scratch. -/
def patRanges (d : List Byte) : List (Nat × Nat) :=
  if dOp d = opCopy then [(dSrcA d, dLen d), (dDst d, dLen d)]
  else if dOp d = opMatmul then
    [(dSrcA d, mmM d * mmK d * fmtBytes (dFmtA d)), (dSrcB d, mmBytesB d), (dDst d, dLen d)] ++
    (if mmEpiWords d = 0 then [] else [(mmEpiOff d, 8 * mmEpiWords d)])
  else [(dSrcA d, dLen d), (dSrcB d, 0), (dDst d, 0)]

/-- The engine that an OP needs is among the pattern's ENGINES. -/
def patEngine (d : List Byte) (eng : Nat) : Bool :=
  if dOp d = opCopy then bit eng 3 else if dOp d = opVector then bit eng 0 else if mmSparse d then bit eng 2 else bit eng 1

/-- A pattern descriptor against R419, Table 3.5 and Table 3.7. -/
def patDescOk (s : State) (eng : Nat) (d : List Byte) : Bool :=
  (dOp d == opCopy || dOp d == opVector || dOp d == opMatmul) && fbits d 1 1 7 3 == 0 && fbits d 2 2 15 2 == 0 && fbits d 6 2 15 12 == 0 &&
  fbits d 8 1 7 7 == 0 && fbits d 0x32 2 15 9 == 0 && dChain d == 0 && !dCrOnOk d && !dWaitEn d && !dSigEn d && !dSigRemote d && dSigDev d == 0 &&
  dSigInc d == 0 && dSrcA d < 2 ^ 40 && dSrcB d < 2 ^ 40 && dDst d < 2 ^ 40 && fmtsOk s 4096 d &&
  (if dOp d = opVector then dP0 d == 0 && dLen d % 8 == 0 else paramsOk 0 d) &&
  (patRanges d).all (fun r => r.1 + r.2 ≤ 0x8000) && patEngine d eng

/-- A pattern and its body (R417, R419). -/
def patOk (s : State) (p : List Byte) (n : Nat) : Bool :=
  let e := patEntry p n
  let off := fld e 4 4
  let len := fld e 8 4
  let b := slice p off len
  let k := fld b 0 4
  fbits e 2 1 7 4 == 0 && fld e 3 1 == 0 && len ≤ 0x8000 && fld e 0xC 4 == 0 && allZero (slice e 0x18 8) &&
  0x80 + 32 * patCount p ≤ off && off + len + 0xD0 ≤ packLen p && 64 + 64 * k ≤ len && allZero (slice b 4 60) &&
  (List.range k).all (fun i => patDescOk s (fld e 2 1) (slice b (64 + 64 * i) 64))

/-- The key that signs is an accepted customer key, or the vendor's Damson key. -/
def packKeyOk (s : State) (p : List Byte) : Bool :=
  let h := sha384 (slice (packSig p) 0x10 96)
  h == s.fuses.damsonKey || (fld (packSig p) 0 1 ≤ 3 && custKey s (fld (packSig p) 0 1) == some h)

/-- DIGEST as R41 defines it. -/
def packDigest (p : List Byte) : List Byte := sha384 (patch (p.take (packLen p - 0xD0)) 0x30 (zeros 48))

/-- The signature verifies over DIGEST. -/
def packSigOk (p : List Byte) : Bool :=
  let b := packSig p
  ecdsaVerify (beNat (slice b 0x10 48)) (beNat (slice b 0x40 48)) (beNat (slice b 0x70 48)) (beNat (slice b 0xA0 48)) (slice p 0x30 48)

/-- The checks of R418, in order; a source that cannot be read is UNCORRECTABLE (log entry 10). -/
def packCheck (s : State) (src : Option (List Byte)) : Status :=
  if !(lcState s == 1 || lcState s == 2) then .permission
  else match src with
    | none => .uncorrectable
    | some b =>
      let p := b.take (rd s .damsonLen)
      if !packHdrOk p || !(List.range (patCount p)).all (patOk s p) then .format
      else if rd s .damsonLen ≠ packLen p ∨ 0x400000 < packLen p then .bounds
      else if !(fbits p 0x10 1 3 0 == 0 || fbits p 0x10 1 3 0 == s.variant) || s.stepping < fld p 0x11 1 then .format
      else if packDigest p ≠ slice p 0x30 48 then .checkMismatch
      else if !packKeyOk s p then .permission
      else if !packSigOk p then .checkMismatch
      else .ok

/-- DAMSON_LOAD: the pack checked, and where it is accepted the active one; the record holds PACK_ID, DIGEST and the length (R418, R463). -/
def damsonLoad (s : State) (vector : Nat) (src : Option (List Byte)) : State :=
  let s := wr s .damsonVector 0 vector
  if rd s .damsonBusy = 1 ∨ pipRuns s = false then s
  else
    let st := packCheck s src
    let p := (src.getD []).take (rd s .damsonLen)
    let s := wr s .damsonStatus 0 st.code
    let s := if st ≠ .ok then s
      else
        let s := extendSlot { s with damson := { DamsonSt.init with pack := p } } 5 2 (packId p) (slice p 0x30 48)
        let s := stoneWrite s 0x0007 [(4, packId p), (48, leNat (slice p 0x30 48)), (4, packLen p)]
        wrs s [(.damsonPackId, 0, packId p), (.damsonActive, 0, 1)]
    sendMsi s (rd s .damsonVector)

/-- The engines of a pattern's ENGINES, by stage code: DMA, vector, dense, sparse. -/
def patMask (e : List Byte) : Nat :=
  let g := fld e 2 1
  2 * b2n (bit g 3) + 4 * b2n (bit g 0) + 8 * b2n (bit g 1) + 16 * b2n (bit g 2)

/-- The pattern that core l runs next. -/
def nextPat (s : State) (l : Nat) : List Byte := patEntry s.damson.pack (Tbl.getD s.damson.next l 0)

/-- Core l runs its next pattern: a pack is active, background work and Damson have a share of engine time, the core runs, the pattern's engines are free
and no tile of context 0 is able to start on them, which goes first (R25, R101, R419). -/
def damsonRuns (s : State) (l : Nat) : Bool :=
  rd s .damsonActive == 1 && s.bound.damsonFraction != 0 && s.bound.bgFraction != 0 && (coreSt s l).hart.live && !resetting s l &&
  Nat.land (engineMask s l) (patMask (nextPat s l)) == 0 && !ctx0First s l (patMask (nextPat s l))

/-- Pattern e of the active pack on core l: its body goes to the staging part of the firmware area and the initial scratch to the pattern scratch, and its
tiles leave there what the engines under test make of it (R419, Table 3.4; log entry 28). -/
def runPattern (s : State) (l : Nat) (e : List Byte) : State :=
  let b := slice s.damson.pack (fld e 4 4) (fld e 8 4)
  let s := (writeMem s (coreBase l + 0x18000) b).1
  let s := (writeMem s (coreBase l + 0x10000) (b.drop (64 + 64 * fld b 0 4))).1
  leaveUndefined s (coreBase l + 0x10000) 0x8000

/-- A pattern of core l has ended; the last one ends a cycle of the pack, whose time it shows in ms. -/
def patternNext (s : State) (l : Nat) : State :=
  let x := s.damson
  let n := Tbl.getD x.next l 0 + 1
  if n < patCount x.pack then { s with damson := { x with next := Tbl.set x.next l n, again := Tbl.del x.again l } }
  else
    let t := Tbl.getD x.start l s.localNs
    wr { s with damson := { x with next := Tbl.del x.next l, again := Tbl.del x.again l, start := Tbl.set x.start l s.localNs } }
      .damsonCycleMs 0 (min ((s.localNs - t) / 1000000) 0xFFFFFFFF)

/-- DAMSON_PATTERN: the core's next pattern has run, and the CRC-64 of its scratch is compared with EXPECT; none is a tile that ended with a failure. A
first difference runs it once more (R420). The CRC comes from the core's engines, which the pattern tests (log entry 28). -/
def damsonPattern (s : State) (l : Nat) (result : Option Nat) : State :=
  if damsonRuns s l = false then s
  else
    let x := s.damson
    let s := if (Tbl.find x.start l).isSome then s else { s with damson := { x with start := Tbl.set x.start l s.localNs } }
    let e := nextPat s l
    let s := runPattern s l e
    if result = some (fld e 0x10 8) then patternNext (inc s .damsonPassCnt) l
    else if (Tbl.find x.again l).isNone then { s with damson := { s.damson with again := Tbl.set s.damson.again l () } }
    else
      let id := fld e 0 2
      let s := wrs (inc s .damsonFailCnt) [(.damsonLastFailCore, 0, l), (.damsonLastFailPattern, 0, id)]
      let s := postEvent s 0x0109 Status.checkMismatch.code 0 (devId s) l (id + packId x.pack * 2 ^ 32)
      let s := stoneWrite s 0x0008 [(2, l), (2, id), (4, packId x.pack)] true
      patternNext s l

/-- DAMSON_LOAD. -/
def execDamsonLoad (vector : Nat) (src : Option (List Byte)) (s : State) : Host.Outcome State Fault Refusal := .next (damsonLoad s vector src)
/-- DAMSON_PATTERN. -/
def execDamsonPattern (core : Nat) (result : Option Nat) (s : State) : Host.Outcome State Fault Refusal := .next (damsonPattern s core result)

end Sys2Proof.Machine
end

