-- ==== Sys2Proof/Machine/Doe.lean ====
section
/-!
DEFINITION. Sys2Proof/Machine/Doe.lean: the two DOE instances and the completion timeout of the device's own reads (R381, R384, R386). Object and CDAT
layouts are those of PCIe DOE and CDAT (log entry 26).
-/
namespace Sys2Proof.Machine

/-- An object of a vendor and type, with its length in doublewords. -/
def doeFrame (vendor typ : Nat) (b : List Byte) : List Byte :=
  let n := roundUp b.length 4
  toLE 2 vendor ++ toLE 1 typ ++ [0] ++ toLE 4 (n / 4 + 2) ++ fit b n

/-- The objects an instance serves, as (vendor, type): discovery, then CMA/SPDM and secured CMA/SPDM, or CDAT table access. -/
def doeTypes (inst : Nat) : List (Nat × Nat) := if inst = 0 then [(1, 0), (1, 1), (1, 2)] else [(1, 0), (0x1E98, 2)]

/-- The discovery response for an index: the object there and the next index. -/
def doeDiscovery (inst i : Nat) : List Byte :=
  let l := doeTypes inst
  let x := l.getD i (0xFFFF, 0)
  doeFrame 1 0 (toLE 2 x.1 ++ toLE 1 x.2 ++ toLE 1 (if i + 1 < l.length then i + 1 else 0))

/-- The structures of the CDAT (R381): DSMAS, DSLBIS of read latency, write latency and bandwidth, DSEMTS. -/
def cdatStructs (s : State) : List (List Byte) :=
  let bis := fun (typ v : Nat) => [1, 0] ++ toLE 2 24 ++ [0, 0] ++ toLE 1 typ ++ [0] ++ toLE 8 1000 ++ toLE 2 v ++ zeros 6
  [[0, 0] ++ toLE 2 24 ++ [0, 0, 0, 0] ++ toLE 8 0 ++ toLE 8 (hbmBytes s), bis 1 480, bis 2 480, bis 3 (819 * stackCount s),
   [4, 0] ++ toLE 2 24 ++ [0, 1, 0, 0] ++ toLE 8 0 ++ toLE 8 (hbmBytes s)]

/-- The CDAT header: length, revision, a checksum that makes all bytes sum to zero. -/
def cdatHeader (s : State) : List Byte :=
  let b := (cdatStructs s).flatten
  let h := toLE 4 (b.length + 16) ++ [1, 0] ++ zeros 10
  patch h 5 (toLE 1 (256 - ((h ++ b).map (·.toNat)).sum % 256))

/-- A CDAT entry by its handle, and the next handle. -/
def cdatRead (s : State) (h : Nat) : List Byte :=
  let l := cdatHeader s :: cdatStructs s
  doeFrame 0x1E98 2 ([0, 0] ++ toLE 2 (if h + 1 < l.length then h + 1 else 0xFFFF) ++ l.getD h [])

/-- DOE_REQUEST: an object of at most 4,096 bytes, answered (R384). An object that the instance does not serve gets no answer. A secured
message holds, decrypted, its session, its sequence number and the message (log entry 26). -/
def doeRequest (s : State) (inst : Nat) (b : List Byte) : State :=
  let v := fld b 0 2
  let t := fld b 2 1
  if pipRuns s = false ∨ rd s .linkWidth = 0 ∨ 4096 < b.length ∨ b.length < 8 ∨ !(doeTypes inst).contains (v, t) then s
  else if v = 1 ∧ t = 0 then emit s (.object inst (doeDiscovery inst (fld b 8 1)))
  else if v = 1 ∧ t = 1 then spdmRaw s .doe none 0 (b.drop 8)
  else if v = 1 then seqTaken (spdmRaw s .doe (some (fld b 8 4)) (fld b 12 8) (b.drop 20)) .doe (some (fld b 8 4)) (fld b 12 8)
  else emit s (.object inst (cdatRead s (fld b 10 2)))

/-- COMPLETION_TIMEOUT: of a ring fetch (R376), or of a load's source read; AER logs it (R385). -/
def completionTimeout (s : State) (h : HostReqId) : State :=
  match h with
  | .ring q => if (fetchDue s q).isSome then fetchFailed (aer s 14) q .timeout else s
  | .source =>
    match s.load with
    | some x => if x.who = .host ∧ (x.step = 2 ∨ x.step = 6) then sourceFailed (aer s 14) x else s
    | none => s

/-- DOE_REQUEST. -/
def execDoeRequest (inst : Nat) (object : List Byte) (s : State) : Host.Outcome State Fault Refusal := .next (doeRequest s inst object)
/-- DOE_ABORT: the request in progress is discarded; each request is answered in the step that takes it, so that none is in progress between steps (log
entry 29). -/
def execDoeAbort (_inst : Nat) (s : State) : Host.Outcome State Fault Refusal := .next s
/-- COMPLETION_TIMEOUT. -/
def execCompletionTimeout (target : HostReqId) (s : State) : Host.Outcome State Fault Refusal := .next (completionTimeout s target)

end Sys2Proof.Machine
end

