-- ==== Sys2Proof/Machine/Flags.lean ====
section
/-!
DEFINITION. Sys2Proof/Machine/Flags.lean: what a register field reads as. A field that follows other state (a busy flag, a count of what is in use, a
bit of DEVICE_STATUS, a fuse, a fixed figure) is computed from that state; every other field reads as the register file holds it.
-/
namespace Sys2Proof.Machine

/-- Registers written by field whose value is not zero, of a field that resets to zero. -/
def countSet (s : State) (r : Reg) : Nat := (s.regs.filter (fun e => e.1 % 1024 == r.ctorIdx && e.2 != 0)).length

/-- The job of slot n, if one is bound. -/
def slotJobId (s : State) (n : Nat) : Option Nat := if rd s .jobSlotValid n = 1 then some (rd s .jobSlotJobId n) else none

/-- The oldest reset of a core, cluster or partition in progress: its step (Table 15.4). -/
def resetStepNow (s : State) : Nat := ((s.resets.head?).map (·.step)).getD 0

/-- Chunk slots that the bound trees reserve (R344). -/
def slotsReserved (s : State) : Nat := ((s.bound.trees.filter (fun t => partRunning s t.part)).map (fun t => 32 * nodesHere (loadEnv s) t)).sum

/-- The queue is of a kind that has no ring (R370). -/
def ringless (s : State) (q : Nat) : Bool := ((queueOf s q).map (fun b => b.kind == 3 || b.kind == 4)).getD false

/-! ### DEVICE_STATUS (R511, R512) -/

/-- A port of the variant is not UP. -/
def portsNotUp (s : State) : Bool := (List.range (portCount s)).any (fun p => rd s .portState p != psUp)
/-- A job slot is UNPAIRED or REFILLING, or shares a feed. -/
def pairsDegraded (s : State) : Bool :=
  (List.range 64).any (fun n => rd s .pairState n == 4 || rd s .pairState n == 5 || rd s .sharedFeed n == 1)
/-- An apply is locked (R266). -/
def appliesLocked (s : State) : Bool := 0 < countSet s .applyLocked

/-! ### The view -/

/-- Field r, index i as it reads. -/
def regView (s : State) (r : Reg) (i : Nat) : Nat :=
  match r with
  -- Table 18.3
  | .variant => s.variant
  | .stepping => s.stepping
  | .computeDies => 4
  | .ioDies => ioDieCount s
  | .hbmStacks => stackCount s
  | .portCount => portCount s
  | .laneCount => 4 * portCount s
  | .hbmBytes => hbmBytes s
  | .localNs => nowNs s
  | .faultAsserted => b2n s.faultN
  | .degraded => b2n (decide (rd s .logicalCoreCount < 512))
  | .stackFailed => b2n (rd s .stackFailMask != 0)
  | .portNotUp => b2n (portsNotUp s)
  | .powerLimited => b2n (rd s .capActive == 1 || rd s .thermalThrottle == 1)
  | .paceShort => b2n (rd s .paceShortMask != 0)
  | .pairDegraded => b2n (pairsDegraded s)
  | .statusApplyLocked => b2n (appliesLocked s)
  | .statusRetireOverflow => rd s .retireOverflow
  | .statusMeasLogWrapped => b2n (s.measDrops != 0)
  -- Table 3.10 and Table 12.8
  | .logicalCore => i
  | .physicalCore => (Tbl.find s.coreMap i).getD 0
  | .redFifoFree => 16 - redFifoUsed s i
  -- Tables 5.13 and 6.12
  | .sampBusy => b2n (s.samps.any (fun x => x.cluster == i))
  | .liveBlocks => (s.blocks.filter (fun b => b.cluster == i)).length
  | .heldReqs => (s.heldSamp.filter (fun q => (unitQueue s q).map (·.1) == some i)).length
  | .sortBusy => b2n (s.sorts.any (fun x => x.cluster == i) || s.scatters.any (fun x => clusterOf x.core == i))
  | .fetchBusy => b2n (s.gathers.any (fun x => x.cluster == i && x.result.isNone))
  -- Table 9.12
  | .applyActive => s.applyRuns.length + (s.heldRecs.filter (fun h => h.unit == some .apply)).length
  -- Table 11.10 and Table 11.11
  | .tagsInUse => s.tags.length
  | .ctxInUse => countSet s .ctxState
  | .portState => if i < portCount s then rd s .portState i else 6
  -- Table 12.9
  | .slotsReserved => slotsReserved s
  | .redBusy => ((slotJobId s i).map (fun j => b2n (redOutstanding s j))).getD 0
  -- Table 13.6
  | .qRingAddr => if ringless s i then 0 else rd s .qRingAddr i
  | .qEnable => if ringless s i then 0 else rd s .qEnable i
  | .qError => if ringless s i then 0 else rd s .qError i
  | .qErrStatus => if ringless s i then 0 else rd s .qErrStatus i
  | .qKind => if ringless s i then 0 else ((queueOf s i).map (·.kind)).getD 0
  | .qDepthLog2 => if ringless s i then 0 else rd s .qDepthLog2 i
  | .qDevIndex => if ringless s i then 0 else rd s .qDevIndex i
  | .qDevPhase => if ringless s i then 0 else rd s .qDevPhase i
  | .qHostIndex => if ringless s i then 0 else rd s .qHostIndex i
  -- Table 15.7
  | .resetBusy => b2n (!s.resets.isEmpty)
  | .resetStep => resetStepNow s
  -- Table 16.17
  | .lcState => lcState s
  | .keyProgrammed => s.fuses.programmed % 16
  | .keyRevoked => s.fuses.revoked % 16
  | .customerSigRequired => b2n s.fuses.sigRequired
  | .serial => s.serial
  | .fwMinSvn => fwMinSvn s.fuses
  | .measLogCount => s.measLog.length
  | .measLogWrapped => b2n (s.measDrops != 0)
  | .mgmtSessions => s.sessions.length
  -- Table 17.10
  | .railPresent => ((List.range 32).map (fun r => if railPresent s r then 2 ^ r else 0)).sum
  | r => rd s r i

end Sys2Proof.Machine
end

