-- ==== Sys2Proof/Machine/Csr.lean ====
section
/-!
DEFINITION. Sys2Proof/Machine/Csr.lean: reads and writes of CSR space by the host, Pip and the scalar units (R9, R11, R368, R369, R503 to R510).
Offsets are BAR0 offsets. An access is of 32 or 64 bits; a word is 32 bits.
-/
namespace Sys2Proof.Machine

/-! ### Where a word lies (R503, R504, Tables 13.4, 18.1, 18.2) -/

/-- A word's offset in the first replica of its block, and the number of its replica. -/
def replica (w : Nat) : Nat × Nat :=
  let r := fun (base stride : Nat) => (base + (w - base) % stride, (w - base) / stride)
  if 0x6000 ≤ w ∧ w < 0x7000 then r 0x6000 0x80
  else if 0x7000 ≤ w ∧ w < 0x8000 then r 0x7000 0x100
  else if 0x100000 ≤ w ∧ w < 0x120000 then r 0x100000 0x1000
  else if 0x200000 ≤ w ∧ w < 0x400000 then r 0x200000 0x1000
  else if 0x3200000 ≤ w ∧ w < 0x3240000 then r 0x3200000 8
  else if 0x3400000 ≤ w ∧ w < 0x3480000 then r 0x3400000 16
  else (w, 0)

/-- Where field r meets the word at offset o of replica n: its index, and 0 or 1 for the half of the field's 64-bit word. -/
def fieldAt (o n : Nat) (r : Reg) : Option (Nat × Nat) :=
  let f := r.info
  let i := fun (base : Nat) => if f.stride = 0 then (if base = f.off then some n else none)
    else if f.off ≤ base ∧ (base - f.off) % f.stride = 0 ∧ (base - f.off) / f.stride < f.cnt then
      some (if f.block = .core then n * f.cnt + (base - f.off) / f.stride else (base - f.off) / f.stride)
    else none
  if f.lsb < 32 ∧ (i o).isSome then (i o).map (fun x => (x, 0))
  else if 32 < f.lsb + f.width ∧ 4 ≤ o then (i (o - 4)).map (fun x => (x, 1))
  else none

/-- The fields of a word. -/
def fieldsAt (w : Nat) : List (Reg × Nat × Nat) :=
  let p := replica w
  Reg.all.filterMap (fun r => (fieldAt p.1 p.2 r).map (fun x => (r, x.1, x.2)))

/-- The ranges that hold no named field and are not reserved. -/
inductive CsrBuf where
  /-- RED_DESC of a core, by offset (Table 12.8). -/
  | redDesc (core off : Nat)
  /-- STONE_RD_BUF (Table 16.17). -/
  | stone (off : Nat)
  /-- MBOX_BUF (Table 11.10). -/
  | mbox (off : Nat)
  /-- The recovery window and the queue post window: local accesses read zero and are ignored. -/
  | window
  /-- CXL component registers (Table 13.4), laid out by the CXL specification. -/
  | component (dword : Nat)
  /-- A dword of the MSI-X table, and one of its pending bits. -/
  | msix (dword : Nat)
  | pba (dword : Nat)
  deriving DecidableEq, Repr

/-- The buffer a word lies in. -/
def bufAt (w : Nat) : Option CsrBuf :=
  if 0x200000 ≤ w ∧ w < 0x400000 ∧ 0x300 ≤ w % 0x1000 ∧ w % 0x1000 < 0x340 then some (.redDesc ((w - 0x200000) / 0x1000) (w % 0x1000 - 0x300))
  else if 0x3100 ≤ w ∧ w < 0x3200 then some (.stone (w - 0x3100))
  else if 0x401000 ≤ w ∧ w < 0x402000 then some (.mbox (w - 0x401000))
  else if (0x18800 ≤ w ∧ w < 0x18820) ∨ (0x600000 ≤ w ∧ w < 0x800000) then some .window
  else if 0x3010000 ≤ w ∧ w < 0x3020000 then some (.component ((w - 0x3010000) / 4))
  else if 0x3030000 ≤ w ∧ w < 0x3038000 then some (.msix ((w - 0x3030000) / 4))
  else if 0x3038000 ≤ w ∧ w < 0x3038100 then some (.pba ((w - 0x3038000) / 4))
  else none

/-- The word lies in the block of an absent logical core. -/
def inAbsentCore (s : State) (w : Nat) : Bool := decide (0x200000 ≤ w ∧ w < 0x400000) && !corePresent s ((w - 0x200000) / 0x1000)

/-- The word reads as zero and ignores writes: an absent core's, or reserved (R9, R505). -/
def csrAbsent (s : State) (w : Nat) : Bool := inAbsentCore s w || ((fieldsAt w).isEmpty && (bufAt w).isNone)

/-- The word's block lies in a domain between steps 3 and 7 of its reset (R510). -/
def frozen (s : State) (w : Nat) : Bool :=
  s.resets.any (fun o => decide (3 ≤ o.step) &&
    ((decide (0x200000 ≤ w ∧ w < 0x400000) && inDomain s o ((w - 0x200000) / 0x1000)) ||
     (decide (0x100000 ≤ w ∧ w < 0x120000) && (opClusters s o).contains ((w - 0x100000) / 0x1000))))

/-! ### Reads (R506 to R508) -/

/-- A field's part of a word. -/
def fieldPart (lsb half v : Nat) : Nat := v * 2 ^ lsb / 2 ^ (32 * half) % 2 ^ 32

/-- What a field reads as in the word: zero if it is WO; its Reset column while its block is frozen. -/
def fieldValue (s : State) (frz : Bool) (x : Reg × Nat × Nat) : Nat :=
  let f := x.1.info
  if f.acc = .wo then 0
  else fieldPart f.lsb x.2.2 (if frz then (if x.1 = .logicalCore ∨ x.1 = .physicalCore then regView s x.1 x.2.1 else f.reset) else regView s x.1 x.2.1)

/-- Four bytes of a sparse byte buffer. -/
def bufWord (t : Tbl Byte) (o : Nat) : Nat := leNat ((List.range 4).map (fun k => Tbl.getD t (o + k) 0))

/-- A buffer's word. -/
def readBuf (s : State) (frz : Bool) : CsrBuf → State × Nat
  | .redDesc l o => (s, if frz then 0 else bufWord s.redDesc (l * 64 + o))
  | .stone o => (s, fld s.stoneBuf o 4)
  | .mbox o => (s, bufWord s.mbox o)
  | .window => (s, 0)
  | .component d => (s, compRead s d)
  | .msix d => (s, msixDword s (d / 4) (d % 4))
  | .pba d => (s, ((List.range 32).map (fun k => if (Tbl.find s.msixPend (32 * d + k)).isSome then 2 ^ k else 0)).sum)

/-- The value of a word, with no effect of the read but that a free value may be taken. -/
def peekWord (s : State) (w : Nat) : State × Nat :=
  if inAbsentCore s w then (s, 0)
  else match bufAt w with
    | some b => readBuf s (frozen s w) b
    | none => (s, ((fieldsAt w).map (fieldValue s (frozen s w))).sum)

/-- The RC fields of a word, cleared; SAT_CNT takes SAT_FIRST_VALID with it (R233, R508). -/
def clearRc : List (Reg × Nat × Nat) → State → State
  | [], s => s
  | x :: t, s =>
    let s := if x.1.info.acc = .rc then wr s x.1 x.2.1 0 else s
    clearRc t (if x.1 = .satCnt then wr s .satFirstValid x.2.1 0 else s)

/-- The effect of a read of a word. -/
def readEffect (s : State) (w : Nat) : State := if inAbsentCore s w || frozen s w then s else clearRc (fieldsAt w) s

/-- The 64-bit word at w, a multiple of 8, holds an RO field that crosses its halves (R507). -/
def crossing (w : Nat) : Bool := (fieldsAt w).any (fun x => x.2.2 == 0 && x.1.info.acc == .ro && decide (32 < x.1.info.lsb + x.1.info.width))

/-- The key of a reader's latch. -/
def latchKey : Reader → Nat
  | .host => 0
  | .pip => 1
  | .core l => 2 + l

/-- A 32-bit read: the low half of a 64-bit RO field loads the reader's latch, the high half is taken from it where it was loaded there (R507). -/
def readWord32 (s : State) (rdr : Reader) (w : Nat) : State × Nat :=
  let r := peekWord s w
  if w % 8 = 0 then
    (readEffect (if crossing w then { r.1 with latches := Tbl.set r.1.latches (latchKey rdr) (w, (peekWord s (w + 4)).2) } else r.1) w, r.2)
  else if crossing (w - 4) then
    (readEffect r.1 w, match Tbl.find s.latches (latchKey rdr) with
      | some l => if l.1 = w - 4 then l.2 else r.2
      | none => r.2)
  else (readEffect r.1 w, r.2)

/-- A 64-bit read: both words at one instant. -/
def readWord64 (s : State) (w : Nat) : State × Nat :=
  let a := peekWord s w
  let b := peekWord a.1 (w + 4)
  (readEffect (readEffect b.1 w) (w + 4), a.2 + b.2 * 2 ^ 32)

/-- A read of 32 or 64 bits. -/
def readCsr (s : State) (rdr : Reader) (o width : Nat) : State × Nat := if width = 64 then readWord64 s o else readWord32 s rdr o

/-! ### Writes (R506, R509) -/

/-- The fields whose write of 0 is ignored. -/
def zeroIgnored : List Reg :=
  [.tokenTimeout, .vinstrBudget, .remoteDrawTimeout, .peerRowTimeout, .updateCloseTimeout, .scrubHbmPeriod, .scrubSramPeriod, .ctxRetxTimeout,
   .redWaitTimeout]

/-- An RW field given a value, by its table's own rule. -/
def putField (s : State) (r : Reg) (i v : Nat) : State :=
  match r with
  | .opReq => opReqWrite s v
  | .powerLimit => powerLimitWrite s v
  | .stoneRdIndex => stoneRdIndex s v
  | .c0CringTail => writeCringTail s i v
  | .evqHead => evqHeadWrite s v
  | .evqAddr => if rd s .evqEnable = 1 then s else wr s .evqAddr 0 v
  | .qRingAddr => if ringless s i || rd s .qEnable i == 1 then s else wr s .qRingAddr i v
  | .qEnable => if v = 1 then enableQueue s i else disableQueue s i
  | .ckptExportRegion => if rd s .jobSlotValid i = 1 then wr s .ckptExportRegion i v else s
  | r => if zeroIgnored.contains r && v == 0 then s else wr s r i v

/-- What a field holds once a word of it is written (R507): the other half keeps its value. -/
def mergeHalf (r : Reg) (half old w : Nat) : Nat := setBits (old * 2 ^ r.info.lsb) (32 * half) 32 w / 2 ^ r.info.lsb % 2 ^ r.info.width

/-- The RW fields of a word take their new values. -/
def putFields (v : Nat) : List (Reg × Nat × Nat) → State → State
  | [], s => s
  | x :: t, s => putFields v t (if x.1.info.acc = .rw then putField s x.1 x.2.1 (mergeHalf x.1 x.2.2 (rd s x.1 x.2.1) v) else s)

/-- Four bytes of a sparse byte buffer written. -/
def putBuf (t : Tbl Byte) (o v : Nat) : Tbl Byte := (List.range 4).foldl (fun t k => Tbl.put t (o + k) (BitVec.ofNat 8 (v / 256 ^ k)) 0) t

/-- A buffer's word written. -/
def writeBuf (s : State) (v : Nat) : CsrBuf → State
  | .redDesc l o => { s with redDesc := putBuf s.redDesc (l * 64 + o) v }
  | .mbox o => { s with mbox := putBuf s.mbox o v }
  | .msix d => msixWrite s d v
  | .component d => compWrite s d v
  | _ => s

/-- The RW part of a write of a word. Words whose fields are taken together (the event ring's control, the ring of context 0, the epoch switch,
the injection) are taken so. -/
def writeRw (s : State) (w v : Nat) : State :=
  if inAbsentCore s w || frozen s w then s
  else match bufAt w with
    | some b => writeBuf s v b
    | none =>
      if w = 0x3000010 then evqControl s v
      else if 0x200000 ≤ w ∧ w < 0x400000 ∧ w % 0x1000 = 0x010 then writeCringConfig s ((w - 0x200000) / 0x1000) (bits v 20 0) (bits v 31 28)
      else putFields v (fieldsAt w) s

/-- Context 0 and context 1 resumed by a write of word 0x008 of Table 3.10. -/
def writeResume (s : State) (l v : Nat) : State :=
  let s := if bit v 0 then resumeCtx s l 0 (bit v 1) else s
  if bit v 2 then resumeCtx s l 1 (bit v 3) else s

/-- The n bytes of host memory that an action started by a register write fetches: the host's memory is outside the block, so each is a free value (log
entry 46). -/
def hostSource (s : State) (n : Nat) : State × List Byte :=
  ({ s with freeCount := s.freeCount + 1 }, (List.range n).map (Config.freeByte s.freeCount))

/-- What a WO or W1C field does with the word written (R11). A staging or a Damson load so started fetches its source from the host's memory. -/
def act (s : State) (v : Nat) (x : Reg × Nat × Nat) : State :=
  let i := x.2.1
  match x.1 with
  | .qimgStart => if bit v 0 then startLoad s (rd s .qimgVector) (rd s .qimgVerifyOnly == 1) else s
  | .c0Resume => writeResume s i v
  | .predClear => if bit v 0 then setCore s i { coreSt s i with pred0 := [] } else s
  | .redPost => if bit v 0 then redPost s i else s
  | .fwStageStart => if bit v 0 then (let r := hostSource s (rd s .fwStageLen); stageStart r.1 (rd s .fwVector) (some r.2)) else s
  | .damsonLoad => if bit v 0 then (let r := hostSource s (rd s .damsonLen); damsonLoad r.1 (rd s .damsonVector) (some r.2)) else s
  | .migStart => if bit v 0 then migStart s (rd s .migVector) else s
  | .injectArm => injectWrite s v
  | .peerStart => if bit v 2 then peerStart s (rd s .peerOp) (rd s .peerVector) else s
  | .mboxStart => if bit v 0 then mboxStart s (rd s .mboxVector) else s
  | .epochSwStart => if bit v 24 then epochSwitch s v else s
  | .susValid => if bit v 28 && rd s .susValid i == 1 then freeSuspect s i else s
  | .dbIndex => doorbell s i v
  | .applyDb => applyDoorbell s v none
  | .ckptAck => ckptAck s i v
  | .rebindBit => if bit v 0 then rebind s i else s
  | .refillStart => if bit v 1 then refillStart s i else s
  | .replayArm => if bit v 0 then replayArm s i else s
  | .resetStart => if bit v 3 then resetCtrl s else s
  | _ => s

/-- The actions of the fields of a word. -/
def actAll (v : Nat) : List (Reg × Nat × Nat) → State → State
  | [], s => s
  | x :: t, s => actAll v t (if x.1.info.acc = .wo ∨ x.1.info.acc = .w1c then act s v x else s)

/-- The actions of a write of a word. -/
def writeAct (s : State) (w v : Nat) : State := if inAbsentCore s w || frozen s w then s else actAll v (fieldsAt w) s

/-- A write of 32 or 64 bits: the RW fields of every word of it first, then the actions (R509). -/
def writeCsr (s : State) (o width v : Nat) : State :=
  let lo := v % 2 ^ 32
  if width = 64 then
    let hi := v / 2 ^ 32 % 2 ^ 32
    writeAct (writeAct (writeRw (writeRw s o lo) (o + 4) hi) o lo) (o + 4) hi
  else writeAct (writeRw s o lo) o lo

/-! ### The readers (R368, R369, R505, R510) -/

/-- An access that R369 admits. -/
def csrAligned (o width : Nat) : Bool := (width == 32 && o % 4 == 0) || (width == 64 && o % 8 == 0)

/-- The host has a link, and the device is not in a device reset. -/
def hostLinked (s : State) : Bool := rd s .linkWidth != 0 && s.devReset.isNone && s.pwrGood

/-- Every word of the access is absent or reserved (R505). -/
def accessAbsent (s : State) (o width : Nat) : Bool := csrAbsent s o && (width != 64 || csrAbsent s (o + 4))

/-- An access of a reader that reaches a register, with what it does: host accesses that R369 refuses are logged by AER, those to what is absent are
counted. A scalar unit reaches its own block only. -/
def csrAccess (s : State) (rdr : Reader) (o width : Nat) (go : State → State) : State :=
  match rdr with
  | .host =>
    if !hostLinked s || decide (0x4000000 ≤ o) then s
    else if !csrAligned o width then aer s 20
    else go (if accessAbsent s o width then inc s .csrAbsentCnt else s)
  | .pip => if s.pwrGood && s.devReset.isNone && csrAligned o width && decide (o < 0x4000000) then go s else s
  | .core l =>
    if corePresent s l && csrAligned o width && decide (0x200000 + 0x1000 * l ≤ o ∧ o < 0x201000 + 0x1000 * l) then go s else s

/-- A read, with the value given to the reader. -/
def csrRead (s : State) (rdr : Reader) (o width : Nat) : State :=
  csrAccess s rdr o width (fun s => emit (readCsr s rdr o width).1 (.csrData rdr (readCsr s rdr o width).2))

/-! ### Meanings -/

/-- RC_READ: a read of 32 or 64 bits, which clears the RC fields it returns (R11, R508). -/
def execRcRead (reader : Reader) (offset width : Nat) (s : State) : Host.Outcome State Fault Refusal := .next (csrRead s reader offset width)

/-- CSR_HALF_READ: a 32-bit read of a half of a 64-bit RO field (R507). -/
def execCsrHalfRead (reader : Reader) (offset : Nat) (s : State) : Host.Outcome State Fault Refusal := .next (csrRead s reader offset 32)

/-- CSR_WRITE (R11, R506, R507, R509). -/
def execCsrWrite (reader : Reader) (offset width value : Nat) (s : State) : Host.Outcome State Fault Refusal :=
  .next (csrAccess s reader offset width (fun s => writeCsr s offset width value))

end Sys2Proof.Machine
end

