-- ==== Sys2Proof/Machine/Rv.lean ====
section
/-!
DEFINITION. Sys2Proof/Machine/Rv.lean: the encodings of the scalar unit's instructions, RV64IMAC with Zicsr, Zifencei and Table 3.2 (R77, R82), and
its arithmetic.
-/
namespace Sys2Proof.Machine

/-- An instruction of the scalar unit. A flag w says that it works on 32 bits. -/
inductive RvOp where
  | illegal
  | lui (rd : Nat) (imm : Int)
  | auipc (rd : Nat) (imm : Int)
  | jal (rd : Nat) (off : Int)
  | jalr (rd rs1 : Nat) (off : Int)
  | branch (f3 rs1 rs2 : Nat) (off : Int)
  | load (f3 rd rs1 : Nat) (off : Int)
  | store (f3 rs1 rs2 : Nat) (off : Int)
  /-- f3 and f7 as in the register form. -/
  | opImm (w : Bool) (f3 f7 rd rs1 : Nat) (imm : Int)
  | opReg (w : Bool) (f3 f7 rd rs1 rs2 : Nat)
  | fence
  /-- f3 of Zicsr; src is the register or the immediate. -/
  | csr (f3 rd src num : Nat)
  | ecall
  | ebreak
  | mret
  | wfi
  | lr (w : Bool) (rd rs1 : Nat)
  | sc (w : Bool) (rd rs1 rs2 : Nat)
  | amo (f5 : Nat) (w : Bool) (rd rs1 rs2 : Nat)
  | tdIssue (rd rs1 : Nat)
  | tdFence (rd : Nat)
  | tdResume (rs1 : Nat)
  | tdStat (rd : Nat)
  | tkRead (rd rs1 : Nat)
  | tkSet (rs1 rs2 : Nat)
  | tkAdd (rs1 rs2 : Nat)
  | tkWait (rd rs1 rs2 : Nat)
  | nsRead (rd : Nat)
  deriving DecidableEq, Repr

/-! ### Decoding -/

/-- The OP and OP-32 encodings that RV64IM gives. -/
def opRegOk (w : Bool) (f3 f7 : Nat) : Bool :=
  if w then (f7 == 0 && (f3 == 0 || f3 == 1 || f3 == 5)) || (f7 == 0x20 && (f3 == 0 || f3 == 5)) || (f7 == 1 && (f3 == 0 || 4 ≤ f3))
  else f7 == 0 || (f7 == 0x20 && (f3 == 0 || f3 == 5)) || f7 == 1

/-- The AMOs of the A extension. -/
def amoOk (f5 : Nat) : Bool := [0, 1, 4, 8, 0xC, 0x10, 0x14, 0x18, 0x1C].contains f5

/-- OP-IMM and OP-IMM-32: a shift's upper bits select it; every other form takes the whole immediate. -/
def decodeImm (w : Bool) (i : Nat) : RvOp :=
  let rd := bits i 11 7
  let f3 := bits i 14 12
  let rs1 := bits i 19 15
  if f3 = 1 ∨ f3 = 5 then
    let top := if w then bits i 31 25 else bits i 31 26 * 2
    let sh : Int := if w then bits i 24 20 else bits i 25 20
    if top = 0 ∨ (top = 0x20 ∧ f3 = 5) then .opImm w f3 top rd rs1 sh else .illegal
  else if w && f3 != 0 then .illegal
  else .opImm w f3 0 rd rs1 (signed 12 (bits i 31 20))

/-- SYSTEM. -/
def decodeSystem (i : Nat) : RvOp :=
  let f3 := bits i 14 12
  if f3 = 0 then
    if i = 0x73 then .ecall else if i = 0x100073 then .ebreak else if i = 0x30200073 then .mret else if i = 0x10500073 then .wfi else .illegal
  else if f3 = 4 then .illegal else .csr f3 (bits i 11 7) (bits i 19 15) (bits i 31 20)

/-- AMO. -/
def decodeAmo (i : Nat) : RvOp :=
  let f3 := bits i 14 12
  let f5 := bits i 31 27
  let rd := bits i 11 7
  let rs1 := bits i 19 15
  let rs2 := bits i 24 20
  if f3 ≠ 2 ∧ f3 ≠ 3 then .illegal
  else if f5 = 2 then (if rs2 = 0 then .lr (f3 == 2) rd rs1 else .illegal)
  else if f5 = 3 then .sc (f3 == 2) rd rs1 rs2
  else if amoOk f5 then .amo f5 (f3 == 2) rd rs1 rs2 else .illegal

/-- Table 3.2. -/
def decodeDispatch (i : Nat) : RvOp :=
  let rd := bits i 11 7
  let f3 := bits i 14 12
  let rs1 := bits i 19 15
  let rs2 := bits i 24 20
  if bits i 31 25 ≠ 0 then .illegal
  else if bits i 6 0 = 0x0B then
    if f3 = 0 then .tdIssue rd rs1 else if f3 = 1 then .tdFence rd else if f3 = 2 then .tdResume rs1 else if f3 = 3 then .tdStat rd else .illegal
  else
    if f3 = 0 then .tkRead rd rs1 else if f3 = 1 then .tkSet rs1 rs2 else if f3 = 2 then .tkAdd rs1 rs2 else if f3 = 3 then .tkWait rd rs1 rs2
    else if f3 = 4 then .nsRead rd else .illegal

/-- A 32-bit instruction word. -/
def decodeRv (i : Nat) : RvOp :=
  let rd := bits i 11 7
  let f3 := bits i 14 12
  let rs1 := bits i 19 15
  let rs2 := bits i 24 20
  let f7 := bits i 31 25
  match bits i 6 0 with
  | 0x37 => .lui rd (signed 32 (bits i 31 12 * 4096))
  | 0x17 => .auipc rd (signed 32 (bits i 31 12 * 4096))
  | 0x6F => .jal rd (signed 21 (bits i 31 31 * 2 ^ 20 + bits i 19 12 * 2 ^ 12 + bits i 20 20 * 2 ^ 11 + bits i 30 21 * 2))
  | 0x67 => if f3 = 0 then .jalr rd rs1 (signed 12 (bits i 31 20)) else .illegal
  | 0x63 => if f3 = 2 ∨ f3 = 3 then .illegal
    else .branch f3 rs1 rs2 (signed 13 (bits i 31 31 * 2 ^ 12 + bits i 7 7 * 2 ^ 11 + bits i 30 25 * 2 ^ 5 + bits i 11 8 * 2))
  | 0x03 => if f3 = 7 then .illegal else .load f3 rd rs1 (signed 12 (bits i 31 20))
  | 0x23 => if 3 < f3 then .illegal else .store f3 rs1 rs2 (signed 12 (f7 * 32 + rd))
  | 0x13 => decodeImm false i
  | 0x1B => decodeImm true i
  | 0x33 => if opRegOk false f3 f7 then .opReg false f3 f7 rd rs1 rs2 else .illegal
  | 0x3B => if opRegOk true f3 f7 then .opReg true f3 f7 rd rs1 rs2 else .illegal
  | 0x0F => if f3 ≤ 1 then .fence else .illegal
  | 0x73 => decodeSystem i
  | 0x2F => decodeAmo i
  | 0x0B => decodeDispatch i
  | 0x2B => decodeDispatch i
  | _ => .illegal

/-- The six-bit signed immediate of quadrant 1. -/
def cImm (i : Nat) : Int := signed 6 (bits i 12 12 * 32 + bits i 6 2)
/-- A shift amount of a compressed shift. -/
def cSh (i : Nat) : Int := (bits i 12 12 * 32 + bits i 6 2 : Nat)
/-- The offsets of C.LW and C.LD. -/
def cOffW (i : Nat) : Int := (bits i 12 10 * 8 + bits i 6 6 * 4 + bits i 5 5 * 64 : Nat)
/-- The offset of C.LD and C.SD. -/
def cOffD (i : Nat) : Int := (bits i 12 10 * 8 + bits i 6 5 * 64 : Nat)

/-- Quadrant 0. -/
def decodeC0 (i : Nat) : RvOp :=
  let r := bits i 4 2 + 8
  let a := bits i 9 7 + 8
  match bits i 15 13 with
  | 0 =>
    let n := bits i 12 11 * 16 + bits i 10 7 * 64 + bits i 6 6 * 4 + bits i 5 5 * 8
    if n = 0 then .illegal else .opImm false 0 0 r 2 (n : Nat)
  | 2 => .load 2 r a (cOffW i)
  | 3 => .load 3 r a (cOffD i)
  | 6 => .store 2 a r (cOffW i)
  | 7 => .store 3 a r (cOffD i)
  | _ => .illegal

/-- The register forms of quadrant 1. -/
def decodeC1Alu (i : Nat) : RvOp :=
  let d := bits i 9 7 + 8
  let b := bits i 4 2 + 8
  match bits i 11 10 with
  | 0 => .opImm false 5 0 d d (cSh i)
  | 1 => .opImm false 5 0x20 d d (cSh i)
  | 2 => .opImm false 7 0 d d (cImm i)
  | _ =>
    match bits i 12 12 * 4 + bits i 6 5 with
    | 0 => .opReg false 0 0x20 d d b
    | 1 => .opReg false 4 0 d d b
    | 2 => .opReg false 6 0 d d b
    | 3 => .opReg false 7 0 d d b
    | 4 => .opReg true 0 0x20 d d b
    | 5 => .opReg true 0 0 d d b
    | _ => .illegal

/-- Quadrant 1. -/
def decodeC1 (i : Nat) : RvOp :=
  let d := bits i 11 7
  let br := signed 9 (bits i 12 12 * 256 + bits i 11 10 * 8 + bits i 6 5 * 64 + bits i 4 3 * 2 + bits i 2 2 * 32)
  match bits i 15 13 with
  | 0 => .opImm false 0 0 d d (cImm i)
  | 1 => if d = 0 then .illegal else .opImm true 0 0 d d (cImm i)
  | 2 => .opImm false 0 0 d 0 (cImm i)
  | 3 =>
    if cSh i = 0 then .illegal
    else if d = 2 then
      .opImm false 0 0 2 2 (signed 10 (bits i 12 12 * 512 + bits i 6 6 * 16 + bits i 5 5 * 64 + bits i 4 3 * 128 + bits i 2 2 * 32))
    else .lui d (cImm i * 4096)
  | 4 => decodeC1Alu i
  | 5 => .jal 0 (signed 12 (bits i 12 12 * 2048 + bits i 11 11 * 16 + bits i 10 9 * 256 + bits i 8 8 * 1024 + bits i 7 7 * 64 + bits i 6 6 * 128 +
      bits i 5 3 * 2 + bits i 2 2 * 32))
  | 6 => .branch 0 (bits i 9 7 + 8) 0 br
  | _ => .branch 1 (bits i 9 7 + 8) 0 br

/-- Quadrant 2. -/
def decodeC2 (i : Nat) : RvOp :=
  let d := bits i 11 7
  let b := bits i 6 2
  match bits i 15 13 with
  | 0 => .opImm false 1 0 d d (cSh i)
  | 2 => if d = 0 then .illegal else .load 2 d 2 (bits i 12 12 * 32 + bits i 6 4 * 4 + bits i 3 2 * 64 : Nat)
  | 3 => if d = 0 then .illegal else .load 3 d 2 (bits i 12 12 * 32 + bits i 6 5 * 8 + bits i 4 2 * 64 : Nat)
  | 4 =>
    if bits i 12 12 = 0 then (if b ≠ 0 then .opReg false 0 0 d 0 b else if d = 0 then .illegal else .jalr 0 d 0)
    else if b ≠ 0 then .opReg false 0 0 d d b else if d = 0 then .ebreak else .jalr 1 d 0
  | 6 => .store 2 2 b (bits i 12 9 * 4 + bits i 8 7 * 64 : Nat)
  | 7 => .store 3 2 b (bits i 12 10 * 8 + bits i 9 7 * 64 : Nat)
  | _ => .illegal

/-- A 16-bit instruction. -/
def decodeC (i : Nat) : RvOp :=
  match i % 4 with
  | 0 => decodeC0 i
  | 1 => decodeC1 i
  | _ => decodeC2 i

/-! ### Arithmetic -/

/-- OP of RV64IM at a width. -/
def alu {w : Nat} (f3 f7 : Nat) (a b : BitVec w) : BitVec w :=
  let sh := b.toNat % w
  let flag := fun (p : Bool) => BitVec.ofNat w (b2n p)
  if f7 = 1 then
    match f3 with
    | 0 => a * b
    | 1 => BitVec.ofInt w (a.toInt * b.toInt / (2 ^ w : Nat))
    | 2 => BitVec.ofInt w (a.toInt * (b.toNat : Int) / (2 ^ w : Nat))
    | 3 => BitVec.ofNat w (a.toNat * b.toNat / 2 ^ w)
    | 4 => if b = 0 then BitVec.allOnes w else BitVec.ofInt w (a.toInt.tdiv b.toInt)
    | 5 => if b = 0 then BitVec.allOnes w else a / b
    | 6 => if b = 0 then a else BitVec.ofInt w (a.toInt.tmod b.toInt)
    | _ => if b = 0 then a else a % b
  else
    match f3 with
    | 0 => if f7 = 0x20 then a - b else a + b
    | 1 => a <<< sh
    | 2 => flag (decide (a.toInt < b.toInt))
    | 3 => flag (decide (a.toNat < b.toNat))
    | 4 => a ^^^ b
    | 5 => if f7 = 0x20 then a.sshiftRight sh else a >>> sh
    | 6 => a ||| b
    | _ => a &&& b

/-- OP or OP-32: the 32-bit result is sign-extended. -/
def aluOp (w : Bool) (f3 f7 : Nat) (a b : BitVec 64) : BitVec 64 :=
  if w then (alu f3 f7 (a.truncate 32) (b.truncate 32)).signExtend 64 else alu f3 f7 a b

/-- The condition of a branch. -/
def branchTaken (f3 : Nat) (a b : BitVec 64) : Bool :=
  match f3 with
  | 0 => a == b
  | 1 => a != b
  | 4 => decide (a.toInt < b.toInt)
  | 5 => decide (b.toInt ≤ a.toInt)
  | 6 => decide (a.toNat < b.toNat)
  | _ => decide (b.toNat ≤ a.toNat)

/-- The bytes of a load or store. -/
def accessBytes (f3 : Nat) : Nat := 2 ^ (f3 % 4)

/-- The value a load gives its register: sign-extended below f3 = 4, zero-extended above. -/
def extendLoad (f3 v : Nat) : BitVec 64 :=
  if f3 < 4 then BitVec.ofInt 64 (signed (8 * accessBytes f3) v) else BitVec.ofNat 64 v

/-- The value an AMO stores, at a width. -/
def amoValue {w : Nat} (f5 : Nat) (a b : BitVec w) : BitVec w :=
  match f5 with
  | 1 => b
  | 0 => a + b
  | 4 => a ^^^ b
  | 0xC => a &&& b
  | 8 => a ||| b
  | 0x10 => if a.toInt < b.toInt then a else b
  | 0x14 => if a.toInt < b.toInt then b else a
  | 0x18 => if a.toNat < b.toNat then a else b
  | _ => if a.toNat < b.toNat then b else a

end Sys2Proof.Machine
end

