-- ==== Sys2Proof/Machine/Scalar.lean ====
section
/-!
DEFINITION. Sys2Proof/Machine/Scalar.lean: the scalar unit of a core (R77 to R82, R96, R98, R281): it fetches at its pc and executes one instruction a
command; a command whose instruction is not the one at the pc leaves the state as it is.
-/
namespace Sys2Proof.Machine

/-! ### Registers -/

/-- The scalar unit of core l. -/
def hartOf (s : State) (l : Nat) : Hart := (coreSt s l).hart
/-- The scalar unit of core l replaced. -/
def setHart (s : State) (l : Nat) (h : Hart) : State := setCore s l { coreSt s l with hart := h }
/-- Register x n; x0 is zero. -/
def getX (h : Hart) (n : Nat) : BitVec 64 := if n = 0 then 0 else Tbl.getD h.x n 0
/-- Register x n written; a write of x0 is discarded. -/
def setX (h : Hart) (n : Nat) (v : BitVec 64) : Hart := if n = 0 then h else { h with x := Tbl.put h.x n v 0 }
/-- The pc moved on by an instruction's length. -/
def advance (h : Hart) (n : Nat) : Hart := { h with pc := h.pc + BitVec.ofNat 64 n }
/-- An instruction of n bytes of core l ends with rd written. -/
def retire (s : State) (l n rd' : Nat) (v : BitVec 64) : State := setHart s l (advance (setX (hartOf s l) rd' v) n)

/-! ### Control and status registers (Zicsr; log entry 31) -/

/-- A CSR as stored. -/
def getCsr (h : Hart) (n : Nat) : Nat := (Tbl.getD h.csr n 0).toNat
/-- A CSR stored. -/
def putCsr (h : Hart) (n v : Nat) : Hart := { h with csr := Tbl.put h.csr n (BitVec.ofNat 64 v) 0 }

/-- Numbers of the CSRs that a trap uses. -/
def csrMstatus : Nat := 0x300
def csrMtvec : Nat := 0x305
def csrMepc : Nat := 0x341
def csrMcause : Nat := 0x342
def csrMtval : Nat := 0x343

/-- The fields of mstatus that can be written: MIE, MPIE, MPP (U or M only), MPRV, TW. -/
def mstatusWrite (old v : Nat) : Nat :=
  let v := if bits v 12 11 = 0 ∨ bits v 12 11 = 3 then v else setBits v 11 2 (bits old 12 11)
  Nat.land v (2 ^ 3 + 2 ^ 7 + 3 * 2 ^ 11 + 2 ^ 17 + 2 ^ 21)

/-- The value a CSR reads as, where the unit has it: machine-mode registers of an M and U hart without interrupts; identification and counters read
free values. -/
def readCsrReg (s : State) (h : Hart) (n : Nat) : Option (State × Nat) :=
  if n = csrMstatus then some (s, getCsr h n + 2 * 2 ^ 32)
  else if n = 0x301 then some (s, 2 * 2 ^ 62 + 2 ^ 0 + 2 ^ 2 + 2 ^ 8 + 2 ^ 12 + 2 ^ 20)
  else if n = 0x304 ∨ n = 0x344 ∨ n = 0x30A ∨ n = 0x320 ∨ (0x323 ≤ n ∧ n ≤ 0x33F) ∨ (0xB03 ≤ n ∧ n ≤ 0xB1F) then some (s, 0)
  else if n = csrMtvec ∨ n = 0x306 ∨ n = 0x340 ∨ n = csrMepc ∨ n = csrMcause ∨ n = csrMtval then some (s, getCsr h n)
  else if n = 0xB00 ∨ n = 0xB02 ∨ (0xF11 ≤ n ∧ n ≤ 0xF15) then some (fresh s 64)
  else none

/-- A CSR written; read-only fields keep their value. -/
def writeCsrReg (h : Hart) (n v : Nat) : Hart :=
  if n = csrMstatus then putCsr h n (mstatusWrite (getCsr h n) v)
  else if n = csrMtvec then putCsr h n (v - v % 4 + v % 2)
  else if n = csrMepc then putCsr h n (v - v % 2)
  else if n = 0x306 then putCsr h n (v % 2 ^ 32)
  else if n = 0x340 ∨ n = csrMcause ∨ n = csrMtval then putCsr h n v
  else h

/-! ### Exceptions -/

/-- The trap of the privileged architecture: mepc, mcause, mtval and the mode saved, machine mode entered at mtvec. -/
def trapHart (h : Hart) (cause tval : Nat) : Hart :=
  let ms := getCsr h csrMstatus
  let ms := setBits (setBits (setBits ms 11 2 (if h.user then 0 else 3)) 7 1 (bits ms 3 3)) 3 1 0
  let h := putCsr (putCsr (putCsr (putCsr h csrMstatus ms) csrMepc h.pc.toNat) csrMcause cause) csrMtval tval
  { h with user := false, pc := BitVec.ofNat 64 (getCsr h csrMtvec / 4 * 4) }

/-- What the firmware does about a user-mode exception: the program stops until the next load of its partition, context 0 halts, and
CORE_PROGRAM_FAULT goes to Pip (R81). -/
def programFault (s : State) (l cause epc tval : Nat) : State :=
  let s := setHart s l { hartOf s l with stopped := true }
  emit (wr s .c0Halted l 1) (.coreFault l cause epc tval)

/-- An exception of core l. -/
def takeException (s : State) (l cause tval : Nat) : State :=
  let h := hartOf s l
  let s := setHart s l (trapHart h cause tval)
  if h.user then programFault s l cause h.pc.toNat tval else s

/-- An illegal instruction: mtval is a free value (log entry 31). -/
def illegalInstr (s : State) (l : Nat) : State :=
  let x := fresh s 64
  takeException x.1 l 2 x.2

/-- MRET. -/
def returnHart (h : Hart) : Hart :=
  let ms := getCsr h csrMstatus
  let mpp := bits ms 12 11
  let ms := setBits (setBits (setBits ms 3 1 (bits ms 7 7)) 7 1 1) 11 2 0
  let ms := if mpp = 3 then ms else setBits ms 17 1 0
  { putCsr h csrMstatus ms with user := mpp != 3, pc := BitVec.ofNat 64 (getCsr h csrMepc) }

/-- An uncorrectable word met by a fetch, load or atomic: the exception, the physical core in the defect list, and a device warm reset with reason
BLOCK_FAILED (Table 10.3). -/
def scalarUe (s : State) (l cause tval : Nat) : State :=
  let s := takeException s l cause tval
  deviceReset (addDefect s ((Tbl.find s.coreMap l).getD physCount)) false 9

/-! ### Memory (R78, Table 3.1) -/

/-- Why an access fails: no such address or no right to it, or an uncorrectable word. -/
inductive AccessErr where
  | fault
  | bad
  deriving DecidableEq, Repr

/-- [a, a+n) may be fetched, and reached by LR: in the core store, in user mode its program area (Table 3.1). -/
def codeArea (user : Bool) (a n : Nat) : Bool := decide (a + n ≤ 0x180000) && (!user || decide (0x20000 ≤ a))
/-- [a, a+n) may be written in the core store: in user mode the program area, in machine mode all but the firmware image, which Pip's delivery alone
writes (Tables 3.1, 3.4; DEDUCED that such a store raises the access fault of R78, log entry 35). -/
def storeArea (user : Bool) (a n : Nat) : Bool := codeArea user a n && decide (0xC000 ≤ a)
/-- An access to the register block. -/
def regArea (a n : Nat) : Bool := (n == 4 || n == 8) && a % n == 0 && decide (0x1000000 ≤ a ∧ a + n ≤ 0x1001000)
/-- The CSR offset of an address of the register block. -/
def regOffset (l a : Nat) : Nat := 0x200000 + 0x1000 * l + (a - 0x1000000)

/-- The mode that a load or store is made in: MPRV takes MPP's. -/
def dataUser (h : Hart) : Bool := h.user || (bit (getCsr h csrMstatus) 17 && bits (getCsr h csrMstatus) 12 11 == 0)

/-- n bytes of the core store read. -/
def readStore (s : State) (l a n : Nat) : State × Except AccessErr Nat :=
  match readMem s (coreBase l + a) n with
  | (s, .ok d) => (s, .ok (leNat d))
  | (s, .error _) => (s, .error .bad)

/-- A load. -/
def scalarRead (s : State) (l a n : Nat) : State × Except AccessErr Nat :=
  if codeArea false a n then readStore s l a n
  else if regArea a n then
    let r := readCsr s (.core l) (regOffset l a) (8 * n)
    (r.1, .ok r.2)
  else (s, .error .fault)

/-- A store: false where there is no such address, or no right to it. -/
def scalarWrite (s : State) (l : Nat) (user : Bool) (a n v : Nat) : State × Bool :=
  if storeArea user a n then ((writeMem s (coreBase l + a) (toLE n v)).1, true)
  else if regArea a n then (writeCsr s (regOffset l a) (8 * n) v, true)
  else (s, false)

/-- A failed load, fetch or atomic: the access-fault exception of its cause. -/
def accessFailed (s : State) (l cause a : Nat) : AccessErr → State
  | .fault => takeException s l cause a
  | .bad => scalarUe s l cause a

/-! ### Fetch -/

/-- What stands at the pc: no fetch there, an uncorrectable word, or an instruction and its length. -/
inductive Fetch where
  | fault
  | bad
  | op (o : RvOp) (n : Nat)
  deriving DecidableEq, Repr

/-- The instruction at the pc. -/
def fetchAt (s : State) (l : Nat) : Fetch :=
  let h := hartOf s l
  let a := h.pc.toNat
  let ok := fun (n : Nat) => codeArea h.user a n
  let bad := fun (n : Nat) => (wordsOf (coreBase l + a) n).any (wordBad s)
  if !ok 2 then .fault
  else if bad 2 then .bad
  else
    let w := memNat s (coreBase l + a) 2
    if w % 4 ≠ 3 then .op (decodeC w) 2
    else if !ok 4 then .fault
    else if bad 4 then .bad
    else .op (if w % 32 = 31 then .illegal else decodeRv (memNat s (coreBase l + a) 4)) 4

/-- The unit executes: its core is present, its firmware has been accepted, no TK.WAIT holds it, and in user mode the program has neither been
stopped nor ended. -/
def running (s : State) (l : Nat) : Bool :=
  let h := hartOf s l
  corePresent s l && h.live && h.tkWait.isNone && !(h.user && (h.stopped || h.ended))

/-- The instruction at the pc executed by go, where it is one that pick takes; its bytes are read as a fetch reads them. -/
def stepAt (s : State) (l : Nat) (go : State → RvOp → Nat → Option State) : State :=
  if !running s l then s
  else match fetchAt s l with
    | .op o n => (go (readStore s l (hartOf s l).pc.toNat n).1 o n).getD s
    | _ => s

/-! ### Instructions -/

/-- Zicsr. -/
def csrStep (s : State) (l n f3 rd' src num : Nat) : State :=
  let h := hartOf s l
  let a := if 4 ≤ f3 then src else (getX h src).toNat
  let writes := f3 % 4 == 1 || src != 0
  if (h.user && bits num 9 8 != 0) || (writes && bits num 11 10 == 3) then illegalInstr s l
  else match readCsrReg s h num with
    | none => illegalInstr s l
    | some (s, old) =>
      let v := if f3 % 4 = 1 then a else if f3 % 4 = 2 then Nat.lor old a else Nat.land old (2 ^ 64 - 1 - a)
      let h := if writes then writeCsrReg h num v else h
      setHart s l (advance (setX h rd' (BitVec.ofNat 64 old)) n)

/-- The effective address of a load or store. -/
def effAddr (h : Hart) (rs1 : Nat) (off : Int) : Nat := (getX h rs1 + BitVec.ofInt 64 off).toNat

/-- A load. -/
def loadStep (s : State) (l n f3 rd' a : Nat) : State :=
  match scalarRead s l a (accessBytes f3) with
  | (s, .ok v) => retire s l n rd' (extendLoad f3 v)
  | (s, .error e) => accessFailed s l 5 a e

/-- A store. -/
def storeStep (s : State) (l n f3 a v : Nat) : State :=
  match scalarWrite s l (dataUser (hartOf s l)) a (accessBytes f3) v with
  | (s, true) => setHart s l (advance (hartOf s l) n)
  | (s, false) => takeException s l 7 a

/-- The 64-byte granule of an address of the store (R79). -/
def granule (l a : Nat) : Nat := (coreBase l + a) / 64 * 64

/-- The value of a word or doubleword read by an atomic, as its register takes it. -/
def extendWord (w : Bool) (v : Nat) : BitVec 64 := extendLoad (if w then 2 else 3) v

/-- LR. -/
def lrStep (s : State) (l n : Nat) (w : Bool) (rd' a : Nat) : State :=
  let b := if w then 4 else 8
  if a % b ≠ 0 then takeException s l 4 a
  else if !codeArea (dataUser (hartOf s l)) a b then takeException s l 5 a
  else match readStore s l a b with
    | (s, .ok v) => retire (setHart s l { hartOf s l with resv := some (granule l a) }) l n rd' (extendWord w v)
    | (s, .error e) => accessFailed s l 5 a e

/-- SC: 0 where the reservation stands and the store is made, else 1. -/
def scStep (s : State) (l n : Nat) (w : Bool) (rd' a v : Nat) : State :=
  let b := if w then 4 else 8
  let h := hartOf s l
  if a % b ≠ 0 then takeException s l 6 a
  else if !storeArea (dataUser h) a b then takeException s l 7 a
  else
    let s := setHart s l { h with resv := none }
    if h.resv = some (granule l a) then retire (writeMem s (coreBase l + a) (toLE b v)).1 l n rd' 0 else retire s l n rd' 1

/-- An AMO. At the register block it raises an access fault, as a fetch there does, in either mode (DEDUCED, log entry 35). -/
def amoStep (s : State) (l n f5 : Nat) (w : Bool) (rd' a : Nat) (v : BitVec 64) : State :=
  let b := if w then 4 else 8
  if a % b ≠ 0 then takeException s l 6 a
  else if !storeArea (dataUser (hartOf s l)) a b then takeException s l 7 a
  else match readStore s l a b with
    | (s, .ok x) =>
      let y := if w then (amoValue f5 (BitVec.ofNat 32 x) (v.truncate 32)).toNat else (amoValue f5 (BitVec.ofNat 64 x) v).toNat
      retire (writeMem s (coreBase l + a) (toLE b y)).1 l n rd' (extendWord w x)
    | (s, .error e) => accessFailed s l 7 a e

/-- A jump: rd takes the address of the next instruction. -/
def jumpTo (s : State) (l n rd' : Nat) (t : BitVec 64) : State :=
  let h := hartOf s l
  setHart s l { setX h rd' (h.pc + BitVec.ofNat 64 n) with pc := t }

/-- An instruction that is neither ECALL nor a dispatch operation; none for those. -/
def plainStep (l : Nat) (s : State) (o : RvOp) (n : Nat) : Option State :=
  let h := hartOf s l
  match o with
  | .illegal => some (illegalInstr s l)
  | .lui rd' i => some (retire s l n rd' (BitVec.ofInt 64 i))
  | .auipc rd' i => some (retire s l n rd' (h.pc + BitVec.ofInt 64 i))
  | .jal rd' off => some (jumpTo s l n rd' (h.pc + BitVec.ofInt 64 off))
  | .jalr rd' rs1 off => some (jumpTo s l n rd' (BitVec.ofNat 64 (effAddr h rs1 off / 2 * 2)))
  | .branch f3 a b off =>
    some (if branchTaken f3 (getX h a) (getX h b) then setHart s l { h with pc := h.pc + BitVec.ofInt 64 off } else setHart s l (advance h n))
  | .load f3 rd' rs1 off => some (loadStep s l n f3 rd' (effAddr h rs1 off))
  | .store f3 rs1 rs2 off => some (storeStep s l n f3 (effAddr h rs1 off) (getX h rs2).toNat)
  | .opImm w f3 f7 rd' rs1 i => some (retire s l n rd' (aluOp w f3 f7 (getX h rs1) (BitVec.ofInt 64 i)))
  | .opReg w f3 f7 rd' a b => some (retire s l n rd' (aluOp w f3 f7 (getX h a) (getX h b)))
  | .fence => some (setHart s l (advance h n))
  | .csr f3 rd' src num => some (csrStep s l n f3 rd' src num)
  | .ebreak => some (takeException s l 3 h.pc.toNat)
  | .mret => some (if h.user then illegalInstr s l else setHart s l (returnHart h))
  | .wfi => some (if h.user && bit (getCsr h csrMstatus) 21 then illegalInstr s l else setHart s l (advance h n))
  | .lr w rd' rs1 => some (lrStep s l n w rd' (getX h rs1).toNat)
  | .sc w rd' rs1 rs2 => some (scStep s l n w rd' (getX h rs1).toNat (getX h rs2).toNat)
  | .amo f5 w rd' rs1 rs2 => some (amoStep s l n f5 w rd' (getX h rs1).toNat (getX h rs2))
  | _ => none

/-- SCALAR_INSTRUCTION: a failed fetch, or the instruction at the pc. -/
def scalarStep (s : State) (l : Nat) : State :=
  let a := (hartOf s l).pc.toNat
  if !running s l then s
  else match fetchAt s l with
    | .fault => takeException s l 1 a
    | .bad => accessFailed (readStore s l a (if codeArea (hartOf s l).user a 4 then 4 else 2)).1 l 1 a .bad
    | .op _ _ => stepAt s l (plainStep l)

/-- ECALL: with a7 = 0 in user mode the program has ended; otherwise it is an exception (R81). -/
def ecallStep (l : Nat) (s : State) (o : RvOp) (_ : Nat) : Option State :=
  let h := hartOf s l
  if o ≠ .ecall then none
  else if h.user && getX h 17 == 0 then some (setHart s l { trapHart h 8 0 with ended := true })
  else some (takeException s l (if h.user then 8 else 11) 0)

/-- Context 0 holds no tile. -/
def ctx0Empty (s : State) (l : Nat) : Bool := (coreSt s l).c0.queue.isEmpty && (coreSt s l).c0.flight.isEmpty

/-- TD.ISSUE: held while the issue queue is full. -/
def tdIssueStep (l : Nat) (s : State) (o : RvOp) (n : Nat) : Option State :=
  match o with
  | .tdIssue rd' rs1 =>
    let a := (getX (hartOf s l) rs1).toNat
    if a % 64 ≠ 0 ∨ a < 0x20000 ∨ 0x180000 < a + 64 then some (takeException s l 5 a)
    else if 64 ≤ (coreSt s l).c0.queue.length then none
    else match readMem s (coreBase l + a) 64 with
      | (s, .ok d) => some (issueTile (retire s l n rd' (BitVec.ofNat 64 (rd s .c0IssuedSeq l))) l 0 d)
      | (s, .error _) => some (accessFailed s l 5 a .bad)
  | _ => none

/-- TD.FENCE: held until every context-0 tile has completed. -/
def tdFenceStep (l : Nat) (s : State) (o : RvOp) (n : Nat) : Option State :=
  match o with
  | .tdFence rd' => if ctx0Empty s l then some (retire s l n rd' (BitVec.ofNat 64 (rd s .c0FailStatus l))) else none
  | _ => none

/-- TD.RESUME. -/
def tdResumeStep (l : Nat) (s : State) (o : RvOp) (n : Nat) : Option State :=
  match o with
  | .tdResume rs1 =>
    let h := hartOf s l
    some (resumeCtx (setHart s l (advance h n)) l 0 (bit (getX h rs1).toNat 0))
  | _ => none

/-- CTX_STATE, word 0x004 of Table 3.10. -/
def ctxStateWord (s : State) (l : Nat) : Nat := (peekWord s (0x200004 + 0x1000 * l)).2

/-- TD.STAT. -/
def tdStatStep (l : Nat) (s : State) (o : RvOp) (n : Nat) : Option State :=
  match o with
  | .tdStat rd' => some (retire s l n rd' (BitVec.ofNat 64 (ctxStateWord s l)))
  | _ => none

/-- TK.READ. -/
def tkReadStep (l : Nat) (s : State) (o : RvOp) (n : Nat) : Option State :=
  match o with
  | .tkRead rd' rs1 => some (retire s l n rd' (BitVec.ofNat 64 (token s l ((getX (hartOf s l) rs1).toNat % 64))))
  | _ => none

/-- A counter that the unit may set, add to and wait on: 0 to 47 in user mode, any in machine mode (R82). -/
def tkAllowed (h : Hart) (n : Nat) : Bool := !h.user || decide (n < 48)

/-- TK.SET. -/
def tkSetStep (l : Nat) (s : State) (o : RvOp) (n : Nat) : Option State :=
  match o with
  | .tkSet rs1 rs2 =>
    let h := hartOf s l
    let c := (getX h rs1).toNat % 64
    some (if tkAllowed h c then recheckWait (setToken (setHart s l (advance h n)) l c ((getX h rs2).toNat % 2 ^ 32)) l else illegalInstr s l)
  | _ => none

/-- TK.ADD. -/
def tkAddStep (l : Nat) (s : State) (o : RvOp) (n : Nat) : Option State :=
  match o with
  | .tkAdd rs1 rs2 =>
    let h := hartOf s l
    let c := (getX h rs1).toNat % 64
    some (if tkAllowed h c then addToken (setHart s l (advance h n)) l c ((getX h rs2).toNat % 2 ^ 32) else illegalInstr s l)
  | _ => none

/-- TK.WAIT: satisfied at once, or the unit waits for a signal or TK_WAIT_TIMEOUT. -/
def tkWaitStep (l : Nat) (s : State) (o : RvOp) (_ : Nat) : Option State :=
  match o with
  | .tkWait rd' rs1 rs2 =>
    let h := hartOf s l
    let c := (getX h rs1).toNat % 64
    some (if tkAllowed h c then recheckWait (setHart s l { h with tkWait := some (rd', c, (getX h rs2).toNat % 2 ^ 32) }) l else illegalInstr s l)
  | _ => none

/-- TK.WAIT expires: rd := 0x07, counted (R98). -/
def tkExpire (s : State) (l : Nat) : State :=
  let h := hartOf s l
  match h.tkWait with
  | none => s
  | some (rd', _, _) => inc (setHart s l (advance (setX { h with tkWait := none } rd' 7) 4)) .tokenTimeoutCnt l

/-- NS.READ. -/
def nsReadStep (l : Nat) (s : State) (o : RvOp) (n : Nat) : Option State :=
  match o with
  | .nsRead rd' => some (retire s l n rd' (BitVec.ofNat 64 (nowNs s)))
  | _ => none

/-! ### Meanings -/

/-- SCALAR_INSTRUCTION. -/
def execScalarInstruction (core : Nat) (s : State) : Host.Outcome State Fault Refusal := .next (scalarStep s core)
/-- ECALL. -/
def execEcall (core : Nat) (s : State) : Host.Outcome State Fault Refusal := .next (stepAt s core (ecallStep core))
/-- PROG_DONE_SET: the program has ended, and context 0 holds no tile (R81). -/
def execProgDoneSet (core : Nat) (s : State) : Host.Outcome State Fault Refusal :=
  .next (if (hartOf s core).ended && ctx0Empty s core then wr s .progDone core 1 else s)
/-- TD_ISSUE. -/
def execTdIssue (core : Nat) (s : State) : Host.Outcome State Fault Refusal := .next (stepAt s core (tdIssueStep core))
/-- TD_FENCE. -/
def execTdFence (core : Nat) (s : State) : Host.Outcome State Fault Refusal := .next (stepAt s core (tdFenceStep core))
/-- TD_RESUME. -/
def execTdResume (core : Nat) (s : State) : Host.Outcome State Fault Refusal := .next (stepAt s core (tdResumeStep core))
/-- TD_STAT. -/
def execTdStat (core : Nat) (s : State) : Host.Outcome State Fault Refusal := .next (stepAt s core (tdStatStep core))
/-- TK_READ. -/
def execTkRead (core : Nat) (s : State) : Host.Outcome State Fault Refusal := .next (stepAt s core (tkReadStep core))
/-- TK_SET. -/
def execTkSet (core : Nat) (s : State) : Host.Outcome State Fault Refusal := .next (stepAt s core (tkSetStep core))
/-- TK_ADD. -/
def execTkAdd (core : Nat) (s : State) : Host.Outcome State Fault Refusal := .next (stepAt s core (tkAddStep core))
/-- TK_WAIT. -/
def execTkWait (core : Nat) (s : State) : Host.Outcome State Fault Refusal := .next (stepAt s core (tkWaitStep core))
/-- TK_WAIT_TIMEOUT. -/
def execTkWaitTimeout (core : Nat) (s : State) : Host.Outcome State Fault Refusal := .next (tkExpire s core)
/-- NS_READ. -/
def execNsRead (core : Nat) (s : State) : Host.Outcome State Fault Refusal := .next (stepAt s core (nsReadStep core))

end Sys2Proof.Machine
end

