-- ==== Sys2Proof/Machine/Vector.lean ====
section
/-!
DEFINITION. Sys2Proof/Machine/Vector.lean: the meanings of the vector instructions (Table 4.4, R118 to R130). Each is the one step
of Operands.lean with the operation's validity and effect.
-/
namespace Sys2Proof.Machine

/-- The step of a checked instruction as an outcome. -/
def vInstr (opc : Nat) (ok : Nat → Bool) (f : State → VEng → Nat → VRes) (core : Nat) (s : State) : Host.Outcome State Fault Refusal :=
  .next (vstep s core opc (vChecked ok f))

/-- Operation 0x00. -/
def opNop : State → VEng → Nat → VRes :=
  fun s e _ => VRes.just s e
/-- NOP. -/
def execNop (core : Nat) (s : State) : Host.Outcome State Fault Refusal :=
  vInstr 0x00 (fun w => sqOk w false false false false (sqImm w == 0)) opNop core s

/-- Operation 0x02. -/
def opSli : State → VEng → Nat → VRes :=
  sqWrite (fun _ w => wrap 64 (sqSext w))
/-- SLI. -/
def execSli (core : Nat) (s : State) : Host.Outcome State Fault Refusal :=
  vInstr 0x02 (fun w => sqOk w true false false false (true)) opSli core s

/-- Operation 0x03. -/
def opSaddi : State → VEng → Nat → VRes :=
  sqWrite sqSum
/-- SADDI. -/
def execSaddi (core : Nat) (s : State) : Host.Outcome State Fault Refusal :=
  vInstr 0x03 (fun w => sqOk w true true false false (true)) opSaddi core s

/-- Operation 0x04. -/
def opSadd : State → VEng → Nat → VRes :=
  sqWrite (fun e w => sreg e (sqS1 w) + sreg e (sqS2 w))
/-- SADD. -/
def execSadd (core : Nat) (s : State) : Host.Outcome State Fault Refusal :=
  vInstr 0x04 (fun w => sqOk w true true true false (sqImm w == 0)) opSadd core s

/-- Operation 0x05. -/
def opSmul : State → VEng → Nat → VRes :=
  sqWrite (fun e w => sreg e (sqS1 w) * sreg e (sqS2 w))
/-- SMUL. -/
def execSmul (core : Nat) (s : State) : Host.Outcome State Fault Refusal :=
  vInstr 0x05 (fun w => sqOk w true true true false (sqImm w == 0)) opSmul core s

/-- Operation 0x06. -/
def opSshli : State → VEng → Nat → VRes :=
  sqWrite (fun e w => sreg e (sqS1 w) * 2 ^ (sqImm w % 64))
/-- SSHLI. -/
def execSshli (core : Nat) (s : State) : Host.Outcome State Fault Refusal :=
  vInstr 0x06 (fun w => sqOk w true true false false (bits (sqImm w) 31 6 == 0)) opSshli core s

/-- Operation 0x07. -/
def opSshri : State → VEng → Nat → VRes :=
  sqWrite (fun e w => sreg e (sqS1 w) / 2 ^ (sqImm w % 64))
/-- SSHRI. -/
def execSshri (core : Nat) (s : State) : Host.Outcome State Fault Refusal :=
  vInstr 0x07 (fun w => sqOk w true true false false (bits (sqImm w) 31 6 == 0)) opSshri core s

/-- Operation 0x08. -/
def opSbnz : State → VEng → Nat → VRes :=
  vBranch (fun e w => sreg e (sqS1 w) != 0)
/-- SBNZ. -/
def execSbnz (core : Nat) (s : State) : Host.Outcome State Fault Refusal :=
  vInstr 0x08 (fun w => sqOk w false true false false (true)) opSbnz core s

/-- Operation 0x09. -/
def opSblt : State → VEng → Nat → VRes :=
  vBranch (fun e w => decide (signed 64 (sreg e (sqS1 w)) < signed 64 (sreg e (sqS2 w))))
/-- SBLT. -/
def execSblt (core : Nat) (s : State) : Host.Outcome State Fault Refusal :=
  vInstr 0x09 (fun w => sqOk w false true true false (true)) opSblt core s

/-- Operation 0x0A. -/
def opSld : State → VEng → Nat → VRes :=
  fun s e w =>
    match vWin e (sqWin w) with
    | none => VRes.bad s e .format
    | some (base, size) =>
      let off := sqSum e w
      if off % 8 ≠ 0 then VRes.bad s e .format
      else if size < off + 8 then VRes.bad s e .bounds
      else match vLoad s e (base + off) 8 with
        | (s, none) => VRes.bad s e .uncorrectable
        | (s, some b) => VRes.just s (setS e (sqSd w) (leNat b))
/-- SLD. -/
def execSld (core : Nat) (s : State) : Host.Outcome State Fault Refusal :=
  vInstr 0x0A (fun w => sqOk w true true false true (true)) opSld core s

/-- Operation 0x0B. -/
def opScnt : State → VEng → Nat → VRes :=
  sqWrite (fun e w => popcount (if sqImm w = 1 then 256 else 128) (preg e (sqS1 w)).toNat)
/-- SCNT. -/
def execScnt (core : Nat) (s : State) : Host.Outcome State Fault Refusal :=
  vInstr 0x0B (fun w => sqOk w true true false false (sqS1 w < 8 && sqImm w ≤ 1)) opScnt core s

/-- Operation 0x0C. -/
def opSvext : State → VEng → Nat → VRes :=
  sqWrite (fun e w => velt (vreg e (bits (sqImm w) 12 8)) 4 (bits (sqImm w) 6 0))
/-- SVEXT. -/
def execSvext (core : Nat) (s : State) : Host.Outcome State Fault Refusal :=
  vInstr 0x0C (fun w => sqOk w true false false false (!bit (sqImm w) 7 && bits (sqImm w) 31 13 == 0)) opSvext core s

/-- Operation 0x10. -/
def opPwhile : State → VEng → Nat → VRes :=
  fun s e w => VRes.just s (setP e (vVd w) (packP ((List.range (vCount (vFmt w))).map (fun j => decide (j < sreg e (vSkey w))))))
/-- PWHILE. -/
def execPwhile (core : Nat) (s : State) : Host.Outcome State Fault Refusal :=
  vInstr 0x10 (fun w => vvOk w fmtAny false 2 0 0 0 [0] true (vImm w == 0)) opPwhile core s

/-- Operation 0x11. -/
def opPand : State → VEng → Nat → VRes :=
  pLogic (· &&& ·)
/-- PAND. -/
def execPand (core : Nat) (s : State) : Host.Outcome State Fault Refusal :=
  vInstr 0x11 (fun w => vvOk w [0] false 2 2 2 0 [0] false (vImm w == 0)) opPand core s

/-- Operation 0x12. -/
def opPor : State → VEng → Nat → VRes :=
  pLogic (· ||| ·)
/-- POR. -/
def execPor (core : Nat) (s : State) : Host.Outcome State Fault Refusal :=
  vInstr 0x12 (fun w => vvOk w [0] false 2 2 2 0 [0] false (vImm w == 0)) opPor core s

/-- Operation 0x13. -/
def opPxor : State → VEng → Nat → VRes :=
  pLogic (· ^^^ ·)
/-- PXOR. -/
def execPxor (core : Nat) (s : State) : Host.Outcome State Fault Refusal :=
  vInstr 0x13 (fun w => vvOk w [0] false 2 2 2 0 [0] false (vImm w == 0)) opPxor core s

/-- Operation 0x14. -/
def opPnot : State → VEng → Nat → VRes :=
  pLogic (fun a _ => ~~~a)
/-- PNOT. -/
def execPnot (core : Nat) (s : State) : Host.Outcome State Fault Refusal :=
  vInstr 0x14 (fun w => vvOk w [0] false 2 2 0 0 [0] false (vImm w == 0)) opPnot core s

/-- Operation 0x15. -/
def opVcmp : State → VEng → Nat → VRes :=
  vCmp
/-- VCMP. -/
def execVcmp (core : Nat) (s : State) : Host.Outcome State Fault Refusal :=
  vInstr 0x15 (fun w => vvOk w [0, 1, 2, 3] true 2 1 1 0 [0] false (if vFmt w = 0 then vImm w ≤ 3 else vImm w ≤ 4)) opVcmp core s

/-- Operation 0x20. -/
def opVadd : State → VEng → Nat → VRes :=
  vFloat src2 (fun f rm xs => f.roundV rm (FVal.add (valAt f xs 0) (valAt f xs 1)))
/-- VADD. -/
def execVadd (core : Nat) (s : State) : Host.Outcome State Fault Refusal :=
  vInstr 0x20 (fun w => vvOk w [1, 2, 3] true 1 1 1 0 [0, 1] false (vImm w == 0)) opVadd core s

/-- Operation 0x21. -/
def opVsub : State → VEng → Nat → VRes :=
  vFloat src2 (fun f rm xs => f.roundV rm (FVal.add (valAt f xs 0) (valAt f xs 1).negate))
/-- VSUB. -/
def execVsub (core : Nat) (s : State) : Host.Outcome State Fault Refusal :=
  vInstr 0x21 (fun w => vvOk w [1, 2, 3] true 1 1 1 0 [0, 1] false (vImm w == 0)) opVsub core s

/-- Operation 0x22. -/
def opVmul : State → VEng → Nat → VRes :=
  vFloat src2 (fun f rm xs => f.roundV rm (FVal.mul (valAt f xs 0) (valAt f xs 1)))
/-- VMUL. -/
def execVmul (core : Nat) (s : State) : Host.Outcome State Fault Refusal :=
  vInstr 0x22 (fun w => vvOk w [1, 2, 3] true 1 1 1 0 [0, 1] false (vImm w == 0)) opVmul core s

/-- Operation 0x23. -/
def opVfma : State → VEng → Nat → VRes :=
  vFloat src3 (fun f rm xs => f.roundV rm (FVal.add (FVal.mul (valAt f xs 0) (valAt f xs 1)) (valAt f xs 2)))
/-- VFMA. -/
def execVfma (core : Nat) (s : State) : Host.Outcome State Fault Refusal :=
  vInstr 0x23 (fun w => vvOk w [1, 2, 3] true 1 1 1 1 [0, 1] false (vImm w == 0)) opVfma core s

/-- Operation 0x24. -/
def opVfnma : State → VEng → Nat → VRes :=
  vFloat src3 (fun f rm xs => f.roundV rm (FVal.add (valAt f xs 2) (FVal.mul (valAt f xs 0) (valAt f xs 1)).negate))
/-- VFNMA. -/
def execVfnma (core : Nat) (s : State) : Host.Outcome State Fault Refusal :=
  vInstr 0x24 (fun w => vvOk w [1, 2, 3] true 1 1 1 1 [0, 1] false (vImm w == 0)) opVfnma core s

/-- Operation 0x25. -/
def opVdiv : State → VEng → Nat → VRes :=
  vFloat src2 (fun f rm xs => FVal.div f rm (valAt f xs 0) (valAt f xs 1))
/-- VDIV. -/
def execVdiv (core : Nat) (s : State) : Host.Outcome State Fault Refusal :=
  vInstr 0x25 (fun w => vvOk w [1, 2, 3] true 1 1 1 0 [0, 1] false (vImm w == 0)) opVdiv core s

/-- Operation 0x26. -/
def opVsqrt : State → VEng → Nat → VRes :=
  vFloat src1 (fun f rm xs => FVal.sqrt f rm (valAt f xs 0))
/-- VSQRT. -/
def execVsqrt (core : Nat) (s : State) : Host.Outcome State Fault Refusal :=
  vInstr 0x26 (fun w => vvOk w [1, 2, 3] true 1 1 0 0 [0, 1] false (vImm w == 0)) opVsqrt core s

/-- Operation 0x27. -/
def opVmin : State → VEng → Nat → VRes :=
  vFloat src2 (fun f _ xs => pick f false (xs.getD 0 0) (xs.getD 1 0))
/-- VMIN. -/
def execVmin (core : Nat) (s : State) : Host.Outcome State Fault Refusal :=
  vInstr 0x27 (fun w => vvOk w [1, 2, 3] true 1 1 1 0 [0] false (vImm w == 0)) opVmin core s

/-- Operation 0x28. -/
def opVmax : State → VEng → Nat → VRes :=
  vFloat src2 (fun f _ xs => pick f true (xs.getD 0 0) (xs.getD 1 0))
/-- VMAX. -/
def execVmax (core : Nat) (s : State) : Host.Outcome State Fault Refusal :=
  vInstr 0x28 (fun w => vvOk w [1, 2, 3] true 1 1 1 0 [0] false (vImm w == 0)) opVmax core s

/-- Operation 0x29. -/
def opVabs : State → VEng → Nat → VRes :=
  vFloat src1 (signOp false)
/-- VABS. -/
def execVabs (core : Nat) (s : State) : Host.Outcome State Fault Refusal :=
  vInstr 0x29 (fun w => vvOk w [1, 2, 3] true 1 1 0 0 [0] false (vImm w == 0)) opVabs core s

/-- Operation 0x2A. -/
def opVneg : State → VEng → Nat → VRes :=
  vFloat src1 (signOp true)
/-- VNEG. -/
def execVneg (core : Nat) (s : State) : Host.Outcome State Fault Refusal :=
  vInstr 0x2A (fun w => vvOk w [1, 2, 3] true 1 1 0 0 [0] false (vImm w == 0)) opVneg core s

/-- Operation 0x2B. -/
def opVfmawl : State → VEng → Nat → VRes :=
  vFmaWide 0
/-- VFMAWL. -/
def execVfmawl (core : Nat) (s : State) : Host.Outcome State Fault Refusal :=
  vInstr 0x2B (fun w => vvOk w [1, 2] true 1 1 1 1 [0, 1] false (vImm w == 0)) opVfmawl core s

/-- Operation 0x2C. -/
def opVfmawh : State → VEng → Nat → VRes :=
  vFmaWide 128
/-- VFMAWH. -/
def execVfmawh (core : Nat) (s : State) : Host.Outcome State Fault Refusal :=
  vInstr 0x2C (fun w => vvOk w [1, 2] true 1 1 1 1 [0, 1] false (vImm w == 0)) opVfmawh core s

/-- Operation 0x2D. -/
def opVdot4 : State → VEng → Nat → VRes :=
  vDot4
/-- VDOT4. -/
def execVdot4 (core : Nat) (s : State) : Host.Outcome State Fault Refusal :=
  vInstr 0x2D (fun w => vvOk w [4] true 1 1 1 1 [0, 1] false (vImm w == 0)) opVdot4 core s

/-- Operation 0x30. -/
def opVmov : State → VEng → Nat → VRes :=
  vRaw (fun e w j => velt (vreg e (vVs1 w)) (vWidth (vFmt w)) j)
/-- VMOV. -/
def execVmov (core : Nat) (s : State) : Host.Outcome State Fault Refusal :=
  vInstr 0x30 (fun w => vvOk w fmtAny true 1 1 0 0 [0] false (vImm w == 0)) opVmov core s

/-- Operation 0x31. -/
def opVsel : State → VEng → Nat → VRes :=
  fun s e w =>
    VRes.wrote s (mapV e (vVd w) (vWidth (vFmt w)) (fun _ => true) (fun j =>
      ⟨velt (vreg e (if active e (vPg w) j then vVs1 w else vVs2 w)) (vWidth (vFmt w)) j, 0, 0⟩))
/-- VSEL. -/
def execVsel (core : Nat) (s : State) : Host.Outcome State Fault Refusal :=
  vInstr 0x31 (fun w => vvOk w fmtAny true 1 1 1 0 [0] false (vImm w == 0)) opVsel core s

/-- Operation 0x32. -/
def opVperm : State → VEng → Nat → VRes :=
  vRaw (fun e w i => velt (vreg e (vVs1 w)) 4 (velt (vreg e (vVs2 w)) 4 i % 128))
/-- VPERM. -/
def execVperm (core : Nat) (s : State) : Host.Outcome State Fault Refusal :=
  vInstr 0x32 (fun w => vvOk w [0] true 1 1 1 0 [0] false (vImm w == 0)) opVperm core s

/-- Operation 0x33. -/
def opVdups : State → VEng → Nat → VRes :=
  vRaw (fun e w _ => sreg e (vSkey w) % 2 ^ 32)
/-- VDUPS. -/
def execVdups (core : Nat) (s : State) : Host.Outcome State Fault Refusal :=
  vInstr 0x33 (fun w => vvOk w [0] true 1 0 0 0 [0] true (vImm w == 0)) opVdups core s

/-- Operation 0x34. -/
def opViota : State → VEng → Nat → VRes :=
  vRaw (fun e w i => (sreg e (vSkey w) + i) % 2 ^ 32)
/-- VIOTA. -/
def execViota (core : Nat) (s : State) : Host.Outcome State Fault Refusal :=
  vInstr 0x34 (fun w => vvOk w [0] true 1 0 0 0 [0] true (vImm w == 0)) opViota core s

/-- Operation 0x38. -/
def opViadd : State → VEng → Nat → VRes :=
  vInt (fun a b => a + b)
/-- VIADD. -/
def execViadd (core : Nat) (s : State) : Host.Outcome State Fault Refusal :=
  vInstr 0x38 (fun w => vvOk w [0] true 1 1 1 0 [0] false (vImm w == 0)) opViadd core s

/-- Operation 0x39. -/
def opVisub : State → VEng → Nat → VRes :=
  vInt (fun a b => a + 2 ^ 32 - b)
/-- VISUB. -/
def execVisub (core : Nat) (s : State) : Host.Outcome State Fault Refusal :=
  vInstr 0x39 (fun w => vvOk w [0] true 1 1 1 0 [0] false (vImm w == 0)) opVisub core s

/-- Operation 0x3A. -/
def opVimul : State → VEng → Nat → VRes :=
  vInt (fun a b => a * b)
/-- VIMUL. -/
def execVimul (core : Nat) (s : State) : Host.Outcome State Fault Refusal :=
  vInstr 0x3A (fun w => vvOk w [0] true 1 1 1 0 [0] false (vImm w == 0)) opVimul core s

/-- Operation 0x3B. -/
def opViand : State → VEng → Nat → VRes :=
  vInt Nat.land
/-- VIAND. -/
def execViand (core : Nat) (s : State) : Host.Outcome State Fault Refusal :=
  vInstr 0x3B (fun w => vvOk w [0] true 1 1 1 0 [0] false (vImm w == 0)) opViand core s

/-- Operation 0x3C. -/
def opVior : State → VEng → Nat → VRes :=
  vInt Nat.lor
/-- VIOR. -/
def execVior (core : Nat) (s : State) : Host.Outcome State Fault Refusal :=
  vInstr 0x3C (fun w => vvOk w [0] true 1 1 1 0 [0] false (vImm w == 0)) opVior core s

/-- Operation 0x3D. -/
def opVixor : State → VEng → Nat → VRes :=
  vInt bxor
/-- VIXOR. -/
def execVixor (core : Nat) (s : State) : Host.Outcome State Fault Refusal :=
  vInstr 0x3D (fun w => vvOk w [0] true 1 1 1 0 [0] false (vImm w == 0)) opVixor core s

/-- Operation 0x3E. -/
def opVishl : State → VEng → Nat → VRes :=
  vInt (fun a b => a * 2 ^ (b % 32))
/-- VISHL. -/
def execVishl (core : Nat) (s : State) : Host.Outcome State Fault Refusal :=
  vInstr 0x3E (fun w => vvOk w [0] true 1 1 1 0 [0] false (vImm w == 0)) opVishl core s

/-- Operation 0x3F. -/
def opVishr : State → VEng → Nat → VRes :=
  vInt (fun a b => a / 2 ^ (b % 32))
/-- VISHR. -/
def execVishr (core : Nat) (s : State) : Host.Outcome State Fault Refusal :=
  vInstr 0x3F (fun w => vvOk w [0] true 1 1 1 0 [0] false (vImm w == 0)) opVishr core s

/-- Operation 0x40. -/
def opVcvt : State → VEng → Nat → VRes :=
  vCvt
/-- VCVT. -/
def execVcvt (core : Nat) (s : State) : Host.Outcome State Fault Refusal :=
  vInstr 0x40 (fun w => vvOk w [1, 2, 3, 4] true 1 1 0 0 [0, 1] false (cvtOk w)) opVcvt core s

/-- Operation 0x41. -/
def opVcvtfi : State → VEng → Nat → VRes :=
  fun s e w =>
    VRes.wrote s (mapV e (vVd w) 4 (active e (vPg w)) (fun i =>
      let c := velt (vreg e (vVs1 w)) 4 i
      (f32ToInt (vRm w == 2) (Fmt.decode .f32 c)).addSat (Fmt.infs .f32 [c])))
/-- VCVTFI. -/
def execVcvtfi (core : Nat) (s : State) : Host.Outcome State Fault Refusal :=
  vInstr 0x41 (fun w => vvOk w [3] true 1 1 0 0 [0, 2] false (vImm w == 0)) opVcvtfi core s

/-- Operation 0x42. -/
def opVcvtif : State → VEng → Nat → VRes :=
  fun s e w =>
    if srBad e (vRm w) then VRes.bad s e .format
    else VRes.wrote s (mapV e (vVd w) 4 (active e (vPg w)) (fun i =>
      intToF32 (vMode e (vRm w) (vSkey w) (vSpos w) i 0) (signed 32 (velt (vreg e (vVs1 w)) 4 i))))
/-- VCVTIF. -/
def execVcvtif (core : Nat) (s : State) : Host.Outcome State Fault Refusal :=
  vInstr 0x42 (fun w => vvOk w [3] true 1 1 0 0 [0, 1] false (vImm w == 0)) opVcvtif core s

/-- Operation 0x50. -/
def opVrsum : State → VEng → Nat → VRes :=
  vGroupSum false
/-- VRSUM. -/
def execVrsum (core : Nat) (s : State) : Host.Outcome State Fault Refusal :=
  vInstr 0x50 (fun w => vvOk w [3] true 1 1 0 0 [0, 1] false (immG w)) opVrsum core s

/-- Operation 0x51. -/
def opVrssq : State → VEng → Nat → VRes :=
  vGroupSum true
/-- VRSSQ. -/
def execVrssq (core : Nat) (s : State) : Host.Outcome State Fault Refusal :=
  vInstr 0x51 (fun w => vvOk w [3] true 1 1 0 0 [0, 1] false (immG w)) opVrssq core s

/-- Operation 0x52. -/
def opVrmv : State → VEng → Nat → VRes :=
  vRmv
/-- VRMV. -/
def execVrmv (core : Nat) (s : State) : Host.Outcome State Fault Refusal :=
  vInstr 0x52 (fun w => vvOk w [3] true 4 1 0 0 [0] false (immG w)) opVrmv core s

/-- Operation 0x53. -/
def opVmvmerge : State → VEng → Nat → VRes :=
  vMvMerge
/-- VMVMERGE. -/
def execVmvmerge (core : Nat) (s : State) : Host.Outcome State Fault Refusal :=
  vInstr 0x53 (fun w => vvOk w [3] true 4 4 4 0 [0] false (vImm w == 0)) opVmvmerge core s

/-- Operation 0x54. -/
def opVsegsum : State → VEng → Nat → VRes :=
  vSegSum
/-- VSEGSUM. -/
def execVsegsum (core : Nat) (s : State) : Host.Outcome State Fault Refusal :=
  vInstr 0x54 (fun w => vvOk w [3] true 1 1 0 0 [0, 1] false (vImm w ≤ 15)) opVsegsum core s

/-- Operation 0x56. -/
def opVrmaxi : State → VEng → Nat → VRes :=
  vBest true
/-- VRMAXI. -/
def execVrmaxi (core : Nat) (s : State) : Host.Outcome State Fault Refusal :=
  vInstr 0x56 (fun w => vvOk w [3] true 3 1 0 0 [0] false (immG w)) opVrmaxi core s

/-- Operation 0x57. -/
def opVrmini : State → VEng → Nat → VRes :=
  vBest false
/-- VRMINI. -/
def execVrmini (core : Nat) (s : State) : Host.Outcome State Fault Refusal :=
  vInstr 0x57 (fun w => vvOk w [3] true 3 1 0 0 [0] false (immG w)) opVrmini core s

/-- Operation 0x58. -/
def opVsmrow : State → VEng → Nat → VRes :=
  vSmRow
/-- VSMROW. -/
def execVsmrow (core : Nat) (s : State) : Host.Outcome State Fault Refusal :=
  vInstr 0x58 (fun w => vvOk w [3] true 1 1 1 0 [0] false (immG w)) opVsmrow core s

/-- Operation 0x59. -/
def opVsmexp : State → VEng → Nat → VRes :=
  vSmExp
/-- VSMEXP. -/
def execVsmexp (core : Nat) (s : State) : Host.Outcome State Fault Refusal :=
  vInstr 0x59 (fun w => vvOk w [3] true 1 1 1 0 [0] false (vImm w ≤ 7)) opVsmexp core s

/-- Operation 0x5A. -/
def opVsmsum : State → VEng → Nat → VRes :=
  vSmSum
/-- VSMSUM. -/
def execVsmsum (core : Nat) (s : State) : Host.Outcome State Fault Refusal :=
  vInstr 0x5A (fun w => vvOk w [3] true 1 1 1 1 [0, 1] false (immG w)) opVsmsum core s

/-- Operation 0x60. -/
def opVexp2 : State → VEng → Nat → VRes :=
  vFun .exp2
/-- VEXP2. -/
def execVexp2 (core : Nat) (s : State) : Host.Outcome State Fault Refusal :=
  vInstr 0x60 (fun w => vvOk w [1, 2, 3] true 1 1 0 0 (if vFmt w = 3 then [0] else [0, 1]) false (vImm w == 0)) opVexp2 core s

/-- Operation 0x61. -/
def opVlog2 : State → VEng → Nat → VRes :=
  vFun .log2
/-- VLOG2. -/
def execVlog2 (core : Nat) (s : State) : Host.Outcome State Fault Refusal :=
  vInstr 0x61 (fun w => vvOk w [1, 2, 3] true 1 1 0 0 (if vFmt w = 3 then [0] else [0, 1]) false (vImm w == 0)) opVlog2 core s

/-- Operation 0x62. -/
def opVrcp : State → VEng → Nat → VRes :=
  vFun .rcp
/-- VRCP. -/
def execVrcp (core : Nat) (s : State) : Host.Outcome State Fault Refusal :=
  vInstr 0x62 (fun w => vvOk w [1, 2, 3] true 1 1 0 0 (if vFmt w = 3 then [0] else [0, 1]) false (vImm w == 0)) opVrcp core s

/-- Operation 0x63. -/
def opVrsqrt : State → VEng → Nat → VRes :=
  vFun .rsqrt
/-- VRSQRT. -/
def execVrsqrt (core : Nat) (s : State) : Host.Outcome State Fault Refusal :=
  vInstr 0x63 (fun w => vvOk w [1, 2, 3] true 1 1 0 0 (if vFmt w = 3 then [0] else [0, 1]) false (vImm w == 0)) opVrsqrt core s

/-- Operation 0x64. -/
def opVtanh : State → VEng → Nat → VRes :=
  vFun .tanh
/-- VTANH. -/
def execVtanh (core : Nat) (s : State) : Host.Outcome State Fault Refusal :=
  vInstr 0x64 (fun w => vvOk w [1, 2, 3] true 1 1 0 0 (if vFmt w = 3 then [0] else [0, 1]) false (vImm w == 0)) opVtanh core s

/-- Operation 0x65. -/
def opVerf : State → VEng → Nat → VRes :=
  vFun .erf
/-- VERF. -/
def execVerf (core : Nat) (s : State) : Host.Outcome State Fault Refusal :=
  vInstr 0x65 (fun w => vvOk w [1, 2, 3] true 1 1 0 0 (if vFmt w = 3 then [0] else [0, 1]) false (vImm w == 0)) opVerf core s

/-- Operation 0x80. -/
def opVld : State → VEng → Nat → VRes :=
  vLd
/-- VLD. -/
def execVld (core : Nat) (s : State) : Host.Outcome State Fault Refusal :=
  vInstr 0x80 (fun w => vmOk w fmtAny 1 false [0]) opVld core s

/-- Operation 0x81. -/
def opVst : State → VEng → Nat → VRes :=
  vSt
/-- VST. -/
def execVst (core : Nat) (s : State) : Host.Outcome State Fault Refusal :=
  vInstr 0x81 (fun w => vmOk w fmtAny 1 false [0]) opVst core s

/-- Operation 0x82. -/
def opVldb : State → VEng → Nat → VRes :=
  vLdb
/-- VLDB. -/
def execVldb (core : Nat) (s : State) : Host.Outcome State Fault Refusal :=
  vInstr 0x82 (fun w => vmOk w fmtAny 1 false [0]) opVldb core s

/-- Operation 0x83. -/
def opVgather : State → VEng → Nat → VRes :=
  vGather
/-- VGATHER. -/
def execVgather (core : Nat) (s : State) : Host.Outcome State Fault Refusal :=
  vInstr 0x83 (fun w => vmOk w [0, 3] 1 true [0]) opVgather core s

/-- Operation 0x84. -/
def opVscatter : State → VEng → Nat → VRes :=
  vScatter
/-- VSCATTER. -/
def execVscatter (core : Nat) (s : State) : Host.Outcome State Fault Refusal :=
  vInstr 0x84 (fun w => vmOk w [0, 3] 1 true [0]) opVscatter core s

/-- Operation 0x85. -/
def opVscatadd : State → VEng → Nat → VRes :=
  vScatAdd
/-- VSCATADD. -/
def execVscatadd (core : Nat) (s : State) : Host.Outcome State Fault Refusal :=
  vInstr 0x85 (fun w => vmOk w [3] 1 true [0, 1]) opVscatadd core s

/-- Operation 0x86. -/
def opVstc : State → VEng → Nat → VRes :=
  vStc
/-- VSTC. -/
def execVstc (core : Nat) (s : State) : Host.Outcome State Fault Refusal :=
  vInstr 0x86 (fun w => vmOk w fmtAny 1 false [0]) opVstc core s

/-- Operation 0x87. -/
def opPld : State → VEng → Nat → VRes :=
  vPld
/-- PLD. -/
def execPld (core : Nat) (s : State) : Host.Outcome State Fault Refusal :=
  vInstr 0x87 (fun w => vmOk w fmtAny 2 false [0]) opPld core s

/-- Operation 0x88. -/
def opPst : State → VEng → Nat → VRes :=
  vPst
/-- PST. -/
def execPst (core : Nat) (s : State) : Host.Outcome State Fault Refusal :=
  vInstr 0x88 (fun w => vmOk w fmtAny 2 false [0]) opPst core s

/-- END (R112, R114): counted and checked as the others are, then the program ends. -/
def execEndProg (core : Nat) (s : State) : Host.Outcome State Fault Refusal :=
  let t := vstep s core 0x01 (vChecked (fun w => sqOk w false false false false (sqImm w == 0)) (fun s e _ => VRes.just s { e with run := false }))
  .next (if (coreSt s core).veng.run && (coreSt t core).veng.job == (coreSt s core).veng.job && (coreSt t core).veng.run == false then vEnd t core else t)

/-- VINSTR_BUDGET_EXCEEDED (R113): a program that has executed its budget and goes on ends with TIMEOUT. -/
def execVinstrBudgetExceeded (core : Nat) (s : State) : Host.Outcome State Fault Refusal :=
  let e := (coreSt s core).veng
  .next (match e.job with
    | some (k, seq) =>
      if e.run && e.budget * 65536 ≤ e.count then vFault s core k seq .timeout e.pc (vOpc (vFetch s e)) else s
    | none => s)

end Sys2Proof.Machine
end

