-- ==== Sys2Proof/Machine/Dispatch.lean ====
section
/-!
DEFINITION. Sys2Proof/Machine/Dispatch.lean: one arm for each command.
-/
namespace Sys2Proof.Machine

def exec (i : Instr) (s : State) : Host.Outcome State Fault Refusal :=
  match i with
  | .qimgStart vector => Sys2Proof.Machine.execQimgStart vector s
  | .qimgVerifyOnly vector => Sys2Proof.Machine.execQimgVerifyOnly vector s
  | .loadVerifyPassEnd src => Sys2Proof.Machine.execLoadVerifyPassEnd src s
  | .loadFeedQueryTimeout => Sys2Proof.Machine.execLoadFeedQueryTimeout s
  | .loadApplyPassEnd src => Sys2Proof.Machine.execLoadApplyPassEnd src s
  | .scalarInstruction core => Sys2Proof.Machine.execScalarInstruction core s
  | .ecall core => Sys2Proof.Machine.execEcall core s
  | .progDoneSet core => Sys2Proof.Machine.execProgDoneSet core s
  | .tdIssue core => Sys2Proof.Machine.execTdIssue core s
  | .tdFence core => Sys2Proof.Machine.execTdFence core s
  | .tdResume core => Sys2Proof.Machine.execTdResume core s
  | .tdStat core => Sys2Proof.Machine.execTdStat core s
  | .tkRead core => Sys2Proof.Machine.execTkRead core s
  | .tkSet core => Sys2Proof.Machine.execTkSet core s
  | .tkAdd core => Sys2Proof.Machine.execTkAdd core s
  | .tkWait core => Sys2Proof.Machine.execTkWait core s
  | .tkWaitTimeout core => Sys2Proof.Machine.execTkWaitTimeout core s
  | .nsRead core => Sys2Proof.Machine.execNsRead core s
  | .copy core ctx => Sys2Proof.Machine.execCopy core ctx s
  | .gather core ctx => Sys2Proof.Machine.execGather core ctx s
  | .scatterAdd core ctx => Sys2Proof.Machine.execScatterAdd core ctx s
  | .matmul core ctx => Sys2Proof.Machine.execMatmul core ctx s
  | .vector core ctx => Sys2Proof.Machine.execVector core ctx s
  | .sync core ctx => Sys2Proof.Machine.execSync core ctx s
  | .tileWaitTimeout core ctx => Sys2Proof.Machine.execTileWaitTimeout core ctx s
  | .paramHoldTimeout core ctx => Sys2Proof.Machine.execParamHoldTimeout core ctx s
  | .probeHoldRelease index => Sys2Proof.Machine.execProbeHoldRelease index s
  | .remoteExchangeTimeout tag => Sys2Proof.Machine.execRemoteExchangeTimeout tag s
  | .matmulBlock core ctx seq => Sys2Proof.Machine.execMatmulBlock core ctx seq s
  | .shadowDone core ctx seq => Sys2Proof.Machine.execShadowDone core ctx seq s
  | .sparseFallback core ctx seq => Sys2Proof.Machine.execSparseFallback core ctx seq s
  | .tileComplete core ctx seq => Sys2Proof.Machine.execTileComplete core ctx seq s
  | .tokenSignalApply index => Sys2Proof.Machine.execTokenSignalApply index s
  | .c0Resume core => Sys2Proof.Machine.execC0Resume core s
  | .c0Flush core => Sys2Proof.Machine.execC0Flush core s
  | .c1Resume core => Sys2Proof.Machine.execC1Resume core s
  | .c1Flush core => Sys2Proof.Machine.execC1Flush core s
  | .c0CringTailWrite core tail => Sys2Proof.Machine.execC0CringTailWrite core tail s
  | .c0CringConfigWrite core base log2 => Sys2Proof.Machine.execC0CringConfigWrite core base log2 s
  | .predClear core => Sys2Proof.Machine.execPredClear core s
  | .nop core => Sys2Proof.Machine.execNop core s
  | .endProg core => Sys2Proof.Machine.execEndProg core s
  | .sli core => Sys2Proof.Machine.execSli core s
  | .saddi core => Sys2Proof.Machine.execSaddi core s
  | .sadd core => Sys2Proof.Machine.execSadd core s
  | .smul core => Sys2Proof.Machine.execSmul core s
  | .sshli core => Sys2Proof.Machine.execSshli core s
  | .sshri core => Sys2Proof.Machine.execSshri core s
  | .sbnz core => Sys2Proof.Machine.execSbnz core s
  | .sblt core => Sys2Proof.Machine.execSblt core s
  | .sld core => Sys2Proof.Machine.execSld core s
  | .scnt core => Sys2Proof.Machine.execScnt core s
  | .svext core => Sys2Proof.Machine.execSvext core s
  | .pwhile core => Sys2Proof.Machine.execPwhile core s
  | .pand core => Sys2Proof.Machine.execPand core s
  | .por core => Sys2Proof.Machine.execPor core s
  | .pxor core => Sys2Proof.Machine.execPxor core s
  | .pnot core => Sys2Proof.Machine.execPnot core s
  | .vcmp core => Sys2Proof.Machine.execVcmp core s
  | .vadd core => Sys2Proof.Machine.execVadd core s
  | .vsub core => Sys2Proof.Machine.execVsub core s
  | .vmul core => Sys2Proof.Machine.execVmul core s
  | .vfma core => Sys2Proof.Machine.execVfma core s
  | .vfnma core => Sys2Proof.Machine.execVfnma core s
  | .vdiv core => Sys2Proof.Machine.execVdiv core s
  | .vsqrt core => Sys2Proof.Machine.execVsqrt core s
  | .vmin core => Sys2Proof.Machine.execVmin core s
  | .vmax core => Sys2Proof.Machine.execVmax core s
  | .vabs core => Sys2Proof.Machine.execVabs core s
  | .vneg core => Sys2Proof.Machine.execVneg core s
  | .vfmawl core => Sys2Proof.Machine.execVfmawl core s
  | .vfmawh core => Sys2Proof.Machine.execVfmawh core s
  | .vdot4 core => Sys2Proof.Machine.execVdot4 core s
  | .vmov core => Sys2Proof.Machine.execVmov core s
  | .vsel core => Sys2Proof.Machine.execVsel core s
  | .vperm core => Sys2Proof.Machine.execVperm core s
  | .vdups core => Sys2Proof.Machine.execVdups core s
  | .viota core => Sys2Proof.Machine.execViota core s
  | .viadd core => Sys2Proof.Machine.execViadd core s
  | .visub core => Sys2Proof.Machine.execVisub core s
  | .vimul core => Sys2Proof.Machine.execVimul core s
  | .viand core => Sys2Proof.Machine.execViand core s
  | .vior core => Sys2Proof.Machine.execVior core s
  | .vixor core => Sys2Proof.Machine.execVixor core s
  | .vishl core => Sys2Proof.Machine.execVishl core s
  | .vishr core => Sys2Proof.Machine.execVishr core s
  | .vcvt core => Sys2Proof.Machine.execVcvt core s
  | .vcvtfi core => Sys2Proof.Machine.execVcvtfi core s
  | .vcvtif core => Sys2Proof.Machine.execVcvtif core s
  | .vrsum core => Sys2Proof.Machine.execVrsum core s
  | .vrssq core => Sys2Proof.Machine.execVrssq core s
  | .vrmv core => Sys2Proof.Machine.execVrmv core s
  | .vmvmerge core => Sys2Proof.Machine.execVmvmerge core s
  | .vsegsum core => Sys2Proof.Machine.execVsegsum core s
  | .vrmaxi core => Sys2Proof.Machine.execVrmaxi core s
  | .vrmini core => Sys2Proof.Machine.execVrmini core s
  | .vsmrow core => Sys2Proof.Machine.execVsmrow core s
  | .vsmexp core => Sys2Proof.Machine.execVsmexp core s
  | .vsmsum core => Sys2Proof.Machine.execVsmsum core s
  | .vexp2 core => Sys2Proof.Machine.execVexp2 core s
  | .vlog2 core => Sys2Proof.Machine.execVlog2 core s
  | .vrcp core => Sys2Proof.Machine.execVrcp core s
  | .vrsqrt core => Sys2Proof.Machine.execVrsqrt core s
  | .vtanh core => Sys2Proof.Machine.execVtanh core s
  | .verf core => Sys2Proof.Machine.execVerf core s
  | .vld core => Sys2Proof.Machine.execVld core s
  | .vst core => Sys2Proof.Machine.execVst core s
  | .vldb core => Sys2Proof.Machine.execVldb core s
  | .vgather core => Sys2Proof.Machine.execVgather core s
  | .vscatter core => Sys2Proof.Machine.execVscatter core s
  | .vscatadd core => Sys2Proof.Machine.execVscatadd core s
  | .vstc core => Sys2Proof.Machine.execVstc core s
  | .pld core => Sys2Proof.Machine.execPld core s
  | .pst core => Sys2Proof.Machine.execPst core s
  | .vinstrBudgetExceeded core => Sys2Proof.Machine.execVinstrBudgetExceeded core s
  | .sample queue => Sys2Proof.Machine.execSample queue s
  | .heldSampleAccept queue => Sys2Proof.Machine.execHeldSampleAccept queue s
  | .sampleCommit cluster block => Sys2Proof.Machine.execSampleCommit cluster block s
  | .release queue => Sys2Proof.Machine.execRelease queue s
  | .drawReq pkt => Sys2Proof.Machine.execDrawReq pkt s
  | .remoteDrawTimeout tag => Sys2Proof.Machine.execRemoteDrawTimeout tag s
  | .qentryBadOp queue => Sys2Proof.Machine.execQentryBadOp queue s
  | .sort queue => Sys2Proof.Machine.execSort queue s
  | .sortComplete cluster => Sys2Proof.Machine.execSortComplete cluster s
  | .fetch queue => Sys2Proof.Machine.execFetch queue s
  | .fetchComplete run => Sys2Proof.Machine.execFetchComplete run s
  | .rowReq pkt => Sys2Proof.Machine.execRowReq pkt s
  | .peerRowTimeout tag => Sys2Proof.Machine.execPeerRowTimeout tag s
  | .contrib pkt => Sys2Proof.Machine.execContrib pkt s
  | .updateHoldTimeout index => Sys2Proof.Machine.execUpdateHoldTimeout index s
  | .updateStepClose table step => Sys2Proof.Machine.execUpdateStepClose table step s
  | .updateCloseTimeout table => Sys2Proof.Machine.execUpdateCloseTimeout table s
  | .migStart vector => Sys2Proof.Machine.execMigStart vector s
  | .migDrainDone => Sys2Proof.Machine.execMigDrainDone s
  | .migCopyDone => Sys2Proof.Machine.execMigCopyDone s
  | .migFenceHoldTimeout index => Sys2Proof.Machine.execMigFenceHoldTimeout index s
  | .paramPrefetch core => Sys2Proof.Machine.execParamPrefetch core s
  | .apply doorbell => Sys2Proof.Machine.execApply doorbell s
  | .openRegions doorbell => Sys2Proof.Machine.execOpenRegions doorbell s
  | .closeRegions doorbell => Sys2Proof.Machine.execCloseRegions doorbell s
  | .closeReadersDone job => Sys2Proof.Machine.execCloseReadersDone job s
  | .applySliceStart core job => Sys2Proof.Machine.execApplySliceStart core job s
  | .applySliceCommit core => Sys2Proof.Machine.execApplySliceCommit core s
  | .patrolScrub unit => Sys2Proof.Machine.execPatrolScrub unit s
  | .stackLost stack => Sys2Proof.Machine.execStackLost stack s
  | .wipeDone bad => Sys2Proof.Machine.execWipeDone bad s
  | .hdmRead addr len bar2 => Sys2Proof.Machine.execHdmRead addr len bar2 s
  | .hdmWrite addr data enables poison bar2 => Sys2Proof.Machine.execHdmWrite addr data enables poison bar2 s
  | .injectArm word => Sys2Proof.Machine.execInjectArm word s
  | .trainingAttempt port => Sys2Proof.Machine.execTrainingAttempt port s
  | .trainingEnd port result => Sys2Proof.Machine.execTrainingEnd port result s
  | .downPortRetry port => Sys2Proof.Machine.execDownPortRetry port s
  | .linkLoss port cause => Sys2Proof.Machine.execLinkLoss port cause s
  | .portRecordTimer port => Sys2Proof.Machine.execPortRecordTimer port s
  | .flitReceive port flit => Sys2Proof.Machine.execFlitReceive port flit s
  | .flitAckTimeout port => Sys2Proof.Machine.execFlitAckTimeout port s
  | .flitAckTimer port => Sys2Proof.Machine.execFlitAckTimer port s
  | .creditReturnTimer port => Sys2Proof.Machine.execCreditReturnTimer port s
  | .linkCtrl port pkt => Sys2Proof.Machine.execLinkCtrl port pkt s
  | .ident port pkt => Sys2Proof.Machine.execIdent port pkt s
  | .packetTransit port pkt path => Sys2Proof.Machine.execPacketTransit port pkt path s
  | .write pkt => Sys2Proof.Machine.execWrite pkt s
  | .read pkt => Sys2Proof.Machine.execRead pkt s
  | .probe pkt => Sys2Proof.Machine.execProbe pkt s
  | .token pkt => Sys2Proof.Machine.execToken pkt s
  | .qpost pkt => Sys2Proof.Machine.execQpost pkt s
  | .resp pkt => Sys2Proof.Machine.execResp pkt s
  | .ctxAck pkt => Sys2Proof.Machine.execCtxAck pkt s
  | .ctxRetxTimeout pctx => Sys2Proof.Machine.execCtxRetxTimeout pctx s
  | .peerOpen vector => Sys2Proof.Machine.execPeerOpen vector s
  | .peerClose vector => Sys2Proof.Machine.execPeerClose vector s
  | .ctxOpen pkt => Sys2Proof.Machine.execCtxOpen pkt s
  | .ctxOpenAck pkt => Sys2Proof.Machine.execCtxOpenAck pkt s
  | .ctxOpenResendTimeout pctx => Sys2Proof.Machine.execCtxOpenResendTimeout pctx s
  | .peerCloseDrainDone pctx => Sys2Proof.Machine.execPeerCloseDrainDone pctx s
  | .peerCloseTimeout pctx => Sys2Proof.Machine.execPeerCloseTimeout pctx s
  | .ctxClose pkt => Sys2Proof.Machine.execCtxClose pkt s
  | .tagQuarantineEnd tag => Sys2Proof.Machine.execTagQuarantineEnd tag s
  | .mboxStart vector => Sys2Proof.Machine.execMboxStart vector s
  | .mboxTimeout => Sys2Proof.Machine.execMboxTimeout s
  | .mgmtResponse pkt => Sys2Proof.Machine.execMgmtResponse pkt s
  | .mgmtSessionIdleTimeout session => Sys2Proof.Machine.execMgmtSessionIdleTimeout session s
  | .identify req => Sys2Proof.Machine.execIdentify req s
  | .feedQuery req => Sys2Proof.Machine.execFeedQuery req s
  | .spdm req => Sys2Proof.Machine.execSpdm req s
  | .portReport req => Sys2Proof.Machine.execPortReport req s
  | .setTorus req => Sys2Proof.Machine.execSetTorus req s
  | .setId req => Sys2Proof.Machine.execSetId req s
  | .imageLoad req => Sys2Proof.Machine.execImageLoad req s
  | .reset req => Sys2Proof.Machine.execReset req s
  | .portCtrlRetrain req => Sys2Proof.Machine.execPortCtrlRetrain req s
  | .portCtrlDisable req => Sys2Proof.Machine.execPortCtrlDisable req s
  | .portCtrlEnable req => Sys2Proof.Machine.execPortCtrlEnable req s
  | .imageRead req => Sys2Proof.Machine.execImageRead req s
  | .redPost core => Sys2Proof.Machine.execRedPost core s
  | .redLeafRead cluster => Sys2Proof.Machine.execRedLeafRead cluster s
  | .red pkt => Sys2Proof.Machine.execRed pkt s
  | .fail pkt => Sys2Proof.Machine.execFail pkt s
  | .nack pkt => Sys2Proof.Machine.execNack pkt s
  | .marker pkt => Sys2Proof.Machine.execMarker pkt s
  | .backupTimeout index => Sys2Proof.Machine.execBackupTimeout index s
  | .redWaitTimeout index own => Sys2Proof.Machine.execRedWaitTimeout index own s
  | .epochSwStart word => Sys2Proof.Machine.execEpochSwStart word s
  | .suspect pkt => Sys2Proof.Machine.execSuspect pkt s
  | .suspectEntryTimer entry => Sys2Proof.Machine.execSuspectEntryTimer entry s
  | .suspectEntryExpiry entry => Sys2Proof.Machine.execSuspectEntryExpiry entry s
  | .susValidClear entry => Sys2Proof.Machine.execSusValidClear entry s
  | .queueEnable queue => Sys2Proof.Machine.execQueueEnable queue s
  | .queueDisable queue => Sys2Proof.Machine.execQueueDisable queue s
  | .submissionDoorbell queue value => Sys2Proof.Machine.execSubmissionDoorbell queue value s
  | .completionDoorbell queue value => Sys2Proof.Machine.execCompletionDoorbell queue value s
  | .ringFetch queue entry => Sys2Proof.Machine.execRingFetch queue entry s
  | .intHoldoffExpiry vector => Sys2Proof.Machine.execIntHoldoffExpiry vector s
  | .evqEnable word => Sys2Proof.Machine.execEvqEnable word s
  | .evqHeadWrite value => Sys2Proof.Machine.execEvqHeadWrite value s
  | .hdmDecoderCommit decoder base size ways skip lock => Sys2Proof.Machine.execHdmDecoderCommit decoder base size ways skip lock s
  | .doeRequest inst object => Sys2Proof.Machine.execDoeRequest inst object s
  | .doeAbort inst => Sys2Proof.Machine.execDoeAbort inst s
  | .cxlLinkUp cxl width speed => Sys2Proof.Machine.execCxlLinkUp cxl width speed s
  | .dlActiveLoss => Sys2Proof.Machine.execDlActiveLoss s
  | .perstNFall => Sys2Proof.Machine.execPerstNFall s
  | .perstNRise => Sys2Proof.Machine.execPerstNRise s
  | .completionTimeout target => Sys2Proof.Machine.execCompletionTimeout target s
  | .cut slot => Sys2Proof.Machine.execCut slot s
  | .frameBegin pkt => Sys2Proof.Machine.execFrameBegin pkt s
  | .frameEnd pkt => Sys2Proof.Machine.execFrameEnd pkt s
  | .frameAck pkt => Sys2Proof.Machine.execFrameAck pkt s
  | .heartbeat pkt => Sys2Proof.Machine.execHeartbeat pkt s
  | .heartbeatTimer slot => Sys2Proof.Machine.execHeartbeatTimer slot s
  | .partnerSilenceTimeout slot => Sys2Proof.Machine.execPartnerSilenceTimeout slot s
  | .rebind slot => Sys2Proof.Machine.execRebind slot s
  | .refillStart slot => Sys2Proof.Machine.execRefillStart slot s
  | .refillReq pkt => Sys2Proof.Machine.execRefillReq pkt s
  | .refillGrant pkt => Sys2Proof.Machine.execRefillGrant pkt s
  | .refillComplete pkt => Sys2Proof.Machine.execRefillComplete pkt s
  | .refillDone pkt => Sys2Proof.Machine.execRefillDone pkt s
  | .ckptAck slot step => Sys2Proof.Machine.execCkptAck slot step s
  | .replayArm slot => Sys2Proof.Machine.execReplayArm slot s
  | .zestReport pkt => Sys2Proof.Machine.execZestReport pkt s
  | .zestVerdict pkt => Sys2Proof.Machine.execZestVerdict pkt s
  | .zestHoldTimeout slot => Sys2Proof.Machine.execZestHoldTimeout slot s
  | .damsonLoad vector src => Sys2Proof.Machine.execDamsonLoad vector src s
  | .damsonPattern core result => Sys2Proof.Machine.execDamsonPattern core result s
  | .powerOn feed smb fit => Sys2Proof.Machine.execPowerOn feed smb fit s
  | .bringupStageDone result => Sys2Proof.Machine.execBringupStageDone result s
  | .fwChunkReport phys missing digestOk => Sys2Proof.Machine.execFwChunkReport phys missing digestOk s
  | .fwReportTimeout phys => Sys2Proof.Machine.execFwReportTimeout phys s
  | .katDone unit crc => Sys2Proof.Machine.execKatDone unit crc s
  | .katTimeout phys => Sys2Proof.Machine.execKatTimeout phys s
  | .coreReset target reason => Sys2Proof.Machine.execCoreReset target reason s
  | .clusterReset target reason => Sys2Proof.Machine.execClusterReset target reason s
  | .partitionReset target reason => Sys2Proof.Machine.execPartitionReset target reason s
  | .deviceWarmReset reason => Sys2Proof.Machine.execDeviceWarmReset reason s
  | .deviceColdReset reason => Sys2Proof.Machine.execDeviceColdReset reason s
  | .quiesceDone => Sys2Proof.Machine.execQuiesceDone s
  | .quiesceTimeout => Sys2Proof.Machine.execQuiesceTimeout s
  | .forceAckTimeout block => Sys2Proof.Machine.execForceAckTimeout block s
  | .boundaryDrainDone => Sys2Proof.Machine.execBoundaryDrainDone s
  | .sysRstNInput => Sys2Proof.Machine.execSysRstNInput s
  | .sysRstNStretchEnd => Sys2Proof.Machine.execSysRstNStretchEnd s
  | .pipWatchdog => Sys2Proof.Machine.execPipWatchdog s
  | .thermTrip => Sys2Proof.Machine.execThermTrip s
  | .pwrGoodFall => Sys2Proof.Machine.execPwrGoodFall s
  | .fwStageStart vector src => Sys2Proof.Machine.execFwStageStart vector src s
  | .recoveryWrite req => Sys2Proof.Machine.execRecoveryWrite req s
  | .recoveryCommit req => Sys2Proof.Machine.execRecoveryCommit req s
  | .stoneInfo req => Sys2Proof.Machine.execStoneInfo req s
  | .stoneRead req => Sys2Proof.Machine.execStoneRead req s
  | .stoneRdIndexWrite index => Sys2Proof.Machine.execStoneRdIndexWrite index s
  | .stoneRecordWrite => Sys2Proof.Machine.execStoneRecordWrite s
  | .keyEnroll req => Sys2Proof.Machine.execKeyEnroll req s
  | .keyRevoke req => Sys2Proof.Machine.execKeyRevoke req s
  | .setSigRequired req => Sys2Proof.Machine.execSetSigRequired req s
  | .raiseMinSvn req => Sys2Proof.Machine.execRaiseMinSvn req s
  | .lcTransition req => Sys2Proof.Machine.execLcTransition req s
  | .getSealedDevid req => Sys2Proof.Machine.execGetSealedDevid req s
  | .getVersion req => Sys2Proof.Machine.execGetVersion req s
  | .getCapabilities req => Sys2Proof.Machine.execGetCapabilities req s
  | .negotiateAlgorithms req => Sys2Proof.Machine.execNegotiateAlgorithms req s
  | .getDigests req => Sys2Proof.Machine.execGetDigests req s
  | .getCertificate req => Sys2Proof.Machine.execGetCertificate req s
  | .challenge req => Sys2Proof.Machine.execChallenge req s
  | .getMeasurements req => Sys2Proof.Machine.execGetMeasurements req s
  | .keyExchange req => Sys2Proof.Machine.execKeyExchange req s
  | .finish req => Sys2Proof.Machine.execFinish req s
  | .heartbeatSpdm req => Sys2Proof.Machine.execHeartbeatSpdm req s
  | .keyUpdate req => Sys2Proof.Machine.execKeyUpdate req s
  | .endSession req => Sys2Proof.Machine.execEndSession req s
  | .chunkSend req => Sys2Proof.Machine.execChunkSend req s
  | .chunkGet req => Sys2Proof.Machine.execChunkGet req s
  | .setEndpointId req => Sys2Proof.Machine.execSetEndpointId req s
  | .getEndpointId req => Sys2Proof.Machine.execGetEndpointId req s
  | .getMctpVersionSupport req => Sys2Proof.Machine.execGetMctpVersionSupport req s
  | .getMessageTypeSupport req => Sys2Proof.Machine.execGetMessageTypeSupport req s
  | .getVendorDefinedMessageSupport req => Sys2Proof.Machine.execGetVendorDefinedMessageSupport req s
  | .gettid req => Sys2Proof.Machine.execGettid req s
  | .settid req => Sys2Proof.Machine.execSettid req s
  | .getpldmversion req => Sys2Proof.Machine.execGetpldmversion req s
  | .getpldmtypes req => Sys2Proof.Machine.execGetpldmtypes req s
  | .getpldmcommands req => Sys2Proof.Machine.execGetpldmcommands req s
  | .getpdrrepositoryinfo req => Sys2Proof.Machine.execGetpdrrepositoryinfo req s
  | .getpdr req => Sys2Proof.Machine.execGetpdr req s
  | .getsensorreading req => Sys2Proof.Machine.execGetsensorreading req s
  | .getstatesensorreadings req => Sys2Proof.Machine.execGetstatesensorreadings req s
  | .seteventreceiver req => Sys2Proof.Machine.execSeteventreceiver req s
  | .eventmessagesupported req => Sys2Proof.Machine.execEventmessagesupported req s
  | .eventmessagebuffersize req => Sys2Proof.Machine.execEventmessagebuffersize req s
  | .pollforplatformeventmessage req => Sys2Proof.Machine.execPollforplatformeventmessage req s
  | .sensorSample sensor reading => Sys2Proof.Machine.execSensorSample sensor reading s
  | .opReq value => Sys2Proof.Machine.execOpReq value s
  | .powerLimit value => Sys2Proof.Machine.execPowerLimit value s
  | .opMoveStep confirmed => Sys2Proof.Machine.execOpMoveStep confirmed s
  | .paceMonitorRead slack second => Sys2Proof.Machine.execPaceMonitorRead slack second s
  | .powerWindowEnd watts => Sys2Proof.Machine.execPowerWindowEnd watts s
  | .railFaultAlert rail => Sys2Proof.Machine.execRailFaultAlert rail s
  | .refclkLoss clock => Sys2Proof.Machine.execRefclkLoss clock s
  | .rcRead reader offset width => Sys2Proof.Machine.execRcRead reader offset width s
  | .csrHalfRead reader offset => Sys2Proof.Machine.execCsrHalfRead reader offset s
  | .csrWrite reader offset width value => Sys2Proof.Machine.execCsrWrite reader offset width value s
  | .ctxAckTimer pctx => Sys2Proof.Machine.execCtxAckTimer pctx s
  | .imageReadTimeout tag => Sys2Proof.Machine.execImageReadTimeout tag s
  | .rebindFeedQueryTimeout slot => Sys2Proof.Machine.execRebindFeedQueryTimeout slot s
  | .computeDieLost die => Sys2Proof.Machine.execComputeDieLost die s

end Sys2Proof.Machine
end

