-- ==== Sys2Proof/Safety.lean ====
section
/-!
DEFINITION. Sys2Proof/Safety.lean: what holds of a state and of a step in the terms claims use: the canonical forms of the memory and the register file,
and the relation between two states of which the second came from the first by the block's own work.
-/
namespace Sys2Proof.Machine

/-- The register file's canonical form: keys rise strictly, and every entry belongs to a field, differs from the field's Reset column and fits its
width (R12). -/
def RegsCanon (t : Tbl Nat) : Prop :=
  Tbl.sorted t = true ∧ ∀ e ∈ t, ∃ (r : Reg) (i : Nat), e.1 = regKey r i ∧ e.2 ≠ r.info.reset ∧ e.2 < 2 ^ r.info.width

/-- Memory and register file are in canonical form, so equal contents are equal data. -/
def Canon (s : State) : Prop := Memory.wf s.mem = true ∧ RegsCanon s.regs

/-- The parts of a state that Kept speaks of, against an earlier state a. -/
def KeptC (a : State) (pending : List Instr) (out : List Output) (freeCount : Nat) (mem : List Host.Cell) (regs : Tbl Nat) : Prop :=
  pending = a.pending ∧ a.out <+: out ∧ a.freeCount ≤ freeCount ∧ (Memory.wf a.mem = true → Memory.wf mem = true) ∧ (RegsCanon a.regs → RegsCanon regs)

/-- s came from a: the queue is a's, what left the block by a has left it, no free value is taken twice, and the canonical forms stand if they stood. -/
def Kept (a s : State) : Prop := KeptC a s.pending s.out s.freeCount s.mem s.regs

end Sys2Proof.Machine
end

