-- ==== Sys2Proof/Certificates/Slice0/Obligations.lean ====
section
/-!
DEFINITION. Sys2Proof/Certificates/Slice0/Obligations.lean: the statements about the model, for the provers.
-/
open Sys2Proof Sys2Proof.Machine

/-- A step takes the command at the front of the queue and answers what exec answers on it with the rest of the queue. The queue is the model's own. -/
def Obligations.StepRunsFrontCommand : Prop :=
  ∀ (c : Instr) (s : State), step { s with pending := c :: s.pending } = exec c s

/-- R32: LOCAL_NS advances in increments of 10 ns. That an empty queue is where it does so is the model's choice (log entry 1). -/
def Obligations.EmptyQueueIdles : Prop :=
  ∀ s : State, s.pending = [] → step s = .next { s with localNs := s.localNs + 10 }

/-- R12, for the state the model starts in: every field, at every index, at its Reset column; nothing is listed in memory, no command waits, nothing has left the block. -/
def Obligations.ResetFields : Prop :=
  (∀ (r : Reg) (i : Nat), rd State.reset r i = r.info.reset) ∧ State.reset.pending = [] ∧ State.reset.out = [] ∧ State.reset.mem = []

/-- The state after reset meets the invariant of StepKeepsCanon. -/
def Obligations.ResetIsCanonical : Prop :=
  Canon State.reset

/-- For every state, reached or not: a step keeps the canonical forms of memory and of the register file, so no command stores a value wider than its field, or at a key that is no field's. -/
def Obligations.StepKeepsCanon : Prop :=
  ∀ s t : State, Canon s → step s = .next t → Canon t

/-- For every state: a step removes the front command and adds none, what has left the block stays, and no index of a free value is used again. The queue, the record of what left and the index are the model's own. -/
def Obligations.StepOnlyAppends : Prop :=
  ∀ s t : State, step s = .next t → t.pending = s.pending.tail ∧ s.out <+: t.out ∧ s.freeCount ≤ t.freeCount

/-- For every state and every command of the table, a step answers a next state. -/
def Obligations.EveryStepAnswersNext : Prop :=
  ∀ s : State, ∃ t : State, step s = .next t

/-- R11 (Table 0.4) and R13, of the operations every command writes registers and counts by. (That a read clears a counter is RC of R11, in CsrReads.) -/
def Obligations.RegisterWriteRead : Prop :=
  ∀ (s : State) (r : Reg) (i v : Nat),
    rd (wr s r i v) r i = v % 2 ^ r.info.width ∧
    (∀ (q : Reg) (j : Nat), ¬ (q = r ∧ j = i) → rd (wr s r i v) q j = rd s q j) ∧
    wr s r i v = { s with regs := (wr s r i v).regs } ∧
    (rd s r i ≤ regMax r → rd (inc s r i) r i = (if rd s r i = regMax r then regMax r else rd s r i + 1)) ∧
    (∀ (q : Reg) (j : Nat), ¬ (q = r ∧ j = i) → rd (inc s r i) q j = rd s q j) ∧
    inc s r i = { s with regs := (inc s r i).regs }

/-- Core l's state once the bytes of the instruction at its pc have been read, as its fetch reads them. -/
def fetched (s : State) (l n : Nat) : State := (readStore s l (hartOf s l).pc.toNat n).1

/-- R64, R69, R63: the two commands that start a load, as the loader takes them. -/
def Obligations.LoadStarts : Prop :=
  ∀ (s : State) (v : Nat) (only : Bool),
    let c : Instr := if only then .qimgVerifyOnly v else .qimgStart v
    let u := wrs s [(.qimgVerifyOnly, 0, if only then 1 else 0), (.qimgVector, 0, v)]
    (rd u .qimgBusy ≠ 1 → ready u = true →
      exec c s = .next { wr (wr u .qimgBusy 0 1) .qimgStep 0 2 with load := some ⟨.host, rd u .qimgLen, only, 2, [], [], [], [], none, 0⟩ }) ∧
    (rd u .qimgBusy = 1 → exec c s = .next (inc u .qimgBusyRejectCnt)) ∧
    (rd u .qimgBusy ≠ 1 → ready u = false → exec c s = .next u)

/-- R62, R64, R70 to R72, R74: what each pass of a load from the host does when it ends. In each clause b is what the source held. -/
def Obligations.LoadPasses : Prop :=
  ∀ (s : State) (x : LoadSt) (b : List Byte), s.load = some x → x.who = .host →
    let img := b.take x.len
    let hit := Nat.land x.hit (loadTargets { x with img := img })
    (x.step = 2 → hit ≠ 0 → exec (.loadVerifyPassEnd (some b)) s = .next (endLoad s { x with img := img } interrupted)) ∧
    (hit = 0 → ∀ f, x.step = 2 → verifyImage (loadEnv s) img x.len = some f → exec (.loadVerifyPassEnd (some b)) s = .next (endLoad s { x with img := img } f)) ∧
    (hit = 0 → x.step = 2 → verifyImage (loadEnv s) img x.len = none → feedQueries s img = [] → x.feeds = [] →
      let y := { x with img := img, step := 3, asked := [], got := [] }
      exec (.loadVerifyPassEnd (some b)) s = .next (if x.verifyOnly then endLoad (setLoad s y) y ⟨0, .ok, noOff⟩ else beginTargets (setLoad s y) y)) ∧
    (∀ o, x.step = 3 → lowestOff (x.asked.map (fun a => some a.1)) = some o →
      exec .loadFeedQueryTimeout s = .next (endLoad s x ⟨0x13, .peerLost, o⟩)) ∧
    (x.step = 6 → imageDigest img (readHdr img) = (readHdr x.img).digest → readHdr img = readHdr x.img →
      exec (.loadApplyPassEnd (some b)) s = .next (commitImage (setLoad s { x with step := 7 }) { x with img := img, step := 7 })) ∧
    (x.step = 6 → imageDigest img (readHdr img) ≠ (readHdr x.img).digest →
      exec (.loadApplyPassEnd (some b)) s = .next (endLoad (emptyTargets s (loadTargets x)) x ⟨0x16, .checkMismatch, 0x30⟩)) ∧
    (x.step = 6 → exec (.loadApplyPassEnd none) s = .next (endLoad (emptyTargets s (loadTargets x)) x ⟨0x15, .uncorrectable, noOff⟩))

/-- R77, R78, R79: each kind of instruction of the scalar unit, in the state u left by the fetch. Register x0 reads zero and takes no write (setX). The exceptions' CSRs are PRESUMED RISC-V (log entry 31). -/
def Obligations.ScalarInstructionsRun : Prop :=
  ∀ (s : State) (l n : Nat) (o : RvOp), running s l = true → fetchAt s l = .op o n →
    let u := fetched s l n
    let h := hartOf u l
    (∀ r i, o = .lui r i → exec (.scalarInstruction l) s = .next (setHart u l (advance (setX h r (BitVec.ofInt 64 i)) n))) ∧
    (∀ r i, o = .auipc r i → exec (.scalarInstruction l) s = .next (setHart u l (advance (setX h r (h.pc + BitVec.ofInt 64 i)) n))) ∧
    (∀ r i, o = .jal r i → exec (.scalarInstruction l) s = .next (setHart u l { setX h r (h.pc + BitVec.ofNat 64 n) with pc := h.pc + BitVec.ofInt 64 i })) ∧
    (∀ r a i, o = .jalr r a i →
      exec (.scalarInstruction l) s = .next (setHart u l { setX h r (h.pc + BitVec.ofNat 64 n) with pc := BitVec.ofNat 64 (effAddr h a i / 2 * 2) })) ∧
    (∀ f a b i, o = .branch f a b i → exec (.scalarInstruction l) s =
      .next (setHart u l (if branchTaken f (getX h a) (getX h b) then { h with pc := h.pc + BitVec.ofInt 64 i } else advance h n))) ∧
    (∀ w f g r a i, o = .opImm w f g r a i →
      exec (.scalarInstruction l) s = .next (setHart u l (advance (setX h r (aluOp w f g (getX h a) (BitVec.ofInt 64 i))) n))) ∧
    (∀ w f g r a b, o = .opReg w f g r a b → exec (.scalarInstruction l) s = .next (setHart u l (advance (setX h r (aluOp w f g (getX h a) (getX h b))) n))) ∧
    (∀ f r a i v t, o = .load f r a i → scalarRead u l (effAddr h a i) (accessBytes f) = (t, .ok v) →
      exec (.scalarInstruction l) s = .next (setHart t l (advance (setX (hartOf t l) r (extendLoad f v)) n))) ∧
    (∀ f r a i t, o = .load f r a i → scalarRead u l (effAddr h a i) (accessBytes f) = (t, .error .fault) →
      exec (.scalarInstruction l) s = .next (takeException t l 5 (effAddr h a i))) ∧
    (∀ f a b i, o = .store f a b i → storeArea (dataUser h) (effAddr h a i) (accessBytes f) = true →
      let t := (writeMem u (coreBase l + effAddr h a i) (toLE (accessBytes f) (getX h b).toNat)).1
      exec (.scalarInstruction l) s = .next (setHart t l (advance (hartOf t l) n))) ∧
    (∀ f a b i, o = .store f a b i → storeArea (dataUser h) (effAddr h a i) (accessBytes f) = false → regArea (effAddr h a i) (accessBytes f) = false →
      exec (.scalarInstruction l) s = .next (takeException u l 7 (effAddr h a i))) ∧
    (o = .fence → exec (.scalarInstruction l) s = .next (setHart u l (advance h n))) ∧
    (o = .ebreak → exec (.scalarInstruction l) s = .next (takeException u l 3 h.pc.toNat)) ∧
    (o = .illegal → exec (.scalarInstruction l) s = .next (illegalInstr u l)) ∧
    (o = .mret → h.user = false → exec (.scalarInstruction l) s = .next (setHart u l (returnHart h)))

/-- The exception entry of the scalar unit. R81 gives what the firmware does with it; the CSRs are PRESUMED RISC-V (log entry 31). -/
def Obligations.ScalarExceptionEntry : Prop :=
  ∀ (s : State) (l cause tval : Nat), cause < 2 ^ 64 → tval < 2 ^ 64 →
    let h := hartOf s l
    let t := trapHart h cause tval
    (h.user = false → takeException s l cause tval = setHart s l t) ∧
    (h.user = true → takeException s l cause tval = programFault (setHart s l t) l cause h.pc.toNat tval) ∧
    getCsr t csrMepc = h.pc.toNat ∧ getCsr t csrMcause = cause ∧ getCsr t csrMtval = tval ∧ t.user = false ∧
    t.pc = BitVec.ofNat 64 (getCsr h csrMtvec / 4 * 4) ∧ t.x = h.x ∧ t.resv = h.resv

/-- Table 3.2, R81, R82, R98: each dispatch operation in the state u left by the fetch, at each of its outcomes. -/
def Obligations.DispatchOperations : Prop :=
  ∀ (s : State) (l n : Nat) (o : RvOp), running s l = true → fetchAt s l = .op o n →
    let u := fetched s l n
    let h := hartOf u l
    let x := fun r => (getX h r).toNat
    (o = .ecall → h.user = true → getX h 17 = 0 → exec (.ecall l) s = .next (setHart u l { trapHart h 8 0 with ended := true })) ∧
    (o = .ecall → h.user = true → getX h 17 ≠ 0 → exec (.ecall l) s = .next (takeException u l 8 0)) ∧
    (o = .ecall → h.user = false → exec (.ecall l) s = .next (takeException u l 11 0)) ∧
    (∀ r a d t, o = .tdIssue r a → x a % 64 = 0 → 0x20000 ≤ x a → x a + 64 ≤ 0x180000 → (coreSt u l).c0.queue.length < 64 →
      readMem u (coreBase l + x a) 64 = (t, .ok d) →
      exec (.tdIssue l) s = .next (issueTile (retire t l n r (BitVec.ofNat 64 (rd t .c0IssuedSeq l))) l 0 d)) ∧
    (∀ r a, o = .tdIssue r a → (x a % 64 ≠ 0 ∨ x a < 0x20000 ∨ 0x180000 < x a + 64) → exec (.tdIssue l) s = .next (takeException u l 5 (x a))) ∧
    (∀ r, o = .tdFence r → ctx0Empty u l = true → exec (.tdFence l) s = .next (retire u l n r (BitVec.ofNat 64 (rd u .c0FailStatus l)))) ∧
    (∀ a, o = .tdResume a → exec (.tdResume l) s = .next (resumeCtx (setHart u l (advance h n)) l 0 (bit (x a) 0))) ∧
    (∀ r, o = .tdStat r → exec (.tdStat l) s = .next (retire u l n r (BitVec.ofNat 64 (ctxStateWord u l)))) ∧
    (∀ r a, o = .tkRead r a → exec (.tkRead l) s = .next (retire u l n r (BitVec.ofNat 64 (token u l (x a % 64))))) ∧
    (∀ a b, o = .tkSet a b → (h.user = false ∨ x a % 64 < 48) →
      exec (.tkSet l) s = .next (recheckWait (setToken (setHart u l (advance h n)) l (x a % 64) (x b % 2 ^ 32)) l)) ∧
    (∀ a b, o = .tkAdd a b → (h.user = false ∨ x a % 64 < 48) →
      exec (.tkAdd l) s = .next (recheckWait (setToken (setHart u l (advance h n)) l (x a % 64) ((token u l (x a % 64) + x b % 2 ^ 32) % 2 ^ 32)) l)) ∧
    (∀ r a b, o = .tkWait r a b → (h.user = false ∨ x a % 64 < 48) →
      exec (.tkWait l) s = .next (recheckWait (setHart u l { h with tkWait := some (r, x a % 64, x b % 2 ^ 32) }) l)) ∧
    (∀ a b, o = .tkSet a b → h.user = true → 48 ≤ x a % 64 → exec (.tkSet l) s = .next (illegalInstr u l)) ∧
    (∀ r, o = .nsRead r → exec (.nsRead l) s = .next (retire u l n r (BitVec.ofNat 64 (nowNs u))))

/-- R98, Table 3.2: rd := 0x07 on expiry, counted in TOKEN_TIMEOUT_CNT. R81: PROG_DONE is set once context 0 has no tile in flight. -/
def Obligations.ScalarWaitsEnd : Prop :=
  ∀ (s : State) (l : Nat),
    (∀ r c v, (hartOf s l).tkWait = some (r, c, v) →
      exec (.tkWaitTimeout l) s = .next (inc (setHart s l (advance (setX { hartOf s l with tkWait := none } r 7) 4)) .tokenTimeoutCnt l)) ∧
    ((hartOf s l).ended = true → ctx0Empty s l = true → exec (.progDoneSet l) s = .next (wr s .progDone l 1)) ∧
    ((hartOf s l).ended = false ∨ ctx0Empty s l = false → exec (.progDoneSet l) s = .next s)

/-- Context k of core l after its head q has started: out of the issue queue, in flight with the engines it takes and the ranges it touches, its
prefetch used or discarded, its streams through the handoff buffer begun. -/
def tileStarted (s : State) (l k : Nat) (q : QTile) (j : Nat) : State :=
  let d := q.desc
  let f := mkFTile q (tileMask s l d) (tileRanges s j d q.probeA) .busy (dOp d == opMatmul && mmSparse d)
  let s := launch s l k f
  let s := if k = 1 then inc s .idleFillTileCnt l else s
  streams (usePref s l k q) l d

/-- R92, R93, R98: the six tile operations when the head of context k starts. Its engines, ranges and streams are those of tileStarted; the rest is the operation's own. -/
def Obligations.TilesStart : Prop :=
  ∀ (s : State) (l k j : Nat) (q : QTile), headTile s l k = some q → ctxJob s l k = some j → dLen q.desc ≠ 0 →
    (k = 1 → ctx0First s l (tileMask s l q.desc) = false) →
    let u := tileStarted s l k q j
    (startVerdict s l k opSync = .go → exec (.sync l k) s = .next (setRun u l k q.seq (.done .ok 0))) ∧
    (startVerdict s l k opCopy = .go → aRemote (dSrcA q.desc) = false → aRemote (dDst q.desc) = false →
      let r := copyLocal q.desc (dLen q.desc / 4096 + 2) 0 u
      exec (.copy l k) s = .next (setRun r.1 l k q.seq (.done r.2.2 (if r.2.2 = .ok then 0 else r.2.1)))) ∧
    (startVerdict s l k opCopy = .go → (aRemote (dSrcA q.desc) || aRemote (dDst q.desc)) = true → exec (.copy l k) s = .next (copyNext u l k q.seq j q.desc 0)) ∧
    (startVerdict s l k opGather = .go → unitWaits s (.gather (clusterOf l)) = false → exec (.gather l k) s = .next (gatherGo u l k q j)) ∧
    (startVerdict s l k opScatter = .go → scatterBusy s l k = false → unitWaits s (.sorter (clusterOf l)) = false → exec (.scatterAdd l k) s = .next (scatterGo u l k q j)) ∧
    (startVerdict s l k opMatmul = .go → exec (.matmul l k) s = .next (matmulGo l k u q j)) ∧
    (startVerdict s l k opVector = .go → exec (.vector l k) s = .next (vectorGo l k u q j))

/-- R93, R256: the outcomes of SYNC and COPY at the head of context k other than a start. (All six operations share this start; TilesStart has the start of each.) -/
def Obligations.TilesThatDoNotStart : Prop :=
  ∀ (s : State) (l k j : Nat) (q : QTile), headTile s l k = some q → ctxJob s l k = some j →
    (startVerdict s l k opSync = .go → k = 0 → dLen q.desc = 0 →
      exec (.sync l k) s = .next (streams (usePref (launch s l k (mkFTile q (tileMask s l q.desc) (tileRanges s j q.desc q.probeA) (.done .ok 0) (dOp q.desc == opMatmul && mmSparse q.desc))) l k q) l q.desc)) ∧
    (∀ st, startVerdict s l k opCopy = .ends st none → exec (.copy l k) s = .next (endHead s l k q st)) ∧
    (∀ st r, startVerdict s l k opCopy = .ends st (some r) → exec (.copy l k) s = .next (endHead (inc s r l) l k q st)) ∧
    (startVerdict s l k opCopy = .heldParam → q.held = false → exec (.copy l k) s = .next (setHead (inc s .paramHoldCnt l) l k { q with held := true })) ∧
    (startVerdict s l k opCopy = .heldHazard → q.stalled = false → exec (.copy l k) s = .next (setHead (inc s .hazardStallCnt l) l k { q with stalled := true })) ∧
    ((startVerdict s l k opCopy = .notDue ∨ startVerdict s l k opCopy = .enginesTaken) → exec (.copy l k) s = .next s)

/-- R98: TIMEOUT, counted; the tile moves nothing and sends no signal. R256, R518, R325: the other bounded waits of a tile. -/
def Obligations.TileTimeouts : Prop :=
  ∀ (s : State) (l k : Nat) (q : QTile), headTile s l k = some q →
    (tileWaitOk s l q.desc = false → exec (.tileWaitTimeout l k) s = .next (endHead (inc s .tokenTimeoutCnt l) l k q .timeout)) ∧
    (tileWaitOk s l q.desc = true → exec (.tileWaitTimeout l k) s = .next s) ∧
    (startVerdict s l k (dOp q.desc) = .heldParam →
      let u := inc s .tokenTimeoutCnt l
      exec (.paramHoldTimeout l k) s = .next (endHead (if q.held then u else inc u .paramHoldCnt l) l k q .timeout)) ∧
    (∀ t r, Tbl.find s.tags t = some r → r.quar = false →
      let u := reportSuspect (quarantine s t) r.pkt.job r.pkt.dst 2 r.pkt.step
      (∀ seq off n, r.origin = .copyRead l k seq off n → exec (.remoteExchangeTimeout t) s = .next (setRun u l k seq (.done .timeout off))) ∧
      (∀ seq off n, r.origin = .copyWrite l k seq off n → exec (.remoteExchangeTimeout t) s = .next (setRun u l k seq (.done .timeout off))) ∧
      (∀ w, r.origin = .probe l k q.seq w → exec (.remoteExchangeTimeout t) s = .next (endHead u l k q .timeout)) ∧
      (∀ seq, r.origin = .token l k seq → exec (.remoteExchangeTimeout t) s = .next (setRun u l k seq (.signalled .timeout sigDetail)))) ∧
    (∀ i p, s.heldProbes[i]? = some p → (probeVerdict s p).isSome = true →
      exec (.probeHoldRelease i) s = .next (probeAnswer { s with heldProbes := s.heldProbes.eraseIdx i } p))

/-- R99, R104, R96: TILE_COMPLETE and TOKEN_SIGNAL_APPLY at each outcome. -/
def Obligations.TilesComplete : Prop :=
  ∀ (s : State) (l k seq : Nat),
    (∀ f det, flightTile s l k seq = some f → f.run = .done .ok det → dSigEn f.desc = false → exec (.tileComplete l k seq) s = .next (finishTile s l k f .ok 0)) ∧
    (∀ f det j, flightTile s l k seq = some f → f.run = .done .ok det → dSigEn f.desc = true → ctxJob s l k = some j →
      exec (.tileComplete l k seq) s = .next (sendSignal s l k f j)) ∧
    (∀ f st det, flightTile s l k seq = some f → f.run = .done st det → st ≠ .ok → exec (.tileComplete l k seq) s = .next (finishTile s l k f st det)) ∧
    (∀ f st det, flightTile s l k seq = some f → f.run = .signalled st det → exec (.tileComplete l k seq) s = .next (finishTile s l k f st det)) ∧
    (∀ i g, s.signals[i]? = some g →
      let u := { s with signals := s.signals.eraseIdx i }
      (g.tile = none → resetting u g.core = false → corePresent u g.core = true → g.core < rd u .logicalCoreCount → ctrOwned u g.core g.ctr g.job = true →
        exec (.tokenSignalApply i) s = .next (recheckWait (setToken u g.core g.ctr ((token u g.core g.ctr + g.amount) % 2 ^ 32)) g.core)) ∧
      (g.tile = some (l, k, seq) → resetting u g.core = false → corePresent u g.core = true → g.core < rd u .logicalCoreCount → ctrOwned u g.core g.ctr g.job = false →
        exec (.tokenSignalApply i) s = .next (setRun (inc u .tokenRejectCnt g.core) l k seq (.signalled .permission sigDetail))) ∧
      (g.tile = some (l, k, seq) → resetting u g.core = false → corePresent u g.core = false →
        exec (.tokenSignalApply i) s = .next (setRun (inc u .tokenBadCoreCnt) l k seq (.signalled .indexRange sigDetail))))

/-- R96, whole: the comparison of a wait, and what a signal sets. -/
def Obligations.TokenWaits : Prop :=
  (∀ c v : Nat, c < 2 ^ 32 → v < 2 ^ 32 → (waitOk c v = true ↔ ((c : Int) - v) % 2 ^ 32 < 2 ^ 31)) ∧
  (∀ (s : State) (l n inc' : Nat), n < 64 →
    token (addToken s l n inc') l n = (token s l n + inc') % 2 ^ 32 ∧
    ∀ m k, k < 64 → ¬ (m = l ∧ k = n) → token (addToken s l n inc') m k = token s m k)

/-- The three commands that advance a MATMUL m in flight as tile f. -/
def Obligations.MatmulProgress : Prop :=
  ∀ (s : State) (l k seq j : Nat) (m : MatRun) (f : FTile), matOf s l k seq = some m → flightTile s l k seq = some f → ctxJob s l k = some j →
    let idle := ((coreSt s l).veng.job == some (k, seq) && (coreSt s l).veng.run) = false
    (∀ b t, m.waiting = false → idle → m.redo = b :: t → exec (.matmulBlock l k seq) s = .next (computeBlock s l j { m with redo := t } f.desc b)) ∧
    (m.waiting = false → idle → m.redo = [] → m.next < blockCount f.desc → predicted s l { m with next := m.next + 1 } f.desc m.next = false →
      exec (.matmulBlock l k seq) s = .next (computeBlock s l j { m with next := m.next + 1 } f.desc m.next)) ∧
    (∀ b t, m.shadow = b :: t → shadowPass s f.desc b = true → exec (.shadowDone l k seq) s = .next (skipBlock s l { m with shadow := t } f.desc b)) ∧
    (∀ b t, m.shadow = b :: t → shadowPass s f.desc b = false →
      exec (.shadowDone l k seq) s = .next (setMat (inc s .predMissCnt l) l { m with shadow := t, redo := m.redo ++ [b] })) ∧
    (m.waiting = true → bit (enginesBusy (coreSt (setFlight s l k { f with stages := 0 }) l) ||| Tbl.getD s.engHold l 0) 3 = false →
      exec (.sparseFallback l k seq) s = .next (setMat (setFlight s l k { f with stages := f.stages ||| 8 }) l { m with waiting := false }))

/-- R105 and the register block of a core (Table 3.10): the commands that software gives a context directly. -/
def Obligations.ContextCommands : Prop :=
  ∀ (s : State) (l : Nat),
    exec (.c0Resume l) s = .next (wrs s [(.c0Halted, l, 0), (.c0FailStatus, l, 0)]) ∧
    exec (.c1Resume l) s = .next (wrs s [(.c1Halted, l, 0), (.c1FailStatus, l, 0)]) ∧
    (∀ q, (coreSt s l).c0.queue = q →
      let u := finishAborted l 0 q (flushCtx s l 0)
      let left := (q.map (·.seq)).filter (fun n => (coreSt u l).c0.flight.any (fun f => f.seq == n))
      (left = [] → exec (.c0Flush l) s = .next (wrs u [(.c0Halted, l, 0), (.c0FailStatus, l, 0)])) ∧
      (left ≠ [] → exec (.c0Flush l) s = .next (setCore u l { coreSt u l with c0 := { (coreSt u l).c0 with resuming := left } }))) ∧
    (∀ q, (coreSt s l).c1.queue = q →
      let u := finishAborted l 1 q (flushCtx s l 1)
      let left := (q.map (·.seq)).filter (fun n => (coreSt u l).c1.flight.any (fun f => f.seq == n))
      (left = [] → exec (.c1Flush l) s = .next (wrs u [(.c1Halted, l, 0), (.c1FailStatus, l, 0)])) ∧
      (left ≠ [] → exec (.c1Flush l) s = .next (setCore u l { coreSt u l with c1 := { (coreSt u l).c1 with resuming := left } }))) ∧
    (∀ t, exec (.c0CringTailWrite l t) s = .next (releaseHeld l 0 (coreSt s l).c0.flight (wr s .c0CringTail l t))) ∧
    (∀ b n, 4 ≤ n → n ≤ 12 → b % 16 = 0 → 0x20000 ≤ b → b + 16 * 2 ^ n ≤ 0x180000 → (coreSt s l).c0.queue = [] → (coreSt s l).c0.flight = [] →
      ¬ (b = rd s .c0CringBase l ∧ n = rd s .c0CringLog2 l) →
      let u := wrs s [(.c0CringBase, l, b), (.c0CringLog2, l, n), (.c0CringHead, l, 0), (.c0CringTail, l, 0)]
      exec (.c0CringConfigWrite l b n) s = .next (setCore u l { coreSt u l with c0 := { (coreSt u l).c0 with phase := true } })) ∧
    (∀ b n, (n < 4 ∨ 12 < n) → exec (.c0CringConfigWrite l b n) s = exec (.c0CringConfigWrite l b (rd s .c0CringLog2 l)) s) ∧
    (∀ b n, b % 16 ≠ 0 → exec (.c0CringConfigWrite l b n) s = exec (.c0CringConfigWrite l (rd s .c0CringBase l) n) s) ∧
    (∀ b n, 4 ≤ n → n ≤ 12 → b % 16 = 0 → (b < 0x20000 ∨ 0x180000 < b + 16 * 2 ^ n ∨ (coreSt s l).c0.queue ≠ [] ∨ (coreSt s l).c0.flight ≠ []) →
      exec (.c0CringConfigWrite l b n) s = .next s) ∧
    exec (.predClear l) s = .next (setCore s l { coreSt s l with pred0 := [] })

/-- The vector engine of core l stands, for context k and SEQ seq, before the instruction word w, whose reading leaves the state u. -/
def vDue (s : State) (l k seq w : Nat) (u : State) : Prop :=
  (coreSt s l).veng.job = some (k, seq) ∧ (coreSt s l).veng.run = true ∧ (coreSt s l).veng.count < (coreSt s l).veng.budget * 65536 ∧
  (coreSt s l).veng.pc + 8 ≤ (coreSt s l).veng.winA.2 ∧
  ∃ b, readMem s ((coreSt s l).veng.winA.1 + (coreSt s l).veng.pc) 8 = (u, .ok b) ∧ leNat b = w

/-- The engine as an instruction finds it: its pc past the word, the word counted. -/
def vAfter (s : State) (l : Nat) : VEng := { (coreSt s l).veng with pc := (coreSt s l).veng.pc + 8, count := (coreSt s l).veng.count + 1 }

/-- Command c executes operation opc: its word is checked by ok, a bad one is a FORMAT fault; a good one has the effect f on state and engine, its
saturations and NaNs counted, and a fault of f ends the program with that status. -/
def vRuns (c : Nat → Instr) (opc : Nat) (ok : Nat → Bool) (f : State → VEng → Nat → VRes) : Prop :=
  ∀ (s u : State) (l k seq w : Nat), vDue s l k seq w u → vOpc w = opc →
    let pc := (coreSt s l).veng.pc
    let r := f u (vAfter s l) w
    let t := vCountUp r.s l k seq r.sat r.nan
    (ok w = true → r.fault = none → exec (c l) s = .next (setVeng t l r.e)) ∧
    (∀ st, ok w = true → r.fault = some st → exec (c l) s = .next (vFault t l k seq st pc opc)) ∧
    (ok w = false → exec (c l) s = .next (vFault u l k seq .format pc opc))

/-- R113, R115, Table 4.4: each operation, in the state that reading its word leaves, with its exact effect on the engine's registers. -/
def Obligations.VectorScalarOps : Prop :=
  vRuns .sli 0x02 (fun w => sqOk w true false false false (true)) (sqWrite (fun _ w => wrap 64 (sqSext w))) ∧
  vRuns .saddi 0x03 (fun w => sqOk w true true false false (true)) (sqWrite sqSum) ∧
  vRuns .sadd 0x04 (fun w => sqOk w true true true false (sqImm w == 0)) (sqWrite (fun e w => sreg e (sqS1 w) + sreg e (sqS2 w))) ∧
  vRuns .smul 0x05 (fun w => sqOk w true true true false (sqImm w == 0)) (sqWrite (fun e w => sreg e (sqS1 w) * sreg e (sqS2 w))) ∧
  vRuns .sshli 0x06 (fun w => sqOk w true true false false (bits (sqImm w) 31 6 == 0)) (sqWrite (fun e w => sreg e (sqS1 w) * 2 ^ (sqImm w % 64))) ∧
  vRuns .sshri 0x07 (fun w => sqOk w true true false false (bits (sqImm w) 31 6 == 0)) (sqWrite (fun e w => sreg e (sqS1 w) / 2 ^ (sqImm w % 64))) ∧
  vRuns .sbnz 0x08 (fun w => sqOk w false true false false (true)) (vBranch (fun e w => sreg e (sqS1 w) != 0)) ∧
  vRuns .sblt 0x09 (fun w => sqOk w false true true false (true)) (vBranch (fun e w => decide (signed 64 (sreg e (sqS1 w)) < signed 64 (sreg e (sqS2 w))))) ∧
  vRuns .sld 0x0A (fun w => sqOk w true true false true (true)) opSld ∧
  vRuns .scnt 0x0B (fun w => sqOk w true true false false (sqS1 w < 8 && sqImm w ≤ 1)) (sqWrite (fun e w => popcount (if sqImm w = 1 then 256 else 128) (preg e (sqS1 w)).toNat)) ∧
  vRuns .svext 0x0C (fun w => sqOk w true false false false (!bit (sqImm w) 7 && bits (sqImm w) 31 13 == 0)) (sqWrite (fun e w => velt (vreg e (bits (sqImm w) 12 8)) 4 (bits (sqImm w) 6 0))) ∧
  vRuns .nop 0x00 (fun w => sqOk w false false false false (sqImm w == 0)) (fun s e _ => VRes.just s e)

/-- R117, R121, Table 4.4: each operation, in the state that reading its word leaves, with its exact effect on the engine's registers. -/
def Obligations.VectorPredicateAndIntegerOps : Prop :=
  vRuns .pwhile 0x10 (fun w => vvOk w fmtAny false 2 0 0 0 [0] true (vImm w == 0)) (fun s e w => VRes.just s (setP e (vVd w) (packP ((List.range (vCount (vFmt w))).map (fun j => decide (j < sreg e (vSkey w))))))) ∧
  vRuns .pand 0x11 (fun w => vvOk w [0] false 2 2 2 0 [0] false (vImm w == 0)) (pLogic (· &&& ·)) ∧
  vRuns .por 0x12 (fun w => vvOk w [0] false 2 2 2 0 [0] false (vImm w == 0)) (pLogic (· ||| ·)) ∧
  vRuns .pxor 0x13 (fun w => vvOk w [0] false 2 2 2 0 [0] false (vImm w == 0)) (pLogic (· ^^^ ·)) ∧
  vRuns .pnot 0x14 (fun w => vvOk w [0] false 2 2 0 0 [0] false (vImm w == 0)) (pLogic (fun a _ => ~~~a)) ∧
  vRuns .vcmp 0x15 (fun w => vvOk w [0, 1, 2, 3] true 2 1 1 0 [0] false (if vFmt w = 0 then vImm w ≤ 3 else vImm w ≤ 4)) vCmp ∧
  vRuns .vmov 0x30 (fun w => vvOk w fmtAny true 1 1 0 0 [0] false (vImm w == 0)) (vRaw (fun e w j => velt (vreg e (vVs1 w)) (vWidth (vFmt w)) j)) ∧
  vRuns .vsel 0x31 (fun w => vvOk w fmtAny true 1 1 1 0 [0] false (vImm w == 0)) opVsel ∧
  vRuns .vperm 0x32 (fun w => vvOk w [0] true 1 1 1 0 [0] false (vImm w == 0)) (vRaw (fun e w i => velt (vreg e (vVs1 w)) 4 (velt (vreg e (vVs2 w)) 4 i % 128))) ∧
  vRuns .vdups 0x33 (fun w => vvOk w [0] true 1 0 0 0 [0] true (vImm w == 0)) (vRaw (fun e w _ => sreg e (vSkey w) % 2 ^ 32)) ∧
  vRuns .viota 0x34 (fun w => vvOk w [0] true 1 0 0 0 [0] true (vImm w == 0)) (vRaw (fun e w i => (sreg e (vSkey w) + i) % 2 ^ 32)) ∧
  vRuns .viadd 0x38 (fun w => vvOk w [0] true 1 1 1 0 [0] false (vImm w == 0)) (vInt (fun a b => a + b)) ∧
  vRuns .visub 0x39 (fun w => vvOk w [0] true 1 1 1 0 [0] false (vImm w == 0)) (vInt (fun a b => a + 2 ^ 32 - b)) ∧
  vRuns .vimul 0x3A (fun w => vvOk w [0] true 1 1 1 0 [0] false (vImm w == 0)) (vInt (fun a b => a * b)) ∧
  vRuns .viand 0x3B (fun w => vvOk w [0] true 1 1 1 0 [0] false (vImm w == 0)) (vInt Nat.land) ∧
  vRuns .vior 0x3C (fun w => vvOk w [0] true 1 1 1 0 [0] false (vImm w == 0)) (vInt Nat.lor) ∧
  vRuns .vixor 0x3D (fun w => vvOk w [0] true 1 1 1 0 [0] false (vImm w == 0)) (vInt bxor) ∧
  vRuns .vishl 0x3E (fun w => vvOk w [0] true 1 1 1 0 [0] false (vImm w == 0)) (vInt (fun a b => a * 2 ^ (b % 32))) ∧
  vRuns .vishr 0x3F (fun w => vvOk w [0] true 1 1 1 0 [0] false (vImm w == 0)) (vInt (fun a b => a / 2 ^ (b % 32)))

/-- R119 to R123, Table 4.4: each operation, in the state that reading its word leaves, with its exact effect on the engine's registers. -/
def Obligations.VectorFloatOps : Prop :=
  vRuns .vadd 0x20 (fun w => vvOk w [1, 2, 3] true 1 1 1 0 [0, 1] false (vImm w == 0)) (vFloat src2 (fun f rm xs => f.roundV rm (FVal.add (valAt f xs 0) (valAt f xs 1)))) ∧
  vRuns .vsub 0x21 (fun w => vvOk w [1, 2, 3] true 1 1 1 0 [0, 1] false (vImm w == 0)) (vFloat src2 (fun f rm xs => f.roundV rm (FVal.add (valAt f xs 0) (valAt f xs 1).negate))) ∧
  vRuns .vmul 0x22 (fun w => vvOk w [1, 2, 3] true 1 1 1 0 [0, 1] false (vImm w == 0)) (vFloat src2 (fun f rm xs => f.roundV rm (FVal.mul (valAt f xs 0) (valAt f xs 1)))) ∧
  vRuns .vfma 0x23 (fun w => vvOk w [1, 2, 3] true 1 1 1 1 [0, 1] false (vImm w == 0)) (vFloat src3 (fun f rm xs => f.roundV rm (FVal.add (FVal.mul (valAt f xs 0) (valAt f xs 1)) (valAt f xs 2)))) ∧
  vRuns .vfnma 0x24 (fun w => vvOk w [1, 2, 3] true 1 1 1 1 [0, 1] false (vImm w == 0)) (vFloat src3 (fun f rm xs => f.roundV rm (FVal.add (valAt f xs 2) (FVal.mul (valAt f xs 0) (valAt f xs 1)).negate))) ∧
  vRuns .vdiv 0x25 (fun w => vvOk w [1, 2, 3] true 1 1 1 0 [0, 1] false (vImm w == 0)) (vFloat src2 (fun f rm xs => FVal.div f rm (valAt f xs 0) (valAt f xs 1))) ∧
  vRuns .vsqrt 0x26 (fun w => vvOk w [1, 2, 3] true 1 1 0 0 [0, 1] false (vImm w == 0)) (vFloat src1 (fun f rm xs => FVal.sqrt f rm (valAt f xs 0))) ∧
  vRuns .vmin 0x27 (fun w => vvOk w [1, 2, 3] true 1 1 1 0 [0] false (vImm w == 0)) (vFloat src2 (fun f _ xs => pick f false (xs.getD 0 0) (xs.getD 1 0))) ∧
  vRuns .vmax 0x28 (fun w => vvOk w [1, 2, 3] true 1 1 1 0 [0] false (vImm w == 0)) (vFloat src2 (fun f _ xs => pick f true (xs.getD 0 0) (xs.getD 1 0))) ∧
  vRuns .vabs 0x29 (fun w => vvOk w [1, 2, 3] true 1 1 0 0 [0] false (vImm w == 0)) (vFloat src1 (signOp false)) ∧
  vRuns .vneg 0x2A (fun w => vvOk w [1, 2, 3] true 1 1 0 0 [0] false (vImm w == 0)) (vFloat src1 (signOp true)) ∧
  vRuns .vfmawl 0x2B (fun w => vvOk w [1, 2] true 1 1 1 1 [0, 1] false (vImm w == 0)) (vFmaWide 0) ∧
  vRuns .vfmawh 0x2C (fun w => vvOk w [1, 2] true 1 1 1 1 [0, 1] false (vImm w == 0)) (vFmaWide 128) ∧
  vRuns .vdot4 0x2D (fun w => vvOk w [4] true 1 1 1 1 [0, 1] false (vImm w == 0)) vDot4 ∧
  vRuns .vcvt 0x40 (fun w => vvOk w [1, 2, 3, 4] true 1 1 0 0 [0, 1] false (cvtOk w)) vCvt ∧
  vRuns .vcvtfi 0x41 (fun w => vvOk w [3] true 1 1 0 0 [0, 2] false (vImm w == 0)) opVcvtfi ∧
  vRuns .vcvtif 0x42 (fun w => vvOk w [3] true 1 1 0 0 [0, 1] false (vImm w == 0)) opVcvtif ∧
  vRuns .vexp2 0x60 (fun w => vvOk w [1, 2, 3] true 1 1 0 0 (if vFmt w = 3 then [0] else [0, 1]) false (vImm w == 0)) (vFun .exp2) ∧
  vRuns .vlog2 0x61 (fun w => vvOk w [1, 2, 3] true 1 1 0 0 (if vFmt w = 3 then [0] else [0, 1]) false (vImm w == 0)) (vFun .log2) ∧
  vRuns .vrcp 0x62 (fun w => vvOk w [1, 2, 3] true 1 1 0 0 (if vFmt w = 3 then [0] else [0, 1]) false (vImm w == 0)) (vFun .rcp) ∧
  vRuns .vrsqrt 0x63 (fun w => vvOk w [1, 2, 3] true 1 1 0 0 (if vFmt w = 3 then [0] else [0, 1]) false (vImm w == 0)) (vFun .rsqrt) ∧
  vRuns .vtanh 0x64 (fun w => vvOk w [1, 2, 3] true 1 1 0 0 (if vFmt w = 3 then [0] else [0, 1]) false (vImm w == 0)) (vFun .tanh) ∧
  vRuns .verf 0x65 (fun w => vvOk w [1, 2, 3] true 1 1 0 0 (if vFmt w = 3 then [0] else [0, 1]) false (vImm w == 0)) (vFun .erf)

/-- R124 to R128, Table 4.4: each operation, in the state that reading its word leaves, with its exact effect on the engine's registers. -/
def Obligations.VectorReductions : Prop :=
  vRuns .vrsum 0x50 (fun w => vvOk w [3] true 1 1 0 0 [0, 1] false (immG w)) (vGroupSum false) ∧
  vRuns .vrssq 0x51 (fun w => vvOk w [3] true 1 1 0 0 [0, 1] false (immG w)) (vGroupSum true) ∧
  vRuns .vrmv 0x52 (fun w => vvOk w [3] true 4 1 0 0 [0] false (immG w)) vRmv ∧
  vRuns .vmvmerge 0x53 (fun w => vvOk w [3] true 4 4 4 0 [0] false (vImm w == 0)) vMvMerge ∧
  vRuns .vsegsum 0x54 (fun w => vvOk w [3] true 1 1 0 0 [0, 1] false (vImm w ≤ 15)) vSegSum ∧
  vRuns .vrmaxi 0x56 (fun w => vvOk w [3] true 3 1 0 0 [0] false (immG w)) (vBest true) ∧
  vRuns .vrmini 0x57 (fun w => vvOk w [3] true 3 1 0 0 [0] false (immG w)) (vBest false) ∧
  vRuns .vsmrow 0x58 (fun w => vvOk w [3] true 1 1 1 0 [0] false (immG w)) vSmRow ∧
  vRuns .vsmexp 0x59 (fun w => vvOk w [3] true 1 1 1 0 [0] false (vImm w ≤ 7)) vSmExp ∧
  vRuns .vsmsum 0x5A (fun w => vvOk w [3] true 1 1 1 1 [0, 1] false (immG w)) vSmSum

/-- R112, R129, R130, Table 4.4: each operation, in the state that reading its word leaves, with its exact effect on the engine's registers. -/
def Obligations.VectorMemoryOps : Prop :=
  vRuns .vld 0x80 (fun w => vmOk w fmtAny 1 false [0]) vLd ∧
  vRuns .vst 0x81 (fun w => vmOk w fmtAny 1 false [0]) vSt ∧
  vRuns .vldb 0x82 (fun w => vmOk w fmtAny 1 false [0]) vLdb ∧
  vRuns .vgather 0x83 (fun w => vmOk w [0, 3] 1 true [0]) vGather ∧
  vRuns .vscatter 0x84 (fun w => vmOk w [0, 3] 1 true [0]) vScatter ∧
  vRuns .vscatadd 0x85 (fun w => vmOk w [3] 1 true [0, 1]) vScatAdd ∧
  vRuns .vstc 0x86 (fun w => vmOk w fmtAny 1 false [0]) vStc ∧
  vRuns .pld 0x87 (fun w => vmOk w fmtAny 2 false [0]) vPld ∧
  vRuns .pst 0x88 (fun w => vmOk w fmtAny 2 false [0]) vPst

/-- R117, of the operation that every elementwise instruction writes its destination with. -/
def Obligations.VectorLanesWritten : Prop :=
  ∀ (e : VEng) (vd w : Nat) (act : Nat → Bool) (f : Nat → Elem), (w = 1 ∨ w = 2 ∨ w = 4) →
    let t := (mapV e vd w act f).1
    (∀ j, j < 512 / w → velt (vreg t vd) w j = if act j then (f j).code % 2 ^ (8 * w) else velt (vreg e vd) w j) ∧
    (∀ n, n ≠ vd → vreg t n = vreg e n) ∧ t = { e with v := t.v }

/-- R112, R113, R118, R131: how a program of the vector engine ends. The OPC recorded past window A is a free value (log entry 7). -/
def Obligations.VectorProgramEnds : Prop :=
  ∀ (s : State) (l k seq : Nat), (coreSt s l).veng.job = some (k, seq) → (coreSt s l).veng.run = true →
    let e := (coreSt s l).veng
    (∀ w u, vDue s l k seq w u → vOpc w = 1 → sqOk w false false false false (sqImm w == 0) = true →
      exec (.endProg l) s = .next (vEnd (setVeng (vCountUp u l k seq 0 0) l { vAfter s l with run := false }) l)) ∧
    (e.budget * 65536 ≤ e.count → exec (.vinstrBudgetExceeded l) s = .next (vFault s l k seq .timeout e.pc (vOpc (vFetch s e)))) ∧
    (e.count < e.budget * 65536 → exec (.vinstrBudgetExceeded l) s = .next s ∧
      (e.winA.2 < e.pc + 8 → exec (.nop l) s = .next (vFault (fresh s 8).1 l k seq .format e.pc (fresh s 8).2))) ∧
    (∀ w u, vDue s l k seq w u → vKnown (vOpc w) = false → exec (.nop l) s = .next (vFault u l k seq .format e.pc (vOpc w)))

/-- R142, R144, R157, R158, R161 to R163: what each command of the samplers does with the front entry (c, j, d) of queue q: cluster, job and descriptor. -/
def Obligations.SamplerRequests : Prop :=
  ∀ (s : State),
    (∀ q c j d, frontEntry s q = some (c, j, d) → fld d 0 1 = 0x10 → s.heldSamp.contains q = false → unitWaits s (.sampler c) = false →
      clusterResetting s c = false →
      (∀ st, sampCheck s c j d = st → st ≠ .ok → exec (.sample q) s = .next (endSampReq (popFifo s q) c j d 0x10 st 0 0)) ∧
      (sampCheck s c j d = .ok → sSeedBytes d = 0 → exec (.sample q) s = .next (endSampReq (popFifo s q) c j d 0x10 .ok 0 0)) ∧
      (sampCheck s c j d = .ok → sSeedBytes d ≠ 0 → (sampHeld s c j d || (heldTurn s c).isSome) = true → exec (.sample q) s = .next { inc s .sampHoldCnt c with heldSamp := s.heldSamp ++ [q] }) ∧
      (sampCheck s c j d = .ok → sSeedBytes d ≠ 0 → (sampHeld s c j d || (heldTurn s c).isSome) = false → exec (.sample q) s = .next (acceptSamp s c j q d))) ∧
    (∀ q c j d, frontEntry s q = some (c, j, d) → heldTurn s c = some q → unitWaits s (.sampler c) = false →
      let u := { s with heldSamp := s.heldSamp.erase q }
      (sampCheck u c j d = .ok → exec (.heldSampleAccept q) s = .next (acceptSamp u c j q d)) ∧
      (∀ st, sampCheck u c j d = st → st ≠ .ok → exec (.heldSampleAccept q) s = .next (endSampReq (popFifo u q) c j d 0x10 st 0 0))) ∧
    (∀ c b r, sampOf s c b = some r → unitWaits s (.sampler c) = false → r.fail = none → r.done = true →
      let p := runProg s r
      let total := 128 + ((blockSections r).map (fun b => roundUp b.length 64)).sum
      (sBlockBytes r.desc < total → exec (.sampleCommit c b) s = .next (endFailed s r .bounds (min total 0xFFFFFFFF))) ∧
      (∀ t, total ≤ sBlockBytes r.desc → writeMem s r.base (blockBytes p r) = (t, none) →
        exec (.sampleCommit c b) s = .next (endSampReq (inc (closeSamp t r true) .sampEdgeCnt c ((r.edges.map (·.length)).sum)) c r.job r.desc 0x10 .ok 0 total
          (if sSigEn r.desc then some ⟨none, r.job, sSigCore r.desc, sSigCtr r.desc, sSigInc r.desc⟩ else none))) ∧
      (∀ t w, total ≤ sBlockBytes r.desc → writeMem s r.base (blockBytes p r) = (t, some w) →
        exec (.sampleCommit c b) s = .next (endFailed t r .uncorrectable 0))) ∧
    (∀ c b r st det, sampOf s c b = some r → unitWaits s (.sampler c) = false → r.fail = some (st, det) → exec (.sampleCommit c b) s = .next (endFailed s r st det)) ∧
    (∀ q c j d, frontEntry s q = some (c, j, d) → fld d 0 1 = 0x11 → unitWaits s (.sampler c) = false → clusterResetting s c = false →
      let u := popFifo s q
      let inUse := releaseCheck u c j d = .ok ∧ u.sorts.any (fun r => r.cluster == c && fMode r.desc == 1 && fSrc r.desc == sBlockAddr d) = true
      (¬ inUse → exec (.release q) s = .next (doRelease u c j d)) ∧
      (inUse → exec (.release q) s = .next { u with heldRel := u.heldRel ++ [(q, d)] })) ∧
    (∀ q c j d, frontEntry s q = some (c, j, d) → [0x10, 0x11, 0x20, 0x21].contains (fld d 0 1) = false →
      exec (.qentryBadOp q) s = .next (inc (popFifo s q) .qentryBadOpCnt c)) ∧
    (∀ p u, takeRequest s p = (u, true) → exec (.drawReq p) s = .next (respond (serveDraw u p).1 p (serveDraw u p).2.1 (serveDraw u p).2.2)) ∧
    (∀ t x p c b l pos dat r, Tbl.find s.tags t = some ⟨x, p, .draws c b l pos, dat, false⟩ →
      let u := reportSuspect (quarantine s t) p.job p.dst 2 p.step
      waitingRun u c b t = some r → exec (.remoteDrawTimeout t) s = .next (setSamp u { r with fail := some (.timeout, p.dst) }))

/-- R167 to R171, R175 to R177, R193: what each command of the sorter and the gather engine does. -/
def Obligations.SortsAndFetches : Prop :=
  ∀ (s : State),
    (∀ q c j d, frontEntry s q = some (c, j, d) → clusterResetting s c = false → fld d 0 1 = 0x20 → s.sorts.any (fun r => r.cluster == c) = false → unitWaits s (.sorter c) = false →
      let u := (sortHdr (popFifo s q) c j d).1
      let v := sortCheck u c j d (sortHdr (popFifo s q) c j d).2
      (v ≠ .ok → exec (.sort q) s = .next (endUnitReq u c j d v 0 0)) ∧
      (v = .ok → fMode d = 0 → sSrcCount d = 0 → exec (.sort q) s = .next (endUnitReq u c j d .ok 0 0)) ∧
      (v = .ok → (fMode d ≠ 0 ∨ sSrcCount d ≠ 0) → exec (.sort q) s = .next { u with sorts := u.sorts ++ [⟨c, j, d⟩] })) ∧
    (∀ c r t, s.sorts.find? (fun r => r.cluster == c) = some r → unitWaits s (.sorter c) = false →
      let u := { s with sorts := s.sorts.filter (fun x => x.cluster != c) }
      let free := fun (v : State) => if fMode r.desc = 1 then
          releaseHeldOn c r.job (v.heldRel.filter (fun h => sBlockAddr h.2 == fSrc r.desc))
            { v with heldRel := v.heldRel.filter (fun h => sBlockAddr h.2 != fSrc r.desc) }
        else v
      (∀ hdr runs, (sortRuns r.desc r.job).run u = (.ok (hdr, runs), t) → exec (.sortComplete c) s = .next (free (sortWrite t c r.job r.desc hdr runs))) ∧
      (∀ st det, (sortRuns r.desc r.job).run u = (.error (st, det), t) → exec (.sortComplete c) s = .next (free (failSort t c r.job r.desc st det)))) ∧
    (∀ q c j d, frontEntry s q = some (c, j, d) → clusterResetting s c = false → unitWaits s (.gather c) = false → fld d 0 1 = 0x21 →
      (∀ st t, (fetchCheck c j d).go (popFifo s q) = (t, .error st) → exec (.fetch q) s = .next (endUnitReq t c j d st 0 0)) ∧
      (∀ x h t u st det, (fetchCheck c j d).go (popFifo s q) = (t, .ok (x, h)) → fetchEntries t d x = (u, some (st, det)) →
        exec (.fetch q) s = .next (endUnitReq u c j d st det 0)) ∧
      (∀ x h u t, (fetchCheck c j d).go (popFifo s q) = (u, .ok (x, h)) → fetchEntries u d x = (t, none) → fMode d = 0 →
        exec (.fetch q) s = .next (beginGather t ⟨t.runCount, .fetch j d, c, j, sStep d, fTable d, h.rowBytes, fSrc d + 64, x.u, 0, fDst d, none, none, none, false, none, []⟩))) ∧
    (∀ i g j d st det, gatherOf s i = some g → g.who = .fetch j d → g.result = some (st, det) → unitWaits s (.gather g.cluster) = false →
      let u := { s with gathers := s.gathers.filter (fun x => x.id != i) }
      exec (.fetchComplete i) s = .next (endUnitReq (if st = .ok then countEdges u j d else u) g.cluster j d st det g.next)) ∧
    (∀ i g j d, gatherOf s i = some g → g.who = .fetch j d → (g.result = none ∨ unitWaits s (.gather g.cluster) = true) →
      exec (.fetchComplete i) s = .next s) ∧
    (∀ p u, takeRequest s p = (u, true) →
      let q := if bit p.aux 23 then p else { p with addr := 0 }
      (∀ t st b, (serveRows q).go u = (t, .ok (.answer st b)) →
        exec (.rowReq p) s = .next (if bit q.aux 23 then answerHolder t q st b else answerRows t q b false)) ∧
      (∀ t st, (serveRows q).go u = (t, .error st) → exec (.rowReq p) s = .next (respond t q st)) ∧
      (∀ t f, (serveRows q).go u = (t, .ok (.waits f)) → exec (.rowReq p) s = .next (hold (if f then t else inc t .updReadHoldCnt) (.req q) f)) ∧
      (∀ t v n e lost b rest, (serveRows q).go u = (t, .ok (.forward v n e lost b rest)) →
        exec (.rowReq p) s = .next (forwardRow (answerRows t q b true) { q with addr := q.addr + b.length } v n e lost rest))) ∧
    (∀ t r x i g, Tbl.find s.tags t = some r → r.quar = false → r.origin = .rows x i → gatherOf s i = some g → g.wait = some t →
      exec (.peerRowTimeout t) s = .next (endGather (reportSuspect (quarantine s t) r.pkt.job r.pkt.dst 2 r.pkt.step) { g with wait := none } .timeout))

/-- R176, R180, R182 to R184, R395: what each command at the home of a trainable table does. In the first clause u is the state once the packet is taken, t once the header is read. -/
def Obligations.HomeUpdates : Prop :=
  ∀ (s : State),
    (∀ p u reg h o t, takeRequest s p = (u, true) →
      u.bound.regions.find? (fun r => r.job == p.job && r.tensor == fld p.payload 0 4 && r.role == 3 && partRunning u r.part) = some reg →
      (do let h ← readTable reg; let o ← rowOwner h (fld p.payload 8 5); pure (h, o) : Rd (TblHdr × Nat)).go u = (t, .ok (h, o)) →
      let v := setHome t reg.id (homeOf t h)
      (hdrDiffers h p.aux = true → exec (.contrib p) s = .next (respond (dropParts v h p.src) p .permission)) ∧
      (hdrDiffers h p.aux = false → fld p.payload 0xD 3 ≠ 0 → exec (.contrib p) s = .next (respond (dropParts v h p.src) p .format)) ∧
      (hdrDiffers h p.aux = false → fld p.payload 0xD 3 = 0 → o ≠ devId v → exec (.contrib p) s = .next (respond (dropParts v h p.src) p .indexRange)) ∧
      (hdrDiffers h p.aux = false → fld p.payload 0xD 3 = 0 → o = devId v →
        (stepRule v h p.step = .past → exec (.contrib p) s = .next (respond (dropParts v h p.src) p .format)) ∧
        (stepRule v h p.step = .future → exec (.contrib p) s = .next (hold v (.part p) false)) ∧
        (stepRule v h p.step = .now → fenced v reg.id (fld p.payload 8 5) = true → exec (.contrib p) s = .next (hold v (.part p) true)) ∧
        (stepRule v h p.step = .now → fenced v reg.id (fld p.payload 8 5) = false → partHeld v p = true → exec (.contrib p) s = .next (hold v (.part p) false)) ∧
        (stepRule v h p.step = .now → fenced v reg.id (fld p.payload 8 5) = false → partHeld v p = false → exec (.contrib p) s = .next (storePart v h p)))) ∧
    (∀ i, let u := { s with heldRows := s.heldRows.eraseIdx i }
      (∀ p, (s.heldRows[i]? = some (.req p, false) ∨ s.heldRows[i]? = some (.part p, false)) → exec (.updateHoldTimeout i) s = .next (respond u p .timeout)) ∧
      (∀ id g, s.heldRows[i]? = some (.run id, false) → gatherOf u id = some g → exec (.updateHoldTimeout i) s = .next (endGather u g .timeout)) ∧
      (∀ id r, s.heldRows[i]? = some (.scatter id, false) → scatterOf u id = some r → exec (.updateHoldTimeout i) s = .next (endScatter u r .timeout)) ∧
      (∀ p, (s.heldRows[i]? = some (.req p, true) ∨ s.heldRows[i]? = some (.part p, true)) →
        exec (.migFenceHoldTimeout i) s = .next (respond (inc u .updHoldTimeoutCnt) p .timeout)) ∧
      (∀ id g, s.heldRows[i]? = some (.run id, true) → gatherOf (inc u .updHoldTimeoutCnt) id = some g →
        exec (.migFenceHoldTimeout i) s = .next (endGather (inc u .updHoldTimeoutCnt) g .timeout))) ∧
    (∀ tb n c reg x, s.closes.find? (fun c => c.region == tb && c.step == n) = some c → regionById s tb = some reg → Tbl.find s.homes tb = some x →
      let out := { s with closes := s.closes.filter (fun d => !(d.region == tb && d.step == n)) }
      let busy := s.applies.any (fun a => a.region == tb)
      ((n : Int) ≤ x.lastClosed → exec (.updateStepClose tb n) s = .next out) ∧
      ((n : Int) = x.lastClosed + 1 → c.ok = false → exec (.updateStepClose tb n) s = .next (closeStep out reg x n false .checkMismatch)) ∧
      ((n : Int) = x.lastClosed + 1 → c.ok = true → busy = false → closeHeldRows s reg x n = 0 →
        exec (.updateStepClose tb n) s = .next (closeStep out reg x n true .checkMismatch)) ∧
      ((n : Int) = x.lastClosed + 1 → c.ok = true → busy = false → closeHeldRows s reg x n ≠ 0 → c.held = false → exec (.updateStepClose tb n) s =
        .next (inc { s with closes := s.closes.map (fun d => if d = c then { d with held := true } else d) } .mirrorHoldCnt 0 (closeHeldRows s reg x n))) ∧
      ((n : Int) = x.lastClosed + 1 → c.ok = true → busy = true → exec (.updateStepClose tb n) s = .next s)) ∧
    (∀ tb reg x (m : Nat), Tbl.find s.homes tb = some x → regionById s tb = some reg → x.marker = some m → (m : Int) = x.lastClosed + 1 →
      s.closes.any (fun c => c.region == tb && c.step == m) = false →
      exec (.updateCloseTimeout tb) s = .next (closeStep (inc s .updCloseTimeoutCnt) reg x m false .timeout))

/-- R189 to R192: MIG_START with its vector v, MIG_DRAIN_DONE and MIG_COPY_DONE. u is the state with the vector written, t that once the header is read. -/
def Obligations.Migrations : Prop :=
  ∀ (s : State) (v : Nat),
    let u := wr s .migVector 0 v
    let j := rd u .migJob
    let n := rd u .migCount
    let first := rd u .migFirstRow
    let dest := rd u .migDestDevice
    let find := u.bound.regions.find? (fun r => r.job == j && r.tensor == rd u .migTensorId && (r.role == 2 || r.role == 3) && partRunning u r.part)
    (find = none → u.mig = none → exec (.migStart v) s = .next (endMig u .permission)) ∧
    (find = none → u.mig.isSome = true → exec (.migStart v) s = .next (refuseMig u .permission)) ∧
    (∀ r, find = some r → u.mig = none → jobRunning u j = true → (dest != devId u && (ctxTo u j dest).isNone) = false →
      overlapsRedirect u j (rd u .migTensorId) first n = false →
      (65536 < n → exec (.migStart v) s = .next (endMig u .format)) ∧
      (∀ h t, n ≤ 65536 → (readTable r).go u = (t, .ok h) → t.mig = none →
        let m := migAsked t r.id
        let fits := h.first ≤ first ∧ first + n ≤ h.first + h.rows ∧ rd t .redirectUsed ≠ 256
        (n = 0 → exec (.migStart v) s = .next (endMig t .ok)) ∧
        (n ≠ 0 → ¬ fits → exec (.migStart v) s = .next (endMig t .bounds)) ∧
        (n ≠ 0 → fits → dest = devId t → destFits m h.rows h.spare = true → exec (.migStart v) s = .next (fenceMig t m)) ∧
        (n ≠ 0 → fits → dest = devId t → destFits m h.rows h.spare = false → exec (.migStart v) s = .next (endMig t .bounds)) ∧
        (∀ c, n ≠ 0 → fits → dest ≠ devId t → peerRefusal t j dest = none → ctxTo t j dest = some c → exec (.migStart v) s =
          .next (sendReq { wr t .migBusy 0 1 with mig := some { m with phase := .header (nextTag t) } } c
            { ptype := ptRead, vc := jobVc t j false, addr := r.base, aux := 128 } .migHdr)))) ∧
    (∀ m r h t, s.mig = some m → m.phase = .fenced → migTracked s m = false → migTable s m = (t, some (r, h)) →
      let held := (List.range m.count).any (fun i => cutHolds t r (migTag t m.job) (h.slotAddr (m.slot + i)) h.slotBytes)
      (m.dest ≠ devId t → exec .migDrainDone s = .next (migSlot (wr t .migStep 0 4) m r h 0)) ∧
      (m.dest = devId t → held = false → exec .migDrainDone s = .next (migLocal m r h (List.range m.count) (wr t .migStep 0 4))) ∧
      (m.dest = devId t → held = true → rd t .migStep ≠ 4 → exec .migDrainDone s = .next (inc (wr t .migStep 0 4) .mirrorHoldCnt)) ∧
      (m.dest = devId t → held = true → rd t .migStep = 4 → exec .migDrainDone s = .next t)) ∧
    (∀ m k, s.mig = some m → m.phase = .ended .ok → (List.range 256).find? (fun k => rd s .redirectValid k == 0) = some k →
      exec .migCopyDone s = .next (endMig (wrs s [(.redirectFirstRow, k, m.first), (.redirectCountM1, k, m.count - 1), (.redirectValid, k, 1),
        (.redirectDestDevice, k, m.dest), (.redirectDestSlot, k, m.slot), (.redirectJobId, k, m.job), (.redirectTensorId, k, m.tensor),
        (.redirectUsed, 0, rd s .redirectUsed + 1)]) .ok)) ∧
    (∀ m st, s.mig = some m → m.phase = .ended st → st ≠ .ok → exec .migCopyDone s = .next (endMig s st))

/-- R255, R259 to R264, R266, R515, R395: the three forms of the doorbell, whose value v holds the job and the descriptor's REGION_ID; the close; APPLY_SLICE_START, APPLY_SLICE_COMMIT and PARAM_PREFETCH. In the slices' clauses slice n of the run r of job j is elements x onwards of layer y (entry z of the table). -/
def Obligations.ApplyCommands : Prop :=
  (∀ (s : State),
      (∀ v, bits v 15 12 ≠ 0 → exec (.apply v) s = .next (rejectDoorbell s v .format)) ∧
      (∀ v, bits v 15 12 = 0 → jobRunning s (bits v 11 0) = false → exec (.apply v) s = .next (rejectDoorbell s v .permission) ∧
        exec (.openRegions v) s = .next (rejectDoorbell s v .permission) ∧ exec (.closeRegions v) s = .next (rejectDoorbell s v .permission)) ∧
      (∀ v d h t t', bits v 15 12 = 0 → (jobRunning s (bits v 11 0) && s.bound.cores.any (fun c => c.job == bits v 11 0 && partRunning s c.part)) = true →
        s.bound.regions.find? (fun r => r.id == bits v 31 16 && r.role == 7 && r.job == bits v 11 0 && partRunning s r.part) = some d →
        readMem s d.base 64 = (t, .ok h) → cqBound t (fbits h 0x10 2 14 0) (bits v 11 0) 2 = true →
        let n := min (fld h 0xC 2) (min 4096 ((d.size - 0x40) / 32))
        ∀ b, readMem t (d.base + 0x40) (32 * n) = (t', .ok b) →
        let bs := if n = 0 then [] else chunks 32 b
        let c := applyCheck t' (bits v 11 0) d h bs
        let ends := { endApply t' (bits v 11 0) d.id (fbits h 6 2 1 0) (fld h 8 4) (fld h 0xE 2) (fbits h 0x10 2 14 0) c.1 c.2 0 with applyRuns := t'.applyRuns }
        (fbits h 6 2 1 0 = 0 → exec (.apply v) s = .next (if c.1 = .ok then startApply t' (bits v 11 0) d h (bs.map readLayer) else ends)) ∧
        (fbits h 6 2 1 0 = 1 → exec (.openRegions v) s = .next (if c.1 = .ok then startApply t' (bits v 11 0) d h (bs.map readLayer) else ends)) ∧
        (fbits h 6 2 1 0 = 2 → exec (.closeRegions v) s = .next (if c.1 = .ok then startApply t' (bits v 11 0) d h (bs.map readLayer) else ends))) ∧
      (∀ j r, Tbl.find s.applyRuns j = some r → r.mode = 2 → paramReaders s j = false →
        let u := setParams s ((paramRegions s j).map (·.id)) .closed
        exec (.closeReadersDone j) s = .next (endApply (closePair { u with readSteps := Tbl.del u.readSteps j } j) j r.region 2 r.step r.tag r.cq .ok 0 0))) ∧
  (∀ (s : State),
      (∀ l j r i n y x z, Tbl.find s.applyRuns j = some r → nextSlice r l = some (i, n) → sliceAt r.layers n 0 = some (y, x, z) →
        let a := sliceAddrs s r y x
        let c := sliceLen y x
        let free := Nat.land (enginesBusy (coreSt s l) ||| Tbl.getD s.engHold l 0) 6 = 0 ∧ resetting s l = false ∧ unitWaits s .apply = false ∧
          s.cores.any (fun e => (allFlight e.2).any (fun f => f.ranges.any (fun g => overlaps a.1 (2 * c) g.1 g.2.1))) = false
        let stalls := (allFlight (coreSt s l)).any (fun f => conflict (sliceRanges s r y x) f.ranges)
        let cut := ((regionById s y.region).map (fun p => cutHolds s p r.step a.1 (2 * c))).getD false
        (free → stalls = true → r.stalled.contains n = false →
          exec (.applySliceStart l j) s = .next (inc { s with applyRuns := Tbl.set s.applyRuns j { r with stalled := n :: r.stalled } } .hazardStallCnt l)) ∧
        (free → stalls = false → cut = true → r.heldCut.contains n = false →
          exec (.applySliceStart l j) s = .next (inc { s with applyRuns := Tbl.set s.applyRuns j { r with heldCut := n :: r.heldCut } } .mirrorHoldCnt)) ∧
        (free → stalls = false → cut = false → exec (.applySliceStart l j) s = .next { s with
          applyRuns := Tbl.set s.applyRuns j { r with started := Tbl.set r.started i (Tbl.getD r.started i 0 + 1), active := r.active ++ [(i, n)] }
          engHold := Tbl.put s.engHold l (Tbl.getD s.engHold l 0 ||| 6) 0 })) ∧
      (∀ l j r i n y x z p, sliceOn s l = some (j, r, i, n) → unitWaits s .apply = false → sliceAt r.layers n 0 = some (y, x, z) →
        regionById s y.region = some p →
        let c := sliceLen y x
        let a := sliceAddrs s r y x
        (∀ t w, readMem s a.1 (2 * c) = (t, .error w) → exec (.applySliceCommit l) s = .next (sliceFail t l j r i n z .uncorrectable)) ∧
        (∀ t t' w e, readMem s a.1 (2 * c) = (t, .ok w) → readMem t a.2 (2 * c) = (t', .error e) →
          exec (.applySliceCommit l) s = .next (sliceFail t' l j r i n z .uncorrectable)) ∧
        (∀ t t' w d, readMem s a.1 (2 * c) = (t, .ok w) → readMem t a.2 (2 * c) = (t', .ok d) →
          let es := applyElems ((Fmt.ofCode y.fmt).getD .e8m7) y.k (seedOf t' j) p.tensor r.step ((a.1 - p.base) / 2) (halves w) (halves d)
          let u := (writeMem t' a.1 (es.flatMap (fun e => toLE 2 e.code))).1
          let u := inc (inc u .satCnt l (es.map (·.sat)).sum) .vecNanCnt l (es.map (·.nan)).sum
          let u := inc (inc (sliceGone u l) .applySliceCnt l) .applyElemCnt 0 c
          let left := Tbl.getD r.left y.region 0 - 1
          exec (.applySliceCommit l) s = .next (settleApply (if left = 0 then setParam u y.region (.opened (r.step + 1)) else u) j
            { r with active := r.active.filter (· != (i, n)), elems := r.elems + c, left := Tbl.set r.left y.region left }))) ∧
      (∀ l j a b more c, (coreSt s l).c0.queue = a :: b :: more → ctxJob s l 0 = some j → chainOf s l (dChain b.desc) = some c →
        s.bound.pipes.any (fun p => p.job == j && p.prefetch) = true → (!tileWaitOk s l a.desc || startVerdict s l 0 (dOp a.desc) == .heldParam) = true →
        dOp b.desc = opMatmul → dLen b.desc ≠ 0 → ((regionOf s j (aAddr (dSrcB b.desc))).map (fun r => r.role == 4)).getD false = true →
        inCore l (aAddr (dSrcB b.desc)) = false → (dOp a.desc = opSync ∨ dChain a.desc ≠ dChain b.desc) →
        paramVerdicts s (dStep b.desc) (readRanges b.desc (tileRanges s j b.desc .none)) = [] → Tbl.find s.prefs (l * 8 + dChain b.desc) = none →
        let runs := cutRuns c.hbytes (firstBlockB s b.desc)
        let u := inc s .prefetchIssuedCnt l
        (∀ t, readRuns runs u = (t, none) → exec (.paramPrefetch l) s = .next (inc t .prefetchDiscardCnt l)) ∧
        (∀ t d, readRuns runs u = (t, some d) →
          let v := (writeMem t (coreBase l + c.hoff) d).1
          exec (.paramPrefetch l) s = .next { v with prefs := Tbl.set v.prefs (l * 8 + dChain b.desc) ⟨b.seq, runs⟩ })) ∧
      (∀ l, (coreSt s l).c0.queue.length ≤ 1 → exec (.paramPrefetch l) s = .next s))

/-- R277, R278, R282: writeMem is the one way by which commands store. Reads go through memByte, the model's read of one byte. -/
def Obligations.MemoryWrites : Prop :=
  (∀ (s : State) (a : Nat) (d : List Byte) (b : Nat), (b < a ∨ a + d.length ≤ b) → memByte (writeMem s a d).1 b = memByte s b) ∧
  (∀ (s t : State) (a : Nat) (d : List Byte), (a + d.length ≤ 0x8000000000 ∨ 0x8000000000 ≤ a) → writeMem s a d = (t, none) → memBytes t a d.length = d) ∧
  (∀ (s : State) (w a : Nat) (d : List Byte), (markOf s w).err = 2 → d.length ≠ wordBytes w → writeWord s w a d = (recordUe s w 8, false))

/-- R280, R281, R283, R287, R292 to R295: what each command on the memory system does. t is the state once the word or the bytes are read. hbmEvent is what the parts of an HBM stack report beside the read (log entry 55: free). -/
def Obligations.MemoryCommands : Prop :=
  ∀ (s : State),
    (∀ unit, scrubUnit s unit = true →
      let i := Tbl.getD s.scrubPos unit 0
      let u := if unit < 16 then hbmEvent s (scrubAddr s unit i) else s
      let t := (readWord u (scrubAddr u unit i) (if unit < 16 then 4 else 5)).1
      (i + 1 < scrubWords unit → exec (.patrolScrub unit) s = .next { t with scrubPos := Tbl.put t.scrubPos unit (i + 1) 0 }) ∧
      (scrubWords unit ≤ i + 1 → exec (.patrolScrub unit) s = .next (scrubPassed { t with scrubPos := Tbl.put t.scrubPos unit 0 0 } unit))) ∧
    (∀ stack, stack < stackCount s → bit (rd s .stackFailMask) stack = false →
      exec (.stackLost stack) s = .next (deviceLost (wr s .stackFailMask 0 (setBits (rd s .stackFailMask) stack 1 1)))) ∧
    (∀ a n bar2 x, hostPath s bar2 = true → hostAddr s a bar2 = some x →
      (hostServed s x n = true → ∀ t b, readMem s x n 7 = (t, .ok b) → exec (.hdmRead a n bar2) s = .next (emit t (.hostData (some b)))) ∧
      (hostServed s x n = true → ∀ t w, readMem s x n 7 = (t, .error w) → exec (.hdmRead a n bar2) s = .next (emit t (.hostData none))) ∧
      (hostServed s x n = false → exec (.hdmRead a n bar2) s = .next (emit (inc s .hdmDenyCnt) (.hostData (some (zeros n)))))) ∧
    (∀ a d en bar2 x, hostPath s bar2 = true → hostAddr s a bar2 = some x →
      (hostServed s x d.length = true → exec (.hdmWrite a d en false bar2) s = .next (mergeWords x d en (wordsOf x d.length) (dropPrefs s x d.length))) ∧
      (hostServed s x d.length = false → exec (.hdmWrite a d en false bar2) s = .next (inc s .hdmDenyCnt))) ∧
    (∀ word, let u := wr s .injectDouble 0 (bits word 1 1)
      (modeNormal u = false → injectable u (rd u .memInjectAddr) = true → exec (.injectArm word) s = .next (wr u .injectPending 0 1)) ∧
      (modeNormal u = true → exec (.injectArm word) s = .next u)) ∧
    (∀ base size ways skip lock, hdmLocked s 0 = false →
      let u := setDecoder s 0 base size ways skip lock
      (ways = 1 → size ≠ 0 → base % 2 ^ 28 = 0 → size % 2 ^ 28 = 0 → skip + size ≤ hbmBytes u → Tbl.find u.hdm 1 = none →
        exec (.hdmDecoderCommit 0 base size ways skip lock) s =
          .next { u with hdmError := Tbl.del u.hdmError 0, hdm := Tbl.set u.hdm 0 (base, size, skip, lock) }) ∧
      (ways ≠ 1 ∨ size = 0 ∨ base % 2 ^ 28 ≠ 0 ∨ size % 2 ^ 28 ≠ 0 ∨ hbmBytes u < skip + size →
        exec (.hdmDecoderCommit 0 base size ways skip lock) s = .next { u with hdmError := Tbl.set u.hdmError 0 (), hdm := Tbl.del u.hdm 0 }))

/-- R382, whole: a write that carries poison, wherever in the window it falls; one outside every region served to the host is counted in HDM_DENY_CNT as well (R293). -/
def Obligations.PoisonedHostWrites : Prop :=
  ∀ (s : State) (a x : Nat) (d : List Byte) (en : List Bool) (bar2 : Bool), hostPath s bar2 = true → hostAddr s a bar2 = some x →
    ∃ t, exec (.hdmWrite a d en true bar2) s = .next t ∧
      rd t .hdmPoisonWriteCnt = min (rd s .hdmPoisonWriteCnt + 1) (2 ^ 32 - 1) ∧
      (∀ b, memByte t b = memByte s b) ∧ t.marks = s.marks ∧ t.dirty = s.dirty

/-- R300, R304 to R308: the commands on a port. In the third clause u is the state with the partner's identity kept. -/
def Obligations.PortTraining : Prop :=
  ∀ (s : State) (p : Nat),
    (∀ x, linkOf s p = x → fabricOn s = true → portPresent s p = true → x.trying = false → x.attempts < 3 →
      (rd s .portState p = psTraining ∨ (rd s .portState p = psDown ∧ rd s .portReason p = prNone)) →
      exec (.trainingAttempt p) s =
        .next (inc (setPort (setLink s p { x with attempts := x.attempts + 1, trying := true }) p psTraining (rd s .portReason p)) .trainAttemptCnt p)) ∧
    (∀ x, linkOf s p = x → x.trying = true → x.attempts < 3 → let t := setLink s p { x with trying := false }
      exec (.trainingEnd p .noPartner) s = .next (setPort t p psTraining prNoPartner) ∧ exec (.trainingEnd p .noLanes) s = .next (setPort t p psTraining prNoLanes)) ∧
    (∀ x, linkOf s p = x → x.trying = true → 3 ≤ x.attempts → let t := setLink s p { x with trying := false }
      exec (.trainingEnd p .noPartner) s = .next (setPort t p psDown prNoPartner) ∧ exec (.trainingEnd p .noLanes) s = .next (setPort t p psDown prNoLanes) ∧
      (∀ i l, l % 16 = 0 → exec (.trainingEnd p (.linked i l)) s = .next (setPort t p psDown prNoLanes))) ∧
    (∀ x i l, linkOf s p = x → x.trying = true → l % 16 ≠ 0 →
      let u0 := setLink s p { x with trying := false }
      let u := setPartner (emit u0 (.link p 2 (ownIdent u0 p))) p (identBytes i)
      (miscabled u p (identBytes i) = true → exec (.trainingEnd p (.linked i l)) s = .next (setPort u p psDown prMiscabled)) ∧
      (miscabled u p (identBytes i) = false →
        let v := wrs u [(.portWidth, p, (activeLanes (l % 16)).1), (.portLaneMask, p, l % 16), (.portActiveMask, p, (activeLanes (l % 16)).2)]
        let w := setLink v p { linkOf v p with attempts := 0 }
        let z := requeue (setPort w p (trainedState w p) (if trainedState w p = psHeld then prBelowMin else prNone)) p
        exec (.trainingEnd p (.linked i l)) s = .next (drainPort p (byPriority (linkOf z p).queue) [] z))) ∧
    (∀ k, rd s .portReason p = k → fabricOn s = true → portPresent s p = true → rd s .portState p = psDown → k ≠ prNone → k ≠ prMiscabled → k ≠ prDisabled →
      exec (.downPortRetry p) s = .next (inc (setPort (setLink s p { linkOf s p with attempts := 3, trying := true }) p psTraining k) .trainAttemptCnt p)) ∧
    (∀ c, portTrained s p = true → exec (.linkLoss p c) s = .next (inc (dropPort s p psTraining prNone) .retrainCnt p)) ∧
    ((linkOf s p).changes ≠ 0 → exec (.portRecordTimer p) s = .next (portRecord s p (linkOf s p).chgNs (linkOf s p).changes)) ∧
    ((linkOf s p).changes = 0 → exec (.portRecordTimer p) s = .next s)

/-- R302, R303, R306, R311 to R313, R318, R519, R283: what each command on a trained port does. In the flit clauses t is the state with its counters, its trailer's acknowledgement and its request to replay taken. -/
def Obligations.FlitsAndLinkControl : Prop :=
  ∀ (s : State) (p : Nat),
    (portTrained s p = true → ∀ f : Flit,
      let good := f.uncorrectable == 0 && flitCrcOk f
      let u := inc (inc s .fecCorrCnt p f.corrected) .fecUncorrCnt p f.uncorrectable
      let u := if f.uncorrectable = 0 ∧ flitCrcOk f = false then inc u .crcErrCnt p else u
      let u := if (good && flitAckValid f) = true then ackFlits u p (flitAckSeq f) else u
      let t := if (good && flitNak f) = true then replayPort u p else u
      let x := linkOf t p
      let a := setLink t p { x with rxAny := true, rxNext := (x.rxNext + 1) % 1024, discard := false, rxSince := x.rxSince + 1,
                                    resync := x.resync && flitHdr f == 0x7F }
      (good = true → flitIdle f = true → exec (.flitReceive p f) s = .next t) ∧
      (good = true → flitIdle f = false → flitSeq f = x.rxNext → x.rxSince < 15 → exec (.flitReceive p f) s = .next a) ∧
      (good = true → flitIdle f = false → flitSeq f = x.rxNext → 15 ≤ x.rxSince → exec (.flitReceive p f) s = .next (sendFlitAck a p false)) ∧
      (good = false ∨ (flitIdle f = false ∧ flitSeq f ≠ x.rxNext) →
        (x.discard = false → exec (.flitReceive p f) s = .next (sendFlitAck (setLink t p { x with discard := true }) p true)) ∧
        (x.discard = true → exec (.flitReceive p f) s = .next t))) ∧
    (portTrained s p = true → let x := linkOf s p
      (x.unacked = [] → exec (.flitAckTimeout p) s = .next s) ∧
      (x.unacked ≠ [] → (∀ u ∈ x.unacked, u.replays < 8) → exec (.flitAckTimeout p) s =
        .next (inc (emit (setLink s p { x with unacked := x.unacked.map (fun u => { u with replays := u.replays + 1 }) })
          (.flits p (x.unacked.map (flitWire s p)))) .linkReplayCnt p x.unacked.length)) ∧
      ((∃ u ∈ x.unacked, 8 ≤ u.replays) → exec (.flitAckTimeout p) s = .next (inc (dropPort s p psTraining prRetryLimit) .retrainCnt p))) ∧
    (portTrained s p = true → (linkOf s p).rxSince ≠ 0 → exec (.flitAckTimer p) s = .next (sendFlitAck s p false)) ∧
    (portTrained s p = true → (linkOf s p).owed ≠ [] → exec (.creditReturnTimer p) s =
      .next (sendLink (setLink s p { linkOf s p with owed := [] }) p (b2n (rd s .portState p == psHeld)) (creditBytes (linkOf s p)))) ∧
    (portTrained s p = true → (linkOf s p).resync = false → ∀ k : Pkt, k.ptype = ptLinkCtrl → ingressFault k = none →
      (bit k.aux 1 = false → let u := partnerSays (takeCredits s p k.payload) p (bit k.aux 0)
        exec (.linkCtrl p k) s = .next (drainPort p (byPriority (linkOf u p).queue) [] u)) ∧
      (bit k.aux 1 = true → let v := setPartner s p k.payload
        let t := setLink v p { linkOf v p with identSent := false }
        let u := if (linkOf s p).identSent = true then t else sendIdent t p
        (miscabled u p k.payload = true → exec (.ident p k) s = .next (dropPort u p psDown prMiscabled)) ∧
        (miscabled u p k.payload = false → let w := partnerSays u p (bit k.aux 0)
          exec (.ident p k) s = .next (drainPort p (byPriority (linkOf w p).queue) [] w)))) ∧
    (portUp s p = true → (linkOf s p).resync = false → ∀ (k : Pkt) path, k.ptype ≠ 0 → k.ptype ≠ ptLinkCtrl →
      let src := some (p, bufOf k (k.detour && portDim p != k.detourDim), pktCredits k)
      (∀ r, ingressFault k = some (r, false) → exec (.packetTransit p k path) s = .next (oweCredit (inc s r p) src)) ∧
      (∀ r, ingressFault k = some (r, true) →
        exec (.packetTransit p k path) s = .next (setLink (inc s r p) p { linkOf s p with resync := true })) ∧
      (ingressFault k = none →
        let t := inc s .rxPktCnt p
        let u := if path = 1 then inc t .pathCeCnt else if path = 2 then pathUe t k.addr else t
        (path ≠ 2 → routable u = true → exec (.packetTransit p k path) s = .next (answerUnlisted (routePkt u k (some (portDim p, !portMinus p)) src) k)) ∧
        (path ≠ 2 → routable u = false → exec (.packetTransit p k path) s = .next (oweCredit (inc u .rxUnroutableCnt) src)) ∧
        (∀ k', path = 2 → spoilt k = some k' → routable u = true →
          exec (.packetTransit p k path) s = .next (answerUnlisted (routePkt u k' (some (portDim p, !portMinus p)) src) k')) ∧
        (path = 2 → spoilt k = none → exec (.packetTransit p k path) s = .next (oweCredit u src))))

/-- R90, R97, R99, R310, R322, R326, R395, R518: a held probe carries in bit 23 of its AUX, which R310 keeps zero, whether R256 holds it. t is the state once the packet is taken in its sequence on its context. -/
def Obligations.PeerRequests : Prop :=
  ∀ (s t : State) (p : Pkt),
    (p.ptype = ptWrite → p.addr ≠ recoveryWindow → takeRequest s p = (t, true) → inReset t p.addr = false →
      (∀ u, framePage t p = some u → exec (.write p) s = .next (respond u p .ok)) ∧
      (∀ u, framePage t p = none → refillPage t p = some u → exec (.write p) s = .next (respond u p .ok)) ∧
      (framePage t p = none → refillPage t p = none →
        let st := if meetsShadow t p.addr p.payload.length = true then Status.permission else rangeStatus t p.job p.addr p.payload.length
        (st ≠ .ok → exec (.write p) s = .next (respond t p st)) ∧
        (st = .ok → writeHeld t p = true → exec (.write p) s = .next (inc { t with heldWrites := t.heldWrites ++ [p] } .mirrorHoldCnt)) ∧
        (st = .ok → writeHeld t p = false → ∀ u, writeMem t p.addr p.payload = (u, none) → exec (.write p) s = .next (respond u p .ok)) ∧
        (st = .ok → writeHeld t p = false → ∀ u w, writeMem t p.addr p.payload = (u, some w) → exec (.write p) s = .next (respond u p .uncorrectable)))) ∧
    (p.ptype = ptRead → takeRequest s p = (t, true) → inReset t p.addr = false → let n := bits p.aux 12 0
      (rangeStatus t p.job p.addr n = .permission → exec (.read p) s = .next (respond t p .permission)) ∧
      (rangeStatus t p.job p.addr n = .ok → n = 0 ∨ 4096 < n → exec (.read p) s = .next (respond t p .format)) ∧
      (rangeStatus t p.job p.addr n = .bounds → 1 ≤ n → n ≤ 4096 → exec (.read p) s = .next (respond t p .bounds)) ∧
      (rangeStatus t p.job p.addr n = .ok → 1 ≤ n → n ≤ 4096 → ∀ u b, readMem t p.addr n = (u, .ok b) → exec (.read p) s = .next (respond u p .ok b))) ∧
    (p.ptype = ptProbe → takeRequest s p = (t, true) → inReset t p.addr = false →
      exec (.probe p) s = .next (probeAnswer t { p with aux := p.aux % 2 ^ 23 })) ∧
    (∀ q : Pkt, (∀ st b, probeVerdict t q = some (st, b) → probeAnswer t q = respond t q st b) ∧
      (probeVerdict t q = none →
        let param := !bit q.aux 0 && (paramVerdicts t q.step [(q.addr, fld q.payload 0 8, false)]).contains true
        probeAnswer t q = { t with heldProbes := t.heldProbes ++ [if param = true then { q with aux := q.aux % 2 ^ 23 + 2 ^ 23 } else q] })) ∧
    (p.ptype = ptToken → takeRequest s p = (t, true) → inReset t p.addr = false →
      ∀ u st, applySignal t p.job (bits p.aux 14 6) (bits p.aux 5 0) (bits p.addr 15 0) = (u, st) → exec (.token p) s = .next (respond u p st)) ∧
    (p.ptype = ptQpost → takeRequest s p = (t, true) → inReset t p.addr = false → let q := postQueue p.addr
      (inPostWindow p.addr = true → postCheck t p p.payload.length = .ok → queueFull t q = false →
        exec (.qpost p) s = .next (respond (setFifo t q (fifoOf t q ++ [p.payload])) p .ok)) ∧
      (inPostWindow p.addr = true → postCheck t p p.payload.length = .ok → queueFull t q = true → exec (.qpost p) s = .next (respond (inc t .qpostFullCnt) p .bounds)) ∧
      (inPostWindow p.addr = false → exec (.qpost p) s = .next (respond t p .permission)))

/-- R322, R325: rxSeq on every packet, and what RESP, CTX_ACK, CTX_ACK_TIMER and CTX_RETX_TIMEOUT do on a context. d is how far the packet lies ahead of the PSN expected. -/
def Obligations.PacketSequence : Prop :=
  (∀ (s : State) (c : Nat) (p : Pkt), let f := flowOf s c
    let d := psnAhead p.psn f.rxNext
    let a := setFlow (addDigest s false p) c { f with rxNext := (f.rxNext + 1) % 2 ^ 24, rxSince := f.rxSince + 1, nak := false }
    ((rxSeq s c p).2 = true ↔ d = 0) ∧
    (d = 0 → f.rxSince < 31 → rxSeq s c p = (a, true)) ∧ (d = 0 → 31 ≤ f.rxSince → rxSeq s c p = (sendAck a c false, true)) ∧
    (2 ^ 23 ≤ d → rxSeq s c p = (sendAck (inc s .ctxDupDropCnt) c false, false)) ∧
    (1 ≤ d → d < 2 ^ 23 → f.nak = false → rxSeq s c p = (sendAck s c true, false)) ∧ (1 ≤ d → d < 2 ^ 23 → f.nak = true → rxSeq s c p = (s, false))) ∧
  (∀ (s t : State) (p : Pkt), p.ptype = ptResp → bit p.aux 1 = false →
    (ctxMatches s p = false → exec (.resp p) s = .next (inc s .ctxUnknownCnt)) ∧
    (ctxMatches s p = true → rxSeq s p.ctx p = (t, true) →
      (Tbl.find t.tags p.tag = none → exec (.resp p) s = .next (inc t .rspOrphanCnt)) ∧
      (∀ r, Tbl.find t.tags p.tag = some r → r.ctx = p.ctx → r.ctx ≠ mgmtCtx → r.pkt.dst = p.src → r.quar = false →
        (bit p.aux 0 = true → exec (.resp p) s = .next { t with tags := Tbl.set t.tags p.tag { r with data := r.data ++ p.payload } }) ∧
        (bit p.aux 0 = false → exec (.resp p) s = .next (finishReq t p.tag r (Status.ofCode p.status) (r.data ++ p.payload)))))) ∧
  (∀ (s : State) (p : Pkt), p.ptype = ptCtxAck → bit p.aux 1 = false → ctxMatches s p = true →
    let f := flowOf s p.ctx
    let rest := f.unacked.filter (fun u => !psnCovered u.psn p.psn)
    let u := setFlow s p.ctx { f with unacked := rest, misses := if rest.length < f.unacked.length then 0 else f.misses }
    (bit p.aux 0 = false → exec (.ctxAck p) s = .next (drainTx u.txWait.length u)) ∧
    (bit p.aux 0 = true → exec (.ctxAck p) s = .next (resendAll rest (drainTx u.txWait.length u)))) ∧
  (∀ (s : State) (c : Nat), flowOpen s c = true →
    ((flowOf s c).rxSince ≠ 0 → exec (.ctxAckTimer c) s = .next (sendAck s c false)) ∧
    ((flowOf s c).unacked ≠ [] → (flowOf s c).misses < 7 →
      exec (.ctxRetxTimeout c) s = .next (resendAll (flowOf s c).unacked (setFlow s c { flowOf s c with misses := (flowOf s c).misses + 1 }))) ∧
    ((flowOf s c).unacked ≠ [] → 7 ≤ (flowOf s c).misses → isStream c = false → exec (.ctxRetxTimeout c) s = .next (loseCtx s c Status.timeout.code)))

/-- R319 to R321, R323 to R325: the operations on peer contexts, each with its effect. -/
def Obligations.PeerContexts : Prop :=
  ∀ (s : State),
    (∀ v c, let u := wrs s [(.peerOp, 0, 1), (.peerVector, 0, v)]
      let i := rd u .peerOpIndex
      rd u .peerBusy = 0 →
      (∀ st, st ≠ .ok → peerCheck u 1 (rd u .peerOpJob) i (rd u .peerOpDevice) = st → exec (.peerOpen v) s = .next (endPeerOp u st)) ∧
      (peerCheck u 1 (rd u .peerOpJob) i (rd u .peerOpDevice) = .ok → (jobCtxs u (rd u .peerOpJob))[i]? = some c →
        let w := wr u .peerCtxNum 0 c
        let x := wrs { setFlow w c Flow.init with peerOp := .opening c 1 }
          [(.peerBusy, 0, 1), (.ctxState, c, ctxOpening), (.ctxJobId, c, rd u .peerOpJob), (.ctxRemoteDevice, c, rd u .peerOpDevice), (.ctxRemoteCtx, c, 0)]
        exec (.peerOpen v) s = .next (originate x (openPkt x c)))) ∧
    (∀ v c, let u := wrs s [(.peerOp, 0, 2), (.peerVector, 0, v)]
      let w := wr u .peerCtxNum 0 c
      rd u .peerBusy = 0 → peerCheck u 2 (rd u .peerOpJob) (rd u .peerOpIndex) (rd u .peerOpDevice) = .ok → (jobCtxs u (rd u .peerOpJob))[rd u .peerOpIndex]? = some c →
      (rd w .ctxState c = ctxLost → exec (.peerClose v) s = .next (closeLost w c)) ∧
      (rd w .ctxState c ≠ ctxLost → exec (.peerClose v) s = .next (dropProbes (wrs { w with peerOp := .closing c } [(.peerBusy, 0, 1), (.ctxState, c, ctxClosing)]) c))) ∧
    (∀ c n, s.peerOp = .opening c n →
      (∀ p : Pkt, p.ptype = ptCtxOpenAck → rd s .ctxJobId c = p.job → rd s .ctxRemoteDevice c = p.src →
        (p.status = 0 → exec (.ctxOpenAck p) s = .next (endPeerOp (setOpen s c p.job p.src (fld p.payload 0 2)) .ok)) ∧
        (p.status ≠ 0 → exec (.ctxOpenAck p) s = .next (endPeerOp (freeCtx s c p.status) (Status.ofCode p.status)))) ∧
      (n < 3 → exec (.ctxOpenResendTimeout c) s = .next (originate { s with peerOp := .opening c (n + 1) } (openPkt s c))) ∧
      (3 ≤ n → exec (.ctxOpenResendTimeout c) s = .next (endPeerOp (freeCtx s c Status.timeout.code) .timeout))) ∧
    (∀ c, s.peerOp = .closing c → exec (.peerCloseTimeout c) s = .next (loseCtx s c Status.timeout.code) ∧
      (ctxDrained s c = true → exec (.peerCloseDrainDone c) s = .next (endPeerOp (freeCtx (originate s (closePkt s c .ok)) c 0) .ok))) ∧
    (∀ (p : Pkt) c, p.ptype = ptCtxOpen → loadingJob s p.job = false → jobRunning s p.job = true →
      s.bound.devs.any (fun d => d.job == p.job && d.dev == p.src) = true → let cs := jobCtxs s p.job
      cs.find? (fun c => rd s .ctxState c == ctxOpening && rd s .ctxRemoteDevice c == p.src) = none →
      cs.find? (fun c => rd s .ctxState c == ctxOpen && rd s .ctxRemoteDevice c == p.src && rd s .ctxRemoteCtx c == fld p.payload 0 2 % 2 ^ 13) = none →
      cs.find? (fun c => rd s .ctxState c == ctxFree) = some c → cs.filter (fun c => ctxUp s c && rd s .ctxRemoteDevice c == p.src) = [] →
      let x := setOpen s c p.job p.src (fld p.payload 0 2 % 2 ^ 13)
      exec (.ctxOpen p) s = .next (originate x (openAck x p.src p.job c .ok))) ∧
    (∀ p : Pkt, p.ptype = ptCtxOpen → loadingJob s p.job = true → exec (.ctxOpen p) s = .next (originate s (openAck s p.src p.job 0 .aborted))) ∧
    (∀ p : Pkt, p.ptype = ptCtxClose → ctxMatches s p = true →
      (p.status ≠ 0 → exec (.ctxClose p) s = .next (loseCtx s p.ctx p.status)) ∧
      (p.status = 0 → s.peerOp = .none → let x := completeAll .peerLost (reqsOn s p.ctx) (freeCtx (dropProbes s p.ctx) p.ctx 0)
        exec (.ctxClose p) s = .next (drainTx x.txWait.length x))) ∧
    (∀ tag r, Tbl.find s.tags tag = some r → r.quar = true → exec (.tagQuarantineEnd tag) s = .next (releaseTag s tag))

/-- A management command r stands before Pip as q, Pip answers CMD on its route, and its path and class are those the table asks. -/
def servedCommand (s : State) (r q : MgmtReq) (cmd : Nat) (c : MgmtClass) : Prop :=
  mgmtDue s r cmd = some q ∧ mgmtAnswers s q cmd = true ∧ pathOk s q c = true ∧ classOk s q c = true

/-- What is left once command q has been served in t: the sequence number of the secured message it arrived in is taken (R328). -/
def servedResult (q : MgmtReq) (t : State) : State := seqTaken t (routePath q.route) q.session q.seq

/-- R304, R327 to R331, R519: each command of Tables 11.9 and 11.13 where it is served, and where its class or its length is wrong. -/
def Obligations.ManagementCommands : Prop :=
  ∀ (s : State) (r q : MgmtReq),
    (servedCommand s r q 1 .anyone → q.params.length = 0 → exec (.identify r) s = .next (servedResult q (mgmtAnswer s q 1 .ok (identifyBytes s)))) ∧
    (servedCommand s r q 2 .anyone → q.params.length = 0 → exec (.feedQuery r) s = .next (servedResult q (mgmtAnswer s q 2 .ok (toLE 1 (rd s .feedId % 16))))) ∧
    (servedCommand s r q 3 .anyone → exec (.spdm r) s = .next (servedResult q (spdmRaw s (routePath q.route) q.session q.seq q.params))) ∧
    (servedCommand s r q 4 .anyone → q.params.length = 0 → exec (.portReport r) s = .next (servedResult q (mgmtAnswer s q 4 .ok (portReportBytes s)))) ∧
    (servedCommand s r q 0x10 .localOnly → q.params.length = 4 → let d := (List.range 4).map (fun i => fld q.params i 1)
      let m := ((List.range 4).map (fun i => (d.getD i 1 - 1) * 16 ^ i)).sum
      (anyActive s = true → exec (.setTorus r) s = .next (servedResult q (mgmtAnswer s q 0x10 .permission))) ∧
      (anyActive s = false → d.any (fun x => x == 0 || 16 < x) = true → exec (.setTorus r) s = .next (servedResult q (mgmtAnswer s q 0x10 .format))) ∧
      (anyActive s = false → d.any (fun x => x == 0 || 16 < x) = false → ¬ (rd s .torusValid = 1 ∧ rd s .dimSizeM1 = m) → exec (.setTorus r) s =
        .next (servedResult q (mgmtAnswer (sendIdents (wrs s [(.dimSizeM1, 0, m), (.torusValid, 0, 1), (.deviceId, 0, 0), (.idValid, 0, 0), (.coord, 0, 0)])) q 0x10 .ok)))) ∧
    (servedCommand s r q 0x11 .localOnly → q.params.length = 2 → let id := fld q.params 0 2
      (anyActive s = true ∨ rd s .torusValid = 0 → exec (.setId r) s = .next (servedResult q (mgmtAnswer s q 0x11 .permission))) ∧
      (anyActive s = false → rd s .torusValid = 1 → dimSize s 0 * dimSize s 1 * dimSize s 2 * dimSize s 3 ≤ id → exec (.setId r) s = .next (servedResult q (mgmtAnswer s q 0x11 .indexRange))) ∧
      (anyActive s = false → rd s .torusValid = 1 → id < dimSize s 0 * dimSize s 1 * dimSize s 2 * dimSize s 3 → ¬ (rd s .idValid = 1 ∧ devId s = id) → exec (.setId r) s =
        .next (servedResult q (mgmtAnswer (sendIdents (wrs s [(.deviceId, 0, id), (.idValid, 0, 1), (.coord, 0, coordWord s id)])) q 0x11 .ok)))) ∧
    (servedCommand s r q 0x20 .privileged → q.params.length = 16 → fld q.params 0 8 / 2 ^ 56 = 0 → fld q.params 12 4 ≤ 1 →
      (rd s .qimgBusy = 1 → exec (.imageLoad r) s = .next (servedResult q (mgmtAnswer (loadRecord s [] ⟨1, .permission, noOff⟩) q 0x20 .permission (toLE 1 1)))) ∧
      (rd s .qimgBusy ≠ 1 → ready s = true → exec (.imageLoad r) s =
        .next (servedResult q (acceptLoad s (.mgmt q (fld q.params 0 8 / 2 ^ 40) (fld q.params 0 8 % 2 ^ 40)) (fld q.params 8 4) (fld q.params 12 4 == 1))))) ∧
    (servedCommand s r q 0x21 .privileged → q.params.length = 9 → ready s = true → let dom := fld q.params 0 1
      let tgt := fld q.params 1 4
      dom ≤ 4 → (3 ≤ dom → tgt = 0) →
      (resetStatus s dom tgt = .ok → let t := mgmtAnswer s q 0x21 .ok
        exec (.reset r) s = .next (servedResult q (requestReset (stoneWrite t 0x0002 [(1, dom), (4, tgt), (4, fld q.params 5 4),
          (48, ((mgmtSession s q).map (fun x => leNat x.certHash)).getD 0)]) dom tgt 5))) ∧
      (∀ st, st ≠ .ok → resetStatus s dom tgt = st → exec (.reset r) s = .next (servedResult q (mgmtAnswer s q 0x21 st)))) ∧
    (servedCommand s r q 0x22 .privileged → q.params.length = 2 → portPresent s (fld q.params 0 1) = true → let p := fld q.params 0 1
      (fld q.params 1 1 = 1 → exec (.portCtrlRetrain r) s = .next (servedResult q (mgmtAnswer (portRetrain s p) q 0x22 .ok))) ∧
      (fld q.params 1 1 = 2 → exec (.portCtrlDisable r) s = .next (servedResult q (mgmtAnswer (dropPort s p psDown prDisabled) q 0x22 .ok))) ∧
      (fld q.params 1 1 = 3 → exec (.portCtrlEnable r) s = .next (servedResult q (mgmtAnswer (portEnable s p) q 0x22 .ok)))) ∧
    (servedCommand s r q 0x23 .anyone → q.params.length = 12 → let fa := fld q.params 0 8
      let n := fld q.params 8 4
      let served := (fa / 2 ^ 40 == devId s && s.bound.regions.any (fun g => g.role == 8 && g.base ≤ fa % 2 ^ 40 && fa % 2 ^ 40 + n ≤ g.base + g.size &&
        partServes s g.part && s.bound.devs.any (fun d => d.job == g.job && d.dev == requester s q)))
      (served = false → exec (.imageRead r) s = .next (servedResult q (mgmtAnswer s q 0x23 .permission))) ∧
      (served = true → 4096 < n → exec (.imageRead r) s = .next (servedResult q (mgmtAnswer s q 0x23 .format))) ∧
      (∀ t b, served = true → n ≤ 4096 → readMem s (fa % 2 ^ 40) n = (t, .ok b) →
        exec (.imageRead r) s = .next (servedResult q (mgmtAnswer t q 0x23 .ok b))) ∧
      (∀ t e, served = true → n ≤ 4096 → readMem s (fa % 2 ^ 40) n = (t, .error e) →
        exec (.imageRead r) s = .next (servedResult q (mgmtAnswer t q 0x23 .uncorrectable)))) ∧
    (mgmtDue s r 0x11 = some q → mgmtAnswers s q 0x11 = true → (q.params.length ≠ 2 → exec (.setId r) s = .next (servedResult q (mgmtAnswer s q 0x11 .format))) ∧
      (q.params.length = 2 → localRoute q = false → exec (.setId r) s = .next (servedResult q (mgmtReject s q 0x11))))

/-- R325, R327 to R331, R459, R477, R479: the mailbox and the commands of Table 16.13, and the writes of Stone. -/
def Obligations.MailboxAndStone : Prop :=
  ∀ (s : State) (r q : MgmtReq),
    (∀ v, let u := wrs s [(.mboxVector, 0, v), (.mboxBusy, 0, 1)]
      rd s .mboxBusy = 0 →
      (rd u .mboxLocal = 1 → (rd u .mboxCmd ∈ mailboxCmds → exec (.mboxStart v) s = .next u) ∧
        (rd u .mboxCmd ∉ mailboxCmds → exec (.mboxStart v) s = .next (endMbox u Status.format.code []))) ∧
      (rd u .mboxLocal = 0 → exec (.mboxStart v) s = .next (sendReq u mgmtCtx (mgmtPkt u (rd u .mboxDst) (rd u .mboxCmd) 0 false (rd u .mboxSecured == 1) 0
        (mboxBytes u (min 4096 (rd u .mboxLen)))) .mbox))) ∧
    (∀ e, s.tags.find? (fun e => e.2.origin == .mbox && !e.2.quar) = some e → exec .mboxTimeout s = .next (endMbox (quarantine s e.1) Status.timeout.code [])) ∧
    (∀ p : Pkt, p.ptype = ptMgmt → bit p.aux 8 = true →
      (Tbl.find s.tags p.tag = none → exec (.mgmtResponse p) s = .next (inc s .rspOrphanCnt)) ∧
      (∀ t, Tbl.find s.tags p.tag = some t → t.ctx = mgmtCtx → t.quar = false → t.pkt.dst = p.src →
        (t.origin = .mbox → exec (.mgmtResponse p) s = .next (endMbox (releaseTag s p.tag) p.status p.payload)) ∧
        (∀ off n, t.origin = .imgRead off n → exec (.mgmtResponse p) s = .next (imageReadAnswer (releaseTag s p.tag) off (Status.ofCode p.status) p.payload)))) ∧
    (∀ n, exec (.mgmtSessionIdleTimeout n) s = .next (endSession s n)) ∧
    (∀ tag t off n, Tbl.find s.tags tag = some t → t.origin = .imgRead off n → t.quar = false →
      (n < 2 → exec (.imageReadTimeout tag) s =
        .next (originate { s with tags := Tbl.set s.tags tag { t with origin := .imgRead off (n + 1) } } { t.pkt with tag := tag })) ∧
      (2 ≤ n → ∀ x, s.load = some x → exec (.imageReadTimeout tag) s = .next (sourceFailed (quarantine s tag) x))) ∧
    (servedCommand s r q 0x80 .stone → q.params.length = 0 → exec (.stoneInfo r) s = .next (servedResult q (mgmtAnswer s q 0x80 .ok (stoneInfoBytes s)))) ∧
    (servedCommand s r q 0x81 .stone → q.params.length = 2 → exec (.stoneRead r) s = .next (servedResult q (mgmtAnswer s q 0x81 .ok (stoneAt s (fld q.params 0 2))))) ∧
    (servedCommand s r q 0x82 .recovery → 5 ≤ q.params.length → q.params.length ≤ 4100 → let off := fld q.params 0 4
      (off + (q.params.length - 4) ≤ slotBytes → exec (.recoveryWrite r) s = .next (servedResult q (mgmtAnswer { s with flash := putFlash s.flash off (q.params.drop 4) } q 0x82 .ok))) ∧
      (slotBytes < off + (q.params.length - 4) → exec (.recoveryWrite r) s = .next (servedResult q (mgmtAnswer s q 0x82 .bounds)))) ∧
    (servedCommand s r q 0x83 .recovery → q.params.length = 0 →
      (slotValid s 0 = true → let t := mgmtAnswer (setPreferred s 0) q 0x83 .ok
        exec (.recoveryCommit r) s = .next (servedResult q (startBoot (wrs t [(.romRecovery, 0, 0), (.bringupFailStatus, 0, 0)])))) ∧
      (slotValid s 0 = false → exec (.recoveryCommit r) s = .next (servedResult q (mgmtAnswer s q 0x83 .checkMismatch))))

/-- R337 to R339, R347, R348, R350: the commands of the reduction at this rank. -/
def Obligations.ReductionPosts : Prop :=
  ∀ (s : State),
    (∀ l, 16 ≤ redFifoUsed s l → exec (.redPost l) s = .next (inc s .redPostDropCnt l)) ∧
    (∀ l j, redFifoUsed s l < 16 → ctxJob s l 0 = some j → resetting s l = false → let d := redDescOf s l
      (postPermission s j d = false → ¬ ((rKind d = 4 ∨ rKind d = 5) ∧ modeNormal s = true) → exec (.redPost l) s = .next (failPosted s l j d .permission)) ∧
      (postPermission s j d = false → (rKind d = 4 ∨ rKind d = 5) → modeNormal s = true →
        exec (.redPost l) s = .next (failPosted (inc s .redMaintRejectCnt) l j d .permission)) ∧
      (postPermission s j d = true → postFormat s j d = true → postBounds s j d = false → exec (.redPost l) s = .next (failPosted s l j d .bounds)) ∧
      (postPermission s j d = true → postFormat s j d = false → exec (.redPost l) s = .next (failPosted s l j d .format)) ∧
      (postPermission s j d = true → postFormat s j d = true → postBounds s j d = true → exec (.redPost l) s = .next (acceptPost s l j d))) ∧
    (∀ c p rest, Tbl.getD s.redPosts c [] = p :: rest → unitWaits s (.reducer c) = false → let d := p.desc
      let w := fmtBytes (rFmt d)
      (∀ t x, readMem s (rSrc d + p.next * chunkElems (rKind d) * w) (elemsOf d p.next * w) = (t, .error x) → exec (.redLeafRead c) s = .next (failSeg t p.key .uncorrectable none)) ∧
      (∀ t b, readMem s (rSrc d + p.next * chunkElems (rKind d) * w) (elemsOf d p.next * w) = (t, .ok b) →
        let last := p.next + 1 == chunkCount d
        let u := { t with redPosts := Tbl.put t.redPosts c (if last then rest else { p with next := p.next + 1 } :: rest) [] }
        let q := ((segTree u p.key).bind (fun t => t.rankOf (devId u))).getD 0
        let q := ((segTree u p.key).bind (fun t => t.backs (devId u))).getD q
        let r := joinOut ((chunks w b).map (fun e => leafElem (rKind d) (rFmt d) q (leNat e)))
        let v := countRed u r
        (((jobOf v p.key.job).map (·.rankCount)).getD 1 ≤ 1 → exec (.redLeafRead c) s = .next (takeResult v p.key p.next r.data last)) ∧
        (1 < ((jobOf v p.key.job).map (·.rankCount)).getD 1 → ∀ tr, segTree u p.key = some tr →
          exec (.redLeafRead c) s = .next (offerLeaf v tr p.key p.next (rKind d) last r.data)))) ∧
    (∀ i x, s.redSegs[i]? = some x → x.post.isSome = true → x.ended = none →
      let unread := s.redPosts.any (fun e => e.2.any (fun p => p.key == x.key))
      (unread = true → exec (.redWaitTimeout i true) s = .next (failSeg s x.key .timeout none)) ∧
      (unread = false → exec (.redWaitTimeout i true) s = .next (completeSeg s x.key .timeout))) ∧
    (∀ i c t acc kid ks, s.redChunks[i]? = some c → segTree s c.key = some t → c.acc = some acc → c.kids = kid :: ks →
      (c.parts.any (fun p => p.child == kid) = false →
        exec (.redWaitTimeout i false) s = .next (nodeFail (reportSuspect s c.key.job (t.dev kid) 4 c.key.step) c .timeout)) ∧
      (c.parts.any (fun p => p.child == kid) = true → exec (.redWaitTimeout i false) s = .next s) ∧
      (t.backupTimeout ≠ 0 → exec (.backupTimeout i) s = .next (advanceNode t 33 { c with expired := true } s))) ∧
    (∀ w, let u := wrs s [(.epochSwJob, 0, bits w 11 0), (.epochSwNew, 0, bits w 23 16)]
      let j := rd u .epochSwJob
      let e := rd u .epochSwNew
      let d := (e + 256 - epochOf u j) % 256
      (slotOf u j = none → exec (.epochSwStart w) s = .next (wr u .epochSwStatus 0 Status.permission.code)) ∧
      (∀ n, slotOf u j = some n → redOutstanding u j = false → u.redChunks.any (fun c => c.key.job == j) = false →
        u.redSegs.any (fun x => x.key.job == j && x.heldRes != []) = false →
        (d = 0 ∨ 127 < d → exec (.epochSwStart w) s = .next (wr u .epochSwStatus 0 Status.format.code)) ∧
        (1 ≤ d → d ≤ 127 → treeOfEpoch u j e = none → exec (.epochSwStart w) s = .next (wr u .epochSwStatus 0 Status.indexRange.code)) ∧
        (1 ≤ d → d ≤ 127 → treeOfEpoch u j e ≠ none → exec (.epochSwStart w) s = .next (wrs u [(.jobEpoch, n, e), (.epochSwStatus, 0, 0)]))))

/-- R336, R341, R343, R344, R351, R353: what a stream packet does once it is taken, and what the fence does with those that are not of the epoch. t is the state once its PSN is accepted. -/
def Obligations.ReductionPackets : Prop :=
  ∀ (s t : State) (p : Pkt),
    (p.ptype = ptRed → takeStream s p (some (redKey p)) true = (t, true) → exec (.red p) s = .next (redIn t p)) ∧
    (p.ptype = ptRed → takeStream s p (some (redKey p)) true = (t, false) → exec (.red p) s = .next t) ∧
    (p.ptype = ptRedCtrl → fld p.payload 0 1 = 1 → takeStream s p (some (ctrlKey p)) true = (t, true) →
      exec (.fail p) s = .next (failSeg t (ctrlKey p) (Status.ofCode (fld p.payload 1 1)) (some p.src) (some (fld p.payload 4 4)))) ∧
    (p.ptype = ptRedCtrl → fld p.payload 0 1 = 2 → takeStream s p none false = (t, true) →
      exec (.nack p) s = .next (failSeg t { ctrlKey p with epoch := epochOf t p.job } .epochStale none)) ∧
    (p.ptype = ptRedCtrl → fld p.payload 0 1 = 3 → takeStream s p none true = (t, true) → exec (.marker p) s = .next (markerIn t p)) ∧
    (loadingJob s p.job = false → (slotOf s p.job).isSome = true →
      flowOpen s (streamId p.src p.job p.epoch) = true → rxSeq s (streamId p.src p.job p.epoch) p = (t, true) → ∀ k : SegKey,
      (fenceOf t p.job p.epoch = .current → takeStream s p (some k) true = (t, true)) ∧
      (fenceOf t p.job p.epoch = .ahead → takeStream s p (some k) true = (inc t .redEpochAheadCnt, false)) ∧
      (fenceOf t p.job p.epoch = .stale → (p.src, k) ∈ t.redNacks → takeStream s p (some k) true = (inc t .redEpochStaleCnt, false)) ∧
      (fenceOf t p.job p.epoch = .stale → (p.src, k) ∉ t.redNacks → let u := inc t .redEpochStaleCnt
        takeStream s p (some k) true = (sendCtrl { u with redNacks := u.redNacks ++ [(p.src, k)] } p.src p.job p.step 2 .epochStale k.seg 0 0, false)) ∧
      takeStream s p none false = (t, true))

/-- R356, R357: SUSPECT and the commands on an entry. In the first clause t is the state after what the device itself does on the report. -/
def Obligations.SuspectTable : Prop :=
  ∀ (s : State),
    (∀ p : Pkt, p.ptype = ptSuspect → let dev := fld p.payload 0 2
      let reason := fld p.payload 2 1
      let t := onSuspect s p.job dev reason
      let own := (List.range 256).find? (fun e => rd t .susValid e == 1 && rd t .susJobId e == p.job && rd t .susDevice e == dev)
      let free := (List.range 256).find? (fun e => rd t .susValid e == 0)
      (∀ e, own = some e → exec (.suspect p) s =
        .next { wrs (inc t .susCount e) [(.susLast, e, p.src), (.susReasons, e, if bit (rd t .susReasons e) (reason % 8) then rd t .susReasons e else rd t .susReasons e + 2 ^ (reason % 8))] with
          suspLast := Tbl.set (wrs (inc t .susCount e) [(.susLast, e, p.src), (.susReasons, e, if bit (rd t .susReasons e) (reason % 8) then rd t .susReasons e else rd t .susReasons e + 2 ^ (reason % 8))]).suspLast e
            (wrs (inc t .susCount e) [(.susLast, e, p.src), (.susReasons, e, if bit (rd t .susReasons e) (reason % 8) then rd t .susReasons e else rd t .susReasons e + 2 ^ (reason % 8))]).localNs }) ∧
      (own = none → free = none → (inc t .suspectTableFullCnt).suspFull = true → exec (.suspect p) s = .next (inc t .suspectTableFullCnt)) ∧
      (own = none → ∀ e, free = some e → exec (.suspect p) s =
        .next { wrs t [(.susDevice, e, dev), (.susJobId, e, p.job), (.susValid, e, 1), (.susEvented, e, 0), (.susCount, e, 1), (.susFirst, e, p.src),
            (.susLast, e, p.src), (.susReasons, e, 2 ^ (reason % 8)), (.susFirstNs, e, nowNs t)] with suspLast := Tbl.set t.suspLast e t.localNs, suspFull := false })) ∧
    (∀ e, rd s .susValid e = 1 → rd s .susEvented e = 0 →
      let t := postEvent s 0x0006 0 (rd s .susJobId e) (rd s .susDevice e) (rd s .susCount e + rd s .susReasons e * 2 ^ 32) (rd s .susFirst e + rd s .susLast e * 2 ^ 16)
      exec (.suspectEntryTimer e) s = .next (wr (stoneWrite t 0x0013 [(2, rd t .susDevice e), (2, rd t .susJobId e), (4, rd t .susCount e), (2, rd t .susFirst e),
        (2, rd t .susLast e), (1, rd t .susReasons e), (8, rd t .susFirstNs e)]) .susEvented e 1)) ∧
    (∀ e, rd s .susValid e = 1 → rd s .susEvented e = 1 → exec (.suspectEntryTimer e) s = .next s ∧ exec (.suspectEntryExpiry e) s = .next (freeSuspect s e)) ∧
    (∀ e, rd s .susValid e = 1 → exec (.susValidClear e) s = .next (freeSuspect s e))

/-- R370 to R376, R385, R386: the commands on a host queue q. b is its binding; neverFetched is the case of R372 of a queue that context 1 does not fetch. -/
def Obligations.HostQueues : Prop :=
  ∀ (s : State) (q : Nat),
    (∀ b, liveQueue s q = some b → b.kind ≠ 3 → b.kind ≠ 4 → rd s .qEnable q ≠ 1 → let a := rd s .qRingAddr q
      (a % (entryBytes b.kind * queueDepth s q) = 0 → a % 4096 = 0 →
        exec (.queueEnable q) s = .next (wrs s [(.qEnable, q, 1), (.qError, q, 0), (.qDevIndex, q, 0), (.qHostIndex, q, 0), (.qDevPhase, q, 1)])) ∧
      (a % (entryBytes b.kind * queueDepth s q) ≠ 0 ∨ a % 4096 ≠ 0 → exec (.queueEnable q) s = .next (wr s .qErrStatus q Status.format.code))) ∧
    (liveQueue s q = none → s.bound.queues.any (fun b => b.id == q && (b.kind == 3 || b.kind == 4)) = false →
      exec (.queueEnable q) s = .next (wr s .qErrStatus q Status.format.code)) ∧
    (rd s .qEnable q = 0 → exec (.queueDisable q) s = .next s) ∧
    (rd s .qEnable q ≠ 0 → let mine := s.heldRecs.filter (fun h => h.queue == q)
      let t := mine.foldl (fun s h => giveSig s h.sig)
        { inc (wr s .qEnable q 0) .cqDropCnt 0 mine.length with heldRecs := s.heldRecs.filter (fun h => h.queue != q) }
      exec (.queueDisable q) s = .next (releaseCtx1 q (t.cores.map (·.1)) t)) ∧
    (∀ v b, liveQueue s q = some b →
      ((b.kind = 1 ∧ neverFetched s b = false) ∨ b.kind = 5 → rd s .qEnable q ≠ 0 → v < 2 ^ 15 → v < queueDepth s q →
        exec (.submissionDoorbell q v) s = .next (wr s .qHostIndex q v)) ∧
      (b.kind = 2 → rd s .qEnable q ≠ 0 → v < 2 ^ 15 → v < queueDepth s q → let t := wr s .qHostIndex q v
        let u := drainRecs q t.heldRecs.length t
        exec (.completionDoorbell q v) s = .next (releaseCtx1 q (u.cores.map (·.1)) u)) ∧
      (rd s .qEnable q = 0 ∨ queueDepth s q ≤ v → exec (.submissionDoorbell q v) s = .next (wrs (inc s .dbInvalidCnt) [(.lastBadDbQueue, 0, q), (.lastBadDbValue, 0, v)]) ∧
        exec (.completionDoorbell q v) s = .next (wrs (inc s .dbInvalidCnt) [(.lastBadDbQueue, 0, q), (.lastBadDbValue, 0, v)]))) ∧
    (∀ b, fetchDue s q = some b → let t := wr s .qDevIndex q ((rd s .qDevIndex q + 1) % queueDepth s q)
      (∀ d, b.kind = 5 → exec (.ringFetch q (.entry d)) s = .next (setFifo t q (fifoOf t q ++ [fit d 64]))) ∧
      (∀ d, b.kind ≠ 5 → exec (.ringFetch q (.entry d)) s = .next (issueTile t b.owner 1 (fit d 64))) ∧
      exec (.ringFetch q .error) s = .next (fetchFailed s q .uncorrectable) ∧
      exec (.ringFetch q .poison) s = .next (fetchFailed (aer s 12) q .uncorrectable) ∧
      exec (.completionTimeout (.ring q)) s = .next (fetchFailed (aer s 14) q .timeout)) ∧
    (∀ x, s.load = some x → x.who = .host → x.step = 2 ∨ x.step = 6 → exec (.completionTimeout .source) s = .next (sourceFailed (aer s 14) x))

/-- R365, R366, R374, R378, R381, R384, R386, R389: the remaining commands of the host interface. That DOE_ABORT changes nothing is the model's reading (log entry 29). -/
def Obligations.EventsAndLink : Prop :=
  ∀ (s : State),
    (∀ v, (Tbl.find s.holdoff v = some false → exec (.intHoldoffExpiry v) s = .next { s with holdoff := Tbl.del s.holdoff v }) ∧
      (Tbl.find s.holdoff v = some true → let t := sendMsi s v
        (rd t .intHoldoff ≠ 0 → exec (.intHoldoffExpiry v) s = .next { t with holdoff := Tbl.set t.holdoff v false }) ∧
        (rd t .intHoldoff = 0 → exec (.intHoldoffExpiry v) s = .next { t with holdoff := Tbl.del t.holdoff v }))) ∧
    (∀ w, rd s .evqEnable = 0 → 6 ≤ bits w 7 4 → let t := wr (wr s .evqVector 0 (bits w 18 8)) .evqLog2 0 (bits w 7 4)
      (rd t .evqAddr % (32 * 2 ^ rd t .evqLog2) = 0 → rd t .evqAddr % 4096 = 0 → (wrs t [(.evqEnable, 0, 1), (.evqTail, 0, 0), (.evqHead, 0, 0), (.evqPhase, 0, 1)]).evqReport = false →
        exec (.evqEnable w) s = .next (wrs t [(.evqEnable, 0, 1), (.evqTail, 0, 0), (.evqHead, 0, 0), (.evqPhase, 0, 1)])) ∧
      (rd t .evqAddr % (32 * 2 ^ rd t .evqLog2) ≠ 0 → exec (.evqEnable w) s = .next t)) ∧
    (∀ v, (v < 2 ^ rd s .evqLog2 → exec (.evqHeadWrite v) s = .next (wr s .evqHead 0 v)) ∧
      (2 ^ rd s .evqLog2 ≤ v → exec (.evqHeadWrite v) s = .next (inc s .dbInvalidCnt))) ∧
    (∀ cxl w sp, w = 4 ∨ w = 8 ∨ w = 16 → (if cxl then 3 else 1) ≤ sp → sp ≤ 5 → s.perstN = true → s.pwrGood = true → s.devReset = none → 6 ≤ rd s .bringupStage →
      ¬ (rd s .linkWidth = w ∧ rd s .linkSpeed = sp ∧ rd s .cxlMode = b2n cxl) →
      let u := if rd s .linkWidth = 0 then { s with cfg := { s.cfg with msixEnable := true, msixMask := false } } else s
      let t := stoneWrite (wrs u [(.cxlMode, 0, b2n cxl), (.linkWidth, 0, w), (.linkSpeed, 0, sp)]) 0x0010 [(2, w + sp * 32 + b2n cxl * 512)]
      exec (.cxlLinkUp cxl w sp) s = .next (if w = 16 ∧ sp = 5 ∧ cxl = true then t else postEvent t 0x000C 0 0 (devId t) (w + sp * 32 + b2n cxl * 512) 0)) ∧
    (∀ i b, pipRuns s = true → rd s .linkWidth ≠ 0 → b.length ≤ 4096 → 8 ≤ b.length → (doeTypes i).contains (fld b 0 2, fld b 2 1) = true →
      (fld b 0 2 = 1 → fld b 2 1 = 0 → exec (.doeRequest i b) s = .next (emit s (.object i (doeDiscovery i (fld b 8 1))))) ∧
      (fld b 0 2 = 1 → fld b 2 1 = 1 → exec (.doeRequest i b) s = .next (spdmRaw s .doe none 0 (b.drop 8))) ∧
      (fld b 0 2 = 1 → fld b 2 1 ≠ 0 → fld b 2 1 ≠ 1 → exec (.doeRequest i b) s =
        .next (seqTaken (spdmRaw s .doe (some (fld b 8 4)) (fld b 12 8) (b.drop 20)) .doe (some (fld b 8 4)) (fld b 12 8))) ∧
      (fld b 0 2 ≠ 1 → exec (.doeRequest i b) s = .next (emit s (.object i (cdatRead s (fld b 10 2)))))) ∧
    (∀ i, exec (.doeAbort i) s = .next s)

/-- A record p is taken in as t, and its 32 bytes obey the tables for its kind. -/
def takenRecord (s t : State) (p : Pkt) (kind : Nat) : Prop := takeRecord s p = (t, true) ∧ recordOk p kind = true

/-- R396, R399, R400, R404, R424, R425: CUT and the records of a mirror. t is the state once the record is taken. -/
def Obligations.CutsAndFrames : Prop :=
  ∀ (s t : State) (n : Nat),
    (∀ j u, slotJob s n = some j → (pairOf s n).next = some u →
      (cutReady s n j.id u = true → zestHolds s n j.id u = false → exec (.cut n) s = .next (retryWrites (takeCut s n j.id u))) ∧
      (cutReady s n j.id u = true → zestHolds s n j.id u = true → (pairOf s n).zestHeld = false →
        exec (.cut n) s = .next (retryWrites (setPair (inc s .zestHoldCnt) n { pairOf s n with zestHeld := true }))) ∧
      ((cutReady s n j.id u = false ∨ (zestHolds s n j.id u = true ∧ (pairOf s n).zestHeld = true)) → exec (.cut n) s = .next (retryWrites s))) ∧
    (∀ p, takenRecord s t p 6 → partnerSlot t p = some n → rd t .pairState n ≠ 4 → rd t .pairState n ≠ 5 → let b := p.payload
      exec (.frameBegin p) s = .next (answerRecord (setPair t n { pairOf t n with rx := some ⟨fld b 8 4, fld b 4 4, fld b 16 4, [], false⟩ }) p .ok)) ∧
    (∀ p x, takenRecord s t p 7 → partnerSlot t p = some n → (pairOf t n).rx = some x → x.refill = false → let b := p.payload
      let u := setPair t n { pairOf t n with rx := none }
      let crc := crc64 (x.got.flatMap (fun q => crcPage q.2 (memBytes u (rxAddr p.job x u q) 4096)))
      let v := answerRecord u p .ok
      (fld b 16 4 = x.got.length → x.count = x.got.length → x.mseq = fld b 8 4 → crc = fld b 24 8 → exec (.frameEnd p) s =
        .next (sendRecord (wrs v [(.shadowMseq, n, x.mseq), (.shadowStep, n, x.step)]) n p.job p.src 8 0 (fld b 4 4) (fld b 8 4) 0 0)) ∧
      (crc ≠ fld b 24 8 → exec (.frameEnd p) s = .next (sendRecord v n p.job p.src 8 Status.checkMismatch.code (fld b 4 4) (fld b 8 4) 0 0))) ∧
    (∀ p f, takenRecord s t p 8 → partnerSlot t p = some n → let v := answerRecord t p .ok
      (pairOf v n).frame = some f → fld p.payload 8 4 = f.mseq →
      (fld p.payload 1 1 = 0 → (pairOf v n).closing = false → let w := wr (setPair v n { pairOf v n with frame := none, pages := [], closing := false }) .mirrorStep n f.step
        exec (.frameAck p) s = .next (retryWrites (if f.full then wr w .pairState n 3 else w))) ∧
      (fld p.payload 1 1 = 0 → (pairOf v n).closing = true → let w := wr (setPair v n { pairOf v n with frame := none, pages := [], closing := false }) .mirrorStep n f.step
        exec (.frameAck p) s = .next (retryWrites (wr w .pairState n 1))) ∧
      (fld p.payload 1 1 ≠ 0 → f.refused < 2 → rd v .mirrorFrozen n = 1 → exec (.frameAck p) s = .next (dropFrame v n)) ∧
      (fld p.payload 1 1 ≠ 0 → f.refused < 2 → rd v .mirrorFrozen n ≠ 1 → let g := { f with refused := f.refused + 1 }
        exec (.frameAck p) s = .next (transmitFrame (inc (setPair v n { pairOf v n with frame := some g }) .mirrorResendCnt) n p.job g)) ∧
      (fld p.payload 1 1 ≠ 0 → 2 ≤ f.refused → exec (.frameAck p) s = .next (partnerLost v n .checkMismatch))) ∧
    (∀ p, takenRecord s t p 9 → exec (.heartbeat p) s = .next (answerRecord t p .ok)) ∧
    (∀ p, takeRecord s p = (t, true) → recordOk p 9 = false → exec (.heartbeat p) s = .next (answerRecord t p .format)) ∧
    (∀ j, slotJob s n = some j → j.cherry = true →
      (1 ≤ rd s .pairState n → rd s .pairState n ≤ 3 → exec (.heartbeatTimer n) s = .next (sendRecord s n j.id (rd s .pairPartner n) 9 0 0 0 0 0)) ∧
      (rd s .pairState n ≠ 0 → rd s .pairState n ≠ 4 → rd s .pairState n ≠ 5 → (pairOf s n).rx = none →
        let dev := rd s .pairPartner n
        let a := wrs (setPair s n { pairOf s n with frame := none, pages := [], rx := none, lost := some dev, rebound := false, closing := false })
          [(.pairState, n, 4), (.pairLossStatus, n, Status.timeout.code)]
        let b := reportSuspect a j.id dev 6 (rd a .lastCut n)
        let c := postEvent b 0x0100 Status.timeout.code j.id dev (rd b .shadowStep n) (rd b .lastCut n)
        exec (.partnerSilenceTimeout n) s =
          .next (retryWrites (stoneWrite c 0x0015 [(2, j.id), (2, dev), (1, Status.timeout.code), (4, rd c .shadowStep n), (4, rd c .lastCut n)]))) ∧
      (rd s .pairState n = 5 → exec (.partnerSilenceTimeout n) s = .next (endRefill s n j.id .timeout)))

/-- R405 to R408, R413, R414, R421 to R425: the recovery commands on slot n and the records of a refill. t is the state once the record is taken. -/
def Obligations.RebindRefillAndZest : Prop :=
  ∀ (s t : State) (n : Nat),
    (slotJob s n = none → exec (.rebind n) s = .next s ∧ exec (.refillStart n) s = .next s) ∧
    (∀ j, slotJob s n = some j → (pairOf s n).feedQuery = true → exec (.rebind n) s = .next s) ∧
    (∀ j, slotJob s n = some j → (pairOf s n).feedQuery = false → let dev := rd s .rebindDevice n
      (j.cherry = false ∨ rd s .pairState n ≠ 4 → exec (.rebind n) s = .next (endRebind s n .permission)) ∧
      (j.cherry = true → Tbl.find s.readSteps j.id = none → rd s .pairState n = 4 → s.bound.devs.any (fun d => d.job == j.id && d.dev == dev) = true → peerRefusal s j.id dev = none →
        (dev = devId s ∨ some dev = (pairOf s n).lost → exec (.rebind n) s = .next (endRebind s n .format)) ∧
        (dev ≠ devId s → some dev ≠ (pairOf s n).lost → exec (.rebind n) s =
          .next (sendReq (setPair s n { pairOf s n with feedQuery := true }) mgmtCtx (mgmtPkt s dev 2 0 false false 0 []) (.feed n))))) ∧
    ((pairOf s n).feedQuery = true → exec (.rebindFeedQueryTimeout n) s = .next (endRebind (dropFeed s n) n .peerLost)) ∧
    ((pairOf s n).feedQuery = false → exec (.rebindFeedQueryTimeout n) s = .next s) ∧
    (∀ j, slotJob s n = some j → (pairOf s n).rebound = true → rd s .pairState n = 4 → rd s .refillQueued n ≠ 1 → j.monitor = devId s →
      exec (.refillStart n) s = .next (sendRecord (wr s .refillQueued n 1) n j.id j.monitor 3 0 (rd s .shadowStep n)
        (refillArg (devId s) (rd s .pairPartner n) ((pairOf s n).lost.getD 0)) 0 0)) ∧
    (∀ p, takenRecord s t p 3 → let b := p.payload
      ((t.refills.filter (fun r => r.job == p.job)).length < 16 → let u := answerRecord t p .ok
        exec (.refillReq p) s = .next (grantNext { u with refills := u.refills ++ [⟨p.job, fld b 8 2, fld b 10 2, fld b 12 2, false⟩] } p.job)) ∧
      (16 ≤ (t.refills.filter (fun r => r.job == p.job)).length → exec (.refillReq p) s = .next (answerRecord t p .bounds))) ∧
    (∀ p, takenRecord s t p 4 → let u := answerRecord t p .ok
      slotOf u p.job = some n → rd u .refillQueued n ≠ 0 → let v := wrs u [(.refillQueued, n, 0), (.refillBusy, n, 1), (.pairState, n, 5)]
      peerRefusal v p.job (rd v .pairPartner n) = none →
      let f : FrameTx := ⟨0, rd v .shadowStep n, (mirrorRegions v p.job).flatMap allPages, 0, true⟩
      exec (.refillGrant p) s = .next (transmitRefill (setPair v n { pairOf v n with refill := some f }) n p.job f)) ∧
    (∀ p f, takenRecord s t p 8 → partnerSlot t p = some n → let u := answerRecord t p .ok
      (pairOf u n).refill = some f →
      (Status.ofCode (fld p.payload 1 1) = .ok → exec (.refillComplete p) s = .next (endRefill (wr (clearTags u p.job) .shadowMseq n 0) n p.job .ok)) ∧
      (Status.ofCode (fld p.payload 1 1) = .checkMismatch → 2 ≤ f.refused → exec (.refillComplete p) s = .next (endRefill u n p.job .checkMismatch))) ∧
    (∀ p, takenRecord s t p 5 → let v := answerRecord t p .ok
      let u := if fld p.payload 1 1 = 0 then { v with soleCopies := Tbl.del v.soleCopies (p.job * 65536 + fld p.payload 8 2) } else v
      exec (.refillDone p) s = .next (grantNext { u with refills := u.refills.filter (fun r => !(r.job == p.job && r.survivor == fld p.payload 8 2)) } p.job)) ∧
    (∀ step, rd s .ckptUnacked n = 1 → (rd s .lastCkptStep n = step → exec (.ckptAck n step) s = .next (wr s .ckptUnacked n 0)) ∧
      (rd s .lastCkptStep n ≠ step → exec (.ckptAck n step) s = .next s)) ∧
    (∀ j, slotJob s n = some j → (Tbl.find s.readSteps j.id = none → exec (.replayArm n) s = .next (setMode (wr s .replayArmed n 1) 3)) ∧
      (Tbl.find s.readSteps j.id ≠ none → exec (.replayArm n) s = .next s)) ∧
    (∀ p, takenRecord s t p 1 → exec (.zestReport p) s = .next (Machine.zestReport t p p.payload)) ∧
    (∀ p, takenRecord s t p 2 → let u := answerRecord t p .ok
      slotOf u p.job = some n → let st := fld p.payload 1 1
      let due := (pairOf u n).zestDue.filter (· != fld p.payload 4 4)
      let v := setPair (wrs u [(.zestVerdictPending, n, b2n (!due.isEmpty)), (.zestStatus, n, st)]) n { pairOf u n with zestHeld := false, zestDue := due }
      exec (.zestVerdict p) s = .next (if st = 0 then v else lockApply v p.job)) ∧
    (∀ j v more, slotJob s n = some j → (pairOf s n).zestHeld = true → (pairOf s n).zestDue = v :: more →
      exec (.zestHoldTimeout n) s = .next (postEvent s 0x010B Status.timeout.code j.id (devId s) v 0))

/-- R387, R388, R429, R440 to R444, R448, R450: every command that asks for a reset, and the pins. u is the state once a load that a partition's reset interrupts has ended. -/
def Obligations.ResetsBegin : Prop :=
  ∀ (s : State),
    (∀ tgt r, (resetStatus s 0 tgt = .ok → let o : ResetOp := ⟨0, tgt, r, 1, s.localNs, 0⟩
        (covering s o = none → exec (.coreReset tgt r) s = .next (beginReset s o)) ∧
        (∀ c, covering s o = some c → exec (.coreReset tgt r) s = .next (addRec s ⟨true, 0, tgt, r, s.localNs, 0, some (c.domain, c.target)⟩))) ∧
      (resetStatus s 1 tgt = .ok → covering s ⟨1, tgt, r, 1, s.localNs, 0⟩ = none → exec (.clusterReset tgt r) s = .next (beginReset s ⟨1, tgt, r, 1, s.localNs, 0⟩)) ∧
      (resetStatus s 2 tgt = .ok → let o : ResetOp := ⟨2, tgt, r, 1, s.localNs, 0⟩
        let u := if r ≠ 0x0A then interruptLoad s tgt else s
        covering u o = none → exec (.partitionReset tgt r) s = .next (beginReset u o)) ∧
      (resetStatus s 0 tgt ≠ .ok → exec (.coreReset tgt r) s = .next s) ∧ (resetStatus s 1 tgt ≠ .ok → exec (.clusterReset tgt r) s = .next s) ∧
      (resetStatus s 2 tgt ≠ .ok → exec (.partitionReset tgt r) s = .next s)) ∧
    (s.pwrGood = true → s.devReset = none →
      (∀ r, exec (.deviceWarmReset r) s = .next (clearDevice s false r) ∧ exec (.deviceColdReset r) s = .next (clearDevice s true r)) ∧
      exec .sysRstNInput s = .next (clearDevice s true 3) ∧ exec .pipWatchdog s = .next (clearDevice s false 6) ∧
      (s.perstN = true → rd s .linkWidth ≠ 0 → exec .dlActiveLoss s = .next (clearDevice s false 4)) ∧
      (s.perstN = true → exec .perstNFall s = .next (clearDevice { s with perstN := false } false 2))) ∧
    (s.pwrGood = true → s.trip = false → (∀ d, s.devReset = some d → d.cold = false) →
      exec .thermTrip s = .next (setFault (clearDevice (emit { s with trip := true, tripLatch := true } (.pin 2 false)) true 7) true)) ∧
    (s.pwrGood = true → ∀ d r, s.devReset = some d → r ≠ 7 → exec (.deviceWarmReset r) s =
      .next (stoneWrite s 0x0002 (resetVals ⟨true, 3, 0, r, s.localNs, 0, some (if d.cold then 4 else 3, 0)⟩) (r == 9))) ∧
    exec .perstNRise s = .next { s with perstN := true } ∧
    (∀ d, s.devReset = some d → d.low = true → exec .sysRstNStretchEnd s = .next (leaveReset (emit { s with devReset := some { d with low := false } } (.pin 0 true)))) ∧
    (s.pwrGood = true → s.trip = false → let t := setFault s false
      exec .pwrGoodFall s = .next { bare t with localNs := t.localNs })

/-- R429, R432 to R438, R442, R445, R447: what ends each step of a reset and of bring-up. -/
def Obligations.ResetsEnd : Prop :=
  ∀ (s : State),
    (∀ o, waitingOp s true = some o → exec .quiesceDone s = .next (forceDomain (setOp (readyRec s o 0) o { o with step := 3, forced := 0 }) o)) ∧
    (∀ o, waitingOp s false = some o → let t := postEvent (inc s .quiesceForceCnt) 0x0201 Status.timeout.code 0 (devId s) (o.reason + o.domain * 256) o.target
      exec .quiesceTimeout s = .next (forceDomain (setOp (readyRec t o (opBusy s o)) o { o with step := 3, forced := opBusy s o }) o)) ∧
    (∀ o, s.resets.find? (fun o => o.step == 3) = some o →
      (o.domain ≠ 2 → s.load = none → exec .boundaryDrainDone s = .next (setOp s o { o with step := 5 })) ∧
      (∀ b p, b < 512 → Tbl.find s.coreMap b = some p → inDomain s o b = true → exec (.forceAckTimeout b) s = .next (deviceReset (addDefect s p) false 9)) ∧
      (∀ b, 512 ≤ b → (opClusters s o).contains ((b - 512) / 4) = true → exec (.forceAckTimeout b) s = .next (deviceReset (addCluster s ((b - 512) / 4)) false 9))) ∧
    (∀ o bad, s.devReset = none → s.resets.find? (fun o => o.step == 5) = some o → exec (.wipeDone bad) s = .next (wiped s o bad)) ∧
    (∀ d bad, s.devReset = some d → d.wiped = false → exec (.wipeDone bad) s =
      .next (leaveReset { s with mem := [], junk := [], marks := [], dirty := [], devReset := some { d with wiped := true } })) ∧
    (∀ feed smb, s.pwrGood = false →
      let a := variantRegs { bare s with pwrGood := true, feedStrap := feed % 16, strap := smb % 256, bootCount := if (bare s).powered then (bare s).bootCount + 1 else (bare s).bootCount, powered := true }
      let b := wrs a [(.feedId, 0, feed % 16), (.lastResetReason, 0, 1), (.lastResetDomain, 0, 4)]
      exec (.powerOn feed smb none) s = .next (startBoot (stoneWrite b 0x0002 [(1, 1), (1, 4), (4, 0), (8, 0), (4, 0)]))) ∧
    (s.boot.on = true → (rd s .bringupStage = 1 → s.strap / 16 % 16 = 0 → ∀ r, exec (.bringupStageDone r) s = .next (endStage s 1 2)) ∧
      (rd s .bringupStage = 4 → exec (.bringupStageDone .timeout) s = .next (stopBoot s .timeout)) ∧
      (rd s .bringupStage = 7 → s.fwRounds ≠ [] → ∀ r, exec (.bringupStageDone r) s = .next s) ∧
      (rd s .bringupStage = 8 → s.kats = [] → ∀ r, exec (.bringupStageDone r) s = .next (endStage s 8 9)) ∧
      (rd s .bringupStage = 10 → rd s .logicalCoreCount = 0 → ∀ r, exec (.bringupStageDone r) s = .next (stopBoot s .degradedRefused))) ∧
    (∀ p n, Tbl.find s.fwRounds p = some n →
      (∀ m, Nat.land m (allChunks s) = 0 → exec (.fwChunkReport p m true) s = .next (delivered s p)) ∧
      (n < 8 → exec (.fwReportTimeout p) s = .next (chunkReport s p (allChunks s) false)) ∧
      (8 ≤ n → exec (.fwReportTimeout p) s = .next (settle (failPhys s p))) ∧
      (∀ m d, n < 8 → Nat.land m (allChunks s) ≠ 0 → let u := inc { s with fwRounds := Tbl.set s.fwRounds p (n + 1) } .fwResendChunkCnt 0 (popcount 16 (Nat.land m (allChunks s)))
        exec (.fwChunkReport p m d) s = .next (emit u (.fwChunks p (Nat.land m (allChunks s)))))) ∧
    (∀ u crc n, Tbl.find s.kats (katCode u) = some n →
      (crc = (Config.katCrc (katCode u)).toNat → exec (.katDone u crc) s = .next (settle (katsPassed { s with kats := Tbl.del s.kats (katCode u) } (katCode u)))) ∧
      (crc ≠ (Config.katCrc (katCode u)).toNat → n = 0 → exec (.katDone u crc) s = .next { s with kats := Tbl.set s.kats (katCode u) 1 }) ∧
      (crc ≠ (Config.katCrc (katCode u)).toNat → n ≠ 0 → exec (.katDone u crc) s = .next (settle (katFailed s (katCode u))))) ∧
    (∀ p, s.kats.any (fun e => e.1 < 8192 && e.1 / 8 == p) = true → exec (.katTimeout p) s = .next (settle (failPhys s p)))

/-- Pip serves SPDM request r on its path, its connection is set up as far as the request needs, and its session, if it names one, is open. -/
def servedSpdm (s : State) (r : SpdmReq) (code level : Nat) : Prop := spdmServes s r code = true ∧ spdmGate s r level = none
/-- SPDM response b of request r is sent, and the sequence number of a request in a session is used up (R328). -/
def spdmReply (s : State) (r : SpdmReq) (b : List Byte) : State := seqTaken (spdmAnswer s r b) r.path r.session r.seq

/-- R418 to R420, R458, R476, R478: the commands of firmware staging, of Stone and of Damson. -/
def Obligations.FirmwareStoneAndDamson : Prop :=
  ∀ (s : State),
    (∀ v src, let u := wr s .fwVector 0 v
      rd u .fwStageBusy ≠ 1 → pipRuns u = true → let p := (src.getD []).take (rd u .fwStageLen)
      (stageCheck u src ≠ .ok → exec (.fwStageStart v src) s = .next (stageEnd u p (stageCheck u src) 0)) ∧
      (stageCheck u src = .ok → let slot := 1 - rd u .activeSlot
        exec (.fwStageStart v src) s = .next (stageEnd (setPreferred { u with flash := putFlash u.flash (slotBase slot) p } slot) p .ok slot))) ∧
    (s.boot.stone = true → s.stoneLost = 0 →
      (∀ r t, s.setRecs = r :: t → exec .stoneRecordWrite s = .next (ageSets (writeRing { s with setRecs := t } r false false))) ∧
      (s.setRecs = [] → s.setDue = [] → ∀ r t, s.stoneQ = r :: t → exec .stoneRecordWrite s = .next (ageSets (writeStone { s with stoneQ := t } r))) ∧
      (s.setRecs = [] → s.setDue = [] → s.stoneQ = [] → exec .stoneRecordWrite s = .next s)) ∧
    (∀ i, exec (.stoneRdIndexWrite i) s = .next (wrs { s with stoneBuf := stoneAt s i } [(.stoneRdIndex, 0, i), (.stoneRdValid, 0, 1)])) ∧
    (∀ v src, let u := wr s .damsonVector 0 v
      rd u .damsonBusy ≠ 1 → pipRuns u = true → let p := (src.getD []).take (rd u .damsonLen)
      (∀ st, st ≠ .ok → packCheck u src = st → let t := wr u .damsonStatus 0 st.code
        exec (.damsonLoad v src) s = .next (sendMsi t (rd t .damsonVector))) ∧
      (packCheck u src = .ok → let a := wr u .damsonStatus 0 0
        let b := extendSlot { a with damson := { DamsonSt.init with pack := p } } 5 2 (packId p) (slice p 0x30 48)
        let c := wrs (stoneWrite b 0x0007 [(4, packId p), (48, leNat (slice p 0x30 48)), (4, packLen p)]) [(.damsonPackId, 0, packId p), (.damsonActive, 0, 1)]
        exec (.damsonLoad v src) s = .next (sendMsi c (rd c .damsonVector)))) ∧
    (∀ l x, damsonRuns s l = true → s.damson = x → let e := nextPat s l
      let u := runPattern (if (Tbl.find x.start l).isSome then s else { s with damson := { x with start := Tbl.set x.start l s.localNs } }) l e
      (exec (.damsonPattern l (some (fld e 0x10 8))) s = .next (patternNext (inc u .damsonPassCnt) l)) ∧
      (∀ r, r ≠ some (fld e 0x10 8) → Tbl.find x.again l = none →
        exec (.damsonPattern l r) s = .next { u with damson := { u.damson with again := Tbl.set u.damson.again l () } }) ∧
      (∀ r, r ≠ some (fld e 0x10 8) → Tbl.find x.again l ≠ none →
        let t := wrs (inc u .damsonFailCnt) [(.damsonLastFailCore, 0, l), (.damsonLastFailPattern, 0, fld e 0 2)]
        exec (.damsonPattern l r) s = .next (patternNext (stoneWrite (postEvent t 0x0109 Status.checkMismatch.code 0 (devId t) l (fld e 0 2 + packId x.pack * 2 ^ 32))
          0x0008 [(2, l), (2, fld e 0 2), (4, packId x.pack)] true) l)))

/-- R466 to R468: the requests that change fuses, in a session of a usable customer key, and where the blow reads back. Their wire layout is the model's (log entry 26). -/
def Obligations.KeysAndLifeCycle : Prop :=
  ∀ (s : State) (r : SpdmReq), servedSpdm s r 0xFE 3 → let f := s.fuses
    let k := fld r.body 0 1
    (custSession s r = true → r.body.length = 97 → lcState s = 1 ∨ lcState s = 2 →
      (3 < k → exec (.keyEnroll r) s = .next (spdmReply s r (vendorReply .indexRange []))) ∧
      (k ≤ 3 → bit f.programmed k = true → exec (.keyEnroll r) s = .next (spdmReply s r (vendorReply .permission []))) ∧
      (k ≤ 3 → bit f.programmed k = false → r.verifies = true → exec (.keyEnroll r) s =
        .next (spdmReply (fuseDone { s with fuses := { f with cust := Tbl.set f.cust k (sha384 (r.body.drop 1)), programmed := setBits f.programmed k 1 1 } } 1 k) r (vendorReply .ok [])))) ∧
    (custSession s r = false → exec (.keyRevoke r) s = .next (spdmReply s r (vendorReply .permission [])) ∧
      exec (.setSigRequired r) s = .next (spdmReply s r (vendorReply .permission []))) ∧
    (custSession s r = true → r.body.length = 1 → k ≤ 3 → custKey s k ≠ none → (custSlots s).any (fun j => j != k) = true →
      (sessionOf s r).map (·.keyHash) ≠ custKey s k → r.verifies = true →
      let t := fuseDone { s with fuses := { f with revoked := setBits f.revoked k 1 1 } } 2 k
      exec (.keyRevoke r) s = .next (spdmReply { t with sessions := t.sessions.filter (fun e => some e.2.keyHash != custKey s k) } r (vendorReply .ok []))) ∧
    (custSession s r = true → lcState s = 1 ∨ lcState s = 2 → (custSlots s).isEmpty = false →
      (r.body.length ≠ 0 → exec (.setSigRequired r) s = .next (spdmReply s r (vendorReply .format []))) ∧
      (r.body.length = 0 → r.verifies = true → exec (.setSigRequired r) s =
        .next (spdmReply (fuseDone { s with fuses := { f with sigRequired := true } } 3 0) r (vendorReply .ok [])))) ∧
    (custSession s r = true → r.body.length = 1 →
      (k ≤ fwMinSvn f ∨ rd s .pipFwSvn < k → exec (.raiseMinSvn r) s = .next (spdmReply s r (vendorReply .permission []))) ∧
      (fwMinSvn f < k → k ≤ rd s .pipFwSvn → r.verifies = true → exec (.raiseMinSvn r) s =
        .next (spdmReply (fuseDone { s with fuses := { f with minSvn := blow f.minSvn (2 ^ k - 1) } } 4 k) r (vendorReply .ok []))) ∧
      (k ≤ 2 ^ 8 → fwMinSvn f < k → k ≤ rd s .pipFwSvn → r.verifies = false → exec (.raiseMinSvn r) s = .next (spdmReply s r (vendorReply .checkMismatch [])))) ∧
    (lcAllowed s r k = true → r.body.length = 1 → r.verifies = true →
      let a := stoneWrite s 0x0003 [(1, lcState s), (1, k), (48, ((sessionOf s r).map (fun x => leNat x.certHash)).getD 0)]
      let b := stoneFlush (a.stoneQ.length + a.setRecs.length + 64) a
      let c := spdmReply (fuseDone { b with fuses := { b.fuses with lc := setBits b.fuses.lc (k - 1) 1 1 } } 5 k) r (vendorReply .ok [])
      c.fuses.lc ≠ s.fuses.lc → exec (.lcTransition r) s = .next (deviceReset c true 0x0B)) ∧
    (lcAllowed s r k = false → r.body.length = 1 → exec (.lcTransition r) s =
      .next (let t := spdmReply s r (vendorReply .permission []); if t.fuses.lc = s.fuses.lc then t else deviceReset t true 0x0B)) ∧
    (lcState s = 1 → mfgSession s r = true → r.body.length = 0 → ∀ x y, deviceKey f.uds 2 = some (x, y) →
      exec (.getSealedDevid r) s = .next (spdmReply (fuseDone s 6 0) r (vendorReply .ok (toBE 48 x ++ toBE 48 y)))) ∧
    (lcState s ≠ 1 → exec (.getSealedDevid r) s = .next (spdmReply s r (vendorReply .permission [])))

/-- R328, R461, R464, R465: the standard requests. Their layouts come from the standard the spec names (log entry 26), the values that cryptography makes are free (log entry 5). -/
def Obligations.SpdmRequests : Prop :=
  ∀ (s : State) (r : SpdmReq),
    (spdmServes s r 0x84 = true → exec (.getVersion r) s =
      .next (spdmReply (setSpdm s r.path { SpdmLink.init with level := 1 }) r [0x10, 0x04, 0, 0, 0, 1, 0x00, 0x12])) ∧
    (servedSpdm s r 0xE1 1 → 16 ≤ r.body.length → 42 ≤ fld r.body 8 4 →
      let f := freshBytes (setSpdm s r.path { spdmOf s r.path with level := 2, size := fld r.body 8 4 }) 1
      exec (.getCapabilities r) s = .next (spdmReply f.1 r ([0x12, 0x61, 0, 0, 0] ++ f.2 ++ [0, 0] ++ toLE 4 spdmFlags ++ toLE 4 4096 ++ toLE 4 65536))) ∧
    (servedSpdm s r 0xE3 2 → 28 ≤ r.body.length → exec (.negotiateAlgorithms r) s = .next (spdmReply (setSpdm s r.path { spdmOf s r.path with level := 3 }) r
      ([0x12, 0x63, 4, 0] ++ toLE 2 52 ++ [1, 2] ++ toLE 4 0x4 ++ toLE 4 (if bit (fld r.body 4 4) 7 then 0x80 else 0) ++
        toLE 4 (if bit (fld r.body 8 4) 1 then 0x2 else 0) ++ zeros 16 ++ [2, 0x20, 0x10, 0, 3, 0x20, 0x2, 0, 4, 0x20, 0x80, 0, 5, 0x20, 0x1, 0]))) ∧
    (∀ c, s.certChain = some c →
      (servedSpdm s r 0x81 3 → exec (.getDigests r) s = .next (spdmReply s r ([0x12, 0x01, 0, 1] ++ sha384 c))) ∧
      (servedSpdm s r 0x82 3 → r.param1 % 16 = 0 → 4 ≤ r.body.length → fld r.body 0 2 < c.length → let off := fld r.body 0 2
        let n := min (fld r.body 2 2) (c.length - off)
        exec (.getCertificate r) s = .next (spdmReply s r ([0x12, 0x02, 0, 0] ++ toLE 2 n ++ toLE 2 (c.length - off - n) ++ slice c off n))) ∧
      (servedSpdm s r 0x83 3 → r.param1 = 0 → 32 ≤ r.body.length → let a := freshBytes s 32
        let b := freshBytes a.1 96
        exec (.challenge r) s = .next (spdmReply b.1 r ([0x12, 0x03, 0, 1] ++ sha384 c ++ a.2 ++ measSummary s r.param2 ++ [0, 0] ++ b.2))) ∧
      (servedSpdm s r 0xE4 3 → r.param2 = 0 → 134 ≤ r.body.length → ∀ n, (List.range 16).find? (fun n => !(sessionsUsed s).contains n) = some n →
        let a := freshBytes (setSpdm s r.path { spdmOf s r.path with hs := some n }) 225
        exec (.keyExchange r) s = .next (spdmReply a.1 r ([0x12, 0x64] ++ a.2.take 1 ++ [0] ++ toLE 2 n ++ [2, 0] ++ slice a.2 1 32 ++ slice a.2 33 96 ++
          measSummary s r.param1 ++ [0, 0] ++ slice a.2 129 96)))) ∧
    (servedSpdm s r 0xE0 3 → bit r.param1 0 = false → r.param2 = 0 → let a := freshBytes s 32
      exec (.getMeasurements r) s = .next (spdmReply a.1 r ([0x12, 0x60] ++ toLE 1 measIndices.length ++ [0] ++ toLE 1 0 ++ toLE 3 0 ++ [] ++ a.2 ++ [0, 0] ++ []))) ∧
    (∀ q, q = { r with session := none } → servedSpdm s q 0xE5 3 → ∀ n, (spdmOf s q.path).hs = some n → let u := setSpdm s q.path { spdmOf s q.path with hs := none }
      (r.verifies = true → keyAccepted u (sha384 r.key) = true → exec (.finish r) s =
        .next (spdmReply { u with sessions := Tbl.set u.sessions n ⟨q.path, sha384 r.key, r.certHash, isMfg u (sha384 r.key) && lcState u != 2, 0⟩ } q [0x12, 0x65, 0, 0])) ∧
      (r.verifies = false → exec (.finish r) s = .next (spdmReply u q (spdmError 6)))) ∧
    (∀ x n, sessionOf s r = some x → r.session = some n →
      (servedSpdm s r 0xE8 3 → exec (.heartbeatSpdm r) s = .next (spdmReply s r [0x12, 0x68, 0, 0])) ∧
      (servedSpdm s r 0xE9 3 → 1 ≤ r.param1 → r.param1 ≤ 3 → exec (.keyUpdate r) s = .next (spdmReply s r ([0x12, 0x69] ++ toLE 1 r.param1 ++ toLE 1 r.param2))) ∧
      (servedSpdm s r 0xEC 3 → exec (.endSession r) s = .next (spdmReply (endSession s n) r [0x12, 0x6C, 0, 0]))) ∧
    (servedSpdm s r 0x85 3 → fld r.body 0 2 = 0 → bit r.param1 0 = false → let n := fld r.body 4 4
      let d := slice r.body 12 n
      d.length = n → fld r.body 8 4 ≤ 65536 → n ≤ fld r.body 8 4 →
      let t := spdmReply (setSpdm s r.path { spdmOf s r.path with inMsg := some (r.param2, 1, fld r.body 8 4, d) }) r ([0x12, 0x05, 0] ++ toLE 1 r.param2 ++ toLE 2 0 ++ [])
      t.fuses.lc = s.fuses.lc → exec (.chunkSend r) s = .next t) ∧
    (servedSpdm s r 0x86 3 → ∀ h k b, (spdmOf s r.path).large = some (h, k, b) → h = r.param2 → k = fld r.body 0 2 → let n := min 4096 (spdmOf s r.path).size - 16
      let last := decide (b.length ≤ n)
      let d := b.take n
      exec (.chunkGet r) s = .next (spdmReply (setSpdm s r.path { spdmOf s r.path with large := if last then none else some (h, k + 1, b.drop n) }) r
        ([0x12, 0x06] ++ toLE 1 (b2n last) ++ toLE 1 h ++ toLE 2 k ++ [0, 0] ++ toLE 4 d.length ++ (if k = 0 then toLE 4 b.length else []) ++ d))) ∧
    (∀ x, spdmServes s r 0x81 = true → spdmGate s r 3 = some x → exec (.getDigests r) s = .next (spdmReply s r x))

/-- The sideband's endpoint serves a request whose data has the n bytes that its standard gives it. -/
def servedSide (s : State) (r : SbReq) (n : Nat) : Prop := sideServes s = true ∧ r.data.length = n

/-- R478 to R481: every command of Table 16.14's control messages and of PLDM types 0 and 2. The layouts come from the standards the spec names (log entry 27). -/
def Obligations.SidebandRequests : Prop :=
  ∀ (s : State) (r : SbReq),
    (servedSide s r 2 → let e := fld r.data 1 1
      (fld r.data 0 1 ≤ 1 → e ≠ 0 → e ≠ 0xFF → exec (.setEndpointId r) s = .next (ctlReply { s with side := { s.side with eid := e } } r 1 0 ([0] ++ toLE 1 e ++ [0]))) ∧
      (e = 0 ∨ e = 0xFF → exec (.setEndpointId r) s = .next (ctlReply s r 1 0x02 [])) ∧
      (exec (.eventmessagebuffersize r) s = .next (pldmReply s r 2 0x0D 0 (toLE 2 (min 4224 (fld r.data 0 2)))))) ∧
    (servedSide s r 0 → exec (.getEndpointId r) s = .next (ctlReply s r 2 0 (toLE 1 s.side.eid ++ [0, 0])) ∧
      exec (.getMessageTypeSupport r) s = .next (ctlReply s r 5 0 [4, 0x01, 0x05, 0x06, 0x7E]) ∧
      exec (.gettid r) s = .next (pldmReply s r 0 2 0 (toLE 1 s.side.tid)) ∧ exec (.getpldmtypes r) s = .next (pldmReply s r 0 4 0 (toLE 8 5)) ∧
      exec (.getpdrrepositoryinfo r) s = .next (pdrInfo s r)) ∧
    (servedSide s r 1 → let t := fld r.data 0 1
      (t = 0 → exec (.getMctpVersionSupport r) s = .next (ctlReply s r 4 0 [1, 0xF1, 0xF3, 0xFF, 0x00])) ∧
      (t = 2 → exec (.getMctpVersionSupport r) s = .next (ctlReply s r 4 0x80 [])) ∧
      (t = 0 → exec (.getVendorDefinedMessageSupport r) s = .next (ctlReply s r 6 0 [0xFF, 0x00, 0x1D, 0x9A, 0x00, 0x00])) ∧
      (t ≠ 0 → exec (.getVendorDefinedMessageSupport r) s = .next (ctlReply s r 6 0x02 [])) ∧
      (t ≠ 0 → t ≠ 0xFF → exec (.settid r) s = .next (pldmReply { s with side := { s.side with tid := t } } r 0 1 0 [])) ∧
      exec (.eventmessagesupported r) s = .next (pldmReply s r 2 0x0C 0 (toLE 1 ((s.side.receiver.map (·.1)).getD 0) ++ [7, 1, 0]))) ∧
    (servedSide s r 6 → ∀ v, fld r.data 4 1 = 1 → pldmVer (fld r.data 5 1) = some v →
      exec (.getpldmversion r) s = .next (pldmReply s r 0 3 0 (zeros 4 ++ [5] ++ v ++ toLE 4 (crc32 v)))) ∧
    (servedSide s r 5 → (∀ v, pldmVer (fld r.data 0 1) = some v → slice r.data 1 4 = v →
        exec (.getpldmcommands r) s = .next (pldmReply s r 0 5 0 (toLE 32 (pldmCmds (fld r.data 0 1))))) ∧
      (fld r.data 0 1 ≤ 3 → fld r.data 1 1 = 0 → exec (.seteventreceiver r) s =
        .next (pldmReply { s with side := { s.side with receiver := if fld r.data 0 1 = 0 then none else some (fld r.data 0 1, fld r.data 2 1) } } r 2 4 0 []))) ∧
    (servedSide s r 13 → let n := max 1 (fld r.data 0 4)
      (pdrBytes s n = none → exec (.getpdr r) s = .next (pldmReply s r 2 0x51 0x82 [])) ∧
      (∀ b, pdrBytes s n = some b → fld r.data 4 4 = 0 → b.length ≤ fld r.data 9 2 →
        exec (.getpdr r) s = .next (pldmReply s r 2 0x51 0 (toLE 4 (if n < pdrCount s then n + 1 else 0) ++ toLE 4 0 ++ [5] ++ toLE 2 b.length ++ b)))) ∧
    (servedSide s r 3 → let i := fld r.data 0 2
      (sensorPresent s i = false ∨ stateSensor i = true → exec (.getsensorreading r) s = .next (pldmReply s r 2 0x11 0x80 [])) ∧
      (sensorPresent s i = true → stateSensor i = false → let f := freshBytes s 2
        let st : Byte := if warned s i then 8 else 1
        exec (.getsensorreading r) s = .next (pldmReply f.1 r 2 0x11 0 ([5] ++ toLE 1 (if rd s .sensor i = noReading then 2 else 0) ++ f.2.take 1 ++ [st] ++ f.2.drop 1 ++
          [st] ++ toLE 4 (rd s .sensor i))))) ∧
    (servedSide s r 4 → let i := fld r.data 0 2
      (sensorPresent s i = true → stateSensor i = true → let f := freshBytes s 1
        exec (.getstatesensorreadings r) s = .next (pldmReply f.1 r 2 0x21 0 ([1] ++ toLE 1 (if rd s .sensor i = noReading then 2 else 0) ++ toLE 1 (rd s .sensor i) ++ f.2 ++
          toLE 1 (rd s .sensor i))))) ∧
    (servedSide s r 8 → fld r.data 1 1 ≠ 2 →
      (s.side.events = [] → exec (.pollforplatformeventmessage r) s = .next (pldmReply { s with side := { s.side with events := [] } } r 2 0x0B 0 (toLE 1 s.side.tid ++ [0, 0]))) ∧
      (∀ n d t, s.side.events = (n, d) :: t → exec (.pollforplatformeventmessage r) s = .next (pldmReply { s with side := { s.side with events := (n, d) :: t } } r 2 0x0B 0
        (toLE 1 s.side.tid ++ toLE 2 n ++ zeros 4 ++ [5] ++ d.take 1 ++ toLE 4 (d.drop 1).length ++ d.drop 1 ++ toLE 4 (crc32 (d.drop 1)))))) ∧
    (sideServes s = false → exec (.gettid r) s = .next s) ∧
    (sideServes s = true → r.data.length ≠ 0 → exec (.gettid r) s = .next (pldmReply s r 0 2 0x03 []))

/-- R492, whole: the write, what is refused, and the value a reset gives the field. tdpOf and floorOf are the columns of the variants' power table, in watts. -/
def Obligations.PowerLimit : Prop :=
  (∀ (s : State) (v : Nat), floorOf s ≤ v → v ≤ tdpOf s → ∃ t, exec (.powerLimit v) s = .next t ∧ rd t .powerLimit = v ∧
    ∀ q j, ¬ (q = Reg.powerLimit ∧ j = 0) → rd t q j = rd s q j) ∧
  (∀ (s : State) (v : Nat), tdpOf s < v ∨ v < floorOf s → ∃ t, exec (.powerLimit v) s = .next t ∧
    rd t .pmbusErrCnt = min (rd s .pmbusErrCnt + 1) (2 ^ 32 - 1) ∧ ∀ q j, ¬ (q = Reg.pmbusErrCnt ∧ j = 0) → rd t q j = rd s q j) ∧
  rd State.reset .powerLimit = tdpOf State.reset ∧
  (∀ (s : State) feed smb fit, s.pwrGood = false → ∃ t, exec (.powerOn feed smb fit) s = .next t ∧ rd t .powerLimit = tdpOf t) ∧
  (∀ (s : State) r, s.pwrGood = true → s.devReset = none →
    (∃ t, exec (.deviceWarmReset r) s = .next t ∧ rd t .powerLimit = tdpOf t) ∧ (∃ t, exec (.deviceColdReset r) s = .next t ∧ rd t .powerLimit = tdpOf t))

/-- R403, R480, R481, R487, R489, R490, R493, R495, R496: every command of the supplies but POWER_LIMIT. 0x8000_0000 as a READ_POUT that failed is the model's coding of it (log entry 24). -/
def Obligations.SuppliesAndClocks : Prop :=
  ∀ (s : State),
    (∀ i v, pipRuns s = true → sensorPresent s i = true → let r := (ownReading s i).getD (v % 2 ^ 32)
      exec (.sensorSample i v) s = .next (thermal (holdCap (checkWarning (wr s .sensor i r) i r) i r))) ∧
    (∀ i v, sensorPresent s i = false → exec (.sensorSample i v) s = .next s) ∧
    (anyAtLeast s 400 95 = true → rd s .thermalThrottle ≤ 1 → rd (thermal s) .thermalThrottle = 1 ∧ (thermal s).power.therm = 1 ∧
      (rd s .thermalThrottle = 0 → s.railsUp = true → rd (thermal s) .opEffective ≤ 1)) ∧
    (∀ i v, stateSensor i = false → v ≠ noReading → rd s .sensorWarn i ≠ 0 → warned s i = false → signed 32 (rd s .sensorWarn i) ≤ signed 32 v →
      checkWarning s i v = platformEvent (postEvent (setPower s { s.power with warned := Tbl.set s.power.warned i () }) 0x0300 0 0 (devId s)
        (i + v * 2 ^ 32) (rd s .sensorWarn i)) 0 (sensorEvent i v)) ∧
    (∀ i v, rd s .sensorWarn i = 0 → warned s i = false → checkWarning s i v = s) ∧
    (∀ v, v % 4 = 0 → exec (.opReq v) s = .next s) ∧
    (∀ v, v % 4 ≠ 0 → ∃ t, exec (.opReq v) s = .next t ∧ rd t .opReq = v % 4 ∧ (s.railsUp = true → s.power.cap ≤ 3 → rd t .opEffective = effectivePoint t)) ∧
    (∀ c, rd s .opChanging = 0 → exec (.opMoveStep c) s = .next s) ∧
    (rd s .opChanging = 1 → exec (.opMoveStep false) s = .next s ∧
      (s.power.mv ≠ pointMv (rd s .opEffective) → exec (.opMoveStep true) s = .next (moveStep s)) ∧
      (s.power.mv = pointMv (rd s .opEffective) → ∃ t, exec (.opMoveStep true) s = .next t ∧ rd t .opChanging = 0 ∧ (∀ n, rd t (trimReg n) = 0) ∧ t.power.trimming = 15)) ∧
    (∀ l b, rd s .opChanging = 1 → exec (.paceMonitorRead l b) s = .next s) ∧
    (∀ l b, s.railsUp = true → rd s .opChanging = 0 → exec (.paceMonitorRead l b) s =
      .next (paceDie b (paceDie b (paceDie b (paceDie b s 0 (l.getD 0 0)) 1 (l.getD 1 0)) 2 (l.getD 2 0)) 3 (l.getD 3 0))) ∧
    (∀ w, s.railsUp = true → rd s .powerLimit < w → 1 < s.power.cap → ∃ t, exec (.powerWindowEnd w) s = .next t ∧ t.power.cap = s.power.cap - 1 ∧
      rd t .capActive = 1 ∧ rd t .capEventCnt = min (rd s .capEventCnt + 1) (regMax .capEventCnt) ∧ (s.power.cap ≤ 3 → rd t .opEffective = effectivePoint t)) ∧
    (∀ w, s.railsUp = true → w ≤ rd s .powerLimit → s.power.cap = 3 → ∃ t, exec (.powerWindowEnd w) s = .next t ∧ t.power.cap = 3 ∧
      ∀ q j, rd t q j = rd s q j) ∧
    (∀ r, s.railsUp = false ∨ railPresent s r = false ∨ rd s .bringupStage < 4 → exec (.railFaultAlert r) s = .next s) ∧
    (∀ r, s.railsUp = true → railPresent s r = true → 4 ≤ rd s .bringupStage → let d := powerDown (deviceLost s)
      exec (.railFaultAlert r) s = .next (stopState (unitsOff (wrs d ((.railFault, 0, setBits (rd d .railFault) r 1 1) :: (.bringupStage, 0, 3) :: (.linkWidth, 0, 0) :: (.linkSpeed, 0, 0) :: (.cxlMode, 0, 0) ::
        (List.range 16).map (fun p => (.portState, p, psDown))))) .uncorrectable)) ∧
    (∀ c, rd s .bringupStage ≤ 4 → exec (.refclkLoss c) s = .next s) ∧
    (4 < rd s .bringupStage →
      (s.perstN = true → rd s .linkWidth ≠ 0 → exec (.refclkLoss .cxl) s = .next (deviceReset s false 4)) ∧
      (∀ i, exec (.refclkLoss (.fabric i)) s = .next ((diePorts s i).foldl (fun u p => if portTrained u p then dropPort u p psDown prNoPartner else u) s)) ∧
      (rd s .stackFailMask % 2 ^ stackCount s ≠ 2 ^ stackCount s - 1 → exec (.refclkLoss .hbm) s = .next (deviceLost (wr s .stackFailMask 0 (2 ^ stackCount s - 1))))) ∧
    (∀ d, s.railsUp = true → exec (.computeDieLost d) s = .next (deviceLost s))

/-- The word at o holds one field only, an RW field of 32 bits whose table gives it no rule of its own. -/
def plainWord (o : Nat) (r : Reg) (i : Nat) : Prop :=
  bufAt o = none ∧ fieldsAt o = [(r, i, 0)] ∧ r.info.acc = .rw ∧ r.info.lsb = 0 ∧ r.info.width = 32 ∧ (∀ (u : State) n, n ≠ 0 → putField u r i n = wr u r i n)

/-- R9, R11, R233, R369, R505 to R508: RC_READ and CSR_HALF_READ, for each reader. The bit that AER logs for an unsupported access is taken from the standard (log entry 30). That the latch is for every RO field that crosses bit 32 is read from R507 (log entry 32). -/
def Obligations.CsrReads : Prop :=
  ∀ (s : State) (o w : Nat),
    (hostLinked s = true → o < 0x4000000 → csrAligned o w = true →
      (accessAbsent s o w = false → exec (.rcRead .host o w) s = .next (emit (readCsr s .host o w).1 (.csrData .host (readCsr s .host o w).2))) ∧
      (accessAbsent s o w = true → w = 64 ∨ o % 8 = 0 ∨ Tbl.find s.latches 0 = none → ∃ t, exec (.rcRead .host o w) s = .next t ∧
        t.out = s.out ++ [.csrData .host 0] ∧ rd t .csrAbsentCnt = min (rd s .csrAbsentCnt + 1) (regMax .csrAbsentCnt) ∧
        t = { s with out := t.out, regs := t.regs, latches := t.latches })) ∧
    (hostLinked s = true → o < 0x4000000 → csrAligned o w = false → exec (.rcRead .host o w) s = .next (aer s 20)) ∧
    (hostLinked s = false → exec (.rcRead .host o w) s = .next s) ∧
    (s.pwrGood = true → s.devReset = none → o < 0x4000000 → csrAligned o w = true →
      exec (.rcRead .pip o w) s = .next (emit (readCsr s .pip o w).1 (.csrData .pip (readCsr s .pip o w).2))) ∧
    (∀ l, csrAligned o w = true →
      (corePresent s l = true → 0x200000 + 0x1000 * l ≤ o → o < 0x201000 + 0x1000 * l →
        exec (.rcRead (.core l) o w) s = .next (emit (readCsr s (.core l) o w).1 (.csrData (.core l) (readCsr s (.core l) o w).2))) ∧
      (o < 0x200000 + 0x1000 * l ∨ 0x201000 + 0x1000 * l ≤ o → exec (.rcRead (.core l) o w) s = .next s)) ∧
    (∀ r, (∀ x ∈ fieldsAt o, x.1.info.acc ≠ .rc) →
      (readWord32 s r o).1 = { s with latches := (readWord32 s r o).1.latches }) ∧
    (∀ r, inAbsentCore s o = false → frozen s o = false → bufAt o = none →
      (∀ x ∈ fieldsAt o, x.1.info.acc = .rc → rd (readWord32 s r o).1 x.1 x.2.1 = 0) ∧
      (∀ q j, (∀ x ∈ fieldsAt o, ¬ (x.1 = q ∧ x.2.1 = j)) → q ≠ .satFirstValid → rd (readWord32 s r o).1 q j = rd s q j)) ∧
    (bufAt o = none → (∀ x ∈ fieldsAt o, x.1.info.acc = .wo) → (peekWord s o).2 = 0) ∧
    (hostLinked s = true → o < 0x4000000 → accessAbsent s o 32 = false → bufAt o = none →
      (o % 8 = 0 → crossing o = true → (∀ x ∈ fieldsAt o, x.1.info.acc = .ro) → ∃ t, exec (.csrHalfRead .host o) s = .next t ∧
        t.out = s.out ++ [.csrData .host (peekWord s o).2] ∧ Tbl.find t.latches 0 = some (o, (peekWord s (o + 4)).2)) ∧
      (o % 8 = 4 → crossing (o - 4) = true →
        (∀ v, Tbl.find s.latches 0 = some (o - 4, v) → ∃ t, exec (.csrHalfRead .host o) s = .next t ∧ t.out = s.out ++ [.csrData .host v]) ∧
        ((∀ v, Tbl.find s.latches 0 ≠ some (o - 4, v)) → ∃ t, exec (.csrHalfRead .host o) s = .next t ∧ t.out = s.out ++ [.csrData .host (peekWord s o).2])))

/-- R9, R11, R369, R505, R506, R509: CSR_WRITE, for each reader. The action of a WO field is that command's, stated with it. -/
def Obligations.CsrWrites : Prop :=
  ∀ (s : State) (o w v : Nat),
    (hostLinked s = true → o < 0x4000000 →
      (csrAligned o w = true → accessAbsent s o w = false → exec (.csrWrite .host o w v) s = .next (writeCsr s o w v)) ∧
      (csrAligned o w = true → accessAbsent s o w = true → exec (.csrWrite .host o w v) s = .next (inc s .csrAbsentCnt)) ∧
      (csrAligned o w = false → exec (.csrWrite .host o w v) s = .next (aer s 20))) ∧
    (hostLinked s = false → exec (.csrWrite .host o w v) s = .next s) ∧
    (s.pwrGood = true → s.devReset = none → o < 0x4000000 → csrAligned o w = true → exec (.csrWrite .pip o w v) s = .next (writeCsr s o w v)) ∧
    (∀ l, csrAligned o w = true →
      (corePresent s l = true → 0x200000 + 0x1000 * l ≤ o → o < 0x201000 + 0x1000 * l → exec (.csrWrite (.core l) o w v) s = .next (writeCsr s o w v)) ∧
      (o < 0x200000 + 0x1000 * l ∨ 0x201000 + 0x1000 * l ≤ o → exec (.csrWrite (.core l) o w v) s = .next s)) ∧
    (writeCsr s o 64 v = writeAct (writeAct (writeRw (writeRw s o (v % 2 ^ 32)) (o + 4) (v / 2 ^ 32 % 2 ^ 32)) o (v % 2 ^ 32)) (o + 4) (v / 2 ^ 32 % 2 ^ 32)) ∧
    (bufAt o = none → o ≠ 0x3000010 → ¬ (0x200000 ≤ o ∧ o < 0x400000 ∧ o % 0x1000 = 0x010) →
      (∀ x ∈ fieldsAt o, x.1.info.acc = .ro ∨ x.1.info.acc = .rc) → writeCsr s o 32 v = s) ∧
    (∀ r i, plainWord o r i → inAbsentCore s o = false → frozen s o = false → o ≠ 0x3000010 → ¬ (0x200000 ≤ o ∧ o < 0x400000 ∧ o % 0x1000 = 0x010) →
      v % 2 ^ 32 ≠ 0 → writeCsr s o 32 v = wr s r i (v % 2 ^ 32))
end

