-- ==== Sys2Proof/Laws/Table.lean ====
section
/-!
SUPPORT. Sys2Proof/Laws/Table.lean: reading a sparse table after writing it, and its canonical form kept.
-/
namespace Sys2Proof.Machine

variable {α : Type}

@[simp] theorem Tbl.find_nil (k : Nat) : Tbl.find ([] : Tbl α) k = none := rfl

/-- A key just set reads what was set. -/
@[simp] theorem Tbl.find_set_same (t : Tbl α) (k : Nat) (x : α) : Tbl.find (Tbl.set t k x) k = some x := by
  induction t with
  | nil => simp [Tbl.set, Tbl.find]
  | cons e t ih =>
    obtain ⟨j, y⟩ := e
    simp only [Tbl.set]
    split
    · simp [Tbl.find]
    · split
      · simp [Tbl.find]
      · rename_i h
        simp [Tbl.find, Ne.symm h, ih]

/-- Another key reads as before. -/
theorem Tbl.find_set_other (t : Tbl α) {k j : Nat} (x : α) (h : j ≠ k) : Tbl.find (Tbl.set t k x) j = Tbl.find t j := by
  induction t with
  | nil => simp [Tbl.set, Tbl.find, Ne.symm h]
  | cons e t ih =>
    obtain ⟨i, y⟩ := e
    simp only [Tbl.set]
    split
    · simp [Tbl.find, Ne.symm h]
    · split
      · rename_i h2
        subst h2
        simp [Tbl.find, Ne.symm h]
      · simp [Tbl.find, ih]

@[simp] theorem Tbl.find_del_same (t : Tbl α) (k : Nat) : Tbl.find (Tbl.del t k) k = none := by
  induction t with
  | nil => rfl
  | cons e t ih =>
    obtain ⟨j, y⟩ := e
    by_cases h : j = k
    · simpa [Tbl.del, List.filter, h] using ih
    · have : (j != k) = true := by simp [h]
      simp only [Tbl.del, List.filter, this]
      simp only [Tbl.find, h, if_false]
      exact ih

theorem Tbl.find_del_other (t : Tbl α) {k j : Nat} (h : j ≠ k) : Tbl.find (Tbl.del t k) j = Tbl.find t j := by
  induction t with
  | nil => rfl
  | cons e t ih =>
    obtain ⟨i, y⟩ := e
    by_cases h2 : i = k
    · have : (i != k) = false := by simp [h2]
      simp only [Tbl.del, List.filter, this]
      simp only [Tbl.find, show i ≠ j from fun e => h (e ▸ h2), if_false]
      exact ih
    · have : (i != k) = true := by simp [h2]
      simp only [Tbl.del, List.filter, this, Tbl.find]
      split
      · rfl
      · exact ih

/-- A key given a value against a default reads it back. -/
@[simp] theorem Tbl.getD_put_same [DecidableEq α] (t : Tbl α) (k : Nat) (x d : α) : Tbl.getD (Tbl.put t k x d) k d = x := by
  unfold Tbl.put Tbl.getD
  split
  · simp [*]
  · simp

/-- Another key reads as before. -/
theorem Tbl.getD_put_other [DecidableEq α] (t : Tbl α) {k j : Nat} (x d d' : α) (h : j ≠ k) :
    Tbl.getD (Tbl.put t k x d) j d' = Tbl.getD t j d' := by
  unfold Tbl.put Tbl.getD
  split
  · rw [Tbl.find_del_other t h]
  · rw [Tbl.find_set_other t x h]

/-! ### Rising keys -/

theorem Tbl.sorted_iff (t : Tbl α) : Tbl.sorted t = true ↔ t.Pairwise (fun a b => a.1 < b.1) := by
  induction t with
  | nil => simp [Tbl.sorted]
  | cons e t ih =>
    obtain ⟨j, y⟩ := e
    cases t with
    | nil => simp [Tbl.sorted]
    | cons f t =>
      obtain ⟨k, z⟩ := f
      simp only [Tbl.sorted, Bool.and_eq_true, decide_eq_true_eq, ih]
      constructor
      · rintro ⟨h1, h2⟩
        refine List.pairwise_cons.2 ⟨?_, h2⟩
        intro a ha
        rcases List.mem_cons.1 ha with rfl | ha
        · exact h1
        · exact lt_trans h1 (List.rel_of_pairwise_cons h2 ha)
      · intro h
        exact ⟨(List.pairwise_cons.1 h).1 (k, z) (List.mem_cons_self ..), (List.pairwise_cons.1 h).2⟩

theorem Tbl.sorted_filter (t : Tbl α) (p : Nat × α → Bool) (h : Tbl.sorted t = true) : Tbl.sorted (t.filter p) = true :=
  (Tbl.sorted_iff _).2 (((Tbl.sorted_iff _).1 h).filter p)

/-- What a table holds after a key is set: the new entry, and old ones. -/
theorem Tbl.mem_set {t : Tbl α} {k : Nat} {x : α} {e : Nat × α} (h : e ∈ Tbl.set t k x) : e = (k, x) ∨ e ∈ t := by
  induction t with
  | nil => simp [Tbl.set] at h; exact .inl h
  | cons f t ih =>
    obtain ⟨j, y⟩ := f
    simp only [Tbl.set] at h
    split at h
    · simpa using h
    · split at h
      · rcases List.mem_cons.1 h with h | h
        · exact .inl h
        · exact .inr (List.mem_cons_of_mem _ h)
      · rcases List.mem_cons.1 h with h | h
        · exact .inr (h ▸ List.mem_cons_self ..)
        · rcases ih h with h | h
          · exact .inl h
          · exact .inr (List.mem_cons_of_mem _ h)

theorem Tbl.sorted_set (t : Tbl α) (k : Nat) (x : α) (h : Tbl.sorted t = true) : Tbl.sorted (Tbl.set t k x) = true := by
  rw [Tbl.sorted_iff] at h ⊢
  induction t with
  | nil => simp [Tbl.set]
  | cons e t ih =>
    obtain ⟨j, y⟩ := e
    have hp := List.pairwise_cons.1 h
    simp only [Tbl.set]
    split
    · rename_i hk
      refine List.pairwise_cons.2 ⟨?_, h⟩
      intro a ha
      rcases List.mem_cons.1 ha with rfl | ha
      · exact hk
      · exact lt_trans hk (hp.1 a ha)
    · split
      · rename_i h2
        subst h2
        exact List.pairwise_cons.2 ⟨hp.1, hp.2⟩
      · rename_i h1 h2
        refine List.pairwise_cons.2 ⟨?_, ih hp.2⟩
        intro a ha
        rcases Tbl.mem_set ha with rfl | ha
        · simp only; omega
        · exact hp.1 a ha

theorem Tbl.sorted_put [DecidableEq α] (t : Tbl α) (k : Nat) (x d : α) (h : Tbl.sorted t = true) : Tbl.sorted (Tbl.put t k x d) = true := by
  unfold Tbl.put
  split
  · exact Tbl.sorted_filter _ _ h
  · exact Tbl.sorted_set _ _ _ h

/-- The canonical form in the terms of its parts. -/
theorem Tbl.canon_iff [DecidableEq α] (t : Tbl α) (d : α) : Tbl.canon t d = true ↔ Tbl.sorted t = true ∧ ∀ e ∈ t, e.2 ≠ d := by
  simp [Tbl.canon]

/-- Taking entries out keeps the canonical form. -/
theorem Tbl.canon_filter [DecidableEq α] (t : Tbl α) (d : α) (p : Nat × α → Bool) (h : Tbl.canon t d = true) : Tbl.canon (t.filter p) d = true := by
  rw [Tbl.canon_iff] at h ⊢
  exact ⟨Tbl.sorted_filter _ _ h.1, fun e he => h.2 e (List.mem_of_mem_filter he)⟩

/-- Giving a key a value keeps the canonical form. -/
theorem Tbl.canon_put [DecidableEq α] (t : Tbl α) (k : Nat) (x d : α) (h : Tbl.canon t d = true) : Tbl.canon (Tbl.put t k x d) d = true := by
  rw [Tbl.canon_iff] at h ⊢
  refine ⟨Tbl.sorted_put _ _ _ _ h.1, ?_⟩
  intro e he
  unfold Tbl.put at he
  split at he
  · exact h.2 e (List.mem_of_mem_filter he)
  · rename_i hx
    rcases Tbl.mem_set he with rfl | he
    · exact hx
    · exact h.2 e he

end Sys2Proof.Machine
end

