-- ==== Sys2Proof/Laws/Regs.lean ====
section
/-!
SUPPORT. Sys2Proof/Laws/Regs.lean: a register field reads what was last written to it, cut to its width, and no other field changes; the register file
and the memory keep their canonical forms under every operation that writes them.
-/
namespace Sys2Proof.Machine

theorem Reg.ctorIdx_lt (r : Reg) : r.ctorIdx < 1024 := by cases r <;> decide

theorem Reg.ctorIdx_inj {r q : Reg} (h : r.ctorIdx = q.ctorIdx) : r = q := by
  rw [← Reg.ofNat_ctorIdx r, ← Reg.ofNat_ctorIdx q, h]

/-- A key names one field and one index. -/
theorem regKey_inj {r q : Reg} {i j : Nat} (h : regKey r i = regKey q j) : r = q ∧ i = j := by
  have h1 := Reg.ctorIdx_lt r
  have h2 := Reg.ctorIdx_lt q
  unfold regKey at h
  exact ⟨Reg.ctorIdx_inj (by omega), by omega⟩

/-- A field reads what was written, cut to its width. -/
@[simp] theorem rd_wr_same (s : State) (r : Reg) (i v : Nat) : rd (wr s r i v) r i = v % 2 ^ r.info.width := by
  simp [rd, wr]

/-- No other field changes. -/
theorem rd_wr_other (s : State) {r q : Reg} {i j : Nat} (v : Nat) (h : ¬ (q = r ∧ j = i)) : rd (wr s r i v) q j = rd s q j := by
  simp only [rd, wr]
  exact Tbl.getD_put_other _ _ _ _ (fun e => h (regKey_inj e))

/-- Writing a field changes the register file only. -/
theorem wr_eq (s : State) (r : Reg) (i v : Nat) : wr s r i v = { s with regs := (wr s r i v).regs } := rfl

/-! ### Canonical forms -/

theorem regsCanon_nil : RegsCanon [] := ⟨rfl, by simp⟩

theorem regsCanon_wr (s : State) (r : Reg) (i v : Nat) (h : RegsCanon s.regs) : RegsCanon (wr s r i v).regs := by
  refine ⟨Tbl.sorted_put _ _ _ _ h.1, ?_⟩
  intro e he
  simp only [wr, Tbl.put] at he
  split at he
  · exact h.2 e (List.mem_of_mem_filter he)
  · rename_i hx
    rcases Tbl.mem_set he with rfl | he
    · exact ⟨r, i, rfl, hx, Nat.mod_lt _ (Nat.two_pow_pos _)⟩
    · exact h.2 e he

theorem regsCanon_filter (t : Tbl Nat) (p : Nat × Nat → Bool) (h : RegsCanon t) : RegsCanon (t.filter p) :=
  ⟨Tbl.sorted_filter _ _ h.1, fun e he => h.2 e (List.mem_of_mem_filter he)⟩

theorem wf_putBytes (a : Nat) (d : List Byte) (m : List Host.Cell) (h : Memory.wf m = true) : Memory.wf (putBytes m a d) = true := by
  induction d generalizing m a with
  | nil => exact h
  | cons b t ih => exact ih _ _ (Tbl.canon_put _ _ _ _ h)

theorem wf_filter (m : List Host.Cell) (p : Host.Cell → Bool) (h : Memory.wf m = true) : Memory.wf (m.filter p) = true := Tbl.canon_filter _ _ _ h

theorem canon_reset : Canon State.reset := ⟨rfl, regsCanon_nil⟩

/-! ### Kept -/

theorem Kept.refl (a : State) : Kept a a := ⟨rfl, List.prefix_refl _, Nat.le_refl _, id, id⟩

theorem Kept.trans {a b c : State} (h : Kept a b) (k : Kept b c) : Kept a c :=
  ⟨k.1.trans h.1, h.2.1.trans k.2.1, h.2.2.1.trans k.2.2.1, fun x => k.2.2.2.1 (h.2.2.2.1 x), fun x => k.2.2.2.2 (h.2.2.2.2 x)⟩

theorem kept_wr {a s : State} (r : Reg) (i v : Nat) (h : Kept a s) : Kept a (wr s r i v) :=
  ⟨h.1, h.2.1, h.2.2.1, h.2.2.2.1, fun x => regsCanon_wr _ _ _ _ (h.2.2.2.2 x)⟩

theorem kept_emit {a s : State} (o : Output) (h : Kept a s) : Kept a (emit s o) :=
  ⟨h.1, h.2.1.trans (List.prefix_append _ _), h.2.2.1, h.2.2.2.1, h.2.2.2.2⟩

theorem kept_outs {a s : State} (o : List Output) (h : Kept a s) : Kept a { s with out := s.out ++ o } :=
  ⟨h.1, h.2.1.trans (List.prefix_append _ _), h.2.2.1, h.2.2.2.1, h.2.2.2.2⟩

theorem kept_fresh {a s : State} (w : Nat) (h : Kept a s) : Kept a (fresh s w).1 :=
  ⟨h.1, h.2.1, h.2.2.1.trans (Nat.le_succ _), h.2.2.2.1, h.2.2.2.2⟩

theorem kept_freshBytes {a s : State} (n : Nat) (h : Kept a s) : Kept a (freshBytes s n).1 :=
  ⟨h.1, h.2.1, h.2.2.1.trans (Nat.le_succ _), h.2.2.2.1, h.2.2.2.2⟩

theorem kept_resetRegs {a s : State} (p : Reg → Nat → Bool) (h : Kept a s) : Kept a (resetRegs s p) :=
  ⟨h.1, h.2.1, h.2.2.1, h.2.2.2.1, fun x => regsCanon_filter _ _ (h.2.2.2.2 x)⟩

theorem kept_wipeRange {a s : State} (b n : Nat) (h : Kept a s) : Kept a (wipeRange s b n) :=
  ⟨h.1, h.2.1, h.2.2.1, fun x => wf_filter _ _ (h.2.2.2.1 x), h.2.2.2.2⟩

theorem kept_foldl {α : Type} {a : State} (g : State → α → State) (hg : ∀ s x, Kept a s → Kept a (g s x)) (l : List α) (s : State) (h : Kept a s) :
    Kept a (l.foldl g s) := by
  induction l generalizing s with
  | nil => exact h
  | cons x t ih => exact ih _ (hg _ _ h)

theorem kept_foldl_fst {α β : Type} {a : State} (g : State × β → α → State × β) (hg : ∀ p x, Kept a p.1 → Kept a (g p x).1) (l : List α) (p : State × β)
    (h : Kept a p.1) : Kept a (l.foldl g p).1 := by
  induction l generalizing p with
  | nil => exact h
  | cons x t ih => exact ih _ (hg _ _ h)

theorem kept_fst {β : Type} {a t : State} {r : β} {p : State × β} (h : Kept a p.1) (e : p = (t, r)) : Kept a t := by
  subst e
  exact h

theorem kept_pair {β : Type} {a s : State} (r : β) (h : Kept a s) : Kept a ((s, r) : State × β).1 := h

/-- A change of parts that Kept does not speak of. -/
theorem kept_parts {a s : State} (h : Kept a s) : KeptC a s.pending s.out s.freeCount s.mem s.regs := h

/-- The same with something more that has left the block. -/
theorem kept_parts_out {a s : State} {o : List Output} (h : Kept a s) : KeptC a s.pending (s.out ++ o) s.freeCount s.mem s.regs :=
  ⟨h.1, h.2.1.trans (List.prefix_append _ _), h.2.2.1, h.2.2.2.1, h.2.2.2.2⟩

/-- The same with entries of the register file taken out, or bytes of memory, or bytes written. -/
theorem kept_parts_regs {a s : State} {p : Nat × Nat → Bool} (h : Kept a s) : KeptC a s.pending s.out s.freeCount s.mem (s.regs.filter p) :=
  ⟨h.1, h.2.1, h.2.2.1, h.2.2.2.1, fun x => regsCanon_filter _ _ (h.2.2.2.2 x)⟩

theorem kept_parts_filter {a s : State} {p : Host.Cell → Bool} (h : Kept a s) : KeptC a s.pending s.out s.freeCount (s.mem.filter p) s.regs :=
  ⟨h.1, h.2.1, h.2.2.1, fun x => wf_filter _ _ (h.2.2.2.1 x), h.2.2.2.2⟩

theorem kept_parts_put {a s : State} {b : Nat} {d : List Byte} (h : Kept a s) : KeptC a s.pending s.out s.freeCount (putBytes s.mem b d) s.regs :=
  ⟨h.1, h.2.1, h.2.2.1, fun x => wf_putBytes _ _ _ (h.2.2.2.1 x), h.2.2.2.2⟩

/-- Memory kept, registers as after a power-on. -/
theorem kept_parts_bare {a s : State} (h : Kept a s) : KeptC a s.pending s.out s.freeCount s.mem [] :=
  ⟨h.1, h.2.1, h.2.2.1, h.2.2.2.1, fun _ => regsCanon_nil⟩

theorem kept_parts_reset {a s : State} (h : Kept a s) : KeptC a s.pending s.out s.freeCount [] [] :=
  ⟨h.1, h.2.1, h.2.2.1, fun _ => rfl, fun _ => regsCanon_nil⟩

theorem kept_getD {a s : State} {o : Option State} (h : Kept a s) (ho : ∀ t, o = some t → Kept a t) : Kept a (o.getD s) := by
  cases o with
  | none => exact h
  | some t => exact ho t rfl

end Sys2Proof.Machine
end

