-- ==== Sys2Proof/Laws/KeptOps.lean ====
section
/-!
SUPPORT. Sys2Proof/Laws/KeptOps.lean: every operation of Sys2Proof/Machine/Ops.lean leaves the queue, appends to what has left the block, and keeps the canonical forms.
-/
set_option linter.unusedVariables false
set_option linter.unreachableTactic false
set_option linter.unusedTactic false
namespace Sys2Proof.Machine

theorem kept_inc {st0 : State} {s : State} {y1 : Reg} {i : Nat} {n : Nat} (hk : Kept st0 s) : Kept st0 (inc s y1 i n) := by
  unfold inc
  with_reducible repeat' first
    | assumption
    | (dsimp only)
    | refine kept_fst ?_ (by assumption)
    | apply kept_wr
    | apply kept_foldl
    | apply kept_foldl_fst
    | apply kept_getD
    | intro _
    | split
    | exact kept_pair _ (by assumption)
    | (unfold Kept; dsimp only; first | refine kept_parts ?_ | refine kept_parts_out ?_ | refine kept_parts_put ?_ | refine kept_parts_regs ?_ | refine kept_parts_filter ?_)
    | contradiction

theorem kept_wrs {st0 : State} {s : State} {y1 : List (Reg × Nat × Nat)} (hk : Kept st0 s) : Kept st0 (wrs s y1) := by
  induction y1 generalizing s with
  | nil => unfold wrs; with_reducible repeat' first
    | assumption
    | (dsimp only)
    | refine kept_fst ?_ (by assumption)
    | apply kept_wr
    | apply kept_foldl
    | apply kept_foldl_fst
    | apply kept_getD
    | intro _
    | split
    | exact kept_pair _ (by assumption)
    | (unfold Kept; dsimp only; first | refine kept_parts ?_ | refine kept_parts_out ?_ | refine kept_parts_put ?_ | refine kept_parts_regs ?_ | refine kept_parts_filter ?_)
    | contradiction
  | cons xx tt ih => unfold wrs; with_reducible repeat' first
    | apply ih
    | assumption
    | (dsimp only)
    | refine kept_fst ?_ (by assumption)
    | apply kept_wr
    | apply kept_foldl
    | apply kept_foldl_fst
    | apply kept_getD
    | intro _
    | split
    | exact kept_pair _ (by assumption)
    | (unfold Kept; dsimp only; first | refine kept_parts ?_ | refine kept_parts_out ?_ | refine kept_parts_put ?_ | refine kept_parts_regs ?_ | refine kept_parts_filter ?_)
    | contradiction

theorem kept_sendMsi {st0 : State} {s : State} {v : Nat} (hk : Kept st0 s) : Kept st0 (sendMsi s v) := by
  unfold sendMsi
  with_reducible repeat' first
    | assumption
    | (dsimp only)
    | refine kept_fst ?_ (by assumption)
    | apply kept_emit
    | apply kept_foldl
    | apply kept_foldl_fst
    | apply kept_getD
    | intro _
    | split
    | exact kept_pair _ (by assumption)
    | (unfold Kept; dsimp only; first | refine kept_parts ?_ | refine kept_parts_out ?_ | refine kept_parts_put ?_ | refine kept_parts_regs ?_ | refine kept_parts_filter ?_)
    | contradiction

theorem kept_recordMsi {st0 : State} {s : State} {v : Nat} (hk : Kept st0 s) : Kept st0 (recordMsi s v) := by
  unfold recordMsi
  with_reducible repeat' first
    | assumption
    | (dsimp only)
    | refine kept_fst ?_ (by assumption)
    | apply kept_sendMsi
    | apply kept_foldl
    | apply kept_foldl_fst
    | apply kept_getD
    | intro _
    | split
    | exact kept_pair _ (by assumption)
    | (unfold Kept; dsimp only; first | refine kept_parts ?_ | refine kept_parts_out ?_ | refine kept_parts_put ?_ | refine kept_parts_regs ?_ | refine kept_parts_filter ?_)
    | contradiction

theorem kept_writeEvent {st0 : State} {s : State} {rec : List Byte} (hk : Kept st0 s) : Kept st0 (writeEvent s rec) := by
  unfold writeEvent
  with_reducible repeat' first
    | assumption
    | (dsimp only)
    | refine kept_fst ?_ (by assumption)
    | apply kept_emit
    | apply kept_inc
    | apply kept_wr
    | apply kept_recordMsi
    | apply kept_foldl
    | apply kept_foldl_fst
    | apply kept_getD
    | intro _
    | split
    | exact kept_pair _ (by assumption)
    | (unfold Kept; dsimp only; first | refine kept_parts ?_ | refine kept_parts_out ?_ | refine kept_parts_put ?_ | refine kept_parts_regs ?_ | refine kept_parts_filter ?_)
    | contradiction

theorem kept_postEvent {st0 : State} {s : State} {typ : Nat} {st : Nat} {job : Nat} {dev : Nat} {arg0 : Nat} {arg1 : Nat} (hk : Kept st0 s) : Kept st0 (postEvent s typ st job dev arg0 arg1) := by
  unfold postEvent
  with_reducible repeat' first
    | assumption
    | (dsimp only)
    | refine kept_fst ?_ (by assumption)
    | apply kept_writeEvent
    | apply kept_inc
    | apply kept_foldl
    | apply kept_foldl_fst
    | apply kept_getD
    | intro _
    | split
    | exact kept_pair _ (by assumption)
    | (unfold Kept; dsimp only; first | refine kept_parts ?_ | refine kept_parts_out ?_ | refine kept_parts_put ?_ | refine kept_parts_regs ?_ | refine kept_parts_filter ?_)
    | contradiction

theorem kept_stoneWrite {st0 : State} {s : State} {kind : Nat} {vals : List (Nat × Nat)} {first : Bool} (hk : Kept st0 s) : Kept st0 (stoneWrite s kind vals first) := by
  unfold stoneWrite
  with_reducible repeat' first
    | assumption
    | (dsimp only)
    | refine kept_fst ?_ (by assumption)
    | apply kept_inc
    | apply kept_foldl
    | apply kept_foldl_fst
    | apply kept_getD
    | intro _
    | split
    | exact kept_pair _ (by assumption)
    | (unfold Kept; dsimp only; first | refine kept_parts ?_ | refine kept_parts_out ?_ | refine kept_parts_put ?_ | refine kept_parts_regs ?_ | refine kept_parts_filter ?_)
    | contradiction

theorem kept_recordUe {st0 : State} {s : State} {w : Nat} {source : Nat} (hk : Kept st0 s) : Kept st0 (recordUe s w source) := by
  unfold recordUe
  with_reducible repeat' first
    | assumption
    | (dsimp only)
    | refine kept_fst ?_ (by assumption)
    | apply kept_inc
    | apply kept_wrs
    | apply kept_stoneWrite
    | apply kept_postEvent
    | apply kept_foldl
    | apply kept_foldl_fst
    | apply kept_getD
    | intro _
    | split
    | exact kept_pair _ (by assumption)
    | (unfold Kept; dsimp only; first | refine kept_parts ?_ | refine kept_parts_out ?_ | refine kept_parts_put ?_ | refine kept_parts_regs ?_ | refine kept_parts_filter ?_)
    | contradiction

theorem kept_correctWord {st0 : State} {s : State} {w : Nat} (hk : Kept st0 s) : Kept st0 (correctWord s w) := by
  unfold correctWord
  with_reducible repeat' first
    | assumption
    | (dsimp only)
    | refine kept_fst ?_ (by assumption)
    | apply kept_inc
    | apply kept_foldl
    | apply kept_foldl_fst
    | apply kept_getD
    | intro _
    | split
    | exact kept_pair _ (by assumption)
    | (unfold Kept; dsimp only; first | refine kept_parts ?_ | refine kept_parts_out ?_ | refine kept_parts_put ?_ | refine kept_parts_regs ?_ | refine kept_parts_filter ?_)
    | contradiction

theorem kept_retirePage {st0 : State} {s : State} {page : Nat} (hk : Kept st0 s) : Kept st0 (retirePage s page) := by
  unfold retirePage
  with_reducible repeat' first
    | assumption
    | (dsimp only)
    | refine kept_fst ?_ (by assumption)
    | apply kept_stoneWrite
    | apply kept_wr
    | apply kept_wrs
    | apply kept_foldl
    | apply kept_foldl_fst
    | apply kept_getD
    | intro _
    | split
    | exact kept_pair _ (by assumption)
    | (unfold Kept; dsimp only; first | refine kept_parts ?_ | refine kept_parts_out ?_ | refine kept_parts_put ?_ | refine kept_parts_regs ?_ | refine kept_parts_filter ?_)
    | contradiction

theorem kept_readWord {st0 : State} {s : State} {w : Nat} {source : Nat} (hk : Kept st0 s) : Kept st0 (readWord s w source).1 := by
  unfold readWord
  with_reducible repeat' first
    | assumption
    | (dsimp only)
    | refine kept_fst ?_ (by assumption)
    | apply kept_recordUe
    | apply kept_retirePage
    | apply kept_correctWord
    | apply kept_foldl
    | apply kept_foldl_fst
    | apply kept_getD
    | intro _
    | split
    | exact kept_pair _ (by assumption)
    | (unfold Kept; dsimp only; first | refine kept_parts ?_ | refine kept_parts_out ?_ | refine kept_parts_put ?_ | refine kept_parts_regs ?_ | refine kept_parts_filter ?_)
    | contradiction

theorem kept_readWords {st0 : State} {source : Nat} {y1 : List Nat} {y2 : State} (hk : Kept st0 y2) : Kept st0 (readWords source y1 y2).1 := by
  induction y1 generalizing y2 with
  | nil => unfold readWords; with_reducible repeat' first
    | assumption
    | (dsimp only)
    | refine kept_fst ?_ (by assumption)
    | apply kept_readWord
    | apply kept_foldl
    | apply kept_foldl_fst
    | apply kept_getD
    | intro _
    | split
    | exact kept_pair _ (by assumption)
    | (unfold Kept; dsimp only; first | refine kept_parts ?_ | refine kept_parts_out ?_ | refine kept_parts_put ?_ | refine kept_parts_regs ?_ | refine kept_parts_filter ?_)
    | contradiction
  | cons xx tt ih => unfold readWords; with_reducible repeat' first
    | apply ih
    | assumption
    | (dsimp only)
    | refine kept_fst ?_ (by assumption)
    | apply kept_readWord
    | apply kept_foldl
    | apply kept_foldl_fst
    | apply kept_getD
    | intro _
    | split
    | exact kept_pair _ (by assumption)
    | (unfold Kept; dsimp only; first | refine kept_parts ?_ | refine kept_parts_out ?_ | refine kept_parts_put ?_ | refine kept_parts_regs ?_ | refine kept_parts_filter ?_)
    | contradiction

theorem kept_readMem {st0 : State} {s : State} {a : Nat} {n : Nat} {source : Nat} (hk : Kept st0 s) : Kept st0 (readMem s a n source).1 := by
  unfold readMem
  with_reducible repeat' first
    | assumption
    | (dsimp only)
    | refine kept_fst ?_ (by assumption)
    | apply kept_readWords
    | apply kept_foldl
    | apply kept_foldl_fst
    | apply kept_getD
    | intro _
    | split
    | exact kept_pair _ (by assumption)
    | (unfold Kept; dsimp only; first | refine kept_parts ?_ | refine kept_parts_out ?_ | refine kept_parts_put ?_ | refine kept_parts_regs ?_ | refine kept_parts_filter ?_)
    | contradiction

theorem kept_cancelResv {st0 : State} {s : State} {a : Nat} {n : Nat} (hk : Kept st0 s) : Kept st0 (cancelResv s a n) := by
  unfold cancelResv
  with_reducible repeat' first
    | assumption
    | (dsimp only)
    | refine kept_fst ?_ (by assumption)
    | apply kept_foldl
    | apply kept_foldl_fst
    | apply kept_getD
    | intro _
    | split
    | exact kept_pair _ (by assumption)
    | (unfold Kept; dsimp only; first | refine kept_parts ?_ | refine kept_parts_out ?_ | refine kept_parts_put ?_ | refine kept_parts_regs ?_ | refine kept_parts_filter ?_)
    | contradiction

theorem kept_fireInjection {st0 : State} {s : State} {w : Nat} (hk : Kept st0 s) : Kept st0 (fireInjection s w) := by
  unfold fireInjection
  with_reducible repeat' first
    | assumption
    | (dsimp only)
    | refine kept_fst ?_ (by assumption)
    | apply kept_wr
    | apply kept_foldl
    | apply kept_foldl_fst
    | apply kept_getD
    | intro _
    | split
    | exact kept_pair _ (by assumption)
    | (unfold Kept; dsimp only; first | refine kept_parts ?_ | refine kept_parts_out ?_ | refine kept_parts_put ?_ | refine kept_parts_regs ?_ | refine kept_parts_filter ?_)
    | contradiction

theorem kept_writeWord {st0 : State} {s : State} {w : Nat} {a : Nat} {d : List Byte} (hk : Kept st0 s) : Kept st0 (writeWord s w a d).1 := by
  unfold writeWord
  with_reducible repeat' first
    | assumption
    | (dsimp only)
    | refine kept_fst ?_ (by assumption)
    | apply kept_recordUe
    | apply kept_correctWord
    | apply kept_fireInjection
    | apply kept_cancelResv
    | apply kept_foldl
    | apply kept_foldl_fst
    | apply kept_getD
    | intro _
    | split
    | exact kept_pair _ (by assumption)
    | (unfold Kept; dsimp only; first | refine kept_parts ?_ | refine kept_parts_out ?_ | refine kept_parts_put ?_ | refine kept_parts_regs ?_ | refine kept_parts_filter ?_)
    | contradiction

theorem kept_writeWords {st0 : State} {y0 : List Nat} {y1 : State} {y2 : Nat} {y3 : List Byte} (hk : Kept st0 y1) : Kept st0 (writeWords y0 y1 y2 y3).1 := by
  induction y0 generalizing y1 y2 y3 with
  | nil => unfold writeWords; with_reducible repeat' first
    | assumption
    | (dsimp only)
    | refine kept_fst ?_ (by assumption)
    | apply kept_writeWord
    | apply kept_foldl
    | apply kept_foldl_fst
    | apply kept_getD
    | intro _
    | split
    | exact kept_pair _ (by assumption)
    | (unfold Kept; dsimp only; first | refine kept_parts ?_ | refine kept_parts_out ?_ | refine kept_parts_put ?_ | refine kept_parts_regs ?_ | refine kept_parts_filter ?_)
    | contradiction
  | cons xx tt ih => unfold writeWords; with_reducible repeat' first
    | apply ih
    | assumption
    | (dsimp only)
    | refine kept_fst ?_ (by assumption)
    | apply kept_writeWord
    | apply kept_foldl
    | apply kept_foldl_fst
    | apply kept_getD
    | intro _
    | split
    | exact kept_pair _ (by assumption)
    | (unfold Kept; dsimp only; first | refine kept_parts ?_ | refine kept_parts_out ?_ | refine kept_parts_put ?_ | refine kept_parts_regs ?_ | refine kept_parts_filter ?_)
    | contradiction

theorem kept_dropPrefs {st0 : State} {s : State} {a : Nat} {n : Nat} (hk : Kept st0 s) : Kept st0 (dropPrefs s a n) := by
  unfold dropPrefs
  with_reducible repeat' first
    | assumption
    | (dsimp only)
    | refine kept_fst ?_ (by assumption)
    | apply kept_inc
    | apply kept_foldl
    | apply kept_foldl_fst
    | apply kept_getD
    | intro _
    | split
    | exact kept_pair _ (by assumption)
    | (unfold Kept; dsimp only; first | refine kept_parts ?_ | refine kept_parts_out ?_ | refine kept_parts_put ?_ | refine kept_parts_regs ?_ | refine kept_parts_filter ?_)
    | contradiction

theorem kept_writeMem {st0 : State} {s : State} {a : Nat} {d : List Byte} (hk : Kept st0 s) : Kept st0 (writeMem s a d).1 := by
  unfold writeMem
  with_reducible repeat' first
    | assumption
    | (dsimp only)
    | refine kept_fst ?_ (by assumption)
    | apply kept_writeWords
    | apply kept_dropPrefs
    | apply kept_foldl
    | apply kept_foldl_fst
    | apply kept_getD
    | intro _
    | split
    | exact kept_pair _ (by assumption)
    | (unfold Kept; dsimp only; first | refine kept_parts ?_ | refine kept_parts_out ?_ | refine kept_parts_put ?_ | refine kept_parts_regs ?_ | refine kept_parts_filter ?_)
    | contradiction

theorem kept_dirtyRange {st0 : State} {s : State} {a : Nat} {n : Nat} (hk : Kept st0 s) : Kept st0 (dirtyRange s a n) := by
  unfold dirtyRange
  with_reducible repeat' first
    | assumption
    | (dsimp only)
    | refine kept_fst ?_ (by assumption)
    | apply kept_foldl
    | apply kept_foldl_fst
    | apply kept_getD
    | intro _
    | split
    | exact kept_pair _ (by assumption)
    | (unfold Kept; dsimp only; first | refine kept_parts ?_ | refine kept_parts_out ?_ | refine kept_parts_put ?_ | refine kept_parts_regs ?_ | refine kept_parts_filter ?_)
    | contradiction

theorem kept_touchRange {st0 : State} {s : State} {a : Nat} {n : Nat} (hk : Kept st0 s) : Kept st0 (touchRange s a n) := by
  unfold touchRange
  with_reducible repeat' first
    | assumption
    | (dsimp only)
    | refine kept_fst ?_ (by assumption)
    | apply kept_cancelResv
    | apply kept_dirtyRange
    | apply kept_dropPrefs
    | apply kept_foldl
    | apply kept_foldl_fst
    | apply kept_getD
    | intro _
    | split
    | exact kept_pair _ (by assumption)
    | (unfold Kept; dsimp only; first | refine kept_parts ?_ | refine kept_parts_out ?_ | refine kept_parts_put ?_ | refine kept_parts_regs ?_ | refine kept_parts_filter ?_)
    | contradiction

theorem kept_leaveUndefined {st0 : State} {s : State} {a : Nat} {n : Nat} (hk : Kept st0 s) : Kept st0 (leaveUndefined s a n) := by
  unfold leaveUndefined
  split
  · exact hk
  · have h := kept_touchRange (a := a) (n := n) hk
    exact ⟨h.1, h.2.1, h.2.2.1.trans (Nat.le_succ _), h.2.2.2.1, h.2.2.2.2⟩

theorem kept_zeroWord {st0 : State} {a : Nat} {n : Nat} {s : State} {w : Nat} (hk : Kept st0 s) : Kept st0 (zeroWord a n s w) := by
  unfold zeroWord
  with_reducible repeat' first
    | assumption
    | (dsimp only)
    | refine kept_fst ?_ (by assumption)
    | apply kept_writeWord
    | apply kept_foldl
    | apply kept_foldl_fst
    | apply kept_getD
    | intro _
    | split
    | exact kept_pair _ (by assumption)
    | (unfold Kept; dsimp only; first | refine kept_parts ?_ | refine kept_parts_out ?_ | refine kept_parts_put ?_ | refine kept_parts_regs ?_ | refine kept_parts_filter ?_)
    | contradiction

theorem kept_zeroRange {st0 : State} {s : State} {a : Nat} {n : Nat} (hk : Kept st0 s) : Kept st0 (zeroRange s a n) := by
  unfold zeroRange
  with_reducible repeat' first
    | assumption
    | (dsimp only)
    | refine kept_fst ?_ (by assumption)
    | apply kept_touchRange
    | apply kept_zeroWord
    | apply kept_foldl
    | apply kept_foldl_fst
    | apply kept_getD
    | intro _
    | split
    | exact kept_pair _ (by assumption)
    | (unfold Kept; dsimp only; first | refine kept_parts ?_ | refine kept_parts_out ?_ | refine kept_parts_put ?_ | refine kept_parts_regs ?_ | refine kept_parts_filter ?_)
    | contradiction

theorem kept_setPartState {st0 : State} {s : State} {p : Nat} {v : Nat} (hk : Kept st0 s) : Kept st0 (setPartState s p v) := by
  unfold setPartState
  with_reducible repeat' first
    | assumption
    | (dsimp only)
    | refine kept_fst ?_ (by assumption)
    | apply kept_wrs
    | apply kept_foldl
    | apply kept_foldl_fst
    | apply kept_getD
    | intro _
    | split
    | exact kept_pair _ (by assumption)
    | (unfold Kept; dsimp only; first | refine kept_parts ?_ | refine kept_parts_out ?_ | refine kept_parts_put ?_ | refine kept_parts_regs ?_ | refine kept_parts_filter ?_)
    | contradiction

theorem kept_setCore {st0 : State} {s : State} {l : Nat} {c : CoreSt} (hk : Kept st0 s) : Kept st0 (setCore s l c) := by
  unfold setCore
  with_reducible repeat' first
    | assumption
    | (dsimp only)
    | refine kept_fst ?_ (by assumption)
    | apply kept_foldl
    | apply kept_foldl_fst
    | apply kept_getD
    | intro _
    | split
    | exact kept_pair _ (by assumption)
    | (unfold Kept; dsimp only; first | refine kept_parts ?_ | refine kept_parts_out ?_ | refine kept_parts_put ?_ | refine kept_parts_regs ?_ | refine kept_parts_filter ?_)
    | contradiction

theorem kept_writeRec {st0 : State} {s : State} {q : Nat} {rec : List Byte} (hk : Kept st0 s) : Kept st0 (writeRec s q rec) := by
  unfold writeRec
  with_reducible repeat' first
    | assumption
    | (dsimp only)
    | refine kept_fst ?_ (by assumption)
    | apply kept_emit
    | apply kept_wr
    | apply kept_recordMsi
    | apply kept_foldl
    | apply kept_foldl_fst
    | apply kept_getD
    | intro _
    | split
    | exact kept_pair _ (by assumption)
    | (unfold Kept; dsimp only; first | refine kept_parts ?_ | refine kept_parts_out ?_ | refine kept_parts_put ?_ | refine kept_parts_regs ?_ | refine kept_parts_filter ?_)
    | contradiction

theorem kept_giveSig {st0 : State} {s : State} {y1 : Option LocalSig} (hk : Kept st0 s) : Kept st0 (giveSig s y1) := by
  unfold giveSig
  with_reducible repeat' first
    | assumption
    | (dsimp only)
    | refine kept_fst ?_ (by assumption)
    | apply kept_foldl
    | apply kept_foldl_fst
    | apply kept_getD
    | intro _
    | split
    | exact kept_pair _ (by assumption)
    | (unfold Kept; dsimp only; first | refine kept_parts ?_ | refine kept_parts_out ?_ | refine kept_parts_put ?_ | refine kept_parts_regs ?_ | refine kept_parts_filter ?_)
    | contradiction

theorem kept_postRec {st0 : State} {s : State} {q : Nat} {rec : List Byte} {u : Option RecUnit} {g : Option LocalSig} (hk : Kept st0 s) : Kept st0 (postRec s q rec u g) := by
  unfold postRec
  with_reducible repeat' first
    | assumption
    | (dsimp only)
    | refine kept_fst ?_ (by assumption)
    | apply kept_giveSig
    | apply kept_inc
    | apply kept_writeRec
    | apply kept_foldl
    | apply kept_foldl_fst
    | apply kept_getD
    | intro _
    | split
    | exact kept_pair _ (by assumption)
    | (unfold Kept; dsimp only; first | refine kept_parts ?_ | refine kept_parts_out ?_ | refine kept_parts_put ?_ | refine kept_parts_regs ?_ | refine kept_parts_filter ?_)
    | contradiction

theorem kept_postJobRec {st0 : State} {s : State} {q : Nat} {j : Nat} {kind : Nat} {rec : List Byte} {u : Option RecUnit} {g : Option LocalSig} (hk : Kept st0 s) : Kept st0 (postJobRec s q j kind rec u g) := by
  unfold postJobRec
  with_reducible repeat' first
    | assumption
    | (dsimp only)
    | refine kept_fst ?_ (by assumption)
    | apply kept_postRec
    | apply kept_giveSig
    | apply kept_inc
    | apply kept_foldl
    | apply kept_foldl_fst
    | apply kept_getD
    | intro _
    | split
    | exact kept_pair _ (by assumption)
    | (unfold Kept; dsimp only; first | refine kept_parts ?_ | refine kept_parts_out ?_ | refine kept_parts_put ?_ | refine kept_parts_regs ?_ | refine kept_parts_filter ?_)
    | contradiction

theorem kept_postFailRec {st0 : State} {s : State} {q : Nat} {j : Nat} {kind : Nat} {rec : List Byte} {u : Option RecUnit} (hk : Kept st0 s) : Kept st0 (postFailRec s q j kind rec u) := by
  unfold postFailRec
  with_reducible repeat' first
    | assumption
    | (dsimp only)
    | refine kept_fst ?_ (by assumption)
    | apply kept_postRec
    | apply kept_foldl
    | apply kept_foldl_fst
    | apply kept_getD
    | intro _
    | split
    | exact kept_pair _ (by assumption)
    | (unfold Kept; dsimp only; first | refine kept_parts ?_ | refine kept_parts_out ?_ | refine kept_parts_put ?_ | refine kept_parts_regs ?_ | refine kept_parts_filter ?_)
    | contradiction

theorem kept_setFifo {st0 : State} {s : State} {q : Nat} {l : List (List Byte)} (hk : Kept st0 s) : Kept st0 (setFifo s q l) := by
  unfold setFifo
  with_reducible repeat' first
    | assumption
    | (dsimp only)
    | refine kept_fst ?_ (by assumption)
    | apply kept_foldl
    | apply kept_foldl_fst
    | apply kept_getD
    | intro _
    | split
    | exact kept_pair _ (by assumption)
    | (unfold Kept; dsimp only; first | refine kept_parts ?_ | refine kept_parts_out ?_ | refine kept_parts_put ?_ | refine kept_parts_regs ?_ | refine kept_parts_filter ?_)
    | contradiction

theorem kept_popFifo {st0 : State} {s : State} {q : Nat} (hk : Kept st0 s) : Kept st0 (popFifo s q) := by
  unfold popFifo
  with_reducible repeat' first
    | assumption
    | (dsimp only)
    | refine kept_fst ?_ (by assumption)
    | apply kept_setFifo
    | apply kept_foldl
    | apply kept_foldl_fst
    | apply kept_getD
    | intro _
    | split
    | exact kept_pair _ (by assumption)
    | (unfold Kept; dsimp only; first | refine kept_parts ?_ | refine kept_parts_out ?_ | refine kept_parts_put ?_ | refine kept_parts_regs ?_ | refine kept_parts_filter ?_)
    | contradiction

theorem kept_drainRecs {st0 : State} {q : Nat} {y1 : Nat} {y2 : State} (hk : Kept st0 y2) : Kept st0 (drainRecs q y1 y2) := by
  induction y1 generalizing y2 with
  | zero => unfold drainRecs; with_reducible repeat' first
    | assumption
    | (dsimp only)
    | refine kept_fst ?_ (by assumption)
    | apply kept_giveSig
    | apply kept_writeRec
    | apply kept_foldl
    | apply kept_foldl_fst
    | apply kept_getD
    | intro _
    | split
    | exact kept_pair _ (by assumption)
    | (unfold Kept; dsimp only; first | refine kept_parts ?_ | refine kept_parts_out ?_ | refine kept_parts_put ?_ | refine kept_parts_regs ?_ | refine kept_parts_filter ?_)
    | contradiction
  | succ m ih => unfold drainRecs; with_reducible repeat' first
    | apply ih
    | assumption
    | (dsimp only)
    | refine kept_fst ?_ (by assumption)
    | apply kept_giveSig
    | apply kept_writeRec
    | apply kept_foldl
    | apply kept_foldl_fst
    | apply kept_getD
    | intro _
    | split
    | exact kept_pair _ (by assumption)
    | (unfold Kept; dsimp only; first | refine kept_parts ?_ | refine kept_parts_out ?_ | refine kept_parts_put ?_ | refine kept_parts_regs ?_ | refine kept_parts_filter ?_)
    | contradiction

theorem kept_aer {st0 : State} {s : State} {b : Nat} (hk : Kept st0 s) : Kept st0 (aer s b) := by
  unfold aer
  with_reducible repeat' first
    | assumption
    | (dsimp only)
    | refine kept_fst ?_ (by assumption)
    | apply kept_emit
    | apply kept_foldl
    | apply kept_foldl_fst
    | apply kept_getD
    | intro _
    | split
    | exact kept_pair _ (by assumption)
    | (unfold Kept; dsimp only; first | refine kept_parts ?_ | refine kept_parts_out ?_ | refine kept_parts_put ?_ | refine kept_parts_regs ?_ | refine kept_parts_filter ?_)
    | contradiction

theorem kept_idle {st0 : State} {s : State} (hk : Kept st0 s) : Kept st0 (idle s) := by
  unfold idle
  with_reducible repeat' first
    | assumption
    | (dsimp only)
    | refine kept_fst ?_ (by assumption)
    | apply kept_foldl
    | apply kept_foldl_fst
    | apply kept_getD
    | intro _
    | split
    | exact kept_pair _ (by assumption)
    | (unfold Kept; dsimp only; first | refine kept_parts ?_ | refine kept_parts_out ?_ | refine kept_parts_put ?_ | refine kept_parts_regs ?_ | refine kept_parts_filter ?_)
    | contradiction

end Sys2Proof.Machine
end

