-- ==== Sys2Proof/Laws/KeptRoute.lean ====
section
/-!
SUPPORT. Sys2Proof/Laws/KeptRoute.lean: every operation of Sys2Proof/Machine/Route.lean leaves the queue, appends to what has left the block, and keeps the canonical forms.
-/
set_option linter.unusedVariables false
set_option linter.unreachableTactic false
set_option linter.unusedTactic false
namespace Sys2Proof.Machine

theorem kept_addDigest {st0 : State} {s : State} {send : Bool} {p : Pkt} (hk : Kept st0 s) : Kept st0 (addDigest s send p) := by
  unfold addDigest
  with_reducible repeat' first
    | assumption
    | (dsimp only)
    | refine kept_fst ?_ (by assumption)
    | apply kept_inc
    | apply kept_wrs
    | apply kept_wr
    | apply kept_foldl
    | apply kept_foldl_fst
    | apply kept_getD
    | intro _
    | split
    | exact kept_pair _ (by assumption)
    | (unfold Kept; dsimp only; first | refine kept_parts ?_ | refine kept_parts_out ?_ | refine kept_parts_put ?_ | refine kept_parts_regs ?_ | refine kept_parts_filter ?_)
    | contradiction

theorem kept_setLink {st0 : State} {s : State} {p : Nat} {x : LinkSt} (hk : Kept st0 s) : Kept st0 (setLink s p x) := by
  unfold setLink
  with_reducible repeat' first
    | assumption
    | (dsimp only)
    | refine kept_fst ?_ (by assumption)
    | apply kept_foldl
    | apply kept_foldl_fst
    | apply kept_getD
    | intro _
    | split
    | exact kept_pair _ (by assumption)
    | (unfold Kept; dsimp only; first | refine kept_parts ?_ | refine kept_parts_out ?_ | refine kept_parts_put ?_ | refine kept_parts_regs ?_ | refine kept_parts_filter ?_)
    | contradiction

theorem kept_oweCredit {st0 : State} {s : State} {src : Option (Nat × Nat × Nat)} (hk : Kept st0 s) : Kept st0 (oweCredit s src) := by
  unfold oweCredit
  with_reducible repeat' first
    | assumption
    | (dsimp only)
    | refine kept_fst ?_ (by assumption)
    | apply kept_setLink
    | apply kept_foldl
    | apply kept_foldl_fst
    | apply kept_getD
    | intro _
    | split
    | exact kept_pair _ (by assumption)
    | (unfold Kept; dsimp only; first | refine kept_parts ?_ | refine kept_parts_out ?_ | refine kept_parts_put ?_ | refine kept_parts_regs ?_ | refine kept_parts_filter ?_)
    | contradiction

theorem kept_sendFlits {st0 : State} {s : State} {port : Nat} {w : Waiting} (hk : Kept st0 s) : Kept st0 (sendFlits s port w) := by
  unfold sendFlits
  with_reducible repeat' first
    | assumption
    | (dsimp only)
    | refine kept_fst ?_ (by assumption)
    | apply kept_setLink
    | apply kept_emit
    | apply kept_foldl
    | apply kept_foldl_fst
    | apply kept_getD
    | intro _
    | split
    | exact kept_pair _ (by assumption)
    | (unfold Kept; dsimp only; first | refine kept_parts ?_ | refine kept_parts_out ?_ | refine kept_parts_put ?_ | refine kept_parts_regs ?_ | refine kept_parts_filter ?_)
    | contradiction

theorem kept_sendLink {st0 : State} {s : State} {port : Nat} {aux : Nat} {b : List Byte} (hk : Kept st0 s) : Kept st0 (sendLink s port aux b) := by
  unfold sendLink
  with_reducible repeat' first
    | assumption
    | (dsimp only)
    | refine kept_fst ?_ (by assumption)
    | apply kept_emit
    | apply kept_sendFlits
    | apply kept_setLink
    | apply kept_foldl
    | apply kept_foldl_fst
    | apply kept_getD
    | intro _
    | split
    | exact kept_pair _ (by assumption)
    | (unfold Kept; dsimp only; first | refine kept_parts ?_ | refine kept_parts_out ?_ | refine kept_parts_put ?_ | refine kept_parts_regs ?_ | refine kept_parts_filter ?_)
    | contradiction

theorem kept_drainCtrl {st0 : State} {port : Nat} {y1 : List Pkt} {y2 : State} (hk : Kept st0 y2) : Kept st0 (drainCtrl port y1 y2) := by
  induction y1 generalizing y2 with
  | nil => unfold drainCtrl; with_reducible repeat' first
    | assumption
    | (dsimp only)
    | refine kept_fst ?_ (by assumption)
    | apply kept_setLink
    | apply kept_sendFlits
    | apply kept_foldl
    | apply kept_foldl_fst
    | apply kept_getD
    | intro _
    | split
    | exact kept_pair _ (by assumption)
    | (unfold Kept; dsimp only; first | refine kept_parts ?_ | refine kept_parts_out ?_ | refine kept_parts_put ?_ | refine kept_parts_regs ?_ | refine kept_parts_filter ?_)
    | contradiction
  | cons xx tt ih => unfold drainCtrl; with_reducible repeat' first
    | apply ih
    | assumption
    | (dsimp only)
    | refine kept_fst ?_ (by assumption)
    | apply kept_setLink
    | apply kept_sendFlits
    | apply kept_foldl
    | apply kept_foldl_fst
    | apply kept_getD
    | intro _
    | split
    | exact kept_pair _ (by assumption)
    | (unfold Kept; dsimp only; first | refine kept_parts ?_ | refine kept_parts_out ?_ | refine kept_parts_put ?_ | refine kept_parts_regs ?_ | refine kept_parts_filter ?_)
    | contradiction

theorem kept_putOnPort {st0 : State} {s : State} {port : Nat} {w : Waiting} (hk : Kept st0 s) : Kept st0 (putOnPort s port w) := by
  unfold putOnPort
  with_reducible repeat' first
    | assumption
    | (dsimp only)
    | refine kept_fst ?_ (by assumption)
    | apply kept_setLink
    | apply kept_oweCredit
    | apply kept_inc
    | apply kept_sendFlits
    | apply kept_emit
    | apply kept_foldl
    | apply kept_foldl_fst
    | apply kept_getD
    | intro _
    | split
    | exact kept_pair _ (by assumption)
    | (unfold Kept; dsimp only; first | refine kept_parts ?_ | refine kept_parts_out ?_ | refine kept_parts_put ?_ | refine kept_parts_regs ?_ | refine kept_parts_filter ?_)
    | contradiction

theorem kept_sendPort {st0 : State} {s : State} {port : Nat} {w : Waiting} (hk : Kept st0 s) : Kept st0 (sendPort s port w) := by
  unfold sendPort
  with_reducible repeat' first
    | assumption
    | (dsimp only)
    | refine kept_fst ?_ (by assumption)
    | apply kept_putOnPort
    | apply kept_setLink
    | apply kept_foldl
    | apply kept_foldl_fst
    | apply kept_getD
    | intro _
    | split
    | exact kept_pair _ (by assumption)
    | (unfold Kept; dsimp only; first | refine kept_parts ?_ | refine kept_parts_out ?_ | refine kept_parts_put ?_ | refine kept_parts_regs ?_ | refine kept_parts_filter ?_)
    | contradiction

theorem kept_drainPort {st0 : State} {port : Nat} {y1 : List Waiting} {y2 : List Nat} {y3 : State} (hk : Kept st0 y3) : Kept st0 (drainPort port y1 y2 y3) := by
  induction y1 generalizing y2 y3 with
  | nil => unfold drainPort; with_reducible repeat' first
    | assumption
    | (dsimp only)
    | refine kept_fst ?_ (by assumption)
    | apply kept_putOnPort
    | apply kept_setLink
    | apply kept_foldl
    | apply kept_foldl_fst
    | apply kept_getD
    | intro _
    | split
    | exact kept_pair _ (by assumption)
    | (unfold Kept; dsimp only; first | refine kept_parts ?_ | refine kept_parts_out ?_ | refine kept_parts_put ?_ | refine kept_parts_regs ?_ | refine kept_parts_filter ?_)
    | contradiction
  | cons xx tt ih => unfold drainPort; with_reducible repeat' first
    | apply ih
    | assumption
    | (dsimp only)
    | refine kept_fst ?_ (by assumption)
    | apply kept_putOnPort
    | apply kept_setLink
    | apply kept_foldl
    | apply kept_foldl_fst
    | apply kept_getD
    | intro _
    | split
    | exact kept_pair _ (by assumption)
    | (unfold Kept; dsimp only; first | refine kept_parts ?_ | refine kept_parts_out ?_ | refine kept_parts_put ?_ | refine kept_parts_regs ?_ | refine kept_parts_filter ?_)
    | contradiction

theorem kept_routePkt {st0 : State} {s : State} {p : Pkt} {arr : Option (Nat × Bool)} {src : Option (Nat × Nat × Nat)} (hk : Kept st0 s) : Kept st0 (routePkt s p arr src) := by
  unfold routePkt
  with_reducible repeat' first
    | assumption
    | (dsimp only)
    | refine kept_fst ?_ (by assumption)
    | apply kept_oweCredit
    | apply kept_emit
    | apply kept_inc
    | apply kept_sendPort
    | apply kept_foldl
    | apply kept_foldl_fst
    | apply kept_getD
    | intro _
    | split
    | exact kept_pair _ (by assumption)
    | (unfold Kept; dsimp only; first | refine kept_parts ?_ | refine kept_parts_out ?_ | refine kept_parts_put ?_ | refine kept_parts_regs ?_ | refine kept_parts_filter ?_)
    | contradiction

theorem kept_originate {st0 : State} {s : State} {p : Pkt} (hk : Kept st0 s) : Kept st0 (originate s p) := by
  unfold originate
  with_reducible repeat' first
    | assumption
    | (dsimp only)
    | refine kept_fst ?_ (by assumption)
    | apply kept_routePkt
    | apply kept_addDigest
    | apply kept_foldl
    | apply kept_foldl_fst
    | apply kept_getD
    | intro _
    | split
    | exact kept_pair _ (by assumption)
    | (unfold Kept; dsimp only; first | refine kept_parts ?_ | refine kept_parts_out ?_ | refine kept_parts_put ?_ | refine kept_parts_regs ?_ | refine kept_parts_filter ?_)
    | contradiction

end Sys2Proof.Machine
end

