-- ==== Sys2Proof/Laws/KeptNet.lean ====
section
/-!
SUPPORT. Sys2Proof/Laws/KeptNet.lean: every operation of Sys2Proof/Machine/Net.lean leaves the queue, appends to what has left the block, and keeps the canonical forms.
-/
set_option linter.unusedVariables false
set_option linter.unreachableTactic false
set_option linter.unusedTactic false
namespace Sys2Proof.Machine

theorem kept_setFlow {st0 : State} {s : State} {c : Nat} {f : Flow} (hk : Kept st0 s) : Kept st0 (setFlow s c f) := by
  unfold setFlow
  with_reducible repeat' first
    | assumption
    | (dsimp only)
    | refine kept_fst ?_ (by assumption)
    | apply kept_foldl
    | apply kept_foldl_fst
    | apply kept_getD
    | intro _
    | split
    | exact kept_pair _ (by assumption)
    | (unfold Kept; dsimp only; first | refine kept_parts ?_ | refine kept_parts_out ?_ | refine kept_parts_put ?_ | refine kept_parts_regs ?_ | refine kept_parts_filter ?_)
    | contradiction

theorem kept_sendNow {st0 : State} {s : State} {c : Nat} {p : Pkt} (hk : Kept st0 s) : Kept st0 (sendNow s c p) := by
  unfold sendNow
  with_reducible repeat' first
    | assumption
    | (dsimp only)
    | refine kept_fst ?_ (by assumption)
    | apply kept_originate
    | apply kept_setFlow
    | apply kept_foldl
    | apply kept_foldl_fst
    | apply kept_getD
    | intro _
    | split
    | exact kept_pair _ (by assumption)
    | (unfold Kept; dsimp only; first | refine kept_parts ?_ | refine kept_parts_out ?_ | refine kept_parts_put ?_ | refine kept_parts_regs ?_ | refine kept_parts_filter ?_)
    | contradiction

theorem kept_sendOn {st0 : State} {s : State} {c : Nat} {p : Pkt} (hk : Kept st0 s) : Kept st0 (sendOn s c p) := by
  unfold sendOn
  with_reducible repeat' first
    | assumption
    | (dsimp only)
    | refine kept_fst ?_ (by assumption)
    | apply kept_inc
    | apply kept_sendNow
    | apply kept_foldl
    | apply kept_foldl_fst
    | apply kept_getD
    | intro _
    | split
    | exact kept_pair _ (by assumption)
    | (unfold Kept; dsimp only; first | refine kept_parts ?_ | refine kept_parts_out ?_ | refine kept_parts_put ?_ | refine kept_parts_regs ?_ | refine kept_parts_filter ?_)
    | contradiction

theorem kept_drainTx {st0 : State} {y0 : Nat} {y1 : State} (hk : Kept st0 y1) : Kept st0 (drainTx y0 y1) := by
  induction y0 generalizing y1 with
  | zero => unfold drainTx; with_reducible repeat' first
    | assumption
    | (dsimp only)
    | refine kept_fst ?_ (by assumption)
    | apply kept_sendNow
    | apply kept_foldl
    | apply kept_foldl_fst
    | apply kept_getD
    | intro _
    | split
    | exact kept_pair _ (by assumption)
    | (unfold Kept; dsimp only; first | refine kept_parts ?_ | refine kept_parts_out ?_ | refine kept_parts_put ?_ | refine kept_parts_regs ?_ | refine kept_parts_filter ?_)
    | contradiction
  | succ m ih => unfold drainTx; with_reducible repeat' first
    | apply ih
    | assumption
    | (dsimp only)
    | refine kept_fst ?_ (by assumption)
    | apply kept_sendNow
    | apply kept_foldl
    | apply kept_foldl_fst
    | apply kept_getD
    | intro _
    | split
    | exact kept_pair _ (by assumption)
    | (unfold Kept; dsimp only; first | refine kept_parts ?_ | refine kept_parts_out ?_ | refine kept_parts_put ?_ | refine kept_parts_regs ?_ | refine kept_parts_filter ?_)
    | contradiction

theorem kept_renameTag {st0 : State} {s : State} {a : Nat} {b : Nat} (hk : Kept st0 s) : Kept st0 (renameTag s a b) := by
  unfold renameTag
  with_reducible repeat' first
    | assumption
    | (dsimp only)
    | refine kept_fst ?_ (by assumption)
    | apply kept_foldl
    | apply kept_foldl_fst
    | apply kept_getD
    | intro _
    | split
    | exact kept_pair _ (by assumption)
    | (unfold Kept; dsimp only; first | refine kept_parts ?_ | refine kept_parts_out ?_ | refine kept_parts_put ?_ | refine kept_parts_regs ?_ | refine kept_parts_filter ?_)
    | contradiction

theorem kept_sendReq {st0 : State} {s : State} {c : Nat} {p : Pkt} {o : Origin} (hk : Kept st0 s) : Kept st0 (sendReq s c p o) := by
  unfold sendReq
  with_reducible repeat' first
    | assumption
    | (dsimp only)
    | refine kept_fst ?_ (by assumption)
    | apply kept_inc
    | apply kept_originate
    | apply kept_sendOn
    | apply kept_foldl
    | apply kept_foldl_fst
    | apply kept_getD
    | intro _
    | split
    | exact kept_pair _ (by assumption)
    | (unfold Kept; dsimp only; first | refine kept_parts ?_ | refine kept_parts_out ?_ | refine kept_parts_put ?_ | refine kept_parts_regs ?_ | refine kept_parts_filter ?_)
    | contradiction

theorem kept_releaseTag {st0 : State} {s : State} {y1 : Nat} (hk : Kept st0 s) : Kept st0 (releaseTag s y1) := by
  unfold releaseTag
  with_reducible repeat' first
    | assumption
    | (dsimp only)
    | refine kept_fst ?_ (by assumption)
    | apply kept_sendReq
    | apply kept_renameTag
    | apply kept_foldl
    | apply kept_foldl_fst
    | apply kept_getD
    | intro _
    | split
    | exact kept_pair _ (by assumption)
    | (unfold Kept; dsimp only; first | refine kept_parts ?_ | refine kept_parts_out ?_ | refine kept_parts_put ?_ | refine kept_parts_regs ?_ | refine kept_parts_filter ?_)
    | contradiction

theorem kept_quarantine {st0 : State} {s : State} {y1 : Nat} (hk : Kept st0 s) : Kept st0 (quarantine s y1) := by
  unfold quarantine
  with_reducible repeat' first
    | assumption
    | (dsimp only)
    | refine kept_fst ?_ (by assumption)
    | apply kept_foldl
    | apply kept_foldl_fst
    | apply kept_getD
    | intro _
    | split
    | exact kept_pair _ (by assumption)
    | (unfold Kept; dsimp only; first | refine kept_parts ?_ | refine kept_parts_out ?_ | refine kept_parts_put ?_ | refine kept_parts_regs ?_ | refine kept_parts_filter ?_)
    | contradiction

theorem kept_sendAck {st0 : State} {s : State} {c : Nat} {nak : Bool} (hk : Kept st0 s) : Kept st0 (sendAck s c nak) := by
  unfold sendAck
  with_reducible repeat' first
    | assumption
    | (dsimp only)
    | refine kept_fst ?_ (by assumption)
    | apply kept_originate
    | apply kept_setFlow
    | apply kept_foldl
    | apply kept_foldl_fst
    | apply kept_getD
    | intro _
    | split
    | exact kept_pair _ (by assumption)
    | (unfold Kept; dsimp only; first | refine kept_parts ?_ | refine kept_parts_out ?_ | refine kept_parts_put ?_ | refine kept_parts_regs ?_ | refine kept_parts_filter ?_)
    | contradiction

theorem kept_rxSeq {st0 : State} {s : State} {c : Nat} {p : Pkt} (hk : Kept st0 s) : Kept st0 (rxSeq s c p).1 := by
  rw [rxSeq]
  simp only []
  generalize psnAhead p.psn (flowOf s c).rxNext = d
  generalize (2:Nat) ^ 23 = m
  generalize (2:Nat) ^ 24 = n
  split
  · have h2 := kept_setFlow (c := c) (f := { flowOf s c with rxNext := ((flowOf s c).rxNext + 1) % n, rxSince := (flowOf s c).rxSince + 1, nak := false }) (kept_addDigest (send := false) (p := p) hk)
    split
    · exact kept_sendAck h2
    · exact h2
  · split
    · exact kept_sendAck (kept_inc hk)
    · split
      · exact hk
      · exact kept_sendAck hk

theorem kept_sendAll {st0 : State} {c : Nat} {y1 : List Pkt} {y2 : State} (hk : Kept st0 y2) : Kept st0 (sendAll c y1 y2) := by
  induction y1 generalizing y2 with
  | nil => unfold sendAll; with_reducible repeat' first
    | assumption
    | (dsimp only)
    | refine kept_fst ?_ (by assumption)
    | apply kept_sendOn
    | apply kept_foldl
    | apply kept_foldl_fst
    | apply kept_getD
    | intro _
    | split
    | exact kept_pair _ (by assumption)
    | (unfold Kept; dsimp only; first | refine kept_parts ?_ | refine kept_parts_out ?_ | refine kept_parts_put ?_ | refine kept_parts_regs ?_ | refine kept_parts_filter ?_)
    | contradiction
  | cons xx tt ih => unfold sendAll; with_reducible repeat' first
    | apply ih
    | assumption
    | (dsimp only)
    | refine kept_fst ?_ (by assumption)
    | apply kept_sendOn
    | apply kept_foldl
    | apply kept_foldl_fst
    | apply kept_getD
    | intro _
    | split
    | exact kept_pair _ (by assumption)
    | (unfold Kept; dsimp only; first | refine kept_parts ?_ | refine kept_parts_out ?_ | refine kept_parts_put ?_ | refine kept_parts_regs ?_ | refine kept_parts_filter ?_)
    | contradiction

theorem kept_respond {st0 : State} {s : State} {q : Pkt} {st : Status} {data : List Byte} (hk : Kept st0 s) : Kept st0 (respond s q st data) := by
  unfold respond
  with_reducible repeat' first
    | assumption
    | (dsimp only)
    | refine kept_fst ?_ (by assumption)
    | apply kept_sendAll
    | apply kept_inc
    | apply kept_foldl
    | apply kept_foldl_fst
    | apply kept_getD
    | intro _
    | split
    | exact kept_pair _ (by assumption)
    | (unfold Kept; dsimp only; first | refine kept_parts ?_ | refine kept_parts_out ?_ | refine kept_parts_put ?_ | refine kept_parts_regs ?_ | refine kept_parts_filter ?_)
    | contradiction

theorem kept_respondLost {st0 : State} {s : State} {q : Pkt} (hk : Kept st0 s) : Kept st0 (respondLost s q) := by
  unfold respondLost
  with_reducible repeat' first
    | assumption
    | (dsimp only)
    | refine kept_fst ?_ (by assumption)
    | apply kept_originate
    | apply kept_foldl
    | apply kept_foldl_fst
    | apply kept_getD
    | intro _
    | split
    | exact kept_pair _ (by assumption)
    | (unfold Kept; dsimp only; first | refine kept_parts ?_ | refine kept_parts_out ?_ | refine kept_parts_put ?_ | refine kept_parts_regs ?_ | refine kept_parts_filter ?_)
    | contradiction

theorem kept_absorb {st0 : State} {s : State} {q : Pkt} (hk : Kept st0 s) : Kept st0 (absorb s q) := by
  unfold absorb
  with_reducible repeat' first
    | assumption
    | (dsimp only)
    | refine kept_fst ?_ (by assumption)
    | apply kept_inc
    | apply kept_originate
    | apply kept_foldl
    | apply kept_foldl_fst
    | apply kept_getD
    | intro _
    | split
    | exact kept_pair _ (by assumption)
    | (unfold Kept; dsimp only; first | refine kept_parts ?_ | refine kept_parts_out ?_ | refine kept_parts_put ?_ | refine kept_parts_regs ?_ | refine kept_parts_filter ?_)
    | contradiction

theorem kept_takeRequest {st0 : State} {s : State} {p : Pkt} (hk : Kept st0 s) : Kept st0 (takeRequest s p).1 := by
  unfold takeRequest
  with_reducible repeat' first
    | assumption
    | (dsimp only)
    | refine kept_fst ?_ (by assumption)
    | apply kept_absorb
    | apply kept_rxSeq
    | apply kept_respond
    | apply kept_respondLost
    | apply kept_foldl
    | apply kept_foldl_fst
    | apply kept_getD
    | intro _
    | split
    | exact kept_pair _ (by assumption)
    | (unfold Kept; dsimp only; first | refine kept_parts ?_ | refine kept_parts_out ?_ | refine kept_parts_put ?_ | refine kept_parts_regs ?_ | refine kept_parts_filter ?_)
    | contradiction

theorem kept_reportSuspect {st0 : State} {s : State} {job : Nat} {dev : Nat} {reason : Nat} {step : Nat} (hk : Kept st0 s) : Kept st0 (reportSuspect s job dev reason step) := by
  unfold reportSuspect
  with_reducible repeat' first
    | assumption
    | (dsimp only)
    | refine kept_fst ?_ (by assumption)
    | apply kept_inc
    | apply kept_postEvent
    | apply kept_originate
    | apply kept_foldl
    | apply kept_foldl_fst
    | apply kept_getD
    | intro _
    | split
    | exact kept_pair _ (by assumption)
    | (unfold Kept; dsimp only; first | refine kept_parts ?_ | refine kept_parts_out ?_ | refine kept_parts_put ?_ | refine kept_parts_regs ?_ | refine kept_parts_filter ?_)
    | contradiction

theorem kept_freeCtx {st0 : State} {s : State} {c : Nat} {st : Nat} (hk : Kept st0 s) : Kept st0 (freeCtx s c st) := by
  unfold freeCtx
  with_reducible repeat' first
    | assumption
    | (dsimp only)
    | refine kept_fst ?_ (by assumption)
    | apply kept_wrs
    | apply kept_setFlow
    | apply kept_foldl
    | apply kept_foldl_fst
    | apply kept_getD
    | intro _
    | split
    | exact kept_pair _ (by assumption)
    | (unfold Kept; dsimp only; first | refine kept_parts ?_ | refine kept_parts_out ?_ | refine kept_parts_put ?_ | refine kept_parts_regs ?_ | refine kept_parts_filter ?_)
    | contradiction

end Sys2Proof.Machine
end

