-- ==== Sys2Proof/Laws/KeptTiles.lean ====
section
/-!
SUPPORT. Sys2Proof/Laws/KeptTiles.lean: every operation of Sys2Proof/Machine/Tiles.lean leaves the queue, appends to what has left the block, and keeps the canonical forms.
-/
set_option linter.unusedVariables false
set_option linter.unreachableTactic false
set_option linter.unusedTactic false
namespace Sys2Proof.Machine

theorem kept_setToken {st0 : State} {s : State} {l : Nat} {n : Nat} {v : Nat} (hk : Kept st0 s) : Kept st0 (setToken s l n v) := by
  unfold setToken
  with_reducible repeat' first
    | assumption
    | (dsimp only)
    | refine kept_fst ?_ (by assumption)
    | apply kept_wr
    | apply kept_foldl
    | apply kept_foldl_fst
    | apply kept_getD
    | intro _
    | split
    | exact kept_pair _ (by assumption)
    | (unfold Kept; dsimp only; first | refine kept_parts ?_ | refine kept_parts_out ?_ | refine kept_parts_put ?_ | refine kept_parts_regs ?_ | refine kept_parts_filter ?_)
    | contradiction

theorem kept_recheckWait {st0 : State} {s : State} {l : Nat} (hk : Kept st0 s) : Kept st0 (recheckWait s l) := by
  unfold recheckWait
  with_reducible repeat' first
    | assumption
    | (dsimp only)
    | refine kept_fst ?_ (by assumption)
    | apply kept_setCore
    | apply kept_foldl
    | apply kept_foldl_fst
    | apply kept_getD
    | intro _
    | split
    | exact kept_pair _ (by assumption)
    | (unfold Kept; dsimp only; first | refine kept_parts ?_ | refine kept_parts_out ?_ | refine kept_parts_put ?_ | refine kept_parts_regs ?_ | refine kept_parts_filter ?_)
    | contradiction

theorem kept_addToken {st0 : State} {s : State} {l : Nat} {n : Nat} {v : Nat} (hk : Kept st0 s) : Kept st0 (addToken s l n v) := by
  unfold addToken
  with_reducible repeat' first
    | assumption
    | (dsimp only)
    | refine kept_fst ?_ (by assumption)
    | apply kept_recheckWait
    | apply kept_setToken
    | apply kept_foldl
    | apply kept_foldl_fst
    | apply kept_getD
    | intro _
    | split
    | exact kept_pair _ (by assumption)
    | (unfold Kept; dsimp only; first | refine kept_parts ?_ | refine kept_parts_out ?_ | refine kept_parts_put ?_ | refine kept_parts_regs ?_ | refine kept_parts_filter ?_)
    | contradiction

theorem kept_issueTile {st0 : State} {s : State} {l : Nat} {k : Nat} {d : List Byte} (hk : Kept st0 s) : Kept st0 (issueTile s l k d) := by
  unfold issueTile
  with_reducible repeat' first
    | assumption
    | (dsimp only)
    | refine kept_fst ?_ (by assumption)
    | apply kept_wr
    | apply kept_setCore
    | apply kept_foldl
    | apply kept_foldl_fst
    | apply kept_getD
    | intro _
    | split
    | exact kept_pair _ (by assumption)
    | (unfold Kept; dsimp only; first | refine kept_parts ?_ | refine kept_parts_out ?_ | refine kept_parts_put ?_ | refine kept_parts_regs ?_ | refine kept_parts_filter ?_)
    | contradiction

theorem kept_setHead {st0 : State} {s : State} {l : Nat} {k : Nat} {q : QTile} (hk : Kept st0 s) : Kept st0 (setHead s l k q) := by
  unfold setHead
  with_reducible repeat' first
    | assumption
    | (dsimp only)
    | refine kept_fst ?_ (by assumption)
    | apply kept_setCore
    | apply kept_foldl
    | apply kept_foldl_fst
    | apply kept_getD
    | intro _
    | split
    | exact kept_pair _ (by assumption)
    | (unfold Kept; dsimp only; first | refine kept_parts ?_ | refine kept_parts_out ?_ | refine kept_parts_put ?_ | refine kept_parts_regs ?_ | refine kept_parts_filter ?_)
    | contradiction

theorem kept_launch {st0 : State} {s : State} {l : Nat} {k : Nat} {f : FTile} (hk : Kept st0 s) : Kept st0 (launch s l k f) := by
  unfold launch
  with_reducible repeat' first
    | assumption
    | (dsimp only)
    | refine kept_fst ?_ (by assumption)
    | apply kept_setCore
    | apply kept_foldl
    | apply kept_foldl_fst
    | apply kept_getD
    | intro _
    | split
    | exact kept_pair _ (by assumption)
    | (unfold Kept; dsimp only; first | refine kept_parts ?_ | refine kept_parts_out ?_ | refine kept_parts_put ?_ | refine kept_parts_regs ?_ | refine kept_parts_filter ?_)
    | contradiction

theorem kept_endHead {st0 : State} {s : State} {l : Nat} {k : Nat} {q : QTile} {st : Status} (hk : Kept st0 s) : Kept st0 (endHead s l k q st) := by
  unfold endHead
  with_reducible repeat' first
    | assumption
    | (dsimp only)
    | refine kept_fst ?_ (by assumption)
    | apply kept_launch
    | apply kept_foldl
    | apply kept_foldl_fst
    | apply kept_getD
    | intro _
    | split
    | exact kept_pair _ (by assumption)
    | (unfold Kept; dsimp only; first | refine kept_parts ?_ | refine kept_parts_out ?_ | refine kept_parts_put ?_ | refine kept_parts_regs ?_ | refine kept_parts_filter ?_)
    | contradiction

theorem kept_setRun {st0 : State} {s : State} {l : Nat} {k : Nat} {seq : Nat} {run : TileRun} (hk : Kept st0 s) : Kept st0 (setRun s l k seq run) := by
  unfold setRun
  with_reducible repeat' first
    | assumption
    | (dsimp only)
    | refine kept_fst ?_ (by assumption)
    | apply kept_setCore
    | apply kept_foldl
    | apply kept_foldl_fst
    | apply kept_getD
    | intro _
    | split
    | exact kept_pair _ (by assumption)
    | (unfold Kept; dsimp only; first | refine kept_parts ?_ | refine kept_parts_out ?_ | refine kept_parts_put ?_ | refine kept_parts_regs ?_ | refine kept_parts_filter ?_)
    | contradiction

theorem kept_setFlight {st0 : State} {s : State} {l : Nat} {k : Nat} {f' : FTile} (hk : Kept st0 s) : Kept st0 (setFlight s l k f') := by
  unfold setFlight
  with_reducible repeat' first
    | assumption
    | (dsimp only)
    | refine kept_fst ?_ (by assumption)
    | apply kept_setCore
    | apply kept_foldl
    | apply kept_foldl_fst
    | apply kept_getD
    | intro _
    | split
    | exact kept_pair _ (by assumption)
    | (unfold Kept; dsimp only; first | refine kept_parts ?_ | refine kept_parts_out ?_ | refine kept_parts_put ?_ | refine kept_parts_regs ?_ | refine kept_parts_filter ?_)
    | contradiction

theorem kept_sendProbe {st0 : State} {s : State} {l : Nat} {k : Nat} {q : QTile} {j : Nat} {which : Nat} {a : Nat} (hk : Kept st0 s) : Kept st0 (sendProbe s l k q j which a) := by
  unfold sendProbe
  with_reducible repeat' first
    | assumption
    | (dsimp only)
    | refine kept_fst ?_ (by assumption)
    | apply kept_endHead
    | apply kept_sendReq
    | apply kept_setHead
    | apply kept_foldl
    | apply kept_foldl_fst
    | apply kept_getD
    | intro _
    | split
    | exact kept_pair _ (by assumption)
    | (unfold Kept; dsimp only; first | refine kept_parts ?_ | refine kept_parts_out ?_ | refine kept_parts_put ?_ | refine kept_parts_regs ?_ | refine kept_parts_filter ?_)
    | contradiction

theorem kept_streams {st0 : State} {s : State} {l : Nat} {d : List Byte} (hk : Kept st0 s) : Kept st0 (streams s l d) := by
  unfold streams
  with_reducible repeat' first
    | assumption
    | (dsimp only)
    | refine kept_fst ?_ (by assumption)
    | apply kept_leaveUndefined
    | apply kept_foldl
    | apply kept_foldl_fst
    | apply kept_getD
    | intro _
    | split
    | exact kept_pair _ (by assumption)
    | (unfold Kept; dsimp only; first | refine kept_parts ?_ | refine kept_parts_out ?_ | refine kept_parts_put ?_ | refine kept_parts_regs ?_ | refine kept_parts_filter ?_)
    | contradiction

theorem kept_usePref {st0 : State} {s : State} {l : Nat} {k : Nat} {q : QTile} (hk : Kept st0 s) : Kept st0 (usePref s l k q) := by
  unfold usePref
  with_reducible repeat' first
    | assumption
    | (dsimp only)
    | refine kept_fst ?_ (by assumption)
    | apply kept_inc
    | apply kept_foldl
    | apply kept_foldl_fst
    | apply kept_getD
    | intro _
    | split
    | exact kept_pair _ (by assumption)
    | (unfold Kept; dsimp only; first | refine kept_parts ?_ | refine kept_parts_out ?_ | refine kept_parts_put ?_ | refine kept_parts_regs ?_ | refine kept_parts_filter ?_)
    | contradiction

theorem kept_startTile {st0 : State} {s : State} {l : Nat} {k : Nat} {op : Nat} {go : State → QTile → Nat → State} (hk : Kept st0 s) (h_go : ∀ z0 z1 z2, Kept st0 z0 → Kept st0 (go z0 z1 z2)) : Kept st0 (startTile s l k op go) := by
  unfold startTile
  split
  · split
    · exact hk
    · exact hk
    · dsimp only
      apply kept_endHead
      split
      · exact kept_inc hk
      · exact hk
    · split
      · exact hk
      · exact kept_setHead (kept_inc hk)
    · split
      · exact hk
      · exact kept_setHead (kept_inc hk)
    · exact kept_sendProbe hk
    · dsimp only
      split
      · exact hk
      · have h2 : ∀ f q' d' k', Kept st0 (streams (usePref (if k = 1 then inc (launch s l k f) .idleFillTileCnt l else launch s l k f) l k' q') l d') := by
          intro f q' d' k'
          apply kept_streams
          apply kept_usePref
          split
          · exact kept_inc (kept_launch hk)
          · exact kept_launch hk
        split
        · exact h2 _ _ _ _
        · exact h_go _ _ _ (h2 _ _ _ _)
  · exact hk

theorem kept_countSat {st0 : State} {s : State} {l : Nat} {k : Nat} {d : List Byte} {n : Nat} (hk : Kept st0 s) : Kept st0 (countSat s l k d n) := by
  unfold countSat
  with_reducible repeat' first
    | assumption
    | (dsimp only)
    | refine kept_fst ?_ (by assumption)
    | apply kept_inc
    | apply kept_wrs
    | apply kept_foldl
    | apply kept_foldl_fst
    | apply kept_getD
    | intro _
    | split
    | exact kept_pair _ (by assumption)
    | (unfold Kept; dsimp only; first | refine kept_parts ?_ | refine kept_parts_out ?_ | refine kept_parts_put ?_ | refine kept_parts_regs ?_ | refine kept_parts_filter ?_)
    | contradiction

theorem kept_copyLocal {st0 : State} {d : List Byte} {y1 : Nat} {y2 : Nat} {y3 : State} (hk : Kept st0 y3) : Kept st0 (copyLocal d y1 y2 y3).1 := by
  induction y1 generalizing y2 y3 with
  | zero => unfold copyLocal; with_reducible repeat' first
    | assumption
    | (dsimp only)
    | refine kept_fst ?_ (by assumption)
    | apply kept_readMem
    | apply kept_writeMem
    | apply kept_foldl
    | apply kept_foldl_fst
    | apply kept_getD
    | intro _
    | split
    | exact kept_pair _ (by assumption)
    | (unfold Kept; dsimp only; first | refine kept_parts ?_ | refine kept_parts_out ?_ | refine kept_parts_put ?_ | refine kept_parts_regs ?_ | refine kept_parts_filter ?_)
    | contradiction
  | succ m ih => unfold copyLocal; with_reducible repeat' first
    | apply ih
    | assumption
    | (dsimp only)
    | refine kept_fst ?_ (by assumption)
    | apply kept_readMem
    | apply kept_writeMem
    | apply kept_foldl
    | apply kept_foldl_fst
    | apply kept_getD
    | intro _
    | split
    | exact kept_pair _ (by assumption)
    | (unfold Kept; dsimp only; first | refine kept_parts ?_ | refine kept_parts_out ?_ | refine kept_parts_put ?_ | refine kept_parts_regs ?_ | refine kept_parts_filter ?_)
    | contradiction

theorem kept_copySend {st0 : State} {s : State} {l : Nat} {k : Nat} {seq : Nat} {j : Nat} {dev : Nat} {d : List Byte} {done : Nat} {len : Nat} {p : Pkt} {o : Origin} (hk : Kept st0 s) : Kept st0 (copySend s l k seq j dev d done len p o) := by
  unfold copySend
  with_reducible repeat' first
    | assumption
    | (dsimp only)
    | refine kept_fst ?_ (by assumption)
    | apply kept_sendReq
    | apply kept_setRun
    | apply kept_foldl
    | apply kept_foldl_fst
    | apply kept_getD
    | intro _
    | split
    | exact kept_pair _ (by assumption)
    | (unfold Kept; dsimp only; first | refine kept_parts ?_ | refine kept_parts_out ?_ | refine kept_parts_put ?_ | refine kept_parts_regs ?_ | refine kept_parts_filter ?_)
    | contradiction

theorem kept_copyPut {st0 : State} {s : State} {l : Nat} {k : Nat} {seq : Nat} {j : Nat} {d : List Byte} {done : Nat} {b : List Byte} (hk : Kept st0 s) : Kept st0 (copyPut s l k seq j d done b) := by
  unfold copyPut
  with_reducible repeat' first
    | assumption
    | (dsimp only)
    | refine kept_fst ?_ (by assumption)
    | apply kept_copySend
    | apply kept_foldl
    | apply kept_foldl_fst
    | apply kept_getD
    | intro _
    | split
    | exact kept_pair _ (by assumption)
    | (unfold Kept; dsimp only; first | refine kept_parts ?_ | refine kept_parts_out ?_ | refine kept_parts_put ?_ | refine kept_parts_regs ?_ | refine kept_parts_filter ?_)
    | contradiction

theorem kept_copyNext {st0 : State} {s : State} {l : Nat} {k : Nat} {seq : Nat} {j : Nat} {d : List Byte} {done : Nat} (hk : Kept st0 s) : Kept st0 (copyNext s l k seq j d done) := by
  unfold copyNext
  with_reducible repeat' first
    | assumption
    | (dsimp only)
    | refine kept_fst ?_ (by assumption)
    | apply kept_setRun
    | apply kept_copySend
    | apply kept_readMem
    | apply kept_copyPut
    | apply kept_foldl
    | apply kept_foldl_fst
    | apply kept_getD
    | intro _
    | split
    | exact kept_pair _ (by assumption)
    | (unfold Kept; dsimp only; first | refine kept_parts ?_ | refine kept_parts_out ?_ | refine kept_parts_put ?_ | refine kept_parts_regs ?_ | refine kept_parts_filter ?_)
    | contradiction

theorem kept_copyGo {st0 : State} {s : State} {l : Nat} {k : Nat} {q : QTile} {j : Nat} (hk : Kept st0 s) : Kept st0 (copyGo s l k q j) := by
  unfold copyGo
  with_reducible repeat' first
    | assumption
    | (dsimp only)
    | refine kept_fst ?_ (by assumption)
    | apply kept_copyNext
    | apply kept_copyLocal
    | apply kept_setRun
    | apply kept_foldl
    | apply kept_foldl_fst
    | apply kept_getD
    | intro _
    | split
    | exact kept_pair _ (by assumption)
    | (unfold Kept; dsimp only; first | refine kept_parts ?_ | refine kept_parts_out ?_ | refine kept_parts_put ?_ | refine kept_parts_regs ?_ | refine kept_parts_filter ?_)
    | contradiction

theorem kept_copyReadResp {st0 : State} {s : State} {l : Nat} {k : Nat} {seq : Nat} {off : Nat} {len : Nat} {st : Status} {b : List Byte} (hk : Kept st0 s) : Kept st0 (copyReadResp s l k seq off len st b) := by
  unfold copyReadResp
  with_reducible repeat' first
    | assumption
    | (dsimp only)
    | refine kept_fst ?_ (by assumption)
    | apply kept_setRun
    | apply kept_copyPut
    | apply kept_writeMem
    | apply kept_copyNext
    | apply kept_foldl
    | apply kept_foldl_fst
    | apply kept_getD
    | intro _
    | split
    | exact kept_pair _ (by assumption)
    | (unfold Kept; dsimp only; first | refine kept_parts ?_ | refine kept_parts_out ?_ | refine kept_parts_put ?_ | refine kept_parts_regs ?_ | refine kept_parts_filter ?_)
    | contradiction

theorem kept_copyWriteResp {st0 : State} {s : State} {l : Nat} {k : Nat} {seq : Nat} {off : Nat} {len : Nat} {st : Status} (hk : Kept st0 s) : Kept st0 (copyWriteResp s l k seq off len st) := by
  unfold copyWriteResp
  with_reducible repeat' first
    | assumption
    | (dsimp only)
    | refine kept_fst ?_ (by assumption)
    | apply kept_setRun
    | apply kept_copyNext
    | apply kept_foldl
    | apply kept_foldl_fst
    | apply kept_getD
    | intro _
    | split
    | exact kept_pair _ (by assumption)
    | (unfold Kept; dsimp only; first | refine kept_parts ?_ | refine kept_parts_out ?_ | refine kept_parts_put ?_ | refine kept_parts_regs ?_ | refine kept_parts_filter ?_)
    | contradiction

theorem kept_probeCount {st0 : State} {s : State} {l : Nat} {which : Nat} {st : Status} {b : List Byte} (hk : Kept st0 s) : Kept st0 (probeCount s l which st b) := by
  unfold probeCount
  with_reducible repeat' first
    | assumption
    | (dsimp only)
    | refine kept_fst ?_ (by assumption)
    | apply kept_inc
    | apply kept_foldl
    | apply kept_foldl_fst
    | apply kept_getD
    | intro _
    | split
    | exact kept_pair _ (by assumption)
    | (unfold Kept; dsimp only; first | refine kept_parts ?_ | refine kept_parts_out ?_ | refine kept_parts_put ?_ | refine kept_parts_regs ?_ | refine kept_parts_filter ?_)
    | contradiction

theorem kept_probeResp {st0 : State} {s : State} {l : Nat} {k : Nat} {seq : Nat} {which : Nat} {st : Status} {b : List Byte} (hk : Kept st0 s) : Kept st0 (probeResp s l k seq which st b) := by
  unfold probeResp
  with_reducible repeat' first
    | assumption
    | (dsimp only)
    | refine kept_fst ?_ (by assumption)
    | apply kept_endHead
    | apply kept_probeCount
    | apply kept_setHead
    | apply kept_inc
    | apply kept_foldl
    | apply kept_foldl_fst
    | apply kept_getD
    | intro _
    | split
    | exact kept_pair _ (by assumption)
    | (unfold Kept; dsimp only; first | refine kept_parts ?_ | refine kept_parts_out ?_ | refine kept_parts_put ?_ | refine kept_parts_regs ?_ | refine kept_parts_filter ?_)
    | contradiction

theorem kept_putRecord {st0 : State} {s : State} {l : Nat} {k : Nat} {rec : List Byte} (hk : Kept st0 s) : Kept st0 (putRecord s l k rec) := by
  unfold putRecord
  with_reducible repeat' first
    | assumption
    | (dsimp only)
    | refine kept_fst ?_ (by assumption)
    | apply kept_writeMem
    | apply kept_wr
    | apply kept_setCore
    | apply kept_inc
    | apply kept_postRec
    | apply kept_foldl
    | apply kept_foldl_fst
    | apply kept_getD
    | intro _
    | split
    | exact kept_pair _ (by assumption)
    | (unfold Kept; dsimp only; first | refine kept_parts ?_ | refine kept_parts_out ?_ | refine kept_parts_put ?_ | refine kept_parts_regs ?_ | refine kept_parts_filter ?_)
    | contradiction

theorem kept_haltContext {st0 : State} {s : State} {l : Nat} {k : Nat} {st : Status} (hk : Kept st0 s) : Kept st0 (haltContext s l k st) := by
  unfold haltContext
  with_reducible repeat' first
    | assumption
    | (dsimp only)
    | refine kept_fst ?_ (by assumption)
    | apply kept_wr
    | apply kept_postEvent
    | apply kept_emit
    | apply kept_foldl
    | apply kept_foldl_fst
    | apply kept_getD
    | intro _
    | split
    | exact kept_pair _ (by assumption)
    | (unfold Kept; dsimp only; first | refine kept_parts ?_ | refine kept_parts_out ?_ | refine kept_parts_put ?_ | refine kept_parts_regs ?_ | refine kept_parts_filter ?_)
    | contradiction

theorem kept_countMatmul {st0 : State} {s : State} {l : Nat} {f : FTile} (hk : Kept st0 s) : Kept st0 (countMatmul s l f) := by
  unfold countMatmul
  with_reducible repeat' first
    | assumption
    | (dsimp only)
    | refine kept_fst ?_ (by assumption)
    | apply kept_inc
    | apply kept_foldl
    | apply kept_foldl_fst
    | apply kept_getD
    | intro _
    | split
    | exact kept_pair _ (by assumption)
    | (unfold Kept; dsimp only; first | refine kept_parts ?_ | refine kept_parts_out ?_ | refine kept_parts_put ?_ | refine kept_parts_regs ?_ | refine kept_parts_filter ?_)
    | contradiction

theorem kept_clearHalt {st0 : State} {s : State} {l : Nat} {k : Nat} (hk : Kept st0 s) : Kept st0 (clearHalt s l k) := by
  unfold clearHalt
  with_reducible repeat' first
    | assumption
    | (dsimp only)
    | refine kept_fst ?_ (by assumption)
    | apply kept_wrs
    | apply kept_foldl
    | apply kept_foldl_fst
    | apply kept_getD
    | intro _
    | split
    | exact kept_pair _ (by assumption)
    | (unfold Kept; dsimp only; first | refine kept_parts ?_ | refine kept_parts_out ?_ | refine kept_parts_put ?_ | refine kept_parts_regs ?_ | refine kept_parts_filter ?_)
    | contradiction

theorem kept_settleResume {st0 : State} {s : State} {l : Nat} {k : Nat} {seq : Nat} (hk : Kept st0 s) : Kept st0 (settleResume s l k seq) := by
  unfold settleResume
  with_reducible repeat' first
    | assumption
    | (dsimp only)
    | refine kept_fst ?_ (by assumption)
    | apply kept_setCore
    | apply kept_clearHalt
    | apply kept_foldl
    | apply kept_foldl_fst
    | apply kept_getD
    | intro _
    | split
    | exact kept_pair _ (by assumption)
    | (unfold Kept; dsimp only; first | refine kept_parts ?_ | refine kept_parts_out ?_ | refine kept_parts_put ?_ | refine kept_parts_regs ?_ | refine kept_parts_filter ?_)
    | contradiction

theorem kept_holdTile {st0 : State} {s : State} {l : Nat} {k : Nat} {f : FTile} (hk : Kept st0 s) : Kept st0 (holdTile s l k f) := by
  unfold holdTile
  with_reducible repeat' first
    | assumption
    | (dsimp only)
    | refine kept_fst ?_ (by assumption)
    | apply kept_setCore
    | apply kept_foldl
    | apply kept_foldl_fst
    | apply kept_getD
    | intro _
    | split
    | exact kept_pair _ (by assumption)
    | (unfold Kept; dsimp only; first | refine kept_parts ?_ | refine kept_parts_out ?_ | refine kept_parts_put ?_ | refine kept_parts_regs ?_ | refine kept_parts_filter ?_)
    | contradiction

theorem kept_finishTile {st0 : State} {s : State} {l : Nat} {k : Nat} {f : FTile} {st : Status} {detail : Nat} (hk : Kept st0 s) : Kept st0 (finishTile s l k f st detail) := by
  unfold finishTile
  with_reducible repeat' first
    | assumption
    | (dsimp only)
    | refine kept_fst ?_ (by assumption)
    | apply kept_holdTile
    | apply kept_inc
    | apply kept_putRecord
    | apply kept_setCore
    | apply kept_wr
    | apply kept_countMatmul
    | apply kept_settleResume
    | apply kept_haltContext
    | apply kept_foldl
    | apply kept_foldl_fst
    | apply kept_getD
    | intro _
    | split
    | exact kept_pair _ (by assumption)
    | (unfold Kept; dsimp only; first | refine kept_parts ?_ | refine kept_parts_out ?_ | refine kept_parts_put ?_ | refine kept_parts_regs ?_ | refine kept_parts_filter ?_)
    | contradiction

theorem kept_sendSignal {st0 : State} {s : State} {l : Nat} {k : Nat} {f : FTile} {j : Nat} (hk : Kept st0 s) : Kept st0 (sendSignal s l k f j) := by
  unfold sendSignal
  with_reducible repeat' first
    | assumption
    | (dsimp only)
    | refine kept_fst ?_ (by assumption)
    | apply kept_sendReq
    | apply kept_setRun
    | apply kept_foldl
    | apply kept_foldl_fst
    | apply kept_getD
    | intro _
    | split
    | exact kept_pair _ (by assumption)
    | (unfold Kept; dsimp only; first | refine kept_parts ?_ | refine kept_parts_out ?_ | refine kept_parts_put ?_ | refine kept_parts_regs ?_ | refine kept_parts_filter ?_)
    | contradiction

theorem kept_applySignal {st0 : State} {s : State} {j : Nat} {core : Nat} {ctr : Nat} {amount : Nat} (hk : Kept st0 s) : Kept st0 (applySignal s j core ctr amount).1 := by
  unfold applySignal
  with_reducible repeat' first
    | assumption
    | (dsimp only)
    | refine kept_fst ?_ (by assumption)
    | apply kept_inc
    | apply kept_addToken
    | apply kept_foldl
    | apply kept_foldl_fst
    | apply kept_getD
    | intro _
    | split
    | exact kept_pair _ (by assumption)
    | (unfold Kept; dsimp only; first | refine kept_parts ?_ | refine kept_parts_out ?_ | refine kept_parts_put ?_ | refine kept_parts_regs ?_ | refine kept_parts_filter ?_)
    | contradiction

theorem kept_signalResp {st0 : State} {s : State} {l : Nat} {k : Nat} {seq : Nat} {st : Status} (hk : Kept st0 s) : Kept st0 (signalResp s l k seq st) := by
  unfold signalResp
  with_reducible repeat' first
    | assumption
    | (dsimp only)
    | refine kept_fst ?_ (by assumption)
    | apply kept_setRun
    | apply kept_foldl
    | apply kept_foldl_fst
    | apply kept_getD
    | intro _
    | split
    | exact kept_pair _ (by assumption)
    | (unfold Kept; dsimp only; first | refine kept_parts ?_ | refine kept_parts_out ?_ | refine kept_parts_put ?_ | refine kept_parts_regs ?_ | refine kept_parts_filter ?_)
    | contradiction

theorem kept_tileComplete {st0 : State} {s : State} {l : Nat} {k : Nat} {seq : Nat} (hk : Kept st0 s) : Kept st0 (tileComplete s l k seq) := by
  unfold tileComplete
  with_reducible repeat' first
    | assumption
    | (dsimp only)
    | refine kept_fst ?_ (by assumption)
    | apply kept_sendSignal
    | apply kept_finishTile
    | apply kept_foldl
    | apply kept_foldl_fst
    | apply kept_getD
    | intro _
    | split
    | exact kept_pair _ (by assumption)
    | (unfold Kept; dsimp only; first | refine kept_parts ?_ | refine kept_parts_out ?_ | refine kept_parts_put ?_ | refine kept_parts_regs ?_ | refine kept_parts_filter ?_)
    | contradiction

theorem kept_flushCtx {st0 : State} {s : State} {l : Nat} {k : Nat} (hk : Kept st0 s) : Kept st0 (flushCtx s l k) := by
  unfold flushCtx
  with_reducible repeat' first
    | assumption
    | (dsimp only)
    | refine kept_fst ?_ (by assumption)
    | apply kept_inc
    | apply kept_setCore
    | apply kept_foldl
    | apply kept_foldl_fst
    | apply kept_getD
    | intro _
    | split
    | exact kept_pair _ (by assumption)
    | (unfold Kept; dsimp only; first | refine kept_parts ?_ | refine kept_parts_out ?_ | refine kept_parts_put ?_ | refine kept_parts_regs ?_ | refine kept_parts_filter ?_)
    | contradiction

theorem kept_finishAborted {st0 : State} {l : Nat} {k : Nat} {y2 : List QTile} {y3 : State} (hk : Kept st0 y3) : Kept st0 (finishAborted l k y2 y3) := by
  induction y2 generalizing y3 with
  | nil => unfold finishAborted; with_reducible repeat' first
    | assumption
    | (dsimp only)
    | refine kept_fst ?_ (by assumption)
    | apply kept_tileComplete
    | apply kept_foldl
    | apply kept_foldl_fst
    | apply kept_getD
    | intro _
    | split
    | exact kept_pair _ (by assumption)
    | (unfold Kept; dsimp only; first | refine kept_parts ?_ | refine kept_parts_out ?_ | refine kept_parts_put ?_ | refine kept_parts_regs ?_ | refine kept_parts_filter ?_)
    | contradiction
  | cons xx tt ih => unfold finishAborted; with_reducible repeat' first
    | apply ih
    | assumption
    | (dsimp only)
    | refine kept_fst ?_ (by assumption)
    | apply kept_tileComplete
    | apply kept_foldl
    | apply kept_foldl_fst
    | apply kept_getD
    | intro _
    | split
    | exact kept_pair _ (by assumption)
    | (unfold Kept; dsimp only; first | refine kept_parts ?_ | refine kept_parts_out ?_ | refine kept_parts_put ?_ | refine kept_parts_regs ?_ | refine kept_parts_filter ?_)
    | contradiction

theorem kept_resumeCtx {st0 : State} {s : State} {l : Nat} {k : Nat} {flush : Bool} (hk : Kept st0 s) : Kept st0 (resumeCtx s l k flush) := by
  unfold resumeCtx
  with_reducible repeat' first
    | assumption
    | (dsimp only)
    | refine kept_fst ?_ (by assumption)
    | apply kept_finishAborted
    | apply kept_flushCtx
    | apply kept_clearHalt
    | apply kept_setCore
    | apply kept_foldl
    | apply kept_foldl_fst
    | apply kept_getD
    | intro _
    | split
    | exact kept_pair _ (by assumption)
    | (unfold Kept; dsimp only; first | refine kept_parts ?_ | refine kept_parts_out ?_ | refine kept_parts_put ?_ | refine kept_parts_regs ?_ | refine kept_parts_filter ?_)
    | contradiction

theorem kept_execCopy {st0 : State} {core : Nat} {ctx : Nat} {s : State} (hk : Kept st0 s) {t : State} (e : execCopy core ctx s = .next t) : Kept st0 t := by
  unfold execCopy at e
  injection e with e
  subst e
  with_reducible repeat' first
    | assumption
    | (dsimp only)
    | refine kept_fst ?_ (by assumption)
    | apply kept_startTile
    | apply kept_copyGo
    | apply kept_foldl
    | apply kept_foldl_fst
    | apply kept_getD
    | intro _
    | split
    | exact kept_pair _ (by assumption)
    | (unfold Kept; dsimp only; first | refine kept_parts ?_ | refine kept_parts_out ?_ | refine kept_parts_put ?_ | refine kept_parts_regs ?_ | refine kept_parts_filter ?_)
    | contradiction

theorem kept_execSync {st0 : State} {core : Nat} {ctx : Nat} {s : State} (hk : Kept st0 s) {t : State} (e : execSync core ctx s = .next t) : Kept st0 t := by
  unfold execSync at e
  injection e with e
  subst e
  with_reducible repeat' first
    | assumption
    | (dsimp only)
    | refine kept_fst ?_ (by assumption)
    | apply kept_startTile
    | apply kept_setRun
    | apply kept_foldl
    | apply kept_foldl_fst
    | apply kept_getD
    | intro _
    | split
    | exact kept_pair _ (by assumption)
    | (unfold Kept; dsimp only; first | refine kept_parts ?_ | refine kept_parts_out ?_ | refine kept_parts_put ?_ | refine kept_parts_regs ?_ | refine kept_parts_filter ?_)
    | contradiction

theorem kept_execTileWaitTimeout {st0 : State} {core : Nat} {ctx : Nat} {s : State} (hk : Kept st0 s) {t : State} (e : execTileWaitTimeout core ctx s = .next t) : Kept st0 t := by
  unfold execTileWaitTimeout at e
  injection e with e
  subst e
  with_reducible repeat' first
    | assumption
    | (dsimp only)
    | refine kept_fst ?_ (by assumption)
    | apply kept_endHead
    | apply kept_inc
    | apply kept_foldl
    | apply kept_foldl_fst
    | apply kept_getD
    | intro _
    | split
    | exact kept_pair _ (by assumption)
    | (unfold Kept; dsimp only; first | refine kept_parts ?_ | refine kept_parts_out ?_ | refine kept_parts_put ?_ | refine kept_parts_regs ?_ | refine kept_parts_filter ?_)
    | contradiction

theorem kept_execParamHoldTimeout {st0 : State} {core : Nat} {ctx : Nat} {s : State} (hk : Kept st0 s) {t : State} (e : execParamHoldTimeout core ctx s = .next t) : Kept st0 t := by
  unfold execParamHoldTimeout at e
  injection e with e
  subst e
  with_reducible repeat' first
    | assumption
    | (dsimp only)
    | refine kept_fst ?_ (by assumption)
    | apply kept_inc
    | apply kept_endHead
    | apply kept_foldl
    | apply kept_foldl_fst
    | apply kept_getD
    | intro _
    | split
    | exact kept_pair _ (by assumption)
    | (unfold Kept; dsimp only; first | refine kept_parts ?_ | refine kept_parts_out ?_ | refine kept_parts_put ?_ | refine kept_parts_regs ?_ | refine kept_parts_filter ?_)
    | contradiction

theorem kept_execRemoteExchangeTimeout {st0 : State} {tag : Nat} {s : State} (hk : Kept st0 s) {t : State} (e : execRemoteExchangeTimeout tag s = .next t) : Kept st0 t := by
  unfold execRemoteExchangeTimeout at e
  injection e with e
  subst e
  with_reducible repeat' first
    | assumption
    | (dsimp only)
    | refine kept_fst ?_ (by assumption)
    | apply kept_reportSuspect
    | apply kept_quarantine
    | apply kept_endHead
    | apply kept_setRun
    | apply kept_foldl
    | apply kept_foldl_fst
    | apply kept_getD
    | intro _
    | split
    | exact kept_pair _ (by assumption)
    | (unfold Kept; dsimp only; first | refine kept_parts ?_ | refine kept_parts_out ?_ | refine kept_parts_put ?_ | refine kept_parts_regs ?_ | refine kept_parts_filter ?_)
    | contradiction

theorem kept_execTileComplete {st0 : State} {core : Nat} {ctx : Nat} {seq : Nat} {s : State} (hk : Kept st0 s) {t : State} (e : execTileComplete core ctx seq s = .next t) : Kept st0 t := by
  unfold execTileComplete at e
  injection e with e
  subst e
  with_reducible repeat' first
    | assumption
    | (dsimp only)
    | refine kept_fst ?_ (by assumption)
    | apply kept_tileComplete
    | apply kept_foldl
    | apply kept_foldl_fst
    | apply kept_getD
    | intro _
    | split
    | exact kept_pair _ (by assumption)
    | (unfold Kept; dsimp only; first | refine kept_parts ?_ | refine kept_parts_out ?_ | refine kept_parts_put ?_ | refine kept_parts_regs ?_ | refine kept_parts_filter ?_)
    | contradiction

theorem kept_execTokenSignalApply {st0 : State} {index : Nat} {s : State} (hk : Kept st0 s) {t : State} (e : execTokenSignalApply index s = .next t) : Kept st0 t := by
  unfold execTokenSignalApply at e
  injection e with e
  subst e
  with_reducible repeat' first
    | assumption
    | (dsimp only)
    | refine kept_fst ?_ (by assumption)
    | apply kept_applySignal
    | apply kept_signalResp
    | apply kept_foldl
    | apply kept_foldl_fst
    | apply kept_getD
    | intro _
    | split
    | exact kept_pair _ (by assumption)
    | (unfold Kept; dsimp only; first | refine kept_parts ?_ | refine kept_parts_out ?_ | refine kept_parts_put ?_ | refine kept_parts_regs ?_ | refine kept_parts_filter ?_)
    | contradiction

theorem kept_execC0Resume {st0 : State} {core : Nat} {s : State} (hk : Kept st0 s) {t : State} (e : execC0Resume core s = .next t) : Kept st0 t := by
  unfold execC0Resume at e
  injection e with e
  subst e
  with_reducible repeat' first
    | assumption
    | (dsimp only)
    | refine kept_fst ?_ (by assumption)
    | apply kept_resumeCtx
    | apply kept_foldl
    | apply kept_foldl_fst
    | apply kept_getD
    | intro _
    | split
    | exact kept_pair _ (by assumption)
    | (unfold Kept; dsimp only; first | refine kept_parts ?_ | refine kept_parts_out ?_ | refine kept_parts_put ?_ | refine kept_parts_regs ?_ | refine kept_parts_filter ?_)
    | contradiction

theorem kept_execC0Flush {st0 : State} {core : Nat} {s : State} (hk : Kept st0 s) {t : State} (e : execC0Flush core s = .next t) : Kept st0 t := by
  unfold execC0Flush at e
  injection e with e
  subst e
  with_reducible repeat' first
    | assumption
    | (dsimp only)
    | refine kept_fst ?_ (by assumption)
    | apply kept_resumeCtx
    | apply kept_foldl
    | apply kept_foldl_fst
    | apply kept_getD
    | intro _
    | split
    | exact kept_pair _ (by assumption)
    | (unfold Kept; dsimp only; first | refine kept_parts ?_ | refine kept_parts_out ?_ | refine kept_parts_put ?_ | refine kept_parts_regs ?_ | refine kept_parts_filter ?_)
    | contradiction

theorem kept_execC1Resume {st0 : State} {core : Nat} {s : State} (hk : Kept st0 s) {t : State} (e : execC1Resume core s = .next t) : Kept st0 t := by
  unfold execC1Resume at e
  injection e with e
  subst e
  with_reducible repeat' first
    | assumption
    | (dsimp only)
    | refine kept_fst ?_ (by assumption)
    | apply kept_resumeCtx
    | apply kept_foldl
    | apply kept_foldl_fst
    | apply kept_getD
    | intro _
    | split
    | exact kept_pair _ (by assumption)
    | (unfold Kept; dsimp only; first | refine kept_parts ?_ | refine kept_parts_out ?_ | refine kept_parts_put ?_ | refine kept_parts_regs ?_ | refine kept_parts_filter ?_)
    | contradiction

theorem kept_execC1Flush {st0 : State} {core : Nat} {s : State} (hk : Kept st0 s) {t : State} (e : execC1Flush core s = .next t) : Kept st0 t := by
  unfold execC1Flush at e
  injection e with e
  subst e
  with_reducible repeat' first
    | assumption
    | (dsimp only)
    | refine kept_fst ?_ (by assumption)
    | apply kept_resumeCtx
    | apply kept_foldl
    | apply kept_foldl_fst
    | apply kept_getD
    | intro _
    | split
    | exact kept_pair _ (by assumption)
    | (unfold Kept; dsimp only; first | refine kept_parts ?_ | refine kept_parts_out ?_ | refine kept_parts_put ?_ | refine kept_parts_regs ?_ | refine kept_parts_filter ?_)
    | contradiction

theorem kept_releaseHeld {st0 : State} {l : Nat} {k : Nat} {y2 : List FTile} {y3 : State} (hk : Kept st0 y3) : Kept st0 (releaseHeld l k y2 y3) := by
  induction y2 generalizing y3 with
  | nil => unfold releaseHeld; with_reducible repeat' first
    | assumption
    | (dsimp only)
    | refine kept_fst ?_ (by assumption)
    | apply kept_tileComplete
    | apply kept_foldl
    | apply kept_foldl_fst
    | apply kept_getD
    | intro _
    | split
    | exact kept_pair _ (by assumption)
    | (unfold Kept; dsimp only; first | refine kept_parts ?_ | refine kept_parts_out ?_ | refine kept_parts_put ?_ | refine kept_parts_regs ?_ | refine kept_parts_filter ?_)
    | contradiction
  | cons xx tt ih => unfold releaseHeld; with_reducible repeat' first
    | apply ih
    | assumption
    | (dsimp only)
    | refine kept_fst ?_ (by assumption)
    | apply kept_tileComplete
    | apply kept_foldl
    | apply kept_foldl_fst
    | apply kept_getD
    | intro _
    | split
    | exact kept_pair _ (by assumption)
    | (unfold Kept; dsimp only; first | refine kept_parts ?_ | refine kept_parts_out ?_ | refine kept_parts_put ?_ | refine kept_parts_regs ?_ | refine kept_parts_filter ?_)
    | contradiction

theorem kept_writeCringTail {st0 : State} {s : State} {l : Nat} {tail : Nat} (hk : Kept st0 s) : Kept st0 (writeCringTail s l tail) := by
  unfold writeCringTail
  with_reducible repeat' first
    | assumption
    | (dsimp only)
    | refine kept_fst ?_ (by assumption)
    | apply kept_releaseHeld
    | apply kept_wr
    | apply kept_foldl
    | apply kept_foldl_fst
    | apply kept_getD
    | intro _
    | split
    | exact kept_pair _ (by assumption)
    | (unfold Kept; dsimp only; first | refine kept_parts ?_ | refine kept_parts_out ?_ | refine kept_parts_put ?_ | refine kept_parts_regs ?_ | refine kept_parts_filter ?_)
    | contradiction

theorem kept_execC0CringTailWrite {st0 : State} {core : Nat} {tail : Nat} {s : State} (hk : Kept st0 s) {t : State} (e : execC0CringTailWrite core tail s = .next t) : Kept st0 t := by
  unfold execC0CringTailWrite at e
  injection e with e
  subst e
  with_reducible repeat' first
    | assumption
    | (dsimp only)
    | refine kept_fst ?_ (by assumption)
    | apply kept_writeCringTail
    | apply kept_foldl
    | apply kept_foldl_fst
    | apply kept_getD
    | intro _
    | split
    | exact kept_pair _ (by assumption)
    | (unfold Kept; dsimp only; first | refine kept_parts ?_ | refine kept_parts_out ?_ | refine kept_parts_put ?_ | refine kept_parts_regs ?_ | refine kept_parts_filter ?_)
    | contradiction

theorem kept_writeCringConfig {st0 : State} {s : State} {l : Nat} {base : Nat} {log2 : Nat} (hk : Kept st0 s) : Kept st0 (writeCringConfig s l base log2) := by
  unfold writeCringConfig
  with_reducible repeat' first
    | assumption
    | (dsimp only)
    | refine kept_fst ?_ (by assumption)
    | apply kept_wrs
    | apply kept_setCore
    | apply kept_foldl
    | apply kept_foldl_fst
    | apply kept_getD
    | intro _
    | split
    | exact kept_pair _ (by assumption)
    | (unfold Kept; dsimp only; first | refine kept_parts ?_ | refine kept_parts_out ?_ | refine kept_parts_put ?_ | refine kept_parts_regs ?_ | refine kept_parts_filter ?_)
    | contradiction

theorem kept_execC0CringConfigWrite {st0 : State} {core : Nat} {base : Nat} {log2 : Nat} {s : State} (hk : Kept st0 s) {t : State} (e : execC0CringConfigWrite core base log2 s = .next t) : Kept st0 t := by
  unfold execC0CringConfigWrite at e
  injection e with e
  subst e
  with_reducible repeat' first
    | assumption
    | (dsimp only)
    | refine kept_fst ?_ (by assumption)
    | apply kept_writeCringConfig
    | apply kept_foldl
    | apply kept_foldl_fst
    | apply kept_getD
    | intro _
    | split
    | exact kept_pair _ (by assumption)
    | (unfold Kept; dsimp only; first | refine kept_parts ?_ | refine kept_parts_out ?_ | refine kept_parts_put ?_ | refine kept_parts_regs ?_ | refine kept_parts_filter ?_)
    | contradiction

end Sys2Proof.Machine
end

