-- ==== Sys2Proof/Laws/Reads.lean ====
section
/-!
SUPPORT. Sys2Proof/Laws/Reads.lean: the computations that read memory and can end with a status keep what Kept speaks of.
-/
set_option linter.unusedVariables false
set_option linter.unreachableTactic false
set_option linter.unusedTactic false
namespace Sys2Proof.Machine

/-- A computation that keeps the relation to a, however it ends. -/
def Reads {ε α : Type} (a : State) (x : ExceptT ε (StateM State) α) : Prop := ∀ s, Kept a s → Kept a (x.run s).2

theorem reads_pure {ε α : Type} {a : State} (v : α) : Reads a (pure v : ExceptT ε (StateM State) α) := fun _ h => h

theorem reads_throw {ε α : Type} {a : State} (e : ε) : Reads a (throw e : ExceptT ε (StateM State) α) := fun _ h => h

theorem reads_throwThe {ε α : Type} {a : State} (e : ε) : Reads a (throwThe ε e : ExceptT ε (StateM State) α) := fun _ h => h

theorem reads_get {ε : Type} {a : State} : Reads a (get : ExceptT ε (StateM State) State) := fun _ h => h

theorem reads_modify {ε : Type} {a : State} (f : State → State) (hf : ∀ s, Kept a s → Kept a (f s)) : Reads a (modify f : ExceptT ε (StateM State) PUnit) :=
  fun s h => hf s h

theorem reads_bind {ε α β : Type} {a : State} {x : ExceptT ε (StateM State) α} {f : α → ExceptT ε (StateM State) β} (hx : Reads a x)
    (hf : ∀ v, Reads a (f v)) : Reads a (x >>= f) := by
  intro s h
  have hs := hx s h
  rcases e : x.run s with ⟨v | v, t⟩
  · rw [e] at hs
    have q : (x >>= f).run s = (Except.error v, t) := by
      simp only [ExceptT.run_bind]
      show (bind (x.run) _ : StateM State _) s = _
      simp only [bind, StateT.bind, e]
      rfl
    rw [q]
    exact hs
  · rw [e] at hs
    have q : (x >>= f).run s = (f v).run t := by
      simp only [ExceptT.run_bind]
      show (bind (x.run) _ : StateM State _) s = _
      simp only [bind, StateT.bind, e]
    rw [q]
    exact hf v t hs

theorem reads_map {ε α β : Type} {a : State} {x : ExceptT ε (StateM State) α} (f : α → β) (hx : Reads a x) : Reads a (f <$> x) := by
  rw [← bind_pure_comp]
  exact reads_bind hx (fun v => reads_pure _)

theorem reads_mapM {ε α β : Type} {a : State} (f : α → ExceptT ε (StateM State) β) (hf : ∀ v, Reads a (f v)) (l : List α) : Reads a (l.mapM f) := by
  induction l with
  | nil => simpa using reads_pure _
  | cons x t ih =>
    rw [List.mapM_cons]
    exact reads_bind (hf x) (fun _ => reads_bind ih (fun _ => reads_pure _))

theorem reads_foldlM {ε α β : Type} {a : State} (f : β → α → ExceptT ε (StateM State) β) (hf : ∀ v w, Reads a (f v w)) (l : List α) (b : β) :
    Reads a (l.foldlM f b) := by
  induction l generalizing b with
  | nil => simpa using reads_pure _
  | cons x t ih =>
    rw [List.foldlM_cons]
    exact reads_bind (hf b x) (fun _ => ih _)

theorem reads_rdNat {a : State} (p n : Nat) : Reads a (rdNat p n) := by
  intro s h
  have := kept_readMem (a := p) (n := n) (source := readSource p) h
  unfold rdNat
  change Kept a ((match (readMem s p n).2 with
    | .ok b => (pure (leNat b) : Rd _)
    | .error _ => throw Status.uncorrectable).run (readMem s p n).1).2
  split <;> exact this

theorem reads_rdBytes {a : State} (p n : Nat) : Reads a (rdBytes p n) := by
  intro s h
  have := kept_readMem (a := p) (n := n) (source := readSource p) h
  unfold rdBytes
  change Kept a ((match (readMem s p n).2 with
    | .ok b => (pure (b) : Rd _)
    | .error _ => throw Status.uncorrectable).run (readMem s p n).1).2
  split <;> exact this

theorem reads_readGraph {a : State} (r : Region) : Reads a (readGraph r) := by
  unfold readGraph
  with_reducible repeat' first
    | assumption
    | apply reads_bind
    | apply reads_pure
    | apply reads_throw
    | apply reads_throwThe
    | apply reads_get
    | apply reads_mapM
    | apply reads_foldlM
    | apply reads_map
    | apply reads_rdBytes
    | apply reads_rdNat
    | intro _
    | split
    | (dsimp only)

theorem reads_ownerOf {a : State} (g : Graph) (v : Nat) : Reads a (ownerOf g v) := by
  unfold ownerOf
  with_reducible repeat' first
    | assumption
    | apply reads_bind
    | apply reads_pure
    | apply reads_throw
    | apply reads_throwThe
    | apply reads_get
    | apply reads_mapM
    | apply reads_foldlM
    | apply reads_map
    | apply reads_rdBytes
    | apply reads_rdNat
    | intro _
    | split
    | (dsimp only)

theorem reads_neighbourhood {a : State} (g : Graph) (t v : Nat) : Reads a (neighbourhood g t v) := by
  unfold neighbourhood
  with_reducible repeat' first
    | assumption
    | apply reads_bind
    | apply reads_pure
    | apply reads_throw
    | apply reads_throwThe
    | apply reads_get
    | apply reads_mapM
    | apply reads_foldlM
    | apply reads_map
    | apply reads_rdBytes
    | apply reads_rdNat
    | intro _
    | split
    | (dsimp only)

theorem reads_aliasStep {a : State} (g : Graph) (o d q c : Nat) : Reads a (aliasStep g o d q c) := by
  unfold aliasStep
  with_reducible repeat' first
    | assumption
    | apply reads_bind
    | apply reads_pure
    | apply reads_throw
    | apply reads_throwThe
    | apply reads_get
    | apply reads_mapM
    | apply reads_foldlM
    | apply reads_map
    | apply reads_rdBytes
    | apply reads_rdNat
    | intro _
    | split
    | (dsimp only)

theorem reads_lowerTs {a : State} (g : Graph) (tf t n x y : Nat) : Reads a (lowerTs g tf t n x y) := by
  induction n generalizing x y with
  | zero => exact reads_pure _
  | succ n ih =>
    unfold lowerTs
    with_reducible repeat' first
      | assumption
      | apply ih
      | apply reads_bind
      | apply reads_pure
      | apply reads_throw
      | apply reads_throwThe
      | apply reads_get
      | apply reads_mapM
      | apply reads_foldlM
      | apply reads_map
      | apply reads_rdBytes
      | apply reads_rdNat
      | intro _
      | split
      | (dsimp only)

theorem reads_drawPositions {a : State} (g : Graph) (k : DrawKey) (h : Nat) (it : Nat × Nat × Nat) : Reads a (drawPositions g k h it) := by
  unfold drawPositions
  with_reducible repeat' first
    | assumption
    | apply reads_bind
    | apply reads_pure
    | apply reads_throw
    | apply reads_throwThe
    | apply reads_get
    | apply reads_mapM
    | apply reads_foldlM
    | apply reads_map
    | apply reads_rdBytes
    | apply reads_rdNat
    | apply reads_neighbourhood
    | apply reads_aliasStep
    | apply reads_lowerTs
    | intro _
    | split
    | (dsimp only)

theorem reads_drawItem {a : State} (g : Graph) (k : DrawKey) (h : Nat) (it : Nat × Nat × Nat) : Reads a (drawItem g k h it) := by
  unfold drawItem
  with_reducible repeat' first
    | assumption
    | apply reads_bind
    | apply reads_pure
    | apply reads_throw
    | apply reads_throwThe
    | apply reads_get
    | apply reads_mapM
    | apply reads_foldlM
    | apply reads_map
    | apply reads_rdBytes
    | apply reads_rdNat
    | apply reads_drawPositions
    | intro _
    | split
    | (dsimp only)

theorem reads_readTable {a : State} (r : Region) : Reads a (readTable r) := by
  unfold readTable
  with_reducible repeat' first
    | assumption
    | apply reads_bind
    | apply reads_pure
    | apply reads_throw
    | apply reads_throwThe
    | apply reads_get
    | apply reads_mapM
    | apply reads_foldlM
    | apply reads_map
    | apply reads_rdBytes
    | apply reads_rdNat
    | intro _
    | split
    | (dsimp only)

theorem reads_rowOwner {a : State} (h : TblHdr) (x : Nat) : Reads a (rowOwner h x) := by
  unfold rowOwner
  with_reducible repeat' first
    | assumption
    | apply reads_bind
    | apply reads_pure
    | apply reads_throw
    | apply reads_throwThe
    | apply reads_get
    | apply reads_mapM
    | apply reads_foldlM
    | apply reads_map
    | apply reads_rdBytes
    | apply reads_rdNat
    | intro _
    | split
    | (dsimp only)

theorem reads_regionHdr {a : State} (i : Nat) : Reads a (regionHdr i) := by
  unfold regionHdr
  with_reducible repeat' first
    | assumption
    | apply reads_bind
    | apply reads_pure
    | apply reads_throw
    | apply reads_throwThe
    | apply reads_get
    | apply reads_mapM
    | apply reads_foldlM
    | apply reads_map
    | apply reads_readTable
    | intro _
    | split
    | (dsimp only)

theorem reads_readList {a : State} (j : Nat) (d : List Byte) : Reads a (readList j d) := by
  unfold readList
  with_reducible repeat' first
    | assumption
    | apply reads_bind
    | apply reads_pure
    | apply reads_throw
    | apply reads_throwThe
    | apply reads_get
    | apply reads_mapM
    | apply reads_foldlM
    | apply reads_map
    | apply reads_rdBytes
    | apply reads_rdNat
    | intro _
    | split
    | (dsimp only)

theorem reads_fetchCheck {a : State} (c j : Nat) (d : List Byte) : Reads a (fetchCheck c j d) := by
  unfold fetchCheck
  with_reducible repeat' first
    | assumption
    | apply reads_bind
    | apply reads_pure
    | apply reads_throw
    | apply reads_throwThe
    | apply reads_get
    | apply reads_mapM
    | apply reads_foldlM
    | apply reads_map
    | apply reads_rdBytes
    | apply reads_rdNat
    | apply reads_readList
    | apply reads_readTable
    | intro _
    | split
    | (dsimp only)

theorem reads_readRow {a : State} (h : TblHdr) (n : Nat) (l : Bool) : Reads a (readRow h n l) := by
  unfold readRow
  with_reducible repeat' first
    | assumption
    | apply reads_bind
    | apply reads_pure
    | apply reads_throw
    | apply reads_throwThe
    | apply reads_get
    | apply reads_mapM
    | apply reads_foldlM
    | apply reads_map
    | apply reads_rdBytes
    | apply reads_rdNat
    | intro _
    | split
    | (dsimp only)

theorem reads_stageMatch {a : State} (j : Nat) (d : List Byte) (x : ListHdr) (h : TblHdr) : Reads a (stageMatch j d x h) := by
  unfold stageMatch
  with_reducible repeat' first
    | assumption
    | apply reads_bind
    | apply reads_pure
    | apply reads_throw
    | apply reads_throwThe
    | apply reads_get
    | apply reads_mapM
    | apply reads_foldlM
    | apply reads_map
    | apply reads_rdBytes
    | apply reads_rdNat
    | intro _
    | split
    | (dsimp only)

theorem reads_serveEntry {a : State} (h : TblHdr) (step e : Nat) : Reads a (serveEntry h step e) := by
  unfold serveEntry
  with_reducible repeat' first
    | assumption
    | apply reads_bind
    | apply reads_pure
    | apply reads_throw
    | apply reads_throwThe
    | apply reads_get
    | apply reads_mapM
    | apply reads_foldlM
    | apply reads_map
    | apply reads_rdBytes
    | apply reads_rdNat
    | apply reads_rowOwner
    | apply reads_readRow
    | intro _
    | split
    | (dsimp only)

theorem reads_serveEntries {a : State} (h : TblHdr) (step : Nat) (l : List Nat) (acc : List Byte) : Reads a (serveEntries h step l acc) := by
  induction l generalizing acc with
  | nil => exact reads_pure _
  | cons e t ih =>
    unfold serveEntries
    with_reducible repeat' first
      | assumption
      | apply ih
      | apply reads_bind
      | apply reads_pure
      | apply reads_throw
      | apply reads_throwThe
      | apply reads_get
      | apply reads_mapM
      | apply reads_foldlM
      | apply reads_map
      | apply reads_serveEntry
      | intro _
      | split
      | (dsimp only)

theorem reads_serveRows {a : State} (p : Pkt) : Reads a (serveRows p) := by
  unfold serveRows
  with_reducible repeat' first
    | assumption
    | exact reads_modify _ (fun s h => by split <;> first | exact h | (unfold setHome Kept; dsimp only; exact kept_parts h))
    | apply reads_bind
    | apply reads_pure
    | apply reads_throw
    | apply reads_throwThe
    | apply reads_get
    | apply reads_mapM
    | apply reads_foldlM
    | apply reads_map
    | apply reads_rdBytes
    | apply reads_rdNat
    | apply reads_readTable
    | apply reads_serveEntries
    | apply reads_readRow
    | intro _
    | split
    | (dsimp only)

theorem reads_at {a : State} {α : Type} {x : Rd α} {d : Nat} (h : Reads a x) : Reads a (x.at d) := by
  intro s hs
  have hx := h s hs
  unfold Rd.at Rd.go
  change Kept a ((match (x.run s).1 with
    | .ok b => (pure b : RdD _)
    | .error st => throw (st, d)).run (x.run s).2).2
  split <;> exact hx

theorem reads_blockHdr {a : State} (d : List Byte) : Reads a (blockHdr d) := by
  unfold blockHdr
  with_reducible repeat' first
    | assumption
    | apply reads_bind
    | apply reads_pure
    | apply reads_throw
    | apply reads_throwThe
    | apply reads_get
    | apply reads_mapM
    | apply reads_foldlM
    | apply reads_map
    | apply reads_rdBytes
    | apply reads_rdNat
    | intro _
    | split
    | (dsimp only)

theorem reads_readInput {a : State} (h : Option TblHdr) (p i : Nat) : Reads a (readInput h p i) := by
  unfold readInput
  with_reducible repeat' first
    | assumption
    | apply reads_at
    | apply reads_bind
    | apply reads_pure
    | apply reads_throw
    | apply reads_throwThe
    | apply reads_get
    | apply reads_mapM
    | apply reads_foldlM
    | apply reads_map
    | apply reads_rdBytes
    | apply reads_rdNat
    | apply reads_rowOwner
    | intro _
    | split
    | (dsimp only)

theorem reads_readInputs {a : State} (h : Option TblHdr) (l : List Nat) (i : Nat) : Reads a (readInputs h l i) := by
  induction l generalizing i with
  | nil => exact reads_pure _
  | cons e t ih =>
    unfold readInputs
    with_reducible repeat' first
      | assumption
      | apply ih
      | apply reads_bind
      | apply reads_pure
      | apply reads_throw
      | apply reads_throwThe
      | apply reads_get
      | apply reads_mapM
      | apply reads_foldlM
      | apply reads_map
      | apply reads_readInput
      | intro _
      | split
      | (dsimp only)

theorem reads_sortRuns {a : State} (d : List Byte) (j : Nat) : Reads a (sortRuns d j) := by
  unfold sortRuns
  with_reducible repeat' first
    | assumption
    | apply reads_at
    | apply reads_bind
    | apply reads_pure
    | apply reads_throw
    | apply reads_throwThe
    | apply reads_get
    | apply reads_mapM
    | apply reads_foldlM
    | apply reads_map
    | apply reads_readTable
    | apply reads_readInputs
    | apply reads_blockHdr
    | intro _
    | split
    | (dsimp only)

theorem reads_segSum {a : State} (d : List Byte) (h : TblHdr) (pos : List Nat) : Reads a (segSum d h pos) := by
  unfold segSum
  with_reducible repeat' first
    | assumption
    | apply reads_bind
    | apply reads_pure
    | apply reads_throw
    | apply reads_throwThe
    | apply reads_get
    | apply reads_mapM
    | apply reads_foldlM
    | apply reads_map
    | apply reads_rdBytes
    | apply reads_rdNat
    | intro _
    | split
    | (dsimp only)

theorem reads_readIndex {a : State} (p n i : Nat) : Reads a (readIndex p n i) := by
  induction n generalizing i with
  | zero => exact reads_pure _
  | succ n ih =>
    unfold readIndex
    with_reducible repeat' first
      | assumption
      | apply ih
      | apply reads_bind
      | apply reads_pure
      | apply reads_throw
      | apply reads_throwThe
      | apply reads_get
      | apply reads_mapM
      | apply reads_foldlM
      | apply reads_map
      | apply reads_rdBytes
      | apply reads_rdNat
      | intro _
      | split
      | (dsimp only)

theorem reads_scatterPrep {a : State} (r : Region) (d : List Byte) : Reads a (scatterPrep r d) := by
  unfold scatterPrep
  with_reducible repeat' first
    | assumption
    | apply reads_bind
    | apply reads_pure
    | apply reads_throw
    | apply reads_throwThe
    | apply reads_get
    | apply reads_mapM
    | apply reads_foldlM
    | apply reads_map
    | apply reads_readTable
    | apply reads_readIndex
    | intro _
    | split
    | (dsimp only)

end Sys2Proof.Machine
end

