-- ==== Sys2Proof/Laws/KeptSampler.lean ====
section
/-!
SUPPORT. Sys2Proof/Laws/KeptSampler.lean: every operation of Sys2Proof/Machine/Sampler.lean leaves the queue, appends to what has left the block, and keeps the canonical forms.
-/
set_option linter.unusedVariables false
set_option linter.unreachableTactic false
set_option linter.unusedTactic false
namespace Sys2Proof.Machine

theorem kept_Rd_go {st0 : State} {α : Type} {x : Rd α} {s : State} (hk : Kept st0 s) (hx : Reads st0 x) : Kept st0 (Rd.go x s).1 := by
  exact hx s hk

theorem kept_setSamp {st0 : State} {s : State} {y1 : SampRun} (hk : Kept st0 s) : Kept st0 (setSamp s y1) := by
  unfold setSamp
  with_reducible repeat' first
    | assumption
    | (dsimp only)
    | refine kept_fst ?_ (by assumption)
    | apply kept_foldl
    | apply kept_foldl_fst
    | apply kept_getD
    | intro _
    | split
    | exact kept_pair _ (by assumption)
    | (unfold Kept; dsimp only; first | refine kept_parts ?_ | refine kept_parts_out ?_ | refine kept_parts_put ?_ | refine kept_parts_regs ?_ | refine kept_parts_filter ?_)
    | contradiction

theorem kept_noteErrNode {st0 : State} {s : State} {c : Nat} {st : Status} {v : Nat} (hk : Kept st0 s) : Kept st0 (noteErrNode s c st v) := by
  unfold noteErrNode
  with_reducible repeat' first
    | assumption
    | (dsimp only)
    | refine kept_fst ?_ (by assumption)
    | apply kept_wr
    | apply kept_foldl
    | apply kept_foldl_fst
    | apply kept_getD
    | intro _
    | split
    | exact kept_pair _ (by assumption)
    | (unfold Kept; dsimp only; first | refine kept_parts ?_ | refine kept_parts_out ?_ | refine kept_parts_put ?_ | refine kept_parts_regs ?_ | refine kept_parts_filter ?_)
    | contradiction

theorem kept_failSamp {st0 : State} {s : State} {y1 : SampRun} {st : Status} {detail : Nat} {node : Option Nat} (hk : Kept st0 s) : Kept st0 (failSamp s y1 st detail node) := by
  unfold failSamp
  apply kept_setSamp
  cases node with
  | none => exact hk
  | some n => exact kept_noteErrNode hk

theorem kept_ownersOf {st0 : State} {g : Graph} {y1 : List Nat} {y2 : Nat} {y3 : State} (hk : Kept st0 y3) : Kept st0 (ownersOf g y1 y2 y3).1 := by
  induction y1 generalizing y2 y3 with
  | nil => unfold ownersOf; with_reducible repeat' first
    | assumption
    | (dsimp only)
    | refine kept_fst ?_ (by assumption)
    | apply kept_Rd_go
    | apply reads_ownerOf
    | apply kept_foldl
    | apply kept_foldl_fst
    | apply kept_getD
    | intro _
    | split
    | exact kept_pair _ (by assumption)
    | (unfold Kept; dsimp only; first | refine kept_parts ?_ | refine kept_parts_out ?_ | refine kept_parts_put ?_ | refine kept_parts_regs ?_ | refine kept_parts_filter ?_)
    | contradiction
  | cons xx tt ih => unfold ownersOf; with_reducible repeat' first
    | apply ih
    | assumption
    | (dsimp only)
    | refine kept_fst ?_ (by assumption)
    | apply kept_Rd_go
    | apply reads_ownerOf
    | apply kept_foldl
    | apply kept_foldl_fst
    | apply kept_getD
    | intro _
    | split
    | exact kept_pair _ (by assumption)
    | (unfold Kept; dsimp only; first | refine kept_parts ?_ | refine kept_parts_out ?_ | refine kept_parts_put ?_ | refine kept_parts_regs ?_ | refine kept_parts_filter ?_)
    | contradiction

theorem kept_drawLocal {st0 : State} {g : Graph} {k : DrawKey} {h : Nat} {me : Nat} {y4 : List (Nat × Nat × Nat × Nat)} {y5 : State} (hk : Kept st0 y5) : Kept st0 (drawLocal g k h me y4 y5).1 := by
  induction y4 generalizing y5 with
  | nil => unfold drawLocal; with_reducible repeat' first
    | assumption
    | (dsimp only)
    | refine kept_fst ?_ (by assumption)
    | apply kept_Rd_go
    | apply reads_drawItem
    | apply kept_foldl
    | apply kept_foldl_fst
    | apply kept_getD
    | intro _
    | split
    | exact kept_pair _ (by assumption)
    | (unfold Kept; dsimp only; first | refine kept_parts ?_ | refine kept_parts_out ?_ | refine kept_parts_put ?_ | refine kept_parts_regs ?_ | refine kept_parts_filter ?_)
    | contradiction
  | cons xx tt ih => unfold drawLocal; with_reducible repeat' first
    | apply ih
    | assumption
    | (dsimp only)
    | refine kept_fst ?_ (by assumption)
    | apply kept_Rd_go
    | apply reads_drawItem
    | apply kept_foldl
    | apply kept_foldl_fst
    | apply kept_getD
    | intro _
    | split
    | exact kept_pair _ (by assumption)
    | (unfold Kept; dsimp only; first | refine kept_parts ?_ | refine kept_parts_out ?_ | refine kept_parts_put ?_ | refine kept_parts_regs ?_ | refine kept_parts_filter ?_)
    | contradiction

theorem kept_sendDraw {st0 : State} {s : State} {y1 : SampRun} {k : DrawKey} {owner : Nat} {grp : List (Nat × Nat × Nat × Nat)} (hk : Kept st0 s) : Kept st0 (sendDraw s y1 k owner grp).1 := by
  unfold sendDraw
  with_reducible repeat' first
    | assumption
    | (dsimp only)
    | refine kept_fst ?_ (by assumption)
    | apply kept_inc
    | apply kept_sendReq
    | apply kept_foldl
    | apply kept_foldl_fst
    | apply kept_getD
    | intro _
    | split
    | exact kept_pair _ (by assumption)
    | (unfold Kept; dsimp only; first | refine kept_parts ?_ | refine kept_parts_out ?_ | refine kept_parts_put ?_ | refine kept_parts_regs ?_ | refine kept_parts_filter ?_)
    | contradiction

theorem kept_sendDraws {st0 : State} {k : DrawKey} {owner : Nat} {y2 : List (List (Nat × Nat × Nat × Nat))} {y3 : State} {y4 : SampRun} (hk : Kept st0 y3) : Kept st0 (sendDraws k owner y2 y3 y4).1 := by
  induction y2 generalizing y3 y4 with
  | nil => unfold sendDraws; with_reducible repeat' first
    | assumption
    | (dsimp only)
    | refine kept_fst ?_ (by assumption)
    | apply kept_sendDraw
    | apply kept_foldl
    | apply kept_foldl_fst
    | apply kept_getD
    | intro _
    | split
    | exact kept_pair _ (by assumption)
    | (unfold Kept; dsimp only; first | refine kept_parts ?_ | refine kept_parts_out ?_ | refine kept_parts_put ?_ | refine kept_parts_regs ?_ | refine kept_parts_filter ?_)
    | contradiction
  | cons xx tt ih => unfold sendDraws; with_reducible repeat' first
    | apply ih
    | assumption
    | (dsimp only)
    | refine kept_fst ?_ (by assumption)
    | apply kept_sendDraw
    | apply kept_foldl
    | apply kept_foldl_fst
    | apply kept_getD
    | intro _
    | split
    | exact kept_pair _ (by assumption)
    | (unfold Kept; dsimp only; first | refine kept_parts ?_ | refine kept_parts_out ?_ | refine kept_parts_put ?_ | refine kept_parts_regs ?_ | refine kept_parts_filter ?_)
    | contradiction

theorem kept_sendOwners {st0 : State} {k : DrawKey} {its : List (Nat × Nat × Nat × Nat)} {own : Nat → Nat} {y3 : List Nat} {y4 : State} {y5 : SampRun} (hk : Kept st0 y4) : Kept st0 (sendOwners k its own y3 y4 y5).1 := by
  induction y3 generalizing y4 y5 with
  | nil => unfold sendOwners; with_reducible repeat' first
    | assumption
    | (dsimp only)
    | refine kept_fst ?_ (by assumption)
    | apply kept_sendDraws
    | apply kept_foldl
    | apply kept_foldl_fst
    | apply kept_getD
    | intro _
    | split
    | exact kept_pair _ (by assumption)
    | (unfold Kept; dsimp only; first | refine kept_parts ?_ | refine kept_parts_out ?_ | refine kept_parts_put ?_ | refine kept_parts_regs ?_ | refine kept_parts_filter ?_)
    | contradiction
  | cons xx tt ih => unfold sendOwners; with_reducible repeat' first
    | apply ih
    | assumption
    | (dsimp only)
    | refine kept_fst ?_ (by assumption)
    | apply kept_sendDraws
    | apply kept_foldl
    | apply kept_foldl_fst
    | apply kept_getD
    | intro _
    | split
    | exact kept_pair _ (by assumption)
    | (unfold Kept; dsimp only; first | refine kept_parts ?_ | refine kept_parts_out ?_ | refine kept_parts_put ?_ | refine kept_parts_regs ?_ | refine kept_parts_filter ?_)
    | contradiction

theorem kept_startHop {st0 : State} {s : State} {y1 : SampRun} {g : Graph} {lvl : List (Nat × Nat)} (hk : Kept st0 s) : Kept st0 (startHop s y1 g lvl) := by
  unfold startHop
  with_reducible repeat' first
    | assumption
    | (dsimp only)
    | refine kept_fst ?_ (by assumption)
    | apply kept_drawLocal
    | apply kept_failSamp
    | apply kept_inc
    | apply kept_sendOwners
    | apply kept_setSamp
    | apply kept_foldl
    | apply kept_foldl_fst
    | apply kept_getD
    | intro _
    | split
    | exact kept_pair _ (by assumption)
    | (unfold Kept; dsimp only; first | refine kept_parts ?_ | refine kept_parts_out ?_ | refine kept_parts_put ?_ | refine kept_parts_regs ?_ | refine kept_parts_filter ?_)
    | contradiction

theorem kept_advanceSamp {st0 : State} {c : Nat} {base : Nat} {y2 : Nat} {y3 : State} (hk : Kept st0 y3) : Kept st0 (advanceSamp c base y2 y3) := by
  induction y2 generalizing y3 with
  | zero => unfold advanceSamp; with_reducible repeat' first
    | assumption
    | (dsimp only)
    | refine kept_fst ?_ (by assumption)
    | apply kept_failSamp
    | apply kept_Rd_go
    | apply kept_ownersOf
    | apply kept_setSamp
    | apply kept_startHop
    | apply reads_readGraph
    | apply kept_foldl
    | apply kept_foldl_fst
    | apply kept_getD
    | intro _
    | split
    | exact kept_pair _ (by assumption)
    | (unfold Kept; dsimp only; first | refine kept_parts ?_ | refine kept_parts_out ?_ | refine kept_parts_put ?_ | refine kept_parts_regs ?_ | refine kept_parts_filter ?_)
    | contradiction
  | succ m ih => unfold advanceSamp; with_reducible repeat' first
    | apply ih
    | assumption
    | (dsimp only)
    | refine kept_fst ?_ (by assumption)
    | apply kept_failSamp
    | apply kept_Rd_go
    | apply kept_ownersOf
    | apply kept_setSamp
    | apply kept_startHop
    | apply reads_readGraph
    | apply kept_foldl
    | apply kept_foldl_fst
    | apply kept_getD
    | intro _
    | split
    | exact kept_pair _ (by assumption)
    | (unfold Kept; dsimp only; first | refine kept_parts ?_ | refine kept_parts_out ?_ | refine kept_parts_put ?_ | refine kept_parts_regs ?_ | refine kept_parts_filter ?_)
    | contradiction

theorem kept_readSeeds {st0 : State} {a : Nat} {y1 : Nat} {y2 : Nat} {y3 : State} (hk : Kept st0 y3) : Kept st0 (readSeeds a y1 y2 y3).1 := by
  induction y1 generalizing y2 y3 with
  | zero => unfold readSeeds; with_reducible repeat' first
    | assumption
    | (dsimp only)
    | refine kept_fst ?_ (by assumption)
    | apply kept_readMem
    | apply kept_foldl
    | apply kept_foldl_fst
    | apply kept_getD
    | intro _
    | split
    | exact kept_pair _ (by assumption)
    | (unfold Kept; dsimp only; first | refine kept_parts ?_ | refine kept_parts_out ?_ | refine kept_parts_put ?_ | refine kept_parts_regs ?_ | refine kept_parts_filter ?_)
    | contradiction
  | succ m ih => unfold readSeeds; with_reducible repeat' first
    | apply ih
    | assumption
    | (dsimp only)
    | refine kept_fst ?_ (by assumption)
    | apply kept_readMem
    | apply kept_foldl
    | apply kept_foldl_fst
    | apply kept_getD
    | intro _
    | split
    | exact kept_pair _ (by assumption)
    | (unfold Kept; dsimp only; first | refine kept_parts ?_ | refine kept_parts_out ?_ | refine kept_parts_put ?_ | refine kept_parts_regs ?_ | refine kept_parts_filter ?_)
    | contradiction

theorem kept_acceptSamp {st0 : State} {s : State} {c : Nat} {j : Nat} {q : Nat} {d : List Byte} (hk : Kept st0 s) : Kept st0 (acceptSamp s c j q d) := by
  unfold acceptSamp
  with_reducible repeat' first
    | assumption
    | (dsimp only)
    | refine kept_fst ?_ (by assumption)
    | apply kept_popFifo
    | apply kept_readSeeds
    | apply kept_failSamp
    | apply kept_Rd_go
    | apply kept_ownersOf
    | apply kept_advanceSamp
    | apply kept_startHop
    | apply kept_setSamp
    | apply reads_readGraph
    | apply kept_foldl
    | apply kept_foldl_fst
    | apply kept_getD
    | intro _
    | split
    | exact kept_pair _ (by assumption)
    | (unfold Kept; dsimp only; first | refine kept_parts ?_ | refine kept_parts_out ?_ | refine kept_parts_put ?_ | refine kept_parts_regs ?_ | refine kept_parts_filter ?_)
    | contradiction

theorem kept_unitEnd {st0 : State} {s : State} {u : RecUnit} {cq : Nat} {j : Nat} {rec : List Byte} {ok : Bool} {crOnOk : Bool} {g : Option LocalSig} (hk : Kept st0 s) : Kept st0 (unitEnd s u cq j rec ok crOnOk g) := by
  unfold unitEnd
  with_reducible repeat' first
    | assumption
    | (dsimp only)
    | refine kept_fst ?_ (by assumption)
    | apply kept_postJobRec
    | apply kept_giveSig
    | apply kept_postFailRec
    | apply kept_foldl
    | apply kept_foldl_fst
    | apply kept_getD
    | intro _
    | split
    | exact kept_pair _ (by assumption)
    | (unfold Kept; dsimp only; first | refine kept_parts ?_ | refine kept_parts_out ?_ | refine kept_parts_put ?_ | refine kept_parts_regs ?_ | refine kept_parts_filter ?_)
    | contradiction

theorem kept_endSampReq {st0 : State} {s : State} {c : Nat} {j : Nat} {d : List Byte} {op : Nat} {st : Status} {detail : Nat} {total : Nat} {g : Option LocalSig} (hk : Kept st0 s) : Kept st0 (endSampReq s c j d op st detail total g) := by
  unfold endSampReq
  with_reducible repeat' first
    | assumption
    | (dsimp only)
    | refine kept_fst ?_ (by assumption)
    | apply kept_inc
    | apply kept_unitEnd
    | apply kept_foldl
    | apply kept_foldl_fst
    | apply kept_getD
    | intro _
    | split
    | exact kept_pair _ (by assumption)
    | (unfold Kept; dsimp only; first | refine kept_parts ?_ | refine kept_parts_out ?_ | refine kept_parts_put ?_ | refine kept_parts_regs ?_ | refine kept_parts_filter ?_)
    | contradiction

theorem kept_sample {st0 : State} {s : State} {q : Nat} (hk : Kept st0 s) : Kept st0 (sample s q) := by
  unfold sample
  with_reducible repeat' first
    | assumption
    | (dsimp only)
    | refine kept_fst ?_ (by assumption)
    | apply kept_endSampReq
    | apply kept_popFifo
    | apply kept_inc
    | apply kept_acceptSamp
    | apply kept_foldl
    | apply kept_foldl_fst
    | apply kept_getD
    | intro _
    | split
    | exact kept_pair _ (by assumption)
    | (unfold Kept; dsimp only; first | refine kept_parts ?_ | refine kept_parts_out ?_ | refine kept_parts_put ?_ | refine kept_parts_regs ?_ | refine kept_parts_filter ?_)
    | contradiction

theorem kept_heldAccept {st0 : State} {s : State} {q : Nat} (hk : Kept st0 s) : Kept st0 (heldAccept s q) := by
  unfold heldAccept
  with_reducible repeat' first
    | assumption
    | (dsimp only)
    | refine kept_fst ?_ (by assumption)
    | apply kept_acceptSamp
    | apply kept_endSampReq
    | apply kept_popFifo
    | apply kept_foldl
    | apply kept_foldl_fst
    | apply kept_getD
    | intro _
    | split
    | exact kept_pair _ (by assumption)
    | (unfold Kept; dsimp only; first | refine kept_parts ?_ | refine kept_parts_out ?_ | refine kept_parts_put ?_ | refine kept_parts_regs ?_ | refine kept_parts_filter ?_)
    | contradiction

theorem kept_closeSamp {st0 : State} {s : State} {y1 : SampRun} {keep : Bool} (hk : Kept st0 s) : Kept st0 (closeSamp s y1 keep) := by
  unfold closeSamp
  with_reducible repeat' first
    | assumption
    | (dsimp only)
    | refine kept_fst ?_ (by assumption)
    | apply kept_foldl
    | apply kept_foldl_fst
    | apply kept_getD
    | intro _
    | split
    | exact kept_pair _ (by assumption)
    | (unfold Kept; dsimp only; first | refine kept_parts ?_ | refine kept_parts_out ?_ | refine kept_parts_put ?_ | refine kept_parts_regs ?_ | refine kept_parts_filter ?_)
    | contradiction

theorem kept_endFailed {st0 : State} {s : State} {y1 : SampRun} {st : Status} {detail : Nat} (hk : Kept st0 s) : Kept st0 (endFailed s y1 st detail) := by
  unfold endFailed
  with_reducible repeat' first
    | assumption
    | (dsimp only)
    | refine kept_fst ?_ (by assumption)
    | apply kept_endSampReq
    | apply kept_closeSamp
    | apply kept_zeroRange
    | apply kept_foldl
    | apply kept_foldl_fst
    | apply kept_getD
    | intro _
    | split
    | exact kept_pair _ (by assumption)
    | (unfold Kept; dsimp only; first | refine kept_parts ?_ | refine kept_parts_out ?_ | refine kept_parts_put ?_ | refine kept_parts_regs ?_ | refine kept_parts_filter ?_)
    | contradiction

theorem kept_sampleCommit {st0 : State} {s : State} {c : Nat} {base : Nat} (hk : Kept st0 s) : Kept st0 (sampleCommit s c base) := by
  unfold sampleCommit
  with_reducible repeat' first
    | assumption
    | (dsimp only)
    | refine kept_fst ?_ (by assumption)
    | apply kept_endFailed
    | apply kept_writeMem
    | apply kept_inc
    | apply kept_closeSamp
    | apply kept_endSampReq
    | apply kept_foldl
    | apply kept_foldl_fst
    | apply kept_getD
    | intro _
    | split
    | exact kept_pair _ (by assumption)
    | (unfold Kept; dsimp only; first | refine kept_parts ?_ | refine kept_parts_out ?_ | refine kept_parts_put ?_ | refine kept_parts_regs ?_ | refine kept_parts_filter ?_)
    | contradiction

theorem kept_doRelease {st0 : State} {s : State} {c : Nat} {j : Nat} {d : List Byte} (hk : Kept st0 s) : Kept st0 (doRelease s c j d) := by
  unfold doRelease
  with_reducible repeat' first
    | assumption
    | (dsimp only)
    | refine kept_fst ?_ (by assumption)
    | apply kept_endSampReq
    | apply kept_foldl
    | apply kept_foldl_fst
    | apply kept_getD
    | intro _
    | split
    | exact kept_pair _ (by assumption)
    | (unfold Kept; dsimp only; first | refine kept_parts ?_ | refine kept_parts_out ?_ | refine kept_parts_put ?_ | refine kept_parts_regs ?_ | refine kept_parts_filter ?_)
    | contradiction

theorem kept_drawsResp {st0 : State} {s : State} {tag : Nat} {c : Nat} {base : Nat} {level : Nat} {pos : List Nat} {owner : Nat} {st : Status} {b : List Byte} (hk : Kept st0 s) : Kept st0 (drawsResp s tag c base level pos owner st b) := by
  unfold drawsResp
  with_reducible repeat' first
    | assumption
    | (dsimp only)
    | refine kept_fst ?_ (by assumption)
    | apply kept_inc
    | apply kept_setSamp
    | apply kept_advanceSamp
    | apply kept_foldl
    | apply kept_foldl_fst
    | apply kept_getD
    | intro _
    | split
    | exact kept_pair _ (by assumption)
    | (unfold Kept; dsimp only; first | refine kept_parts ?_ | refine kept_parts_out ?_ | refine kept_parts_put ?_ | refine kept_parts_regs ?_ | refine kept_parts_filter ?_)
    | contradiction

theorem kept_serveItems {st0 : State} {g : Graph} {k : DrawKey} {h : Nat} {y3 : List (Nat × Nat × Nat × Nat)} {y4 : State} (hk : Kept st0 y4) : Kept st0 (serveItems g k h y3 y4).1 := by
  induction y3 generalizing y4 with
  | nil => unfold serveItems; with_reducible repeat' first
    | assumption
    | (dsimp only)
    | refine kept_fst ?_ (by assumption)
    | apply kept_Rd_go
    | apply reads_drawItem
    | apply kept_foldl
    | apply kept_foldl_fst
    | apply kept_getD
    | intro _
    | split
    | exact kept_pair _ (by assumption)
    | (unfold Kept; dsimp only; first | refine kept_parts ?_ | refine kept_parts_out ?_ | refine kept_parts_put ?_ | refine kept_parts_regs ?_ | refine kept_parts_filter ?_)
    | contradiction
  | cons xx tt ih => unfold serveItems; with_reducible repeat' first
    | apply ih
    | assumption
    | (dsimp only)
    | refine kept_fst ?_ (by assumption)
    | apply kept_Rd_go
    | apply reads_drawItem
    | apply kept_foldl
    | apply kept_foldl_fst
    | apply kept_getD
    | intro _
    | split
    | exact kept_pair _ (by assumption)
    | (unfold Kept; dsimp only; first | refine kept_parts ?_ | refine kept_parts_out ?_ | refine kept_parts_put ?_ | refine kept_parts_regs ?_ | refine kept_parts_filter ?_)
    | contradiction

theorem kept_serveDraw {st0 : State} {s : State} {p : Pkt} (hk : Kept st0 s) : Kept st0 (serveDraw s p).1 := by
  unfold serveDraw
  with_reducible repeat' first
    | assumption
    | (dsimp only)
    | refine kept_fst ?_ (by assumption)
    | apply kept_inc
    | apply kept_Rd_go
    | apply kept_serveItems
    | apply kept_noteErrNode
    | apply reads_readGraph
    | apply kept_foldl
    | apply kept_foldl_fst
    | apply kept_getD
    | intro _
    | split
    | exact kept_pair _ (by assumption)
    | (unfold Kept; dsimp only; first | refine kept_parts ?_ | refine kept_parts_out ?_ | refine kept_parts_put ?_ | refine kept_parts_regs ?_ | refine kept_parts_filter ?_)
    | contradiction

theorem kept_execSample {st0 : State} {queue : Nat} {s : State} (hk : Kept st0 s) {t : State} (e : execSample queue s = .next t) : Kept st0 t := by
  unfold execSample at e
  injection e with e
  subst e
  with_reducible repeat' first
    | assumption
    | (dsimp only)
    | refine kept_fst ?_ (by assumption)
    | apply kept_sample
    | apply kept_foldl
    | apply kept_foldl_fst
    | apply kept_getD
    | intro _
    | split
    | exact kept_pair _ (by assumption)
    | (unfold Kept; dsimp only; first | refine kept_parts ?_ | refine kept_parts_out ?_ | refine kept_parts_put ?_ | refine kept_parts_regs ?_ | refine kept_parts_filter ?_)
    | contradiction

theorem kept_execHeldSampleAccept {st0 : State} {queue : Nat} {s : State} (hk : Kept st0 s) {t : State} (e : execHeldSampleAccept queue s = .next t) : Kept st0 t := by
  unfold execHeldSampleAccept at e
  injection e with e
  subst e
  with_reducible repeat' first
    | assumption
    | (dsimp only)
    | refine kept_fst ?_ (by assumption)
    | apply kept_heldAccept
    | apply kept_foldl
    | apply kept_foldl_fst
    | apply kept_getD
    | intro _
    | split
    | exact kept_pair _ (by assumption)
    | (unfold Kept; dsimp only; first | refine kept_parts ?_ | refine kept_parts_out ?_ | refine kept_parts_put ?_ | refine kept_parts_regs ?_ | refine kept_parts_filter ?_)
    | contradiction

theorem kept_execSampleCommit {st0 : State} {cluster : Nat} {block : Nat} {s : State} (hk : Kept st0 s) {t : State} (e : execSampleCommit cluster block s = .next t) : Kept st0 t := by
  unfold execSampleCommit at e
  injection e with e
  subst e
  with_reducible repeat' first
    | assumption
    | (dsimp only)
    | refine kept_fst ?_ (by assumption)
    | apply kept_sampleCommit
    | apply kept_foldl
    | apply kept_foldl_fst
    | apply kept_getD
    | intro _
    | split
    | exact kept_pair _ (by assumption)
    | (unfold Kept; dsimp only; first | refine kept_parts ?_ | refine kept_parts_out ?_ | refine kept_parts_put ?_ | refine kept_parts_regs ?_ | refine kept_parts_filter ?_)
    | contradiction

theorem kept_execDrawReq {st0 : State} {pkt : Pkt} {s : State} (hk : Kept st0 s) {t : State} (e : execDrawReq pkt s = .next t) : Kept st0 t := by
  unfold execDrawReq at e
  injection e with e
  subst e
  with_reducible repeat' first
    | assumption
    | (dsimp only)
    | refine kept_fst ?_ (by assumption)
    | apply kept_takeRequest
    | apply kept_serveDraw
    | apply kept_respond
    | apply kept_foldl
    | apply kept_foldl_fst
    | apply kept_getD
    | intro _
    | split
    | exact kept_pair _ (by assumption)
    | (unfold Kept; dsimp only; first | refine kept_parts ?_ | refine kept_parts_out ?_ | refine kept_parts_put ?_ | refine kept_parts_regs ?_ | refine kept_parts_filter ?_)
    | contradiction

theorem kept_execRemoteDrawTimeout {st0 : State} {tag : Nat} {s : State} (hk : Kept st0 s) {t : State} (e : execRemoteDrawTimeout tag s = .next t) : Kept st0 t := by
  unfold execRemoteDrawTimeout at e
  injection e with e
  subst e
  with_reducible repeat' first
    | assumption
    | (dsimp only)
    | refine kept_fst ?_ (by assumption)
    | apply kept_reportSuspect
    | apply kept_quarantine
    | apply kept_setSamp
    | apply kept_foldl
    | apply kept_foldl_fst
    | apply kept_getD
    | intro _
    | split
    | exact kept_pair _ (by assumption)
    | (unfold Kept; dsimp only; first | refine kept_parts ?_ | refine kept_parts_out ?_ | refine kept_parts_put ?_ | refine kept_parts_regs ?_ | refine kept_parts_filter ?_)
    | contradiction

end Sys2Proof.Machine
end

