-- ==== Sys2Proof/Laws/KeptGather.lean ====
section
/-!
SUPPORT. Sys2Proof/Laws/KeptGather.lean: every operation of Sys2Proof/Machine/Gather.lean leaves the queue, appends to what has left the block, and keeps the canonical forms.
-/
set_option linter.unusedVariables false
set_option linter.unreachableTactic false
set_option linter.unusedTactic false
namespace Sys2Proof.Machine

theorem kept_setGather {st0 : State} {s : State} {g : GRun} (hk : Kept st0 s) : Kept st0 (setGather s g) := by
  unfold setGather
  with_reducible repeat' first
    | assumption
    | (dsimp only)
    | refine kept_fst ?_ (by assumption)
    | apply kept_foldl
    | apply kept_foldl_fst
    | apply kept_getD
    | intro _
    | split
    | exact kept_pair _ (by assumption)
    | (unfold Kept; dsimp only; first | refine kept_parts ?_ | refine kept_parts_out ?_ | refine kept_parts_put ?_ | refine kept_parts_regs ?_ | refine kept_parts_filter ?_)
    | contradiction

theorem kept_putRows {st0 : State} {dst : Nat} {rb : Nat} {y2 : List (List Byte)} {y3 : Nat} {y4 : State} (hk : Kept st0 y4) : Kept st0 (putRows dst rb y2 y3 y4).1 := by
  induction y2 generalizing y3 y4 with
  | nil => unfold putRows; with_reducible repeat' first
    | assumption
    | (dsimp only)
    | refine kept_fst ?_ (by assumption)
    | apply kept_writeMem
    | apply kept_foldl
    | apply kept_foldl_fst
    | apply kept_getD
    | intro _
    | split
    | exact kept_pair _ (by assumption)
    | (unfold Kept; dsimp only; first | refine kept_parts ?_ | refine kept_parts_out ?_ | refine kept_parts_put ?_ | refine kept_parts_regs ?_ | refine kept_parts_filter ?_)
    | contradiction
  | cons xx tt ih => unfold putRows; with_reducible repeat' first
    | apply ih
    | assumption
    | (dsimp only)
    | refine kept_fst ?_ (by assumption)
    | apply kept_writeMem
    | apply kept_foldl
    | apply kept_foldl_fst
    | apply kept_getD
    | intro _
    | split
    | exact kept_pair _ (by assumption)
    | (unfold Kept; dsimp only; first | refine kept_parts ?_ | refine kept_parts_out ?_ | refine kept_parts_put ?_ | refine kept_parts_regs ?_ | refine kept_parts_filter ?_)
    | contradiction

theorem kept_endFetch {st0 : State} {s : State} {g : GRun} {st : Status} (hk : Kept st0 s) : Kept st0 (endFetch s g st) := by
  unfold endFetch
  with_reducible repeat' first
    | assumption
    | (dsimp only)
    | refine kept_fst ?_ (by assumption)
    | apply kept_setGather
    | apply kept_putRows
    | apply kept_writeMem
    | apply kept_foldl
    | apply kept_foldl_fst
    | apply kept_getD
    | intro _
    | split
    | exact kept_pair _ (by assumption)
    | (unfold Kept; dsimp only; first | refine kept_parts ?_ | refine kept_parts_out ?_ | refine kept_parts_put ?_ | refine kept_parts_regs ?_ | refine kept_parts_filter ?_)
    | contradiction

theorem kept_endGather {st0 : State} {s : State} {g : GRun} {st : Status} (hk : Kept st0 s) : Kept st0 (endGather s g st) := by
  unfold endGather
  with_reducible repeat' first
    | assumption
    | (dsimp only)
    | refine kept_fst ?_ (by assumption)
    | apply kept_setRun
    | apply kept_endFetch
    | apply kept_foldl
    | apply kept_foldl_fst
    | apply kept_getD
    | intro _
    | split
    | exact kept_pair _ (by assumption)
    | (unfold Kept; dsimp only; first | refine kept_parts ?_ | refine kept_parts_out ?_ | refine kept_parts_put ?_ | refine kept_parts_regs ?_ | refine kept_parts_filter ?_)
    | contradiction

theorem kept_hold {st0 : State} {s : State} {h : Held} {fence : Bool} (hk : Kept st0 s) : Kept st0 (hold s h fence) := by
  unfold hold
  with_reducible repeat' first
    | assumption
    | (dsimp only)
    | refine kept_fst ?_ (by assumption)
    | apply kept_foldl
    | apply kept_foldl_fst
    | apply kept_getD
    | intro _
    | split
    | exact kept_pair _ (by assumption)
    | (unfold Kept; dsimp only; first | refine kept_parts ?_ | refine kept_parts_out ?_ | refine kept_parts_put ?_ | refine kept_parts_regs ?_ | refine kept_parts_filter ?_)
    | contradiction

theorem kept_commitRow {st0 : State} {s : State} {g : GRun} {d : List Byte} (hk : Kept st0 s) : Kept st0 (commitRow s g d) := by
  unfold commitRow
  with_reducible repeat' first
    | assumption
    | (dsimp only)
    | refine kept_fst ?_ (by assumption)
    | apply kept_writeMem
    | apply kept_endGather
    | apply kept_setGather
    | apply kept_foldl
    | apply kept_foldl_fst
    | apply kept_getD
    | intro _
    | split
    | exact kept_pair _ (by assumption)
    | (unfold Kept; dsimp only; first | refine kept_parts ?_ | refine kept_parts_out ?_ | refine kept_parts_put ?_ | refine kept_parts_regs ?_ | refine kept_parts_filter ?_)
    | contradiction

theorem kept_askRow {st0 : State} {s : State} {g : GRun} {h : TblHdr} {dev : Nat} {entry : Nat} {slot : Option (Nat × Bool)} (hk : Kept st0 s) : Kept st0 (askRow s g h dev entry slot) := by
  unfold askRow
  with_reducible repeat' first
    | assumption
    | (dsimp only)
    | refine kept_fst ?_ (by assumption)
    | apply kept_sendReq
    | apply kept_setGather
    | apply kept_endGather
    | apply kept_foldl
    | apply kept_foldl_fst
    | apply kept_getD
    | intro _
    | split
    | exact kept_pair _ (by assumption)
    | (unfold Kept; dsimp only; first | refine kept_parts ?_ | refine kept_parts_out ?_ | refine kept_parts_put ?_ | refine kept_parts_regs ?_ | refine kept_parts_filter ?_)
    | contradiction

theorem kept_localRow {st0 : State} {s : State} {g : GRun} {h : TblHdr} {row : Nat} {slot : Nat} (hk : Kept st0 s) : Kept st0 (localRow s g h row slot) := by
  unfold localRow
  with_reducible repeat' first
    | assumption
    | (dsimp only)
    | refine kept_fst ?_ (by assumption)
    | apply kept_Rd_go
    | apply kept_endGather
    | apply kept_commitRow
    | apply kept_inc
    | apply reads_readRow
    | apply kept_foldl
    | apply kept_foldl_fst
    | apply kept_getD
    | intro _
    | split
    | exact kept_pair _ (by assumption)
    | (unfold Kept; dsimp only; first | refine kept_parts ?_ | refine kept_parts_out ?_ | refine kept_parts_put ?_ | refine kept_parts_regs ?_ | refine kept_parts_filter ?_)
    | contradiction

theorem kept_rowFrom {st0 : State} {s : State} {g : GRun} {h : TblHdr} {y3 : Nat} {owner : Nat} (hk : Kept st0 s) : Kept st0 (rowFrom s g h y3 owner) := by
  unfold rowFrom
  with_reducible repeat' first
    | assumption
    | (dsimp only)
    | refine kept_fst ?_ (by assumption)
    | apply kept_askRow
    | apply kept_endGather
    | apply kept_hold
    | apply kept_setGather
    | apply kept_inc
    | apply kept_localRow
    | apply kept_foldl
    | apply kept_foldl_fst
    | apply kept_getD
    | intro _
    | split
    | exact kept_pair _ (by assumption)
    | (unfold Kept; dsimp only; first | refine kept_parts ?_ | refine kept_parts_out ?_ | refine kept_parts_put ?_ | refine kept_parts_regs ?_ | refine kept_parts_filter ?_)
    | contradiction

theorem kept_gatherRow {st0 : State} {s : State} {g : GRun} (hk : Kept st0 s) : Kept st0 (gatherRow s g) := by
  unfold gatherRow
  with_reducible repeat' first
    | assumption
    | (dsimp only)
    | refine kept_fst ?_ (by assumption)
    | apply kept_readMem
    | apply kept_endGather
    | apply kept_commitRow
    | apply kept_inc
    | apply kept_Rd_go
    | apply kept_rowFrom
    | apply reads_rdNat
    | apply reads_rowOwner
    | apply reads_regionHdr
    | apply kept_foldl
    | apply kept_foldl_fst
    | apply kept_getD
    | intro _
    | split
    | exact kept_pair _ (by assumption)
    | (unfold Kept; dsimp only; first | refine kept_parts ?_ | refine kept_parts_out ?_ | refine kept_parts_put ?_ | refine kept_parts_regs ?_ | refine kept_parts_filter ?_)
    | contradiction

theorem kept_runGather {st0 : State} {id : Nat} {y1 : Nat} {y2 : State} (hk : Kept st0 y2) : Kept st0 (runGather id y1 y2) := by
  induction y1 generalizing y2 with
  | zero => unfold runGather; with_reducible repeat' first
    | assumption
    | (dsimp only)
    | refine kept_fst ?_ (by assumption)
    | apply kept_endGather
    | apply kept_gatherRow
    | apply kept_foldl
    | apply kept_foldl_fst
    | apply kept_getD
    | intro _
    | split
    | exact kept_pair _ (by assumption)
    | (unfold Kept; dsimp only; first | refine kept_parts ?_ | refine kept_parts_out ?_ | refine kept_parts_put ?_ | refine kept_parts_regs ?_ | refine kept_parts_filter ?_)
    | contradiction
  | succ m ih => unfold runGather; with_reducible repeat' first
    | apply ih
    | assumption
    | (dsimp only)
    | refine kept_fst ?_ (by assumption)
    | apply kept_endGather
    | apply kept_gatherRow
    | apply kept_foldl
    | apply kept_foldl_fst
    | apply kept_getD
    | intro _
    | split
    | exact kept_pair _ (by assumption)
    | (unfold Kept; dsimp only; first | refine kept_parts ?_ | refine kept_parts_out ?_ | refine kept_parts_put ?_ | refine kept_parts_regs ?_ | refine kept_parts_filter ?_)
    | contradiction

theorem kept_beginGather {st0 : State} {s : State} {g : GRun} (hk : Kept st0 s) : Kept st0 (beginGather s g) := by
  unfold beginGather
  with_reducible repeat' first
    | assumption
    | (dsimp only)
    | refine kept_fst ?_ (by assumption)
    | apply kept_runGather
    | apply kept_foldl
    | apply kept_foldl_fst
    | apply kept_getD
    | intro _
    | split
    | exact kept_pair _ (by assumption)
    | (unfold Kept; dsimp only; first | refine kept_parts ?_ | refine kept_parts_out ?_ | refine kept_parts_put ?_ | refine kept_parts_regs ?_ | refine kept_parts_filter ?_)
    | contradiction

theorem kept_retryRun {st0 : State} {s : State} {id : Nat} (hk : Kept st0 s) : Kept st0 (retryRun s id) := by
  unfold retryRun
  with_reducible repeat' first
    | assumption
    | (dsimp only)
    | refine kept_fst ?_ (by assumption)
    | apply kept_runGather
    | apply kept_gatherRow
    | apply kept_foldl
    | apply kept_foldl_fst
    | apply kept_getD
    | intro _
    | split
    | exact kept_pair _ (by assumption)
    | (unfold Kept; dsimp only; first | refine kept_parts ?_ | refine kept_parts_out ?_ | refine kept_parts_put ?_ | refine kept_parts_regs ?_ | refine kept_parts_filter ?_)
    | contradiction

theorem kept_gatherGo {st0 : State} {s : State} {l : Nat} {k : Nat} {q : QTile} {j : Nat} (hk : Kept st0 s) : Kept st0 (gatherGo s l k q j) := by
  unfold gatherGo
  with_reducible repeat' first
    | assumption
    | (dsimp only)
    | refine kept_fst ?_ (by assumption)
    | apply kept_setRun
    | apply kept_Rd_go
    | apply kept_beginGather
    | apply reads_readTable
    | apply kept_foldl
    | apply kept_foldl_fst
    | apply kept_getD
    | intro _
    | split
    | exact kept_pair _ (by assumption)
    | (unfold Kept; dsimp only; first | refine kept_parts ?_ | refine kept_parts_out ?_ | refine kept_parts_put ?_ | refine kept_parts_regs ?_ | refine kept_parts_filter ?_)
    | contradiction

theorem kept_fetchEntries {st0 : State} {s : State} {d : List Byte} {x : ListHdr} (hk : Kept st0 s) : Kept st0 (fetchEntries s d x).1 := by
  unfold fetchEntries
  with_reducible repeat' first
    | assumption
    | (dsimp only)
    | refine kept_fst ?_ (by assumption)
    | apply kept_readMem
    | apply kept_foldl
    | apply kept_foldl_fst
    | apply kept_getD
    | intro _
    | split
    | exact kept_pair _ (by assumption)
    | (unfold Kept; dsimp only; first | refine kept_parts ?_ | refine kept_parts_out ?_ | refine kept_parts_put ?_ | refine kept_parts_regs ?_ | refine kept_parts_filter ?_)
    | contradiction

theorem kept_endUnitReq {st0 : State} {s : State} {c : Nat} {j : Nat} {d : List Byte} {st : Status} {detail : Nat} {extra : Nat} (hk : Kept st0 s) : Kept st0 (endUnitReq s c j d st detail extra) := by
  unfold endUnitReq
  with_reducible repeat' first
    | assumption
    | (dsimp only)
    | refine kept_fst ?_ (by assumption)
    | apply kept_inc
    | apply kept_unitEnd
    | apply kept_foldl
    | apply kept_foldl_fst
    | apply kept_getD
    | intro _
    | split
    | exact kept_pair _ (by assumption)
    | (unfold Kept; dsimp only; first | refine kept_parts ?_ | refine kept_parts_out ?_ | refine kept_parts_put ?_ | refine kept_parts_regs ?_ | refine kept_parts_filter ?_)
    | contradiction

theorem kept_fetch {st0 : State} {s : State} {q : Nat} (hk : Kept st0 s) : Kept st0 (fetch s q) := by
  unfold fetch
  with_reducible repeat' first
    | assumption
    | (dsimp only)
    | refine kept_fst ?_ (by assumption)
    | apply kept_endUnitReq
    | apply kept_popFifo
    | apply kept_Rd_go
    | apply kept_fetchEntries
    | apply kept_beginGather
    | apply kept_inc
    | apply kept_writeMem
    | apply reads_fetchCheck
    | apply reads_stageMatch
    | apply kept_foldl
    | apply kept_foldl_fst
    | apply kept_getD
    | intro _
    | split
    | exact kept_pair _ (by assumption)
    | (unfold Kept; dsimp only; first | refine kept_parts ?_ | refine kept_parts_out ?_ | refine kept_parts_put ?_ | refine kept_parts_regs ?_ | refine kept_parts_filter ?_)
    | contradiction

theorem kept_countEdges {st0 : State} {s : State} {j : Nat} {d : List Byte} (hk : Kept st0 s) : Kept st0 (countEdges s j d) := by
  unfold countEdges
  with_reducible repeat' first
    | assumption
    | (dsimp only)
    | refine kept_fst ?_ (by assumption)
    | apply kept_Rd_go
    | apply kept_writeMem
    | apply kept_inc
    | apply reads_readList
    | apply kept_foldl
    | apply kept_foldl_fst
    | apply kept_getD
    | intro _
    | split
    | exact kept_pair _ (by assumption)
    | (unfold Kept; dsimp only; first | refine kept_parts ?_ | refine kept_parts_out ?_ | refine kept_parts_put ?_ | refine kept_parts_regs ?_ | refine kept_parts_filter ?_)
    | contradiction

theorem kept_fetchComplete {st0 : State} {s : State} {id : Nat} (hk : Kept st0 s) : Kept st0 (fetchComplete s id) := by
  unfold fetchComplete
  with_reducible repeat' first
    | assumption
    | (dsimp only)
    | refine kept_fst ?_ (by assumption)
    | apply kept_countEdges
    | apply kept_endUnitReq
    | apply kept_foldl
    | apply kept_foldl_fst
    | apply kept_getD
    | intro _
    | split
    | exact kept_pair _ (by assumption)
    | (unfold Kept; dsimp only; first | refine kept_parts ?_ | refine kept_parts_out ?_ | refine kept_parts_put ?_ | refine kept_parts_regs ?_ | refine kept_parts_filter ?_)
    | contradiction

theorem kept_noteTimeout {st0 : State} {s : State} {q : Pkt} {st : Status} (hk : Kept st0 s) : Kept st0 (noteTimeout s q st) := by
  unfold noteTimeout
  with_reducible repeat' first
    | assumption
    | (dsimp only)
    | refine kept_fst ?_ (by assumption)
    | apply kept_reportSuspect
    | apply kept_foldl
    | apply kept_foldl_fst
    | apply kept_getD
    | intro _
    | split
    | exact kept_pair _ (by assumption)
    | (unfold Kept; dsimp only; first | refine kept_parts ?_ | refine kept_parts_out ?_ | refine kept_parts_put ?_ | refine kept_parts_regs ?_ | refine kept_parts_filter ?_)
    | contradiction

theorem kept_rowsResp {st0 : State} {s : State} {c : Nat} {id : Nat} {tag : Nat} {st : Status} {b : List Byte} (hk : Kept st0 s) : Kept st0 (rowsResp s c id tag st b) := by
  unfold rowsResp
  with_reducible repeat' first
    | assumption
    | (dsimp only)
    | refine kept_fst ?_ (by assumption)
    | apply kept_inc
    | apply kept_endGather
    | apply kept_runGather
    | apply kept_commitRow
    | apply kept_foldl
    | apply kept_foldl_fst
    | apply kept_getD
    | intro _
    | split
    | exact kept_pair _ (by assumption)
    | (unfold Kept; dsimp only; first | refine kept_parts ?_ | refine kept_parts_out ?_ | refine kept_parts_put ?_ | refine kept_parts_regs ?_ | refine kept_parts_filter ?_)
    | contradiction

theorem kept_answerRows {st0 : State} {s : State} {p : Pkt} {b : List Byte} {more : Bool} (hk : Kept st0 s) : Kept st0 (answerRows s p b more) := by
  unfold answerRows
  with_reducible repeat' first
    | assumption
    | (dsimp only)
    | refine kept_fst ?_ (by assumption)
    | apply kept_respond
    | apply kept_sendAll
    | apply kept_inc
    | apply kept_foldl
    | apply kept_foldl_fst
    | apply kept_getD
    | intro _
    | split
    | exact kept_pair _ (by assumption)
    | (unfold Kept; dsimp only; first | refine kept_parts ?_ | refine kept_parts_out ?_ | refine kept_parts_put ?_ | refine kept_parts_regs ?_ | refine kept_parts_filter ?_)
    | contradiction

theorem kept_answerHolder {st0 : State} {s : State} {p : Pkt} {st : Status} {b : List Byte} (hk : Kept st0 s) : Kept st0 (answerHolder s p st b) := by
  unfold answerHolder
  with_reducible repeat' first
    | assumption
    | (dsimp only)
    | refine kept_fst ?_ (by assumption)
    | apply kept_respond
    | apply kept_rowsResp
    | apply kept_releaseTag
    | apply kept_sendAll
    | apply kept_foldl
    | apply kept_foldl_fst
    | apply kept_getD
    | intro _
    | split
    | exact kept_pair _ (by assumption)
    | (unfold Kept; dsimp only; first | refine kept_parts ?_ | refine kept_parts_out ?_ | refine kept_parts_put ?_ | refine kept_parts_regs ?_ | refine kept_parts_filter ?_)
    | contradiction

theorem kept_forwardRow {st0 : State} {s : State} {p : Pkt} {dev : Nat} {slot : Nat} {y4 : Nat} {lost : Bool} {rest : List Nat} (hk : Kept st0 s) : Kept st0 (forwardRow s p dev slot y4 lost rest) := by
  unfold forwardRow
  with_reducible repeat' first
    | assumption
    | (dsimp only)
    | refine kept_fst ?_ (by assumption)
    | apply kept_sendReq
    | apply kept_respond
    | apply kept_foldl
    | apply kept_foldl_fst
    | apply kept_getD
    | intro _
    | split
    | exact kept_pair _ (by assumption)
    | (unfold Kept; dsimp only; first | refine kept_parts ?_ | refine kept_parts_out ?_ | refine kept_parts_put ?_ | refine kept_parts_regs ?_ | refine kept_parts_filter ?_)
    | contradiction

theorem kept_rowReq {st0 : State} {s : State} {p : Pkt} {again : Bool} (hk : Kept st0 s) : Kept st0 (rowReq s p again) := by
  unfold rowReq
  with_reducible repeat' first
    | assumption
    | (dsimp only)
    | refine kept_fst ?_ (by assumption)
    | apply kept_Rd_go
    | apply kept_respond
    | apply kept_answerHolder
    | apply kept_answerRows
    | apply kept_hold
    | apply kept_inc
    | apply kept_forwardRow
    | apply reads_serveRows
    | apply kept_foldl
    | apply kept_foldl_fst
    | apply kept_getD
    | intro _
    | split
    | exact kept_pair _ (by assumption)
    | (unfold Kept; dsimp only; first | refine kept_parts ?_ | refine kept_parts_out ?_ | refine kept_parts_put ?_ | refine kept_parts_regs ?_ | refine kept_parts_filter ?_)
    | contradiction

theorem kept_rowFwdResp {st0 : State} {s : State} {req : Pkt} {st : Status} {b : List Byte} (hk : Kept st0 s) : Kept st0 (rowFwdResp s req st b) := by
  unfold rowFwdResp
  with_reducible repeat' first
    | assumption
    | (dsimp only)
    | refine kept_fst ?_ (by assumption)
    | apply kept_rowReq
    | apply kept_respond
    | apply kept_foldl
    | apply kept_foldl_fst
    | apply kept_getD
    | intro _
    | split
    | exact kept_pair _ (by assumption)
    | (unfold Kept; dsimp only; first | refine kept_parts ?_ | refine kept_parts_out ?_ | refine kept_parts_put ?_ | refine kept_parts_regs ?_ | refine kept_parts_filter ?_)
    | contradiction

theorem kept_execGather {st0 : State} {core : Nat} {ctx : Nat} {s : State} (hk : Kept st0 s) {t : State} (e : execGather core ctx s = .next t) : Kept st0 t := by
  unfold execGather at e
  injection e with e
  subst e
  with_reducible repeat' first
    | assumption
    | (dsimp only)
    | refine kept_fst ?_ (by assumption)
    | apply kept_startTile
    | apply kept_gatherGo
    | apply kept_foldl
    | apply kept_foldl_fst
    | apply kept_getD
    | intro _
    | split
    | exact kept_pair _ (by assumption)
    | (unfold Kept; dsimp only; first | refine kept_parts ?_ | refine kept_parts_out ?_ | refine kept_parts_put ?_ | refine kept_parts_regs ?_ | refine kept_parts_filter ?_)
    | contradiction

theorem kept_execFetch {st0 : State} {queue : Nat} {s : State} (hk : Kept st0 s) {t : State} (e : execFetch queue s = .next t) : Kept st0 t := by
  unfold execFetch at e
  injection e with e
  subst e
  with_reducible repeat' first
    | assumption
    | (dsimp only)
    | refine kept_fst ?_ (by assumption)
    | apply kept_fetch
    | apply kept_foldl
    | apply kept_foldl_fst
    | apply kept_getD
    | intro _
    | split
    | exact kept_pair _ (by assumption)
    | (unfold Kept; dsimp only; first | refine kept_parts ?_ | refine kept_parts_out ?_ | refine kept_parts_put ?_ | refine kept_parts_regs ?_ | refine kept_parts_filter ?_)
    | contradiction

theorem kept_execFetchComplete {st0 : State} {run : Nat} {s : State} (hk : Kept st0 s) {t : State} (e : execFetchComplete run s = .next t) : Kept st0 t := by
  unfold execFetchComplete at e
  injection e with e
  subst e
  with_reducible repeat' first
    | assumption
    | (dsimp only)
    | refine kept_fst ?_ (by assumption)
    | apply kept_fetchComplete
    | apply kept_foldl
    | apply kept_foldl_fst
    | apply kept_getD
    | intro _
    | split
    | exact kept_pair _ (by assumption)
    | (unfold Kept; dsimp only; first | refine kept_parts ?_ | refine kept_parts_out ?_ | refine kept_parts_put ?_ | refine kept_parts_regs ?_ | refine kept_parts_filter ?_)
    | contradiction

theorem kept_execRowReq {st0 : State} {pkt : Pkt} {s : State} (hk : Kept st0 s) {t : State} (e : execRowReq pkt s = .next t) : Kept st0 t := by
  unfold execRowReq at e
  injection e with e
  subst e
  with_reducible repeat' first
    | assumption
    | (dsimp only)
    | refine kept_fst ?_ (by assumption)
    | apply kept_takeRequest
    | apply kept_rowReq
    | apply kept_foldl
    | apply kept_foldl_fst
    | apply kept_getD
    | intro _
    | split
    | exact kept_pair _ (by assumption)
    | (unfold Kept; dsimp only; first | refine kept_parts ?_ | refine kept_parts_out ?_ | refine kept_parts_put ?_ | refine kept_parts_regs ?_ | refine kept_parts_filter ?_)
    | contradiction

end Sys2Proof.Machine
end

