-- ==== Sys2Proof/Laws/KeptSorter.lean ====
section
/-!
SUPPORT. Sys2Proof/Laws/KeptSorter.lean: every operation of Sys2Proof/Machine/Sorter.lean leaves the queue, appends to what has left the block, and keeps the canonical forms.
-/
set_option linter.unusedVariables false
set_option linter.unreachableTactic false
set_option linter.unusedTactic false
namespace Sys2Proof.Machine

theorem kept_sortHdr {st0 : State} {s : State} {c : Nat} {j : Nat} {d : List Byte} (hk : Kept st0 s) : Kept st0 (sortHdr s c j d).1 := by
  unfold sortHdr
  with_reducible repeat' first
    | assumption
    | (dsimp only)
    | refine kept_fst ?_ (by assumption)
    | apply kept_Rd_go
    | apply reads_blockHdr
    | apply kept_foldl
    | apply kept_foldl_fst
    | apply kept_getD
    | intro _
    | split
    | exact kept_pair _ (by assumption)
    | (unfold Kept; dsimp only; first | refine kept_parts ?_ | refine kept_parts_out ?_ | refine kept_parts_put ?_ | refine kept_parts_regs ?_ | refine kept_parts_filter ?_)
    | contradiction

theorem kept_sortStart {st0 : State} {s : State} {q : Nat} (hk : Kept st0 s) : Kept st0 (sortStart s q) := by
  unfold sortStart
  with_reducible repeat' first
    | assumption
    | (dsimp only)
    | refine kept_fst ?_ (by assumption)
    | apply kept_endUnitReq
    | apply kept_popFifo
    | apply kept_sortHdr
    | apply kept_foldl
    | apply kept_foldl_fst
    | apply kept_getD
    | intro _
    | split
    | exact kept_pair _ (by assumption)
    | (unfold Kept; dsimp only; first | refine kept_parts ?_ | refine kept_parts_out ?_ | refine kept_parts_put ?_ | refine kept_parts_regs ?_ | refine kept_parts_filter ?_)
    | contradiction

theorem kept_sortWrite {st0 : State} {s : State} {c : Nat} {j : Nat} {d : List Byte} {b : List Byte} {runs : List (List (Nat × Nat × Nat))} (hk : Kept st0 s) : Kept st0 (sortWrite s c j d b runs) := by
  unfold sortWrite
  with_reducible repeat' first
    | assumption
    | (dsimp only)
    | refine kept_fst ?_ (by assumption)
    | apply kept_endUnitReq
    | apply kept_leaveUndefined
    | apply kept_writeMem
    | apply kept_inc
    | apply kept_wr
    | apply kept_foldl
    | apply kept_foldl_fst
    | apply kept_getD
    | intro _
    | split
    | exact kept_pair _ (by assumption)
    | (unfold Kept; dsimp only; first | refine kept_parts ?_ | refine kept_parts_out ?_ | refine kept_parts_put ?_ | refine kept_parts_regs ?_ | refine kept_parts_filter ?_)
    | contradiction

theorem kept_releaseHeldOn {st0 : State} {c : Nat} {j : Nat} {y2 : List (Nat × List Byte)} {y3 : State} (hk : Kept st0 y3) : Kept st0 (releaseHeldOn c j y2 y3) := by
  induction y2 generalizing y3 with
  | nil => unfold releaseHeldOn; with_reducible repeat' first
    | assumption
    | (dsimp only)
    | refine kept_fst ?_ (by assumption)
    | apply kept_doRelease
    | apply kept_foldl
    | apply kept_foldl_fst
    | apply kept_getD
    | intro _
    | split
    | exact kept_pair _ (by assumption)
    | (unfold Kept; dsimp only; first | refine kept_parts ?_ | refine kept_parts_out ?_ | refine kept_parts_put ?_ | refine kept_parts_regs ?_ | refine kept_parts_filter ?_)
    | contradiction
  | cons xx tt ih => unfold releaseHeldOn; with_reducible repeat' first
    | apply ih
    | assumption
    | (dsimp only)
    | refine kept_fst ?_ (by assumption)
    | apply kept_doRelease
    | apply kept_foldl
    | apply kept_foldl_fst
    | apply kept_getD
    | intro _
    | split
    | exact kept_pair _ (by assumption)
    | (unfold Kept; dsimp only; first | refine kept_parts ?_ | refine kept_parts_out ?_ | refine kept_parts_put ?_ | refine kept_parts_regs ?_ | refine kept_parts_filter ?_)
    | contradiction

theorem kept_failSort {st0 : State} {s : State} {c : Nat} {j : Nat} {d : List Byte} {st : Status} {detail : Nat} (hk : Kept st0 s) : Kept st0 (failSort s c j d st detail) := by
  unfold failSort
  with_reducible repeat' first
    | assumption
    | (dsimp only)
    | refine kept_fst ?_ (by assumption)
    | apply kept_Rd_go
    | apply kept_leaveUndefined
    | apply kept_endUnitReq
    | apply kept_zeroRange
    | apply reads_blockHdr
    | apply kept_foldl
    | apply kept_foldl_fst
    | apply kept_getD
    | intro _
    | split
    | exact kept_pair _ (by assumption)
    | (unfold Kept; dsimp only; first | refine kept_parts ?_ | refine kept_parts_out ?_ | refine kept_parts_put ?_ | refine kept_parts_regs ?_ | refine kept_parts_filter ?_)
    | contradiction

theorem kept_sortComplete {st0 : State} {s : State} {c : Nat} (hk : Kept st0 s) : Kept st0 (sortComplete s c) := by
  have hr : ∀ (u : State) (b : Prop) [Decidable b] (j : Nat) (x y : List (Nat × List Byte)), Kept st0 u →
      Kept st0 (if b then releaseHeldOn c j x { u with heldRel := y } else u) := by
    intro u b _ j x y hu
    split
    · exact kept_releaseHeldOn (show Kept st0 { u with heldRel := y } from hu)
    · exact hu
  unfold sortComplete
  split
  · exact hk
  · rename_i r _
    split
    · exact hk
    · have h0 : Kept st0 { s with sorts := s.sorts.filter (fun x => x.cluster != c) } := hk
      have h1 := reads_sortRuns (a := st0) r.desc r.job _ h0
      dsimp only
      apply hr
      split
      · have h2 := kept_fst (p := ((sortRuns r.desc r.job).run _).swap) (r := Except.ok _) h1 (by rename_i e; exact congrArg Prod.swap e)
        exact kept_sortWrite h2
      · have h2 := kept_fst (p := ((sortRuns r.desc r.job).run _).swap) (r := Except.error _) h1 (by rename_i e; exact congrArg Prod.swap e)
        exact kept_failSort h2

theorem kept_release {st0 : State} {s : State} {q : Nat} (hk : Kept st0 s) : Kept st0 (release s q) := by
  unfold release
  with_reducible repeat' first
    | assumption
    | (dsimp only)
    | refine kept_fst ?_ (by assumption)
    | apply kept_endSampReq
    | apply kept_popFifo
    | apply kept_doRelease
    | apply kept_foldl
    | apply kept_foldl_fst
    | apply kept_getD
    | intro _
    | split
    | exact kept_pair _ (by assumption)
    | (unfold Kept; dsimp only; first | refine kept_parts ?_ | refine kept_parts_out ?_ | refine kept_parts_put ?_ | refine kept_parts_regs ?_ | refine kept_parts_filter ?_)
    | contradiction

theorem kept_badOp {st0 : State} {s : State} {q : Nat} (hk : Kept st0 s) : Kept st0 (badOp s q) := by
  unfold badOp
  with_reducible repeat' first
    | assumption
    | (dsimp only)
    | refine kept_fst ?_ (by assumption)
    | apply kept_inc
    | apply kept_popFifo
    | apply kept_foldl
    | apply kept_foldl_fst
    | apply kept_getD
    | intro _
    | split
    | exact kept_pair _ (by assumption)
    | (unfold Kept; dsimp only; first | refine kept_parts ?_ | refine kept_parts_out ?_ | refine kept_parts_put ?_ | refine kept_parts_regs ?_ | refine kept_parts_filter ?_)
    | contradiction

theorem kept_execSort {st0 : State} {queue : Nat} {s : State} (hk : Kept st0 s) {t : State} (e : execSort queue s = .next t) : Kept st0 t := by
  unfold execSort at e
  injection e with e
  subst e
  with_reducible repeat' first
    | assumption
    | (dsimp only)
    | refine kept_fst ?_ (by assumption)
    | apply kept_sortStart
    | apply kept_foldl
    | apply kept_foldl_fst
    | apply kept_getD
    | intro _
    | split
    | exact kept_pair _ (by assumption)
    | (unfold Kept; dsimp only; first | refine kept_parts ?_ | refine kept_parts_out ?_ | refine kept_parts_put ?_ | refine kept_parts_regs ?_ | refine kept_parts_filter ?_)
    | contradiction

theorem kept_execSortComplete {st0 : State} {cluster : Nat} {s : State} (hk : Kept st0 s) {t : State} (e : execSortComplete cluster s = .next t) : Kept st0 t := by
  unfold execSortComplete at e
  injection e with e
  subst e
  with_reducible repeat' first
    | assumption
    | (dsimp only)
    | refine kept_fst ?_ (by assumption)
    | apply kept_sortComplete
    | apply kept_foldl
    | apply kept_foldl_fst
    | apply kept_getD
    | intro _
    | split
    | exact kept_pair _ (by assumption)
    | (unfold Kept; dsimp only; first | refine kept_parts ?_ | refine kept_parts_out ?_ | refine kept_parts_put ?_ | refine kept_parts_regs ?_ | refine kept_parts_filter ?_)
    | contradiction

theorem kept_execRelease {st0 : State} {queue : Nat} {s : State} (hk : Kept st0 s) {t : State} (e : execRelease queue s = .next t) : Kept st0 t := by
  unfold execRelease at e
  injection e with e
  subst e
  with_reducible repeat' first
    | assumption
    | (dsimp only)
    | refine kept_fst ?_ (by assumption)
    | apply kept_release
    | apply kept_foldl
    | apply kept_foldl_fst
    | apply kept_getD
    | intro _
    | split
    | exact kept_pair _ (by assumption)
    | (unfold Kept; dsimp only; first | refine kept_parts ?_ | refine kept_parts_out ?_ | refine kept_parts_put ?_ | refine kept_parts_regs ?_ | refine kept_parts_filter ?_)
    | contradiction

theorem kept_execQentryBadOp {st0 : State} {queue : Nat} {s : State} (hk : Kept st0 s) {t : State} (e : execQentryBadOp queue s = .next t) : Kept st0 t := by
  unfold execQentryBadOp at e
  injection e with e
  subst e
  with_reducible repeat' first
    | assumption
    | (dsimp only)
    | refine kept_fst ?_ (by assumption)
    | apply kept_badOp
    | apply kept_foldl
    | apply kept_foldl_fst
    | apply kept_getD
    | intro _
    | split
    | exact kept_pair _ (by assumption)
    | (unfold Kept; dsimp only; first | refine kept_parts ?_ | refine kept_parts_out ?_ | refine kept_parts_put ?_ | refine kept_parts_regs ?_ | refine kept_parts_filter ?_)
    | contradiction

end Sys2Proof.Machine
end

