-- ==== Sys2Proof/Laws/KeptMarkers.lean ====
section
/-!
SUPPORT. Sys2Proof/Laws/KeptMarkers.lean: every operation of Sys2Proof/Machine/Markers.lean leaves the queue, appends to what has left the block, and keeps the canonical forms.
-/
set_option linter.unusedVariables false
set_option linter.unreachableTactic false
set_option linter.unusedTactic false
namespace Sys2Proof.Machine

theorem kept_sendStream {st0 : State} {s : State} {dev : Nat} {j : Nat} {p : Pkt} (hk : Kept st0 s) : Kept st0 (sendStream s dev j p) := by
  unfold sendStream
  with_reducible repeat' first
    | assumption
    | (dsimp only)
    | refine kept_fst ?_ (by assumption)
    | apply kept_sendOn
    | apply kept_foldl
    | apply kept_foldl_fst
    | apply kept_getD
    | intro _
    | split
    | exact kept_pair _ (by assumption)
    | (unfold Kept; dsimp only; first | refine kept_parts ?_ | refine kept_parts_out ?_ | refine kept_parts_put ?_ | refine kept_parts_regs ?_ | refine kept_parts_filter ?_)
    | contradiction

theorem kept_sendCtrl {st0 : State} {s : State} {dev : Nat} {j : Nat} {step : Nat} {ctype : Nat} {st : Status} {seg : Nat} {arg : Nat} {aux : Nat} (hk : Kept st0 s) : Kept st0 (sendCtrl s dev j step ctype st seg arg aux) := by
  unfold sendCtrl
  with_reducible repeat' first
    | assumption
    | (dsimp only)
    | refine kept_fst ?_ (by assumption)
    | apply kept_sendStream
    | apply kept_foldl
    | apply kept_foldl_fst
    | apply kept_getD
    | intro _
    | split
    | exact kept_pair _ (by assumption)
    | (unfold Kept; dsimp only; first | refine kept_parts ?_ | refine kept_parts_out ?_ | refine kept_parts_put ?_ | refine kept_parts_regs ?_ | refine kept_parts_filter ?_)
    | contradiction

theorem kept_closeMark {st0 : State} {s : State} {j : Nat} {tensor : Nat} {step : Nat} {ok : Bool} (hk : Kept st0 s) : Kept st0 (closeMark s j tensor step ok) := by
  unfold closeMark
  with_reducible repeat' first
    | assumption
    | (dsimp only)
    | refine kept_fst ?_ (by assumption)
    | apply kept_foldl
    | apply kept_foldl_fst
    | apply kept_getD
    | intro _
    | split
    | exact kept_pair _ (by assumption)
    | (unfold Kept; dsimp only; first | refine kept_parts ?_ | refine kept_parts_out ?_ | refine kept_parts_put ?_ | refine kept_parts_regs ?_ | refine kept_parts_filter ?_)
    | contradiction

theorem kept_markDown {st0 : State} {s : State} {y1 : Tree} {q : Nat} {tensor : Nat} {step : Nat} {ok : Bool} (hk : Kept st0 s) : Kept st0 (markDown s y1 q tensor step ok) := by
  unfold markDown
  with_reducible repeat' first
    | assumption
    | (dsimp only)
    | refine kept_fst ?_ (by assumption)
    | apply kept_sendCtrl
    | apply kept_closeMark
    | apply kept_foldl
    | apply kept_foldl_fst
    | apply kept_getD
    | intro _
    | split
    | exact kept_pair _ (by assumption)
    | (unfold Kept; dsimp only; first | refine kept_parts ?_ | refine kept_parts_out ?_ | refine kept_parts_put ?_ | refine kept_parts_regs ?_ | refine kept_parts_filter ?_)
    | contradiction

theorem kept_tryMark {st0 : State} {s : State} {m : MarkSt} (hk : Kept st0 s) : Kept st0 (tryMark s m) := by
  unfold tryMark
  with_reducible repeat' first
    | assumption
    | (dsimp only)
    | refine kept_fst ?_ (by assumption)
    | apply kept_markDown
    | apply kept_sendCtrl
    | apply kept_foldl
    | apply kept_foldl_fst
    | apply kept_getD
    | intro _
    | split
    | exact kept_pair _ (by assumption)
    | (unfold Kept; dsimp only; first | refine kept_parts ?_ | refine kept_parts_out ?_ | refine kept_parts_put ?_ | refine kept_parts_regs ?_ | refine kept_parts_filter ?_)
    | contradiction

theorem kept_withMark {st0 : State} {s : State} {j : Nat} {tensor : Nat} {step : Nat} {f : MarkSt → MarkSt} (hk : Kept st0 s) : Kept st0 (withMark s j tensor step f) := by
  unfold withMark
  with_reducible repeat' first
    | assumption
    | (dsimp only)
    | refine kept_fst ?_ (by assumption)
    | apply kept_tryMark
    | apply kept_foldl
    | apply kept_foldl_fst
    | apply kept_getD
    | intro _
    | split
    | exact kept_pair _ (by assumption)
    | (unfold Kept; dsimp only; first | refine kept_parts ?_ | refine kept_parts_out ?_ | refine kept_parts_put ?_ | refine kept_parts_regs ?_ | refine kept_parts_filter ?_)
    | contradiction

theorem kept_ownMarker {st0 : State} {s : State} {j : Nat} {tensor : Nat} {step : Nat} {ok : Bool} (hk : Kept st0 s) : Kept st0 (ownMarker s j tensor step ok) := by
  unfold ownMarker
  with_reducible repeat' first
    | assumption
    | (dsimp only)
    | refine kept_fst ?_ (by assumption)
    | apply kept_closeMark
    | apply kept_withMark
    | apply kept_foldl
    | apply kept_foldl_fst
    | apply kept_getD
    | intro _
    | split
    | exact kept_pair _ (by assumption)
    | (unfold Kept; dsimp only; first | refine kept_parts ?_ | refine kept_parts_out ?_ | refine kept_parts_put ?_ | refine kept_parts_regs ?_ | refine kept_parts_filter ?_)
    | contradiction

theorem kept_markerIn {st0 : State} {s : State} {p : Pkt} (hk : Kept st0 s) : Kept st0 (markerIn s p) := by
  unfold markerIn
  with_reducible repeat' first
    | assumption
    | (dsimp only)
    | refine kept_fst ?_ (by assumption)
    | apply kept_markDown
    | apply kept_withMark
    | apply kept_foldl
    | apply kept_foldl_fst
    | apply kept_getD
    | intro _
    | split
    | exact kept_pair _ (by assumption)
    | (unfold Kept; dsimp only; first | refine kept_parts ?_ | refine kept_parts_out ?_ | refine kept_parts_put ?_ | refine kept_parts_regs ?_ | refine kept_parts_filter ?_)
    | contradiction

end Sys2Proof.Machine
end

