-- ==== Sys2Proof/Laws/KeptUpdate.lean ====
section
/-!
SUPPORT. Sys2Proof/Laws/KeptUpdate.lean: every operation of Sys2Proof/Machine/Update.lean leaves the queue, appends to what has left the block, and keeps the canonical forms.
-/
set_option linter.unusedVariables false
set_option linter.unreachableTactic false
set_option linter.unusedTactic false
namespace Sys2Proof.Machine

theorem kept_rowLost {st0 : State} {s : State} {y1 : Region} {row : Nat} {step : Nat} {st : Status} (hk : Kept st0 s) : Kept st0 (rowLost s y1 row step st) := by
  unfold rowLost
  with_reducible repeat' first
    | assumption
    | (dsimp only)
    | refine kept_fst ?_ (by assumption)
    | apply kept_inc
    | apply kept_postEvent
    | apply kept_foldl
    | apply kept_foldl_fst
    | apply kept_getD
    | intro _
    | split
    | exact kept_pair _ (by assumption)
    | (unfold Kept; dsimp only; first | refine kept_parts ?_ | refine kept_parts_out ?_ | refine kept_parts_put ?_ | refine kept_parts_regs ?_ | refine kept_parts_filter ?_)
    | contradiction

theorem kept_rowWritten {st0 : State} {s : State} {region : Nat} {row : Nat} (hk : Kept st0 s) : Kept st0 (rowWritten s region row) := by
  unfold rowWritten
  with_reducible repeat' first
    | assumption
    | (dsimp only)
    | refine kept_fst ?_ (by assumption)
    | apply kept_foldl
    | apply kept_foldl_fst
    | apply kept_getD
    | intro _
    | split
    | exact kept_pair _ (by assumption)
    | (unfold Kept; dsimp only; first | refine kept_parts ?_ | refine kept_parts_out ?_ | refine kept_parts_put ?_ | refine kept_parts_regs ?_ | refine kept_parts_filter ?_)
    | contradiction

theorem kept_countApply {st0 : State} {s : State} {sats : Nat} {nans : Nat} (hk : Kept st0 s) : Kept st0 (countApply s sats nans) := by
  unfold countApply
  with_reducible repeat' first
    | assumption
    | (dsimp only)
    | refine kept_fst ?_ (by assumption)
    | apply kept_inc
    | apply kept_foldl
    | apply kept_foldl_fst
    | apply kept_getD
    | intro _
    | split
    | exact kept_pair _ (by assumption)
    | (unfold Kept; dsimp only; first | refine kept_parts ?_ | refine kept_parts_out ?_ | refine kept_parts_put ?_ | refine kept_parts_regs ?_ | refine kept_parts_filter ?_)
    | contradiction

theorem kept_applyHere {st0 : State} {s : State} {h : TblHdr} {a : ApplyRow} {slot : Nat} (hk : Kept st0 s) : Kept st0 (applyHere s h a slot) := by
  unfold applyHere
  with_reducible repeat' first
    | assumption
    | (dsimp only)
    | refine kept_fst ?_ (by assumption)
    | apply kept_readMem
    | apply kept_rowLost
    | apply kept_writeMem
    | apply kept_countApply
    | apply kept_rowWritten
    | apply kept_foldl
    | apply kept_foldl_fst
    | apply kept_getD
    | intro _
    | split
    | exact kept_pair _ (by assumption)
    | (unfold Kept; dsimp only; first | refine kept_parts ?_ | refine kept_parts_out ?_ | refine kept_parts_put ?_ | refine kept_parts_regs ?_ | refine kept_parts_filter ?_)
    | contradiction

theorem kept_setApply {st0 : State} {s : State} {a : ApplyRow} (hk : Kept st0 s) : Kept st0 (setApply s a) := by
  unfold setApply
  with_reducible repeat' first
    | assumption
    | (dsimp only)
    | refine kept_fst ?_ (by assumption)
    | apply kept_foldl
    | apply kept_foldl_fst
    | apply kept_getD
    | intro _
    | split
    | exact kept_pair _ (by assumption)
    | (unfold Kept; dsimp only; first | refine kept_parts ?_ | refine kept_parts_out ?_ | refine kept_parts_put ?_ | refine kept_parts_regs ?_ | refine kept_parts_filter ?_)
    | contradiction

theorem kept_dropApply {st0 : State} {s : State} {a : ApplyRow} (hk : Kept st0 s) : Kept st0 (dropApply s a) := by
  unfold dropApply
  with_reducible repeat' first
    | assumption
    | (dsimp only)
    | refine kept_fst ?_ (by assumption)
    | apply kept_foldl
    | apply kept_foldl_fst
    | apply kept_getD
    | intro _
    | split
    | exact kept_pair _ (by assumption)
    | (unfold Kept; dsimp only; first | refine kept_parts ?_ | refine kept_parts_out ?_ | refine kept_parts_put ?_ | refine kept_parts_regs ?_ | refine kept_parts_filter ?_)
    | contradiction

theorem kept_applySend {st0 : State} {s : State} {h : TblHdr} {a : ApplyRow} {dev : Nat} {p : Pkt} {ph : Nat → ApplyPhase} (hk : Kept st0 s) : Kept st0 (applySend s h a dev p ph) := by
  unfold applySend
  with_reducible repeat' first
    | assumption
    | (dsimp only)
    | refine kept_fst ?_ (by assumption)
    | apply kept_sendReq
    | apply kept_setApply
    | apply kept_rowLost
    | apply kept_dropApply
    | apply kept_foldl
    | apply kept_foldl_fst
    | apply kept_getD
    | intro _
    | split
    | exact kept_pair _ (by assumption)
    | (unfold Kept; dsimp only; first | refine kept_parts ?_ | refine kept_parts_out ?_ | refine kept_parts_put ?_ | refine kept_parts_regs ?_ | refine kept_parts_filter ?_)
    | contradiction

theorem kept_applyRead {st0 : State} {s : State} {h : TblHdr} {a : ApplyRow} {dev : Nat} {slot : Nat} {got : List Byte} (hk : Kept st0 s) : Kept st0 (applyRead s h a dev slot got) := by
  unfold applyRead
  with_reducible repeat' first
    | assumption
    | (dsimp only)
    | refine kept_fst ?_ (by assumption)
    | apply kept_applySend
    | apply kept_foldl
    | apply kept_foldl_fst
    | apply kept_getD
    | intro _
    | split
    | exact kept_pair _ (by assumption)
    | (unfold Kept; dsimp only; first | refine kept_parts ?_ | refine kept_parts_out ?_ | refine kept_parts_put ?_ | refine kept_parts_regs ?_ | refine kept_parts_filter ?_)
    | contradiction

theorem kept_applyWrite {st0 : State} {s : State} {h : TblHdr} {a : ApplyRow} {dev : Nat} {slot : Nat} {data : List Byte} {off : Nat} {sats : Nat} {nans : Nat} (hk : Kept st0 s) : Kept st0 (applyWrite s h a dev slot data off sats nans) := by
  unfold applyWrite
  with_reducible repeat' first
    | assumption
    | (dsimp only)
    | refine kept_fst ?_ (by assumption)
    | apply kept_applySend
    | apply kept_foldl
    | apply kept_foldl_fst
    | apply kept_getD
    | intro _
    | split
    | exact kept_pair _ (by assumption)
    | (unfold Kept; dsimp only; first | refine kept_parts ?_ | refine kept_parts_out ?_ | refine kept_parts_put ?_ | refine kept_parts_regs ?_ | refine kept_parts_filter ?_)
    | contradiction

theorem kept_beginApply {st0 : State} {s : State} {h : TblHdr} {a : ApplyRow} (hk : Kept st0 s) : Kept st0 (beginApply s h a) := by
  unfold beginApply
  with_reducible repeat' first
    | assumption
    | (dsimp only)
    | refine kept_fst ?_ (by assumption)
    | apply kept_setApply
    | apply kept_applyHere
    | apply kept_dropApply
    | apply kept_applyRead
    | apply kept_foldl
    | apply kept_foldl_fst
    | apply kept_getD
    | intro _
    | split
    | exact kept_pair _ (by assumption)
    | (unfold Kept; dsimp only; first | refine kept_parts ?_ | refine kept_parts_out ?_ | refine kept_parts_put ?_ | refine kept_parts_regs ?_ | refine kept_parts_filter ?_)
    | contradiction

theorem kept_applyNext {st0 : State} {s : State} {region : Nat} {row : Nat} {st : Status} {b : List Byte} (hk : Kept st0 s) : Kept st0 (applyNext s region row st b) := by
  unfold applyNext
  with_reducible repeat' first
    | assumption
    | (dsimp only)
    | refine kept_fst ?_ (by assumption)
    | apply kept_rowLost
    | apply kept_dropApply
    | apply kept_Rd_go
    | apply kept_applyRead
    | apply kept_applyWrite
    | apply kept_countApply
    | apply kept_rowWritten
    | apply reads_readTable
    | apply kept_foldl
    | apply kept_foldl_fst
    | apply kept_getD
    | intro _
    | split
    | exact kept_pair _ (by assumption)
    | (unfold Kept; dsimp only; first | refine kept_parts ?_ | refine kept_parts_out ?_ | refine kept_parts_put ?_ | refine kept_parts_regs ?_ | refine kept_parts_filter ?_)
    | contradiction

theorem kept_acceptContrib {st0 : State} {s : State} {h : TblHdr} {c : Contrib} (hk : Kept st0 s) : Kept st0 (acceptContrib s h c) := by
  unfold acceptContrib
  with_reducible repeat' first
    | assumption
    | (dsimp only)
    | refine kept_fst ?_ (by assumption)
    | apply kept_inc
    | apply kept_setHome
    | apply kept_foldl
    | apply kept_foldl_fst
    | apply kept_getD
    | intro _
    | split
    | exact kept_pair _ (by assumption)
    | (unfold Kept; dsimp only; first | refine kept_parts ?_ | refine kept_parts_out ?_ | refine kept_parts_put ?_ | refine kept_parts_regs ?_ | refine kept_parts_filter ?_)
    | contradiction

theorem kept_setScatter {st0 : State} {s : State} {y1 : SRun} (hk : Kept st0 s) : Kept st0 (setScatter s y1) := by
  unfold setScatter
  with_reducible repeat' first
    | assumption
    | (dsimp only)
    | refine kept_fst ?_ (by assumption)
    | apply kept_foldl
    | apply kept_foldl_fst
    | apply kept_getD
    | intro _
    | split
    | exact kept_pair _ (by assumption)
    | (unfold Kept; dsimp only; first | refine kept_parts ?_ | refine kept_parts_out ?_ | refine kept_parts_put ?_ | refine kept_parts_regs ?_ | refine kept_parts_filter ?_)
    | contradiction

theorem kept_scatterMark {st0 : State} {s : State} {y1 : Region} {step : Nat} {ok : Bool} (hk : Kept st0 s) : Kept st0 (scatterMark s y1 step ok) := by
  unfold scatterMark
  with_reducible repeat' first
    | assumption
    | (dsimp only)
    | refine kept_fst ?_ (by assumption)
    | apply kept_setHome
    | apply kept_ownMarker
    | apply kept_foldl
    | apply kept_foldl_fst
    | apply kept_getD
    | intro _
    | split
    | exact kept_pair _ (by assumption)
    | (unfold Kept; dsimp only; first | refine kept_parts ?_ | refine kept_parts_out ?_ | refine kept_parts_put ?_ | refine kept_parts_regs ?_ | refine kept_parts_filter ?_)
    | contradiction

theorem kept_endScatter {st0 : State} {s : State} {y1 : SRun} {st : Status} (hk : Kept st0 s) : Kept st0 (endScatter s y1 st) := by
  unfold endScatter
  with_reducible repeat' first
    | assumption
    | (dsimp only)
    | refine kept_fst ?_ (by assumption)
    | apply kept_setRun
    | apply kept_scatterMark
    | apply kept_foldl
    | apply kept_foldl_fst
    | apply kept_getD
    | intro _
    | split
    | exact kept_pair _ (by assumption)
    | (unfold Kept; dsimp only; first | refine kept_parts ?_ | refine kept_parts_out ?_ | refine kept_parts_put ?_ | refine kept_parts_regs ?_ | refine kept_parts_filter ?_)
    | contradiction

theorem kept_contribDone {st0 : State} {s : State} {y1 : SRun} (hk : Kept st0 s) : Kept st0 (contribDone s y1) := by
  unfold contribDone
  with_reducible repeat' first
    | assumption
    | (dsimp only)
    | refine kept_fst ?_ (by assumption)
    | apply kept_setScatter
    | apply kept_foldl
    | apply kept_foldl_fst
    | apply kept_getD
    | intro _
    | split
    | exact kept_pair _ (by assumption)
    | (unfold Kept; dsimp only; first | refine kept_parts ?_ | refine kept_parts_out ?_ | refine kept_parts_put ?_ | refine kept_parts_regs ?_ | refine kept_parts_filter ?_)
    | contradiction

theorem kept_contribHere {st0 : State} {s : State} {y1 : SRun} {h : TblHdr} {step : Nat} {row : Nat} {count : Nat} {acc : List Nat} (hk : Kept st0 s) : Kept st0 (contribHere s y1 h step row count acc) := by
  unfold contribHere
  with_reducible repeat' first
    | assumption
    | (dsimp only)
    | refine kept_fst ?_ (by assumption)
    | apply kept_endScatter
    | apply kept_hold
    | apply kept_setScatter
    | apply kept_inc
    | apply kept_contribDone
    | apply kept_acceptContrib
    | apply kept_foldl
    | apply kept_foldl_fst
    | apply kept_getD
    | intro _
    | split
    | exact kept_pair _ (by assumption)
    | (unfold Kept; dsimp only; first | refine kept_parts ?_ | refine kept_parts_out ?_ | refine kept_parts_put ?_ | refine kept_parts_regs ?_ | refine kept_parts_filter ?_)
    | contradiction

theorem kept_contribAway {st0 : State} {s : State} {y1 : SRun} {h : TblHdr} {step : Nat} {row : Nat} {count : Nat} {owner : Nat} {acc : List Nat} {k : Nat} (hk : Kept st0 s) : Kept st0 (contribAway s y1 h step row count owner acc k) := by
  unfold contribAway
  with_reducible repeat' first
    | assumption
    | (dsimp only)
    | refine kept_fst ?_ (by assumption)
    | apply kept_sendReq
    | apply kept_setScatter
    | apply kept_endScatter
    | apply kept_foldl
    | apply kept_foldl_fst
    | apply kept_getD
    | intro _
    | split
    | exact kept_pair _ (by assumption)
    | (unfold Kept; dsimp only; first | refine kept_parts ?_ | refine kept_parts_out ?_ | refine kept_parts_put ?_ | refine kept_parts_regs ?_ | refine kept_parts_filter ?_)
    | contradiction

theorem kept_scatterRow {st0 : State} {s : State} {y1 : SRun} {row : Nat} {pos : List Nat} (hk : Kept st0 s) : Kept st0 (scatterRow s y1 row pos) := by
  unfold scatterRow
  with_reducible repeat' first
    | assumption
    | (dsimp only)
    | refine kept_fst ?_ (by assumption)
    | apply kept_Rd_go
    | apply kept_endScatter
    | apply kept_contribHere
    | apply kept_contribAway
    | apply kept_inc
    | apply kept_wr
    | apply kept_setScatter
    | apply reads_readTable
    | apply reads_rowOwner
    | apply reads_segSum
    | apply kept_foldl
    | apply kept_foldl_fst
    | apply kept_getD
    | intro _
    | split
    | exact kept_pair _ (by assumption)
    | (unfold Kept; dsimp only; first | refine kept_parts ?_ | refine kept_parts_out ?_ | refine kept_parts_put ?_ | refine kept_parts_regs ?_ | refine kept_parts_filter ?_)
    | contradiction

theorem kept_runScatter {st0 : State} {id : Nat} {y1 : Nat} {y2 : State} (hk : Kept st0 y2) : Kept st0 (runScatter id y1 y2) := by
  induction y1 generalizing y2 with
  | zero => unfold runScatter; with_reducible repeat' first
    | assumption
    | (dsimp only)
    | refine kept_fst ?_ (by assumption)
    | apply kept_endScatter
    | apply kept_scatterRow
    | apply kept_foldl
    | apply kept_foldl_fst
    | apply kept_getD
    | intro _
    | split
    | exact kept_pair _ (by assumption)
    | (unfold Kept; dsimp only; first | refine kept_parts ?_ | refine kept_parts_out ?_ | refine kept_parts_put ?_ | refine kept_parts_regs ?_ | refine kept_parts_filter ?_)
    | contradiction
  | succ m ih => unfold runScatter; with_reducible repeat' first
    | apply ih
    | assumption
    | (dsimp only)
    | refine kept_fst ?_ (by assumption)
    | apply kept_endScatter
    | apply kept_scatterRow
    | apply kept_foldl
    | apply kept_foldl_fst
    | apply kept_getD
    | intro _
    | split
    | exact kept_pair _ (by assumption)
    | (unfold Kept; dsimp only; first | refine kept_parts ?_ | refine kept_parts_out ?_ | refine kept_parts_put ?_ | refine kept_parts_regs ?_ | refine kept_parts_filter ?_)
    | contradiction

theorem kept_retryScatter {st0 : State} {s : State} {id : Nat} (hk : Kept st0 s) : Kept st0 (retryScatter s id) := by
  unfold retryScatter
  with_reducible repeat' first
    | assumption
    | (dsimp only)
    | refine kept_fst ?_ (by assumption)
    | apply kept_runScatter
    | apply kept_scatterRow
    | apply kept_setScatter
    | apply kept_foldl
    | apply kept_foldl_fst
    | apply kept_getD
    | intro _
    | split
    | exact kept_pair _ (by assumption)
    | (unfold Kept; dsimp only; first | refine kept_parts ?_ | refine kept_parts_out ?_ | refine kept_parts_put ?_ | refine kept_parts_regs ?_ | refine kept_parts_filter ?_)
    | contradiction

theorem kept_contribResp {st0 : State} {s : State} {id : Nat} {k : Nat} {tag : Nat} {st : Status} (hk : Kept st0 s) : Kept st0 (contribResp s id k tag st) := by
  unfold contribResp
  with_reducible repeat' first
    | assumption
    | (dsimp only)
    | refine kept_fst ?_ (by assumption)
    | apply kept_endScatter
    | apply kept_contribDone
    | apply kept_setScatter
    | apply kept_runScatter
    | apply kept_foldl
    | apply kept_foldl_fst
    | apply kept_getD
    | intro _
    | split
    | exact kept_pair _ (by assumption)
    | (unfold Kept; dsimp only; first | refine kept_parts ?_ | refine kept_parts_out ?_ | refine kept_parts_put ?_ | refine kept_parts_regs ?_ | refine kept_parts_filter ?_)
    | contradiction

theorem kept_noteScat {st0 : State} {s : State} {region : Nat} {step : Nat} (hk : Kept st0 s) : Kept st0 (noteScat s region step) := by
  unfold noteScat
  with_reducible repeat' first
    | assumption
    | (dsimp only)
    | refine kept_fst ?_ (by assumption)
    | apply kept_setHome
    | apply kept_foldl
    | apply kept_foldl_fst
    | apply kept_getD
    | intro _
    | split
    | exact kept_pair _ (by assumption)
    | (unfold Kept; dsimp only; first | refine kept_parts ?_ | refine kept_parts_out ?_ | refine kept_parts_put ?_ | refine kept_parts_regs ?_ | refine kept_parts_filter ?_)
    | contradiction

theorem kept_scatterGo {st0 : State} {s : State} {l : Nat} {k : Nat} {q : QTile} {j : Nat} (hk : Kept st0 s) : Kept st0 (scatterGo s l k q j) := by
  unfold scatterGo
  with_reducible repeat' first
    | assumption
    | (dsimp only)
    | refine kept_fst ?_ (by assumption)
    | apply kept_setRun
    | apply kept_Rd_go
    | apply kept_scatterMark
    | apply kept_noteScat
    | apply kept_setHome
    | apply kept_inc
    | apply kept_leaveUndefined
    | apply kept_runScatter
    | apply reads_readTable
    | apply reads_scatterPrep
    | apply kept_foldl
    | apply kept_foldl_fst
    | apply kept_getD
    | intro _
    | split
    | exact kept_pair _ (by assumption)
    | (unfold Kept; dsimp only; first | refine kept_parts ?_ | refine kept_parts_out ?_ | refine kept_parts_put ?_ | refine kept_parts_regs ?_ | refine kept_parts_filter ?_)
    | contradiction

theorem kept_dropParts {st0 : State} {s : State} {h : TblHdr} {src : Nat} (hk : Kept st0 s) : Kept st0 (dropParts s h src) := by
  unfold dropParts
  with_reducible repeat' first
    | assumption
    | (dsimp only)
    | refine kept_fst ?_ (by assumption)
    | apply kept_setHome
    | apply kept_foldl
    | apply kept_foldl_fst
    | apply kept_getD
    | intro _
    | split
    | exact kept_pair _ (by assumption)
    | (unfold Kept; dsimp only; first | refine kept_parts ?_ | refine kept_parts_out ?_ | refine kept_parts_put ?_ | refine kept_parts_regs ?_ | refine kept_parts_filter ?_)
    | contradiction

theorem kept_storePart {st0 : State} {s : State} {h : TblHdr} {p : Pkt} (hk : Kept st0 s) : Kept st0 (storePart s h p) := by
  unfold storePart
  with_reducible repeat' first
    | assumption
    | (dsimp only)
    | refine kept_fst ?_ (by assumption)
    | apply kept_respond
    | apply kept_dropParts
    | apply kept_inc
    | apply kept_acceptContrib
    | apply kept_setHome
    | apply kept_foldl
    | apply kept_foldl_fst
    | apply kept_getD
    | intro _
    | split
    | exact kept_pair _ (by assumption)
    | (unfold Kept; dsimp only; first | refine kept_parts ?_ | refine kept_parts_out ?_ | refine kept_parts_put ?_ | refine kept_parts_regs ?_ | refine kept_parts_filter ?_)
    | contradiction

theorem kept_contribIn {st0 : State} {s : State} {p : Pkt} (hk : Kept st0 s) : Kept st0 (contribIn s p) := by
  unfold contribIn
  split
  · exact kept_respond hk
  · rename_i reg _
    have h := kept_Rd_go (x := (do let h ← readTable reg; let o ← rowOwner h (fld p.payload 8 5); pure (h, o))) hk
      (reads_bind (reads_readTable _) (fun _ => reads_bind (reads_rowOwner _ _) (fun _ => reads_pure _)))
    split
    · exact kept_respond (kept_fst h ‹_›)
    · have h1 := kept_fst h ‹_›
      rename_i t hd o e
      have h2 : Kept st0 (setHome t reg.id (homeOf t hd)) := kept_setHome h1
      generalize setHome t reg.id (homeOf t hd) = u at h2
      dsimp only
      split
      · exact kept_respond (kept_dropParts h2)
      · split
        · exact kept_respond (kept_dropParts h2)
        · split
          · exact kept_respond (kept_dropParts h2)
          · split
            · exact kept_respond (kept_dropParts h2)
            · exact kept_hold h2
            · split
              · exact kept_hold h2
              · split
                · exact kept_hold h2
                · exact kept_storePart h2

theorem kept_retryHeld {st0 : State} {s : State} {y1 : Held} (hk : Kept st0 s) : Kept st0 (retryHeld s y1) := by
  unfold retryHeld
  with_reducible repeat' first
    | assumption
    | (dsimp only)
    | refine kept_fst ?_ (by assumption)
    | apply kept_retryRun
    | apply kept_rowReq
    | apply kept_retryScatter
    | apply kept_contribIn
    | apply kept_foldl
    | apply kept_foldl_fst
    | apply kept_getD
    | intro _
    | split
    | exact kept_pair _ (by assumption)
    | (unfold Kept; dsimp only; first | refine kept_parts ?_ | refine kept_parts_out ?_ | refine kept_parts_put ?_ | refine kept_parts_regs ?_ | refine kept_parts_filter ?_)
    | contradiction

theorem kept_retryEach {st0 : State} {y0 : List (Held × Bool)} {y1 : State} (hk : Kept st0 y1) : Kept st0 (retryEach y0 y1) := by
  induction y0 generalizing y1 with
  | nil => unfold retryEach; with_reducible repeat' first
    | assumption
    | (dsimp only)
    | refine kept_fst ?_ (by assumption)
    | apply kept_retryHeld
    | apply kept_foldl
    | apply kept_foldl_fst
    | apply kept_getD
    | intro _
    | split
    | exact kept_pair _ (by assumption)
    | (unfold Kept; dsimp only; first | refine kept_parts ?_ | refine kept_parts_out ?_ | refine kept_parts_put ?_ | refine kept_parts_regs ?_ | refine kept_parts_filter ?_)
    | contradiction
  | cons xx tt ih => unfold retryEach; with_reducible repeat' first
    | apply ih
    | assumption
    | (dsimp only)
    | refine kept_fst ?_ (by assumption)
    | apply kept_retryHeld
    | apply kept_foldl
    | apply kept_foldl_fst
    | apply kept_getD
    | intro _
    | split
    | exact kept_pair _ (by assumption)
    | (unfold Kept; dsimp only; first | refine kept_parts ?_ | refine kept_parts_out ?_ | refine kept_parts_put ?_ | refine kept_parts_regs ?_ | refine kept_parts_filter ?_)
    | contradiction

theorem kept_applyEach {st0 : State} {y0 : List ApplyRow} {y1 : State} (hk : Kept st0 y1) : Kept st0 (applyEach y0 y1) := by
  induction y0 generalizing y1 with
  | nil => unfold applyEach; with_reducible repeat' first
    | assumption
    | (dsimp only)
    | refine kept_fst ?_ (by assumption)
    | apply kept_dropApply
    | apply kept_Rd_go
    | apply kept_rowLost
    | apply kept_beginApply
    | apply reads_readTable
    | apply kept_foldl
    | apply kept_foldl_fst
    | apply kept_getD
    | intro _
    | split
    | exact kept_pair _ (by assumption)
    | (unfold Kept; dsimp only; first | refine kept_parts ?_ | refine kept_parts_out ?_ | refine kept_parts_put ?_ | refine kept_parts_regs ?_ | refine kept_parts_filter ?_)
    | contradiction
  | cons xx tt ih => unfold applyEach; with_reducible repeat' first
    | apply ih
    | assumption
    | (dsimp only)
    | refine kept_fst ?_ (by assumption)
    | apply kept_dropApply
    | apply kept_Rd_go
    | apply kept_rowLost
    | apply kept_beginApply
    | apply reads_readTable
    | apply kept_foldl
    | apply kept_foldl_fst
    | apply kept_getD
    | intro _
    | split
    | exact kept_pair _ (by assumption)
    | (unfold Kept; dsimp only; first | refine kept_parts ?_ | refine kept_parts_out ?_ | refine kept_parts_put ?_ | refine kept_parts_regs ?_ | refine kept_parts_filter ?_)
    | contradiction

theorem kept_releaseRows {st0 : State} {s : State} (hk : Kept st0 s) : Kept st0 (releaseRows s) := by
  unfold releaseRows
  with_reducible repeat' first
    | assumption
    | (dsimp only)
    | refine kept_fst ?_ (by assumption)
    | apply kept_applyEach
    | apply kept_retryEach
    | apply kept_foldl
    | apply kept_foldl_fst
    | apply kept_getD
    | intro _
    | split
    | exact kept_pair _ (by assumption)
    | (unfold Kept; dsimp only; first | refine kept_parts ?_ | refine kept_parts_out ?_ | refine kept_parts_put ?_ | refine kept_parts_regs ?_ | refine kept_parts_filter ?_)
    | contradiction

theorem kept_applyResp {st0 : State} {s : State} {region : Nat} {row : Nat} {st : Status} {b : List Byte} (hk : Kept st0 s) : Kept st0 (applyResp s region row st b) := by
  unfold applyResp
  with_reducible repeat' first
    | assumption
    | (dsimp only)
    | refine kept_fst ?_ (by assumption)
    | apply kept_applyNext
    | apply kept_releaseRows
    | apply kept_foldl
    | apply kept_foldl_fst
    | apply kept_getD
    | intro _
    | split
    | exact kept_pair _ (by assumption)
    | (unfold Kept; dsimp only; first | refine kept_parts ?_ | refine kept_parts_out ?_ | refine kept_parts_put ?_ | refine kept_parts_regs ?_ | refine kept_parts_filter ?_)
    | contradiction

theorem kept_serveWrite {st0 : State} {s : State} {p : Pkt} {again : Bool} (hk : Kept st0 s) : Kept st0 (serveWrite s p again) := by
  unfold serveWrite
  with_reducible repeat' first
    | assumption
    | (dsimp only)
    | refine kept_fst ?_ (by assumption)
    | apply kept_respond
    | apply kept_inc
    | apply kept_writeMem
    | apply kept_foldl
    | apply kept_foldl_fst
    | apply kept_getD
    | intro _
    | split
    | exact kept_pair _ (by assumption)
    | (unfold Kept; dsimp only; first | refine kept_parts ?_ | refine kept_parts_out ?_ | refine kept_parts_put ?_ | refine kept_parts_regs ?_ | refine kept_parts_filter ?_)
    | contradiction

theorem kept_retryWrites {st0 : State} {s : State} (hk : Kept st0 s) : Kept st0 (retryWrites s) := by
  unfold retryWrites
  with_reducible repeat' first
    | assumption
    | (dsimp only)
    | refine kept_fst ?_ (by assumption)
    | apply kept_serveWrite
    | apply kept_foldl
    | apply kept_foldl_fst
    | apply kept_getD
    | intro _
    | split
    | exact kept_pair _ (by assumption)
    | (unfold Kept; dsimp only; first | refine kept_parts ?_ | refine kept_parts_out ?_ | refine kept_parts_put ?_ | refine kept_parts_regs ?_ | refine kept_parts_filter ?_)
    | contradiction

theorem kept_timeoutHeld {st0 : State} {s : State} {y1 : Held} (hk : Kept st0 s) : Kept st0 (timeoutHeld s y1) := by
  unfold timeoutHeld
  with_reducible repeat' first
    | assumption
    | (dsimp only)
    | refine kept_fst ?_ (by assumption)
    | apply kept_endGather
    | apply kept_respond
    | apply kept_endScatter
    | apply kept_foldl
    | apply kept_foldl_fst
    | apply kept_getD
    | intro _
    | split
    | exact kept_pair _ (by assumption)
    | (unfold Kept; dsimp only; first | refine kept_parts ?_ | refine kept_parts_out ?_ | refine kept_parts_put ?_ | refine kept_parts_regs ?_ | refine kept_parts_filter ?_)
    | contradiction

theorem kept_freezeMirror {st0 : State} {s : State} {j : Nat} {st : Status} (hk : Kept st0 s) : Kept st0 (freezeMirror s j st) := by
  unfold freezeMirror
  with_reducible repeat' first
    | assumption
    | (dsimp only)
    | refine kept_fst ?_ (by assumption)
    | apply kept_postEvent
    | apply kept_wr
    | apply kept_foldl
    | apply kept_foldl_fst
    | apply kept_getD
    | intro _
    | split
    | exact kept_pair _ (by assumption)
    | (unfold Kept; dsimp only; first | refine kept_parts ?_ | refine kept_parts_out ?_ | refine kept_parts_put ?_ | refine kept_parts_regs ?_ | refine kept_parts_filter ?_)
    | contradiction

theorem kept_applyRows {st0 : State} {h : TblHdr} {y1 : Nat} {x : HomeSt} {y3 : List Nat} {y4 : State} (hk : Kept st0 y4) : Kept st0 (applyRows h y1 x y3 y4) := by
  induction y3 generalizing y4 with
  | nil => exact hk
  | cons row l ih => exact ih (kept_beginApply hk)

theorem kept_closeStep {st0 : State} {s : State} {reg : Region} {x : HomeSt} {y3 : Nat} {ok : Bool} {st : Status} (hk : Kept st0 s) : Kept st0 (closeStep s reg x y3 ok st) := by
  unfold closeStep
  with_reducible repeat' first
    | assumption
    | (dsimp only)
    | refine kept_fst ?_ (by assumption)
    | apply kept_Rd_go
    | apply kept_rowLost
    | apply kept_setHome
    | apply kept_releaseRows
    | apply kept_applyRows
    | apply kept_postEvent
    | apply kept_freezeMirror
    | apply reads_readTable
    | apply kept_foldl
    | apply kept_foldl_fst
    | apply kept_getD
    | intro _
    | split
    | exact kept_pair _ (by assumption)
    | (unfold Kept; dsimp only; first | refine kept_parts ?_ | refine kept_parts_out ?_ | refine kept_parts_put ?_ | refine kept_parts_regs ?_ | refine kept_parts_filter ?_)
    | contradiction

theorem kept_stepClose {st0 : State} {s : State} {table : Nat} {step : Nat} (hk : Kept st0 s) : Kept st0 (stepClose s table step) := by
  unfold stepClose
  with_reducible repeat' first
    | assumption
    | (dsimp only)
    | refine kept_fst ?_ (by assumption)
    | apply kept_closeStep
    | apply kept_inc
    | apply kept_foldl
    | apply kept_foldl_fst
    | apply kept_getD
    | intro _
    | split
    | exact kept_pair _ (by assumption)
    | (unfold Kept; dsimp only; first | refine kept_parts ?_ | refine kept_parts_out ?_ | refine kept_parts_put ?_ | refine kept_parts_regs ?_ | refine kept_parts_filter ?_)
    | contradiction

theorem kept_closeTimeout {st0 : State} {s : State} {table : Nat} (hk : Kept st0 s) : Kept st0 (closeTimeout s table) := by
  unfold closeTimeout
  with_reducible repeat' first
    | assumption
    | (dsimp only)
    | refine kept_fst ?_ (by assumption)
    | apply kept_closeStep
    | apply kept_inc
    | apply kept_foldl
    | apply kept_foldl_fst
    | apply kept_getD
    | intro _
    | split
    | exact kept_pair _ (by assumption)
    | (unfold Kept; dsimp only; first | refine kept_parts ?_ | refine kept_parts_out ?_ | refine kept_parts_put ?_ | refine kept_parts_regs ?_ | refine kept_parts_filter ?_)
    | contradiction

theorem kept_migStone {st0 : State} {s : State} {m : Mig} {st : Status} (hk : Kept st0 s) : Kept st0 (migStone s m st) := by
  unfold migStone
  with_reducible repeat' first
    | assumption
    | (dsimp only)
    | refine kept_fst ?_ (by assumption)
    | apply kept_stoneWrite
    | apply kept_foldl
    | apply kept_foldl_fst
    | apply kept_getD
    | intro _
    | split
    | exact kept_pair _ (by assumption)
    | (unfold Kept; dsimp only; first | refine kept_parts ?_ | refine kept_parts_out ?_ | refine kept_parts_put ?_ | refine kept_parts_regs ?_ | refine kept_parts_filter ?_)
    | contradiction

theorem kept_refuseMig {st0 : State} {s : State} {st : Status} (hk : Kept st0 s) : Kept st0 (refuseMig s st) := by
  unfold refuseMig
  with_reducible repeat' first
    | assumption
    | (dsimp only)
    | refine kept_fst ?_ (by assumption)
    | apply kept_sendMsi
    | apply kept_migStone
    | apply kept_wr
    | apply kept_foldl
    | apply kept_foldl_fst
    | apply kept_getD
    | intro _
    | split
    | exact kept_pair _ (by assumption)
    | (unfold Kept; dsimp only; first | refine kept_parts ?_ | refine kept_parts_out ?_ | refine kept_parts_put ?_ | refine kept_parts_regs ?_ | refine kept_parts_filter ?_)
    | contradiction

theorem kept_endMig {st0 : State} {s : State} {st : Status} (hk : Kept st0 s) : Kept st0 (endMig s st) := by
  unfold endMig
  with_reducible repeat' first
    | assumption
    | (dsimp only)
    | refine kept_fst ?_ (by assumption)
    | apply kept_migStone
    | apply kept_wrs
    | apply kept_releaseRows
    | apply kept_sendMsi
    | apply kept_foldl
    | apply kept_foldl_fst
    | apply kept_getD
    | intro _
    | split
    | exact kept_pair _ (by assumption)
    | (unfold Kept; dsimp only; first | refine kept_parts ?_ | refine kept_parts_out ?_ | refine kept_parts_put ?_ | refine kept_parts_regs ?_ | refine kept_parts_filter ?_)
    | contradiction

theorem kept_fenceMig {st0 : State} {s : State} {m : Mig} (hk : Kept st0 s) : Kept st0 (fenceMig s m) := by
  unfold fenceMig
  with_reducible repeat' first
    | assumption
    | (dsimp only)
    | refine kept_fst ?_ (by assumption)
    | apply kept_wrs
    | apply kept_foldl
    | apply kept_foldl_fst
    | apply kept_getD
    | intro _
    | split
    | exact kept_pair _ (by assumption)
    | (unfold Kept; dsimp only; first | refine kept_parts ?_ | refine kept_parts_out ?_ | refine kept_parts_put ?_ | refine kept_parts_regs ?_ | refine kept_parts_filter ?_)
    | contradiction

theorem kept_migStart {st0 : State} {s : State} {vector : Nat} (hk : Kept st0 s) : Kept st0 (migStart s vector) := by
  unfold migStart
  with_reducible repeat' first
    | assumption
    | (dsimp only)
    | refine kept_fst ?_ (by assumption)
    | apply kept_wr
    | apply kept_refuseMig
    | apply kept_endMig
    | apply kept_Rd_go
    | apply kept_fenceMig
    | apply kept_sendReq
    | apply reads_readTable
    | apply kept_foldl
    | apply kept_foldl_fst
    | apply kept_getD
    | intro _
    | split
    | exact kept_pair _ (by assumption)
    | (unfold Kept; dsimp only; first | refine kept_parts ?_ | refine kept_parts_out ?_ | refine kept_parts_put ?_ | refine kept_parts_regs ?_ | refine kept_parts_filter ?_)
    | contradiction

theorem kept_migHdrResp {st0 : State} {s : State} {st : Status} {b : List Byte} (hk : Kept st0 s) : Kept st0 (migHdrResp s st b) := by
  unfold migHdrResp
  with_reducible repeat' first
    | assumption
    | (dsimp only)
    | refine kept_fst ?_ (by assumption)
    | apply kept_endMig
    | apply kept_fenceMig
    | apply kept_foldl
    | apply kept_foldl_fst
    | apply kept_getD
    | intro _
    | split
    | exact kept_pair _ (by assumption)
    | (unfold Kept; dsimp only; first | refine kept_parts ?_ | refine kept_parts_out ?_ | refine kept_parts_put ?_ | refine kept_parts_regs ?_ | refine kept_parts_filter ?_)
    | contradiction

theorem kept_migUnreadable {st0 : State} {s : State} {reg : Region} {row : Nat} (hk : Kept st0 s) : Kept st0 (migUnreadable s reg row) := by
  unfold migUnreadable
  with_reducible repeat' first
    | assumption
    | (dsimp only)
    | refine kept_fst ?_ (by assumption)
    | apply kept_rowLost
    | apply kept_wr
    | apply kept_foldl
    | apply kept_foldl_fst
    | apply kept_getD
    | intro _
    | split
    | exact kept_pair _ (by assumption)
    | (unfold Kept; dsimp only; first | refine kept_parts ?_ | refine kept_parts_out ?_ | refine kept_parts_put ?_ | refine kept_parts_regs ?_ | refine kept_parts_filter ?_)
    | contradiction

theorem kept_setMigPhase {st0 : State} {s : State} {m : Mig} {p : MigPhase} (hk : Kept st0 s) : Kept st0 (setMigPhase s m p) := by
  unfold setMigPhase
  with_reducible repeat' first
    | assumption
    | (dsimp only)
    | refine kept_fst ?_ (by assumption)
    | apply kept_foldl
    | apply kept_foldl_fst
    | apply kept_getD
    | intro _
    | split
    | exact kept_pair _ (by assumption)
    | (unfold Kept; dsimp only; first | refine kept_parts ?_ | refine kept_parts_out ?_ | refine kept_parts_put ?_ | refine kept_parts_regs ?_ | refine kept_parts_filter ?_)
    | contradiction

theorem kept_migSend {st0 : State} {s : State} {m : Mig} {h : TblHdr} {n : Nat} {off : Nat} {slot : List Byte} (hk : Kept st0 s) : Kept st0 (migSend s m h n off slot) := by
  unfold migSend
  with_reducible repeat' first
    | assumption
    | (dsimp only)
    | refine kept_fst ?_ (by assumption)
    | apply kept_sendReq
    | apply kept_setMigPhase
    | apply kept_foldl
    | apply kept_foldl_fst
    | apply kept_getD
    | intro _
    | split
    | exact kept_pair _ (by assumption)
    | (unfold Kept; dsimp only; first | refine kept_parts ?_ | refine kept_parts_out ?_ | refine kept_parts_put ?_ | refine kept_parts_regs ?_ | refine kept_parts_filter ?_)
    | contradiction

theorem kept_migSlot {st0 : State} {s : State} {m : Mig} {reg : Region} {h : TblHdr} {n : Nat} (hk : Kept st0 s) : Kept st0 (migSlot s m reg h n) := by
  unfold migSlot
  with_reducible repeat' first
    | assumption
    | (dsimp only)
    | refine kept_fst ?_ (by assumption)
    | apply kept_setMigPhase
    | apply kept_readMem
    | apply kept_migUnreadable
    | apply kept_migSend
    | apply kept_foldl
    | apply kept_foldl_fst
    | apply kept_getD
    | intro _
    | split
    | exact kept_pair _ (by assumption)
    | (unfold Kept; dsimp only; first | refine kept_parts ?_ | refine kept_parts_out ?_ | refine kept_parts_put ?_ | refine kept_parts_regs ?_ | refine kept_parts_filter ?_)
    | contradiction

theorem kept_migLocal {st0 : State} {m : Mig} {reg : Region} {h : TblHdr} {y3 : List Nat} {y4 : State} (hk : Kept st0 y4) : Kept st0 (migLocal m reg h y3 y4) := by
  induction y3 generalizing y4 with
  | nil => unfold migLocal; with_reducible repeat' first
    | assumption
    | (dsimp only)
    | refine kept_fst ?_ (by assumption)
    | apply kept_setMigPhase
    | apply kept_readMem
    | apply kept_migUnreadable
    | apply kept_writeMem
    | apply kept_foldl
    | apply kept_foldl_fst
    | apply kept_getD
    | intro _
    | split
    | exact kept_pair _ (by assumption)
    | (unfold Kept; dsimp only; first | refine kept_parts ?_ | refine kept_parts_out ?_ | refine kept_parts_put ?_ | refine kept_parts_regs ?_ | refine kept_parts_filter ?_)
    | contradiction
  | cons xx tt ih => unfold migLocal; with_reducible repeat' first
    | apply ih
    | assumption
    | (dsimp only)
    | refine kept_fst ?_ (by assumption)
    | apply kept_setMigPhase
    | apply kept_readMem
    | apply kept_migUnreadable
    | apply kept_writeMem
    | apply kept_foldl
    | apply kept_foldl_fst
    | apply kept_getD
    | intro _
    | split
    | exact kept_pair _ (by assumption)
    | (unfold Kept; dsimp only; first | refine kept_parts ?_ | refine kept_parts_out ?_ | refine kept_parts_put ?_ | refine kept_parts_regs ?_ | refine kept_parts_filter ?_)
    | contradiction

theorem kept_migTable {st0 : State} {s : State} {m : Mig} (hk : Kept st0 s) : Kept st0 (migTable s m).1 := by
  unfold migTable
  with_reducible repeat' first
    | assumption
    | (dsimp only)
    | refine kept_fst ?_ (by assumption)
    | apply kept_Rd_go
    | apply reads_readTable
    | apply kept_foldl
    | apply kept_foldl_fst
    | apply kept_getD
    | intro _
    | split
    | exact kept_pair _ (by assumption)
    | (unfold Kept; dsimp only; first | refine kept_parts ?_ | refine kept_parts_out ?_ | refine kept_parts_put ?_ | refine kept_parts_regs ?_ | refine kept_parts_filter ?_)
    | contradiction

theorem kept_migResp {st0 : State} {s : State} {st : Status} (hk : Kept st0 s) : Kept st0 (migResp s st) := by
  unfold migResp
  with_reducible repeat' first
    | assumption
    | (dsimp only)
    | refine kept_fst ?_ (by assumption)
    | apply kept_setMigPhase
    | apply kept_migTable
    | apply kept_migSend
    | apply kept_migSlot
    | apply kept_foldl
    | apply kept_foldl_fst
    | apply kept_getD
    | intro _
    | split
    | exact kept_pair _ (by assumption)
    | (unfold Kept; dsimp only; first | refine kept_parts ?_ | refine kept_parts_out ?_ | refine kept_parts_put ?_ | refine kept_parts_regs ?_ | refine kept_parts_filter ?_)
    | contradiction

theorem kept_migDrained {st0 : State} {s : State} (hk : Kept st0 s) : Kept st0 (migDrained s) := by
  unfold migDrained
  with_reducible repeat' first
    | assumption
    | (dsimp only)
    | refine kept_fst ?_ (by assumption)
    | apply kept_migTable
    | apply kept_setMigPhase
    | apply kept_migSlot
    | apply kept_wr
    | apply kept_inc
    | apply kept_migLocal
    | apply kept_foldl
    | apply kept_foldl_fst
    | apply kept_getD
    | intro _
    | split
    | exact kept_pair _ (by assumption)
    | (unfold Kept; dsimp only; first | refine kept_parts ?_ | refine kept_parts_out ?_ | refine kept_parts_put ?_ | refine kept_parts_regs ?_ | refine kept_parts_filter ?_)
    | contradiction

theorem kept_migCopied {st0 : State} {s : State} (hk : Kept st0 s) : Kept st0 (migCopied s) := by
  unfold migCopied
  with_reducible repeat' first
    | assumption
    | (dsimp only)
    | refine kept_fst ?_ (by assumption)
    | apply kept_endMig
    | apply kept_wrs
    | apply kept_foldl
    | apply kept_foldl_fst
    | apply kept_getD
    | intro _
    | split
    | exact kept_pair _ (by assumption)
    | (unfold Kept; dsimp only; first | refine kept_parts ?_ | refine kept_parts_out ?_ | refine kept_parts_put ?_ | refine kept_parts_regs ?_ | refine kept_parts_filter ?_)
    | contradiction

theorem kept_peerRowTimeout {st0 : State} {s : State} {tag : Nat} (hk : Kept st0 s) : Kept st0 (peerRowTimeout s tag) := by
  unfold peerRowTimeout
  with_reducible repeat' first
    | assumption
    | (dsimp only)
    | refine kept_fst ?_ (by assumption)
    | apply kept_reportSuspect
    | apply kept_quarantine
    | apply kept_endGather
    | apply kept_respond
    | apply kept_endScatter
    | apply kept_endMig
    | apply kept_applyResp
    | apply kept_foldl
    | apply kept_foldl_fst
    | apply kept_getD
    | intro _
    | split
    | exact kept_pair _ (by assumption)
    | (unfold Kept; dsimp only; first | refine kept_parts ?_ | refine kept_parts_out ?_ | refine kept_parts_put ?_ | refine kept_parts_regs ?_ | refine kept_parts_filter ?_)
    | contradiction

theorem kept_execScatterAdd {st0 : State} {core : Nat} {ctx : Nat} {s : State} (hk : Kept st0 s) {t : State} (e : execScatterAdd core ctx s = .next t) : Kept st0 t := by
  unfold execScatterAdd at e
  injection e with e
  subst e
  with_reducible repeat' first
    | assumption
    | (dsimp only)
    | refine kept_fst ?_ (by assumption)
    | apply kept_startTile
    | apply kept_scatterGo
    | apply kept_foldl
    | apply kept_foldl_fst
    | apply kept_getD
    | intro _
    | split
    | exact kept_pair _ (by assumption)
    | (unfold Kept; dsimp only; first | refine kept_parts ?_ | refine kept_parts_out ?_ | refine kept_parts_put ?_ | refine kept_parts_regs ?_ | refine kept_parts_filter ?_)
    | contradiction

theorem kept_execContrib {st0 : State} {pkt : Pkt} {s : State} (hk : Kept st0 s) {t : State} (e : execContrib pkt s = .next t) : Kept st0 t := by
  unfold execContrib at e
  injection e with e
  subst e
  with_reducible repeat' first
    | assumption
    | (dsimp only)
    | refine kept_fst ?_ (by assumption)
    | apply kept_takeRequest
    | apply kept_contribIn
    | apply kept_foldl
    | apply kept_foldl_fst
    | apply kept_getD
    | intro _
    | split
    | exact kept_pair _ (by assumption)
    | (unfold Kept; dsimp only; first | refine kept_parts ?_ | refine kept_parts_out ?_ | refine kept_parts_put ?_ | refine kept_parts_regs ?_ | refine kept_parts_filter ?_)
    | contradiction

theorem kept_execUpdateHoldTimeout {st0 : State} {index : Nat} {s : State} (hk : Kept st0 s) {t : State} (e : execUpdateHoldTimeout index s = .next t) : Kept st0 t := by
  unfold execUpdateHoldTimeout at e
  injection e with e
  subst e
  with_reducible repeat' first
    | assumption
    | (dsimp only)
    | refine kept_fst ?_ (by assumption)
    | apply kept_timeoutHeld
    | apply kept_foldl
    | apply kept_foldl_fst
    | apply kept_getD
    | intro _
    | split
    | exact kept_pair _ (by assumption)
    | (unfold Kept; dsimp only; first | refine kept_parts ?_ | refine kept_parts_out ?_ | refine kept_parts_put ?_ | refine kept_parts_regs ?_ | refine kept_parts_filter ?_)
    | contradiction

theorem kept_execMigFenceHoldTimeout {st0 : State} {index : Nat} {s : State} (hk : Kept st0 s) {t : State} (e : execMigFenceHoldTimeout index s = .next t) : Kept st0 t := by
  unfold execMigFenceHoldTimeout at e
  injection e with e
  subst e
  with_reducible repeat' first
    | assumption
    | (dsimp only)
    | refine kept_fst ?_ (by assumption)
    | apply kept_timeoutHeld
    | apply kept_inc
    | apply kept_rowLost
    | apply kept_dropApply
    | apply kept_foldl
    | apply kept_foldl_fst
    | apply kept_getD
    | intro _
    | split
    | exact kept_pair _ (by assumption)
    | (unfold Kept; dsimp only; first | refine kept_parts ?_ | refine kept_parts_out ?_ | refine kept_parts_put ?_ | refine kept_parts_regs ?_ | refine kept_parts_filter ?_)
    | contradiction

theorem kept_execUpdateStepClose {st0 : State} {table : Nat} {step : Nat} {s : State} (hk : Kept st0 s) {t : State} (e : execUpdateStepClose table step s = .next t) : Kept st0 t := by
  unfold execUpdateStepClose at e
  injection e with e
  subst e
  with_reducible repeat' first
    | assumption
    | (dsimp only)
    | refine kept_fst ?_ (by assumption)
    | apply kept_stepClose
    | apply kept_foldl
    | apply kept_foldl_fst
    | apply kept_getD
    | intro _
    | split
    | exact kept_pair _ (by assumption)
    | (unfold Kept; dsimp only; first | refine kept_parts ?_ | refine kept_parts_out ?_ | refine kept_parts_put ?_ | refine kept_parts_regs ?_ | refine kept_parts_filter ?_)
    | contradiction

theorem kept_execUpdateCloseTimeout {st0 : State} {table : Nat} {s : State} (hk : Kept st0 s) {t : State} (e : execUpdateCloseTimeout table s = .next t) : Kept st0 t := by
  unfold execUpdateCloseTimeout at e
  injection e with e
  subst e
  with_reducible repeat' first
    | assumption
    | (dsimp only)
    | refine kept_fst ?_ (by assumption)
    | apply kept_closeTimeout
    | apply kept_foldl
    | apply kept_foldl_fst
    | apply kept_getD
    | intro _
    | split
    | exact kept_pair _ (by assumption)
    | (unfold Kept; dsimp only; first | refine kept_parts ?_ | refine kept_parts_out ?_ | refine kept_parts_put ?_ | refine kept_parts_regs ?_ | refine kept_parts_filter ?_)
    | contradiction

theorem kept_execPeerRowTimeout {st0 : State} {tag : Nat} {s : State} (hk : Kept st0 s) {t : State} (e : execPeerRowTimeout tag s = .next t) : Kept st0 t := by
  unfold execPeerRowTimeout at e
  injection e with e
  subst e
  with_reducible repeat' first
    | assumption
    | (dsimp only)
    | refine kept_fst ?_ (by assumption)
    | apply kept_peerRowTimeout
    | apply kept_foldl
    | apply kept_foldl_fst
    | apply kept_getD
    | intro _
    | split
    | exact kept_pair _ (by assumption)
    | (unfold Kept; dsimp only; first | refine kept_parts ?_ | refine kept_parts_out ?_ | refine kept_parts_put ?_ | refine kept_parts_regs ?_ | refine kept_parts_filter ?_)
    | contradiction

theorem kept_execMigStart {st0 : State} {vector : Nat} {s : State} (hk : Kept st0 s) {t : State} (e : execMigStart vector s = .next t) : Kept st0 t := by
  unfold execMigStart at e
  injection e with e
  subst e
  with_reducible repeat' first
    | assumption
    | (dsimp only)
    | refine kept_fst ?_ (by assumption)
    | apply kept_migStart
    | apply kept_foldl
    | apply kept_foldl_fst
    | apply kept_getD
    | intro _
    | split
    | exact kept_pair _ (by assumption)
    | (unfold Kept; dsimp only; first | refine kept_parts ?_ | refine kept_parts_out ?_ | refine kept_parts_put ?_ | refine kept_parts_regs ?_ | refine kept_parts_filter ?_)
    | contradiction

theorem kept_execMigDrainDone {st0 : State} {s : State} (hk : Kept st0 s) {t : State} (e : execMigDrainDone s = .next t) : Kept st0 t := by
  unfold execMigDrainDone at e
  injection e with e
  subst e
  with_reducible repeat' first
    | assumption
    | (dsimp only)
    | refine kept_fst ?_ (by assumption)
    | apply kept_migDrained
    | apply kept_foldl
    | apply kept_foldl_fst
    | apply kept_getD
    | intro _
    | split
    | exact kept_pair _ (by assumption)
    | (unfold Kept; dsimp only; first | refine kept_parts ?_ | refine kept_parts_out ?_ | refine kept_parts_put ?_ | refine kept_parts_regs ?_ | refine kept_parts_filter ?_)
    | contradiction

theorem kept_execMigCopyDone {st0 : State} {s : State} (hk : Kept st0 s) {t : State} (e : execMigCopyDone s = .next t) : Kept st0 t := by
  unfold execMigCopyDone at e
  injection e with e
  subst e
  with_reducible repeat' first
    | assumption
    | (dsimp only)
    | refine kept_fst ?_ (by assumption)
    | apply kept_migCopied
    | apply kept_foldl
    | apply kept_foldl_fst
    | apply kept_getD
    | intro _
    | split
    | exact kept_pair _ (by assumption)
    | (unfold Kept; dsimp only; first | refine kept_parts ?_ | refine kept_parts_out ?_ | refine kept_parts_put ?_ | refine kept_parts_regs ?_ | refine kept_parts_filter ?_)
    | contradiction

end Sys2Proof.Machine
end

