-- ==== Sys2Proof/Laws/KeptPairs.lean ====
section
/-!
SUPPORT. Sys2Proof/Laws/KeptPairs.lean: every operation of Sys2Proof/Machine/Pairs.lean leaves the queue, appends to what has left the block, and keeps the canonical forms.
-/
set_option linter.unusedVariables false
set_option linter.unreachableTactic false
set_option linter.unusedTactic false
namespace Sys2Proof.Machine

theorem kept_setMode {st0 : State} {s : State} {m : Nat} (hk : Kept st0 s) : Kept st0 (setMode s m) := by
  unfold setMode
  with_reducible repeat' first
    | assumption
    | (dsimp only)
    | refine kept_fst ?_ (by assumption)
    | apply kept_wr
    | apply kept_foldl
    | apply kept_foldl_fst
    | apply kept_getD
    | intro _
    | split
    | exact kept_pair _ (by assumption)
    | (unfold Kept; dsimp only; first | refine kept_parts ?_ | refine kept_parts_out ?_ | refine kept_parts_put ?_ | refine kept_parts_regs ?_ | refine kept_parts_filter ?_)
    | contradiction

theorem kept_endRecovery {st0 : State} {s : State} (hk : Kept st0 s) : Kept st0 (endRecovery s) := by
  unfold endRecovery
  with_reducible repeat' first
    | assumption
    | (dsimp only)
    | refine kept_fst ?_ (by assumption)
    | apply kept_setMode
    | apply kept_foldl
    | apply kept_foldl_fst
    | apply kept_getD
    | intro _
    | split
    | exact kept_pair _ (by assumption)
    | (unfold Kept; dsimp only; first | refine kept_parts ?_ | refine kept_parts_out ?_ | refine kept_parts_put ?_ | refine kept_parts_regs ?_ | refine kept_parts_filter ?_)
    | contradiction

theorem kept_setDirty {st0 : State} {s : State} {ps : List (Nat × Nat)} {on : Bool} (hk : Kept st0 s) : Kept st0 (setDirty s ps on) := by
  unfold setDirty
  with_reducible repeat' first
    | assumption
    | (dsimp only)
    | refine kept_fst ?_ (by assumption)
    | apply kept_foldl
    | apply kept_foldl_fst
    | apply kept_getD
    | intro _
    | split
    | exact kept_pair _ (by assumption)
    | (unfold Kept; dsimp only; first | refine kept_parts ?_ | refine kept_parts_out ?_ | refine kept_parts_put ?_ | refine kept_parts_regs ?_ | refine kept_parts_filter ?_)
    | contradiction

theorem kept_sendRecord {st0 : State} {s : State} {n : Nat} {j : Nat} {dev : Nat} {kind : Nat} {st : Nat} {step : Nat} {a0 : Nat} {a1 : Nat} {a2 : Nat} (hk : Kept st0 s) : Kept st0 (sendRecord s n j dev kind st step a0 a1 a2) := by
  unfold sendRecord
  with_reducible repeat' first
    | assumption
    | (dsimp only)
    | refine kept_fst ?_ (by assumption)
    | apply kept_originate
    | apply kept_sendReq
    | apply kept_inc
    | apply kept_foldl
    | apply kept_foldl_fst
    | apply kept_getD
    | intro _
    | split
    | exact kept_pair _ (by assumption)
    | (unfold Kept; dsimp only; first | refine kept_parts ?_ | refine kept_parts_out ?_ | refine kept_parts_put ?_ | refine kept_parts_regs ?_ | refine kept_parts_filter ?_)
    | contradiction

theorem kept_sendPage {st0 : State} {s : State} {n : Nat} {j : Nat} {dev : Nat} {step : Nat} {addr : Nat} {data : List Byte} (hk : Kept st0 s) : Kept st0 (sendPage s n j dev step addr data) := by
  unfold sendPage
  with_reducible repeat' first
    | assumption
    | (dsimp only)
    | refine kept_fst ?_ (by assumption)
    | apply kept_sendReq
    | apply kept_inc
    | apply kept_foldl
    | apply kept_foldl_fst
    | apply kept_getD
    | intro _
    | split
    | exact kept_pair _ (by assumption)
    | (unfold Kept; dsimp only; first | refine kept_parts ?_ | refine kept_parts_out ?_ | refine kept_parts_put ?_ | refine kept_parts_regs ?_ | refine kept_parts_filter ?_)
    | contradiction

theorem kept_takeRecord {st0 : State} {s : State} {p : Pkt} (hk : Kept st0 s) : Kept st0 (takeRecord s p).1 := by
  unfold takeRecord
  with_reducible repeat' first
    | assumption
    | (dsimp only)
    | refine kept_fst ?_ (by assumption)
    | apply kept_addDigest
    | apply kept_takeRequest
    | apply kept_foldl
    | apply kept_foldl_fst
    | apply kept_getD
    | intro _
    | split
    | exact kept_pair _ (by assumption)
    | (unfold Kept; dsimp only; first | refine kept_parts ?_ | refine kept_parts_out ?_ | refine kept_parts_put ?_ | refine kept_parts_regs ?_ | refine kept_parts_filter ?_)
    | contradiction

theorem kept_answerRecord {st0 : State} {s : State} {p : Pkt} {st : Status} (hk : Kept st0 s) : Kept st0 (answerRecord s p st) := by
  unfold answerRecord
  with_reducible repeat' first
    | assumption
    | (dsimp only)
    | refine kept_fst ?_ (by assumption)
    | apply kept_respond
    | apply kept_foldl
    | apply kept_foldl_fst
    | apply kept_getD
    | intro _
    | split
    | exact kept_pair _ (by assumption)
    | (unfold Kept; dsimp only; first | refine kept_parts ?_ | refine kept_parts_out ?_ | refine kept_parts_put ?_ | refine kept_parts_regs ?_ | refine kept_parts_filter ?_)
    | contradiction

theorem kept_withRecord {st0 : State} {s : State} {p : Pkt} {kind : Nat} {f : State → List Byte → State} (hk : Kept st0 s) (h_f : ∀ z0 z1, Kept st0 z0 → Kept st0 (f z0 z1)) : Kept st0 (withRecord s p kind f) := by
  unfold withRecord
  have h := kept_takeRecord (p := p) hk
  rcases e : takeRecord s p with ⟨t, _ | _⟩ <;> rw [e] at h
  · exact h
  · dsimp only
    split
    · exact h_f _ _ h
    · exact kept_answerRecord h

theorem kept_readPages {st0 : State} {adr : State → Nat × Nat → Nat} {y1 : List (Nat × Nat)} {y2 : State} (hk : Kept st0 y2) : Kept st0 (readPages adr y1 y2).1 := by
  induction y1 generalizing y2 with
  | nil => unfold readPages; with_reducible repeat' first
    | assumption
    | (dsimp only)
    | refine kept_fst ?_ (by assumption)
    | apply kept_readMem
    | apply kept_foldl
    | apply kept_foldl_fst
    | apply kept_getD
    | intro _
    | split
    | exact kept_pair _ (by assumption)
    | (unfold Kept; dsimp only; first | refine kept_parts ?_ | refine kept_parts_out ?_ | refine kept_parts_put ?_ | refine kept_parts_regs ?_ | refine kept_parts_filter ?_)
    | contradiction
  | cons xx tt ih => unfold readPages; with_reducible repeat' first
    | apply ih
    | assumption
    | (dsimp only)
    | refine kept_fst ?_ (by assumption)
    | apply kept_readMem
    | apply kept_foldl
    | apply kept_foldl_fst
    | apply kept_getD
    | intro _
    | split
    | exact kept_pair _ (by assumption)
    | (unfold Kept; dsimp only; first | refine kept_parts ?_ | refine kept_parts_out ?_ | refine kept_parts_put ?_ | refine kept_parts_regs ?_ | refine kept_parts_filter ?_)
    | contradiction

theorem kept_sendFrame {st0 : State} {s : State} {n : Nat} {j : Nat} {dev : Nat} {f : FrameTx} {begin' : Bool} {dst : State → Nat × Nat → Nat} {data : List (List Byte)} (hk : Kept st0 s) : Kept st0 (sendFrame s n j dev f begin' dst data) := by
  unfold sendFrame
  with_reducible repeat' first
    | assumption
    | (dsimp only)
    | refine kept_fst ?_ (by assumption)
    | apply kept_sendRecord
    | apply kept_sendPage
    | apply kept_foldl
    | apply kept_foldl_fst
    | apply kept_getD
    | intro _
    | split
    | exact kept_pair _ (by assumption)
    | (unfold Kept; dsimp only; first | refine kept_parts ?_ | refine kept_parts_out ?_ | refine kept_parts_put ?_ | refine kept_parts_regs ?_ | refine kept_parts_filter ?_)
    | contradiction

theorem kept_dropFrame {st0 : State} {s : State} {n : Nat} (hk : Kept st0 s) : Kept st0 (dropFrame s n) := by
  unfold dropFrame
  with_reducible repeat' first
    | assumption
    | (dsimp only)
    | refine kept_fst ?_ (by assumption)
    | apply kept_setPair
    | apply kept_retryWrites
    | apply kept_wr
    | apply kept_foldl
    | apply kept_foldl_fst
    | apply kept_getD
    | intro _
    | split
    | exact kept_pair _ (by assumption)
    | (unfold Kept; dsimp only; first | refine kept_parts ?_ | refine kept_parts_out ?_ | refine kept_parts_put ?_ | refine kept_parts_regs ?_ | refine kept_parts_filter ?_)
    | contradiction

theorem kept_transmitFrame {st0 : State} {s : State} {n : Nat} {j : Nat} {f : FrameTx} (hk : Kept st0 s) : Kept st0 (transmitFrame s n j f) := by
  unfold transmitFrame
  with_reducible repeat' first
    | assumption
    | (dsimp only)
    | refine kept_fst ?_ (by assumption)
    | apply kept_readPages
    | apply kept_dropFrame
    | apply kept_freezeMirror
    | apply kept_inc
    | apply kept_sendFrame
    | apply kept_foldl
    | apply kept_foldl_fst
    | apply kept_getD
    | intro _
    | split
    | exact kept_pair _ (by assumption)
    | (unfold Kept; dsimp only; first | refine kept_parts ?_ | refine kept_parts_out ?_ | refine kept_parts_put ?_ | refine kept_parts_regs ?_ | refine kept_parts_filter ?_)
    | contradiction

theorem kept_beginFrame {st0 : State} {s : State} {n : Nat} {j : Nat} {u : Nat} {pages : List (Nat × Nat)} {full : Bool} (hk : Kept st0 s) : Kept st0 (beginFrame s n j u pages full) := by
  unfold beginFrame
  with_reducible repeat' first
    | assumption
    | (dsimp only)
    | refine kept_fst ?_ (by assumption)
    | apply kept_setPair
    | apply kept_wr
    | apply kept_transmitFrame
    | apply kept_foldl
    | apply kept_foldl_fst
    | apply kept_getD
    | intro _
    | split
    | exact kept_pair _ (by assumption)
    | (unfold Kept; dsimp only; first | refine kept_parts ?_ | refine kept_parts_out ?_ | refine kept_parts_put ?_ | refine kept_parts_regs ?_ | refine kept_parts_filter ?_)
    | contradiction

theorem kept_ckptFailed {st0 : State} {s : State} {n : Nat} {j : Nat} {u : Nat} {delta : List (Nat × Nat)} {st : Status} (hk : Kept st0 s) : Kept st0 (ckptFailed s n j u delta st) := by
  unfold ckptFailed
  with_reducible repeat' first
    | assumption
    | (dsimp only)
    | refine kept_fst ?_ (by assumption)
    | apply kept_wr
    | apply kept_setDirty
    | apply kept_postEvent
    | apply kept_stoneWrite
    | apply kept_foldl
    | apply kept_foldl_fst
    | apply kept_getD
    | intro _
    | split
    | exact kept_pair _ (by assumption)
    | (unfold Kept; dsimp only; first | refine kept_parts ?_ | refine kept_parts_out ?_ | refine kept_parts_put ?_ | refine kept_parts_regs ?_ | refine kept_parts_filter ?_)
    | contradiction

theorem kept_capture {st0 : State} {s : State} {n : Nat} {j : Nat} {u : Nat} {mirror : List (Nat × Nat)} {delta : List (Nat × Nat)} {full : Bool} {y7 : Region} (hk : Kept st0 s) : Kept st0 (capture s n j u mirror delta full y7) := by
  unfold capture
  with_reducible repeat' first
    | assumption
    | (dsimp only)
    | refine kept_fst ?_ (by assumption)
    | apply kept_writeMem
    | apply kept_ckptFailed
    | apply kept_readPages
    | apply kept_setPair
    | apply kept_inc
    | apply kept_wr
    | apply kept_foldl
    | apply kept_foldl_fst
    | apply kept_getD
    | intro _
    | split
    | exact kept_pair _ (by assumption)
    | (unfold Kept; dsimp only; first | refine kept_parts ?_ | refine kept_parts_out ?_ | refine kept_parts_put ?_ | refine kept_parts_regs ?_ | refine kept_parts_filter ?_)
    | contradiction

theorem kept_writeTrailer {st0 : State} {s : State} {n : Nat} {j : Nat} {u : Nat} {z : Nat} (hk : Kept st0 s) : Kept st0 (writeTrailer s n j u z) := by
  unfold writeTrailer
  with_reducible repeat' first
    | assumption
    | (dsimp only)
    | refine kept_fst ?_ (by assumption)
    | apply kept_writeMem
    | apply kept_wrs
    | apply kept_setPair
    | apply kept_postEvent
    | apply kept_foldl
    | apply kept_foldl_fst
    | apply kept_getD
    | intro _
    | split
    | exact kept_pair _ (by assumption)
    | (unfold Kept; dsimp only; first | refine kept_parts ?_ | refine kept_parts_out ?_ | refine kept_parts_put ?_ | refine kept_parts_regs ?_ | refine kept_parts_filter ?_)
    | contradiction

theorem kept_checkpoint {st0 : State} {s : State} {n : Nat} {j : Nat} {u : Nat} (hk : Kept st0 s) : Kept st0 (checkpoint s n j u) := by
  unfold checkpoint
  with_reducible repeat' first
    | assumption
    | (dsimp only)
    | refine kept_fst ?_ (by assumption)
    | apply kept_capture
    | apply kept_setDirty
    | apply kept_foldl
    | apply kept_foldl_fst
    | apply kept_getD
    | intro _
    | split
    | exact kept_pair _ (by assumption)
    | (unfold Kept; dsimp only; first | refine kept_parts ?_ | refine kept_parts_out ?_ | refine kept_parts_put ?_ | refine kept_parts_regs ?_ | refine kept_parts_filter ?_)
    | contradiction

theorem kept_zestBytes {st0 : State} {s : State} {y1 : List Region} (hk : Kept st0 s) : Kept st0 (zestBytes s y1).1 := by
  induction y1 generalizing s with
  | nil => unfold zestBytes; with_reducible repeat' first
    | assumption
    | (dsimp only)
    | refine kept_fst ?_ (by assumption)
    | apply kept_readMem
    | apply kept_foldl
    | apply kept_foldl_fst
    | apply kept_getD
    | intro _
    | split
    | exact kept_pair _ (by assumption)
    | (unfold Kept; dsimp only; first | refine kept_parts ?_ | refine kept_parts_out ?_ | refine kept_parts_put ?_ | refine kept_parts_regs ?_ | refine kept_parts_filter ?_)
    | contradiction
  | cons xx tt ih => unfold zestBytes; with_reducible repeat' first
    | apply ih
    | assumption
    | (dsimp only)
    | refine kept_fst ?_ (by assumption)
    | apply kept_readMem
    | apply kept_foldl
    | apply kept_foldl_fst
    | apply kept_getD
    | intro _
    | split
    | exact kept_pair _ (by assumption)
    | (unfold Kept; dsimp only; first | refine kept_parts ?_ | refine kept_parts_out ?_ | refine kept_parts_put ?_ | refine kept_parts_regs ?_ | refine kept_parts_filter ?_)
    | contradiction

theorem kept_zestCut {st0 : State} {s : State} {n : Nat} {j : Nat} {u : Nat} (hk : Kept st0 s) : Kept st0 (zestCut s n j u).1 := by
  unfold zestCut
  with_reducible repeat' first
    | assumption
    | (dsimp only)
    | refine kept_fst ?_ (by assumption)
    | apply kept_zestBytes
    | apply kept_wrs
    | apply kept_setPair
    | apply kept_sendRecord
    | apply kept_foldl
    | apply kept_foldl_fst
    | apply kept_getD
    | intro _
    | split
    | exact kept_pair _ (by assumption)
    | (unfold Kept; dsimp only; first | refine kept_parts ?_ | refine kept_parts_out ?_ | refine kept_parts_put ?_ | refine kept_parts_regs ?_ | refine kept_parts_filter ?_)
    | contradiction

theorem kept_zestVerdicts {st0 : State} {s : State} {y1 : ZestTally} {ranks : Nat} (hk : Kept st0 s) : Kept st0 (zestVerdicts s y1 ranks) := by
  unfold zestVerdicts
  with_reducible repeat' first
    | assumption
    | (dsimp only)
    | refine kept_fst ?_ (by assumption)
    | apply kept_inc
    | apply kept_postEvent
    | apply kept_stoneWrite
    | apply kept_foldl
    | apply kept_foldl_fst
    | apply kept_getD
    | intro _
    | split
    | exact kept_pair _ (by assumption)
    | (unfold Kept; dsimp only; first | refine kept_parts ?_ | refine kept_parts_out ?_ | refine kept_parts_put ?_ | refine kept_parts_regs ?_ | refine kept_parts_filter ?_)
    | contradiction

theorem kept_zestReport {st0 : State} {s : State} {p : Pkt} {b : List Byte} (hk : Kept st0 s) : Kept st0 (zestReport s p b) := by
  unfold zestReport
  with_reducible repeat' first
    | assumption
    | (dsimp only)
    | refine kept_fst ?_ (by assumption)
    | apply kept_answerRecord
    | apply kept_zestVerdicts
    | apply kept_sendRecord
    | apply kept_foldl
    | apply kept_foldl_fst
    | apply kept_getD
    | intro _
    | split
    | exact kept_pair _ (by assumption)
    | (unfold Kept; dsimp only; first | refine kept_parts ?_ | refine kept_parts_out ?_ | refine kept_parts_put ?_ | refine kept_parts_regs ?_ | refine kept_parts_filter ?_)
    | contradiction

theorem kept_lockApply {st0 : State} {s : State} {j : Nat} (hk : Kept st0 s) : Kept st0 (lockApply s j) := by
  unfold lockApply
  with_reducible repeat' first
    | assumption
    | (dsimp only)
    | refine kept_fst ?_ (by assumption)
    | apply kept_wr
    | apply kept_foldl
    | apply kept_foldl_fst
    | apply kept_getD
    | intro _
    | split
    | exact kept_pair _ (by assumption)
    | (unfold Kept; dsimp only; first | refine kept_parts ?_ | refine kept_parts_out ?_ | refine kept_parts_put ?_ | refine kept_parts_regs ?_ | refine kept_parts_filter ?_)
    | contradiction

theorem kept_zestVerdict {st0 : State} {s : State} {p : Pkt} {b : List Byte} (hk : Kept st0 s) : Kept st0 (zestVerdict s p b) := by
  unfold zestVerdict
  with_reducible repeat' first
    | assumption
    | (dsimp only)
    | refine kept_fst ?_ (by assumption)
    | apply kept_answerRecord
    | apply kept_setPair
    | apply kept_wrs
    | apply kept_lockApply
    | apply kept_foldl
    | apply kept_foldl_fst
    | apply kept_getD
    | intro _
    | split
    | exact kept_pair _ (by assumption)
    | (unfold Kept; dsimp only; first | refine kept_parts ?_ | refine kept_parts_out ?_ | refine kept_parts_put ?_ | refine kept_parts_regs ?_ | refine kept_parts_filter ?_)
    | contradiction

theorem kept_replayCut {st0 : State} {s : State} {n : Nat} {j : Nat} {u : Nat} (hk : Kept st0 s) : Kept st0 (replayCut s n j u) := by
  unfold replayCut
  with_reducible repeat' first
    | assumption
    | (dsimp only)
    | refine kept_fst ?_ (by assumption)
    | apply kept_wrs
    | apply kept_postEvent
    | apply kept_endRecovery
    | apply kept_stoneWrite
    | apply kept_foldl
    | apply kept_foldl_fst
    | apply kept_getD
    | intro _
    | split
    | exact kept_pair _ (by assumption)
    | (unfold Kept; dsimp only; first | refine kept_parts ?_ | refine kept_parts_out ?_ | refine kept_parts_put ?_ | refine kept_parts_regs ?_ | refine kept_parts_filter ?_)
    | contradiction

theorem kept_takeCut {st0 : State} {s : State} {n : Nat} {j : Nat} {u : Nat} (hk : Kept st0 s) : Kept st0 (takeCut s n j u) := by
  unfold takeCut
  with_reducible repeat' first
    | assumption
    | (dsimp only)
    | refine kept_fst ?_ (by assumption)
    | apply kept_setDirty
    | apply kept_setPair
    | apply kept_wr
    | apply kept_zestCut
    | apply kept_writeTrailer
    | apply kept_replayCut
    | apply kept_checkpoint
    | apply kept_beginFrame
    | apply kept_foldl
    | apply kept_foldl_fst
    | apply kept_getD
    | intro _
    | split
    | exact kept_pair _ (by assumption)
    | (unfold Kept; dsimp only; first | refine kept_parts ?_ | refine kept_parts_out ?_ | refine kept_parts_put ?_ | refine kept_parts_regs ?_ | refine kept_parts_filter ?_)
    | contradiction

theorem kept_cut {st0 : State} {s : State} {n : Nat} (hk : Kept st0 s) : Kept st0 (cut s n) := by
  unfold cut
  with_reducible repeat' first
    | assumption
    | (dsimp only)
    | refine kept_fst ?_ (by assumption)
    | apply kept_setPair
    | apply kept_inc
    | apply kept_takeCut
    | apply kept_foldl
    | apply kept_foldl_fst
    | apply kept_getD
    | intro _
    | split
    | exact kept_pair _ (by assumption)
    | (unfold Kept; dsimp only; first | refine kept_parts ?_ | refine kept_parts_out ?_ | refine kept_parts_put ?_ | refine kept_parts_regs ?_ | refine kept_parts_filter ?_)
    | contradiction

theorem kept_openCut {st0 : State} {s : State} {j : Nat} {y2 : Nat} (hk : Kept st0 s) : Kept st0 (openCut s j y2) := by
  unfold openCut
  with_reducible repeat' first
    | assumption
    | (dsimp only)
    | refine kept_fst ?_ (by assumption)
    | apply kept_setPair
    | apply kept_wr
    | apply kept_setDirty
    | apply kept_wrs
    | apply kept_beginFrame
    | apply kept_foldl
    | apply kept_foldl_fst
    | apply kept_getD
    | intro _
    | split
    | exact kept_pair _ (by assumption)
    | (unfold Kept; dsimp only; first | refine kept_parts ?_ | refine kept_parts_out ?_ | refine kept_parts_put ?_ | refine kept_parts_regs ?_ | refine kept_parts_filter ?_)
    | contradiction

theorem kept_closePair {st0 : State} {s : State} {j : Nat} (hk : Kept st0 s) : Kept st0 (closePair s j) := by
  unfold closePair
  with_reducible repeat' first
    | assumption
    | (dsimp only)
    | refine kept_fst ?_ (by assumption)
    | apply kept_setPair
    | apply kept_wr
    | apply kept_foldl
    | apply kept_foldl_fst
    | apply kept_getD
    | intro _
    | split
    | exact kept_pair _ (by assumption)
    | (unfold Kept; dsimp only; first | refine kept_parts ?_ | refine kept_parts_out ?_ | refine kept_parts_put ?_ | refine kept_parts_regs ?_ | refine kept_parts_filter ?_)
    | contradiction

theorem kept_endRefill {st0 : State} {s : State} {n : Nat} {j : Nat} {st : Status} (hk : Kept st0 s) : Kept st0 (endRefill s n j st) := by
  unfold endRefill
  with_reducible repeat' first
    | assumption
    | (dsimp only)
    | refine kept_fst ?_ (by assumption)
    | apply kept_wrs
    | apply kept_setPair
    | apply kept_sendRecord
    | apply kept_postEvent
    | apply kept_endRecovery
    | apply kept_sendMsi
    | apply kept_foldl
    | apply kept_foldl_fst
    | apply kept_getD
    | intro _
    | split
    | exact kept_pair _ (by assumption)
    | (unfold Kept; dsimp only; first | refine kept_parts ?_ | refine kept_parts_out ?_ | refine kept_parts_put ?_ | refine kept_parts_regs ?_ | refine kept_parts_filter ?_)
    | contradiction

theorem kept_partnerLost {st0 : State} {s : State} {n : Nat} {st : Status} (hk : Kept st0 s) : Kept st0 (partnerLost s n st) := by
  unfold partnerLost
  with_reducible repeat' first
    | assumption
    | (dsimp only)
    | refine kept_fst ?_ (by assumption)
    | apply kept_endRefill
    | apply kept_wrs
    | apply kept_setPair
    | apply kept_reportSuspect
    | apply kept_postEvent
    | apply kept_stoneWrite
    | apply kept_retryWrites
    | apply kept_wr
    | apply kept_foldl
    | apply kept_foldl_fst
    | apply kept_getD
    | intro _
    | split
    | exact kept_pair _ (by assumption)
    | (unfold Kept; dsimp only; first | refine kept_parts ?_ | refine kept_parts_out ?_ | refine kept_parts_put ?_ | refine kept_parts_regs ?_ | refine kept_parts_filter ?_)
    | contradiction

theorem kept_pairCtxLost {st0 : State} {s : State} {j : Nat} {dev : Nat} (hk : Kept st0 s) : Kept st0 (pairCtxLost s j dev) := by
  unfold pairCtxLost
  with_reducible repeat' first
    | assumption
    | (dsimp only)
    | refine kept_fst ?_ (by assumption)
    | apply kept_partnerLost
    | apply kept_foldl
    | apply kept_foldl_fst
    | apply kept_getD
    | intro _
    | split
    | exact kept_pair _ (by assumption)
    | (unfold Kept; dsimp only; first | refine kept_parts ?_ | refine kept_parts_out ?_ | refine kept_parts_put ?_ | refine kept_parts_regs ?_ | refine kept_parts_filter ?_)
    | contradiction

theorem kept_frameBegin {st0 : State} {s : State} {p : Pkt} {b : List Byte} (hk : Kept st0 s) : Kept st0 (frameBegin s p b) := by
  unfold frameBegin
  with_reducible repeat' first
    | assumption
    | (dsimp only)
    | refine kept_fst ?_ (by assumption)
    | apply kept_answerRecord
    | apply kept_setPair
    | apply kept_foldl
    | apply kept_foldl_fst
    | apply kept_getD
    | intro _
    | split
    | exact kept_pair _ (by assumption)
    | (unfold Kept; dsimp only; first | refine kept_parts ?_ | refine kept_parts_out ?_ | refine kept_parts_put ?_ | refine kept_parts_regs ?_ | refine kept_parts_filter ?_)
    | contradiction

theorem kept_framePage {st0 : State} {s : State} {p : Pkt} (hk : Kept st0 s) {t : State} (e : framePage s p = some t) : Kept st0 t := by
  unfold framePage at e
  split at e
  · split at e
    · dsimp only at e
      split at e
      · cases e
      · injection e with e
        subst e
        exact kept_setPair (kept_writeMem (kept_writeMem hk))
    · cases e
  · cases e

theorem kept_refillPage {st0 : State} {s : State} {p : Pkt} (hk : Kept st0 s) {t : State} (e : refillPage s p = some t) : Kept st0 t := by
  unfold refillPage at e
  split at e
  · split at e
    · dsimp only at e
      split at e
      · injection e with e
        subst e
        exact kept_inc (kept_setPair (kept_writeMem hk))
      · cases e
    · cases e
  · cases e

theorem kept_frameEnd {st0 : State} {s : State} {p : Pkt} {b : List Byte} (hk : Kept st0 s) : Kept st0 (frameEnd s p b) := by
  unfold frameEnd
  with_reducible repeat' first
    | assumption
    | (dsimp only)
    | refine kept_fst ?_ (by assumption)
    | apply kept_answerRecord
    | apply kept_setPair
    | apply kept_wrs
    | apply kept_sendRecord
    | apply kept_foldl
    | apply kept_foldl_fst
    | apply kept_getD
    | intro _
    | split
    | exact kept_pair _ (by assumption)
    | (unfold Kept; dsimp only; first | refine kept_parts ?_ | refine kept_parts_out ?_ | refine kept_parts_put ?_ | refine kept_parts_regs ?_ | refine kept_parts_filter ?_)
    | contradiction

theorem kept_frameAck {st0 : State} {s : State} {p : Pkt} {b : List Byte} (hk : Kept st0 s) : Kept st0 (frameAck s p b) := by
  unfold frameAck
  with_reducible repeat' first
    | assumption
    | (dsimp only)
    | refine kept_fst ?_ (by assumption)
    | apply kept_answerRecord
    | apply kept_wr
    | apply kept_setPair
    | apply kept_retryWrites
    | apply kept_partnerLost
    | apply kept_dropFrame
    | apply kept_transmitFrame
    | apply kept_inc
    | apply kept_foldl
    | apply kept_foldl_fst
    | apply kept_getD
    | intro _
    | split
    | exact kept_pair _ (by assumption)
    | (unfold Kept; dsimp only; first | refine kept_parts ?_ | refine kept_parts_out ?_ | refine kept_parts_put ?_ | refine kept_parts_regs ?_ | refine kept_parts_filter ?_)
    | contradiction

theorem kept_endRebind {st0 : State} {s : State} {n : Nat} {st : Status} (hk : Kept st0 s) : Kept st0 (endRebind s n st) := by
  unfold endRebind
  with_reducible repeat' first
    | assumption
    | (dsimp only)
    | refine kept_fst ?_ (by assumption)
    | apply kept_sendMsi
    | apply kept_wr
    | apply kept_setPair
    | apply kept_foldl
    | apply kept_foldl_fst
    | apply kept_getD
    | intro _
    | split
    | exact kept_pair _ (by assumption)
    | (unfold Kept; dsimp only; first | refine kept_parts ?_ | refine kept_parts_out ?_ | refine kept_parts_put ?_ | refine kept_parts_regs ?_ | refine kept_parts_filter ?_)
    | contradiction

theorem kept_applyFeed {st0 : State} {s : State} {n : Nat} {j : Nat} {feed : Nat} (hk : Kept st0 s) : Kept st0 (applyFeed s n j feed) := by
  unfold applyFeed
  with_reducible repeat' first
    | assumption
    | (dsimp only)
    | refine kept_fst ?_ (by assumption)
    | apply kept_stoneWrite
    | apply kept_wr
    | apply kept_postEvent
    | apply kept_foldl
    | apply kept_foldl_fst
    | apply kept_getD
    | intro _
    | split
    | exact kept_pair _ (by assumption)
    | (unfold Kept; dsimp only; first | refine kept_parts ?_ | refine kept_parts_out ?_ | refine kept_parts_put ?_ | refine kept_parts_regs ?_ | refine kept_parts_filter ?_)
    | contradiction

theorem kept_rebind {st0 : State} {s : State} {n : Nat} (hk : Kept st0 s) : Kept st0 (rebind s n) := by
  unfold rebind
  with_reducible repeat' first
    | assumption
    | (dsimp only)
    | refine kept_fst ?_ (by assumption)
    | apply kept_endRebind
    | apply kept_sendReq
    | apply kept_setPair
    | apply kept_foldl
    | apply kept_foldl_fst
    | apply kept_getD
    | intro _
    | split
    | exact kept_pair _ (by assumption)
    | (unfold Kept; dsimp only; first | refine kept_parts ?_ | refine kept_parts_out ?_ | refine kept_parts_put ?_ | refine kept_parts_regs ?_ | refine kept_parts_filter ?_)
    | contradiction

theorem kept_rebindFeed {st0 : State} {s : State} {n : Nat} {st : Status} {b : List Byte} (hk : Kept st0 s) : Kept st0 (rebindFeed s n st b) := by
  unfold rebindFeed
  with_reducible repeat' first
    | assumption
    | (dsimp only)
    | refine kept_fst ?_ (by assumption)
    | apply kept_endRebind
    | apply kept_wr
    | apply kept_setPair
    | apply kept_applyFeed
    | apply kept_foldl
    | apply kept_foldl_fst
    | apply kept_getD
    | intro _
    | split
    | exact kept_pair _ (by assumption)
    | (unfold Kept; dsimp only; first | refine kept_parts ?_ | refine kept_parts_out ?_ | refine kept_parts_put ?_ | refine kept_parts_regs ?_ | refine kept_parts_filter ?_)
    | contradiction

theorem kept_refillStart {st0 : State} {s : State} {n : Nat} (hk : Kept st0 s) : Kept st0 (refillStart s n) := by
  unfold refillStart
  with_reducible repeat' first
    | assumption
    | (dsimp only)
    | refine kept_fst ?_ (by assumption)
    | apply kept_endRebind
    | apply kept_sendRecord
    | apply kept_wr
    | apply kept_foldl
    | apply kept_foldl_fst
    | apply kept_getD
    | intro _
    | split
    | exact kept_pair _ (by assumption)
    | (unfold Kept; dsimp only; first | refine kept_parts ?_ | refine kept_parts_out ?_ | refine kept_parts_put ?_ | refine kept_parts_regs ?_ | refine kept_parts_filter ?_)
    | contradiction

theorem kept_recordResp {st0 : State} {s : State} {n : Nat} {kind : Nat} {st : Status} (hk : Kept st0 s) : Kept st0 (recordResp s n kind st) := by
  unfold recordResp
  with_reducible repeat' first
    | assumption
    | (dsimp only)
    | refine kept_fst ?_ (by assumption)
    | apply kept_endRebind
    | apply kept_wr
    | apply kept_foldl
    | apply kept_foldl_fst
    | apply kept_getD
    | intro _
    | split
    | exact kept_pair _ (by assumption)
    | (unfold Kept; dsimp only; first | refine kept_parts ?_ | refine kept_parts_out ?_ | refine kept_parts_put ?_ | refine kept_parts_regs ?_ | refine kept_parts_filter ?_)
    | contradiction

theorem kept_transmitRefill {st0 : State} {s : State} {n : Nat} {j : Nat} {f : FrameTx} (hk : Kept st0 s) : Kept st0 (transmitRefill s n j f) := by
  unfold transmitRefill
  with_reducible repeat' first
    | assumption
    | (dsimp only)
    | refine kept_fst ?_ (by assumption)
    | apply kept_readPages
    | apply kept_endRefill
    | apply kept_inc
    | apply kept_sendFrame
    | apply kept_foldl
    | apply kept_foldl_fst
    | apply kept_getD
    | intro _
    | split
    | exact kept_pair _ (by assumption)
    | (unfold Kept; dsimp only; first | refine kept_parts ?_ | refine kept_parts_out ?_ | refine kept_parts_put ?_ | refine kept_parts_regs ?_ | refine kept_parts_filter ?_)
    | contradiction

theorem kept_refillGrant {st0 : State} {s : State} {p : Pkt} (hk : Kept st0 s) : Kept st0 (refillGrant s p) := by
  unfold refillGrant
  with_reducible repeat' first
    | assumption
    | (dsimp only)
    | refine kept_fst ?_ (by assumption)
    | apply kept_answerRecord
    | apply kept_wrs
    | apply kept_endRefill
    | apply kept_transmitRefill
    | apply kept_setPair
    | apply kept_foldl
    | apply kept_foldl_fst
    | apply kept_getD
    | intro _
    | split
    | exact kept_pair _ (by assumption)
    | (unfold Kept; dsimp only; first | refine kept_parts ?_ | refine kept_parts_out ?_ | refine kept_parts_put ?_ | refine kept_parts_regs ?_ | refine kept_parts_filter ?_)
    | contradiction

theorem kept_clearTags {st0 : State} {s : State} {j : Nat} (hk : Kept st0 s) : Kept st0 (clearTags s j) := by
  unfold clearTags
  with_reducible repeat' first
    | assumption
    | (dsimp only)
    | refine kept_fst ?_ (by assumption)
    | apply kept_zeroRange
    | apply kept_foldl
    | apply kept_foldl_fst
    | apply kept_getD
    | intro _
    | split
    | exact kept_pair _ (by assumption)
    | (unfold Kept; dsimp only; first | refine kept_parts ?_ | refine kept_parts_out ?_ | refine kept_parts_put ?_ | refine kept_parts_regs ?_ | refine kept_parts_filter ?_)
    | contradiction

theorem kept_refillComplete {st0 : State} {s : State} {p : Pkt} {b : List Byte} (hk : Kept st0 s) : Kept st0 (refillComplete s p b) := by
  unfold refillComplete
  with_reducible repeat' first
    | assumption
    | (dsimp only)
    | refine kept_fst ?_ (by assumption)
    | apply kept_answerRecord
    | apply kept_endRefill
    | apply kept_wr
    | apply kept_clearTags
    | apply kept_transmitRefill
    | apply kept_setPair
    | apply kept_foldl
    | apply kept_foldl_fst
    | apply kept_getD
    | intro _
    | split
    | exact kept_pair _ (by assumption)
    | (unfold Kept; dsimp only; first | refine kept_parts ?_ | refine kept_parts_out ?_ | refine kept_parts_put ?_ | refine kept_parts_regs ?_ | refine kept_parts_filter ?_)
    | contradiction

theorem kept_grantNext {st0 : State} {s : State} {j : Nat} (hk : Kept st0 s) : Kept st0 (grantNext s j) := by
  unfold grantNext
  with_reducible repeat' first
    | assumption
    | (dsimp only)
    | refine kept_fst ?_ (by assumption)
    | apply kept_sendRecord
    | apply kept_foldl
    | apply kept_foldl_fst
    | apply kept_getD
    | intro _
    | split
    | exact kept_pair _ (by assumption)
    | (unfold Kept; dsimp only; first | refine kept_parts ?_ | refine kept_parts_out ?_ | refine kept_parts_put ?_ | refine kept_parts_regs ?_ | refine kept_parts_filter ?_)
    | contradiction

theorem kept_refillReq {st0 : State} {s : State} {p : Pkt} {b : List Byte} (hk : Kept st0 s) : Kept st0 (refillReq s p b) := by
  unfold refillReq
  with_reducible repeat' first
    | assumption
    | (dsimp only)
    | refine kept_fst ?_ (by assumption)
    | apply kept_answerRecord
    | apply kept_grantNext
    | apply kept_foldl
    | apply kept_foldl_fst
    | apply kept_getD
    | intro _
    | split
    | exact kept_pair _ (by assumption)
    | (unfold Kept; dsimp only; first | refine kept_parts ?_ | refine kept_parts_out ?_ | refine kept_parts_put ?_ | refine kept_parts_regs ?_ | refine kept_parts_filter ?_)
    | contradiction

theorem kept_refillDone {st0 : State} {s : State} {p : Pkt} {b : List Byte} (hk : Kept st0 s) : Kept st0 (refillDone s p b) := by
  unfold refillDone
  with_reducible repeat' first
    | assumption
    | (dsimp only)
    | refine kept_fst ?_ (by assumption)
    | apply kept_answerRecord
    | apply kept_grantNext
    | apply kept_foldl
    | apply kept_foldl_fst
    | apply kept_getD
    | intro _
    | split
    | exact kept_pair _ (by assumption)
    | (unfold Kept; dsimp only; first | refine kept_parts ?_ | refine kept_parts_out ?_ | refine kept_parts_put ?_ | refine kept_parts_regs ?_ | refine kept_parts_filter ?_)
    | contradiction

theorem kept_onSuspect {st0 : State} {s : State} {j : Nat} {dev : Nat} {reason : Nat} (hk : Kept st0 s) : Kept st0 (onSuspect s j dev reason) := by
  unfold onSuspect
  with_reducible repeat' first
    | assumption
    | (dsimp only)
    | refine kept_fst ?_ (by assumption)
    | apply kept_postEvent
    | apply kept_foldl
    | apply kept_foldl_fst
    | apply kept_getD
    | intro _
    | split
    | exact kept_pair _ (by assumption)
    | (unfold Kept; dsimp only; first | refine kept_parts ?_ | refine kept_parts_out ?_ | refine kept_parts_put ?_ | refine kept_parts_regs ?_ | refine kept_parts_filter ?_)
    | contradiction

theorem kept_execCut {st0 : State} {slot : Nat} {s : State} (hk : Kept st0 s) {t : State} (e : execCut slot s = .next t) : Kept st0 t := by
  unfold execCut at e
  injection e with e
  subst e
  with_reducible repeat' first
    | assumption
    | (dsimp only)
    | refine kept_fst ?_ (by assumption)
    | apply kept_retryWrites
    | apply kept_cut
    | apply kept_foldl
    | apply kept_foldl_fst
    | apply kept_getD
    | intro _
    | split
    | exact kept_pair _ (by assumption)
    | (unfold Kept; dsimp only; first | refine kept_parts ?_ | refine kept_parts_out ?_ | refine kept_parts_put ?_ | refine kept_parts_regs ?_ | refine kept_parts_filter ?_)
    | contradiction

theorem kept_execFrameBegin {st0 : State} {pkt : Pkt} {s : State} (hk : Kept st0 s) {t : State} (e : execFrameBegin pkt s = .next t) : Kept st0 t := by
  unfold execFrameBegin at e
  injection e with e
  subst e
  with_reducible repeat' first
    | assumption
    | (dsimp only)
    | refine kept_fst ?_ (by assumption)
    | apply kept_withRecord
    | apply kept_frameBegin
    | apply kept_foldl
    | apply kept_foldl_fst
    | apply kept_getD
    | intro _
    | split
    | exact kept_pair _ (by assumption)
    | (unfold Kept; dsimp only; first | refine kept_parts ?_ | refine kept_parts_out ?_ | refine kept_parts_put ?_ | refine kept_parts_regs ?_ | refine kept_parts_filter ?_)
    | contradiction

theorem kept_execFrameEnd {st0 : State} {pkt : Pkt} {s : State} (hk : Kept st0 s) {t : State} (e : execFrameEnd pkt s = .next t) : Kept st0 t := by
  unfold execFrameEnd at e
  injection e with e
  subst e
  with_reducible repeat' first
    | assumption
    | (dsimp only)
    | refine kept_fst ?_ (by assumption)
    | apply kept_withRecord
    | apply kept_frameEnd
    | apply kept_foldl
    | apply kept_foldl_fst
    | apply kept_getD
    | intro _
    | split
    | exact kept_pair _ (by assumption)
    | (unfold Kept; dsimp only; first | refine kept_parts ?_ | refine kept_parts_out ?_ | refine kept_parts_put ?_ | refine kept_parts_regs ?_ | refine kept_parts_filter ?_)
    | contradiction

theorem kept_execFrameAck {st0 : State} {pkt : Pkt} {s : State} (hk : Kept st0 s) {t : State} (e : execFrameAck pkt s = .next t) : Kept st0 t := by
  unfold execFrameAck at e
  injection e with e
  subst e
  with_reducible repeat' first
    | assumption
    | (dsimp only)
    | refine kept_fst ?_ (by assumption)
    | apply kept_withRecord
    | apply kept_frameAck
    | apply kept_foldl
    | apply kept_foldl_fst
    | apply kept_getD
    | intro _
    | split
    | exact kept_pair _ (by assumption)
    | (unfold Kept; dsimp only; first | refine kept_parts ?_ | refine kept_parts_out ?_ | refine kept_parts_put ?_ | refine kept_parts_regs ?_ | refine kept_parts_filter ?_)
    | contradiction

theorem kept_execHeartbeat {st0 : State} {pkt : Pkt} {s : State} (hk : Kept st0 s) {t : State} (e : execHeartbeat pkt s = .next t) : Kept st0 t := by
  unfold execHeartbeat at e
  injection e with e
  subst e
  with_reducible repeat' first
    | assumption
    | (dsimp only)
    | refine kept_fst ?_ (by assumption)
    | apply kept_withRecord
    | apply kept_answerRecord
    | apply kept_foldl
    | apply kept_foldl_fst
    | apply kept_getD
    | intro _
    | split
    | exact kept_pair _ (by assumption)
    | (unfold Kept; dsimp only; first | refine kept_parts ?_ | refine kept_parts_out ?_ | refine kept_parts_put ?_ | refine kept_parts_regs ?_ | refine kept_parts_filter ?_)
    | contradiction

theorem kept_execHeartbeatTimer {st0 : State} {slot : Nat} {s : State} (hk : Kept st0 s) {t : State} (e : execHeartbeatTimer slot s = .next t) : Kept st0 t := by
  unfold execHeartbeatTimer at e
  injection e with e
  subst e
  with_reducible repeat' first
    | assumption
    | (dsimp only)
    | refine kept_fst ?_ (by assumption)
    | apply kept_sendRecord
    | apply kept_foldl
    | apply kept_foldl_fst
    | apply kept_getD
    | intro _
    | split
    | exact kept_pair _ (by assumption)
    | (unfold Kept; dsimp only; first | refine kept_parts ?_ | refine kept_parts_out ?_ | refine kept_parts_put ?_ | refine kept_parts_regs ?_ | refine kept_parts_filter ?_)
    | contradiction

theorem kept_execPartnerSilenceTimeout {st0 : State} {slot : Nat} {s : State} (hk : Kept st0 s) {t : State} (e : execPartnerSilenceTimeout slot s = .next t) : Kept st0 t := by
  unfold execPartnerSilenceTimeout at e
  injection e with e
  subst e
  with_reducible repeat' first
    | assumption
    | (dsimp only)
    | refine kept_fst ?_ (by assumption)
    | apply kept_partnerLost
    | apply kept_foldl
    | apply kept_foldl_fst
    | apply kept_getD
    | intro _
    | split
    | exact kept_pair _ (by assumption)
    | (unfold Kept; dsimp only; first | refine kept_parts ?_ | refine kept_parts_out ?_ | refine kept_parts_put ?_ | refine kept_parts_regs ?_ | refine kept_parts_filter ?_)
    | contradiction

theorem kept_execRebind {st0 : State} {slot : Nat} {s : State} (hk : Kept st0 s) {t : State} (e : execRebind slot s = .next t) : Kept st0 t := by
  unfold execRebind at e
  injection e with e
  subst e
  with_reducible repeat' first
    | assumption
    | (dsimp only)
    | refine kept_fst ?_ (by assumption)
    | apply kept_rebind
    | apply kept_foldl
    | apply kept_foldl_fst
    | apply kept_getD
    | intro _
    | split
    | exact kept_pair _ (by assumption)
    | (unfold Kept; dsimp only; first | refine kept_parts ?_ | refine kept_parts_out ?_ | refine kept_parts_put ?_ | refine kept_parts_regs ?_ | refine kept_parts_filter ?_)
    | contradiction

theorem kept_dropFeed {st0 : State} {s : State} {n : Nat} (hk : Kept st0 s) : Kept st0 (dropFeed s n) := by
  unfold dropFeed
  with_reducible repeat' first
    | assumption
    | (dsimp only)
    | refine kept_fst ?_ (by assumption)
    | apply kept_quarantine
    | apply kept_foldl
    | apply kept_foldl_fst
    | apply kept_getD
    | intro _
    | split
    | exact kept_pair _ (by assumption)
    | (unfold Kept; dsimp only; first | refine kept_parts ?_ | refine kept_parts_out ?_ | refine kept_parts_put ?_ | refine kept_parts_regs ?_ | refine kept_parts_filter ?_)
    | contradiction

theorem kept_execRebindFeedQueryTimeout {st0 : State} {slot : Nat} {s : State} (hk : Kept st0 s) {t : State} (e : execRebindFeedQueryTimeout slot s = .next t) : Kept st0 t := by
  unfold execRebindFeedQueryTimeout at e
  injection e with e
  subst e
  with_reducible repeat' first
    | assumption
    | (dsimp only)
    | refine kept_fst ?_ (by assumption)
    | apply kept_endRebind
    | apply kept_dropFeed
    | apply kept_foldl
    | apply kept_foldl_fst
    | apply kept_getD
    | intro _
    | split
    | exact kept_pair _ (by assumption)
    | (unfold Kept; dsimp only; first | refine kept_parts ?_ | refine kept_parts_out ?_ | refine kept_parts_put ?_ | refine kept_parts_regs ?_ | refine kept_parts_filter ?_)
    | contradiction

theorem kept_execRefillStart {st0 : State} {slot : Nat} {s : State} (hk : Kept st0 s) {t : State} (e : execRefillStart slot s = .next t) : Kept st0 t := by
  unfold execRefillStart at e
  injection e with e
  subst e
  with_reducible repeat' first
    | assumption
    | (dsimp only)
    | refine kept_fst ?_ (by assumption)
    | apply kept_refillStart
    | apply kept_foldl
    | apply kept_foldl_fst
    | apply kept_getD
    | intro _
    | split
    | exact kept_pair _ (by assumption)
    | (unfold Kept; dsimp only; first | refine kept_parts ?_ | refine kept_parts_out ?_ | refine kept_parts_put ?_ | refine kept_parts_regs ?_ | refine kept_parts_filter ?_)
    | contradiction

theorem kept_execRefillReq {st0 : State} {pkt : Pkt} {s : State} (hk : Kept st0 s) {t : State} (e : execRefillReq pkt s = .next t) : Kept st0 t := by
  unfold execRefillReq at e
  injection e with e
  subst e
  with_reducible repeat' first
    | assumption
    | (dsimp only)
    | refine kept_fst ?_ (by assumption)
    | apply kept_withRecord
    | apply kept_refillReq
    | apply kept_foldl
    | apply kept_foldl_fst
    | apply kept_getD
    | intro _
    | split
    | exact kept_pair _ (by assumption)
    | (unfold Kept; dsimp only; first | refine kept_parts ?_ | refine kept_parts_out ?_ | refine kept_parts_put ?_ | refine kept_parts_regs ?_ | refine kept_parts_filter ?_)
    | contradiction

theorem kept_execRefillGrant {st0 : State} {pkt : Pkt} {s : State} (hk : Kept st0 s) {t : State} (e : execRefillGrant pkt s = .next t) : Kept st0 t := by
  unfold execRefillGrant at e
  injection e with e
  subst e
  with_reducible repeat' first
    | assumption
    | (dsimp only)
    | refine kept_fst ?_ (by assumption)
    | apply kept_withRecord
    | apply kept_refillGrant
    | apply kept_foldl
    | apply kept_foldl_fst
    | apply kept_getD
    | intro _
    | split
    | exact kept_pair _ (by assumption)
    | (unfold Kept; dsimp only; first | refine kept_parts ?_ | refine kept_parts_out ?_ | refine kept_parts_put ?_ | refine kept_parts_regs ?_ | refine kept_parts_filter ?_)
    | contradiction

theorem kept_execRefillComplete {st0 : State} {pkt : Pkt} {s : State} (hk : Kept st0 s) {t : State} (e : execRefillComplete pkt s = .next t) : Kept st0 t := by
  unfold execRefillComplete at e
  injection e with e
  subst e
  with_reducible repeat' first
    | assumption
    | (dsimp only)
    | refine kept_fst ?_ (by assumption)
    | apply kept_withRecord
    | apply kept_refillComplete
    | apply kept_foldl
    | apply kept_foldl_fst
    | apply kept_getD
    | intro _
    | split
    | exact kept_pair _ (by assumption)
    | (unfold Kept; dsimp only; first | refine kept_parts ?_ | refine kept_parts_out ?_ | refine kept_parts_put ?_ | refine kept_parts_regs ?_ | refine kept_parts_filter ?_)
    | contradiction

theorem kept_execRefillDone {st0 : State} {pkt : Pkt} {s : State} (hk : Kept st0 s) {t : State} (e : execRefillDone pkt s = .next t) : Kept st0 t := by
  unfold execRefillDone at e
  injection e with e
  subst e
  with_reducible repeat' first
    | assumption
    | (dsimp only)
    | refine kept_fst ?_ (by assumption)
    | apply kept_withRecord
    | apply kept_refillDone
    | apply kept_foldl
    | apply kept_foldl_fst
    | apply kept_getD
    | intro _
    | split
    | exact kept_pair _ (by assumption)
    | (unfold Kept; dsimp only; first | refine kept_parts ?_ | refine kept_parts_out ?_ | refine kept_parts_put ?_ | refine kept_parts_regs ?_ | refine kept_parts_filter ?_)
    | contradiction

theorem kept_ckptAck {st0 : State} {s : State} {n : Nat} {step : Nat} (hk : Kept st0 s) : Kept st0 (ckptAck s n step) := by
  unfold ckptAck
  with_reducible repeat' first
    | assumption
    | (dsimp only)
    | refine kept_fst ?_ (by assumption)
    | apply kept_wr
    | apply kept_foldl
    | apply kept_foldl_fst
    | apply kept_getD
    | intro _
    | split
    | exact kept_pair _ (by assumption)
    | (unfold Kept; dsimp only; first | refine kept_parts ?_ | refine kept_parts_out ?_ | refine kept_parts_put ?_ | refine kept_parts_regs ?_ | refine kept_parts_filter ?_)
    | contradiction

theorem kept_execCkptAck {st0 : State} {slot : Nat} {step : Nat} {s : State} (hk : Kept st0 s) {t : State} (e : execCkptAck slot step s = .next t) : Kept st0 t := by
  unfold execCkptAck at e
  injection e with e
  subst e
  with_reducible repeat' first
    | assumption
    | (dsimp only)
    | refine kept_fst ?_ (by assumption)
    | apply kept_ckptAck
    | apply kept_foldl
    | apply kept_foldl_fst
    | apply kept_getD
    | intro _
    | split
    | exact kept_pair _ (by assumption)
    | (unfold Kept; dsimp only; first | refine kept_parts ?_ | refine kept_parts_out ?_ | refine kept_parts_put ?_ | refine kept_parts_regs ?_ | refine kept_parts_filter ?_)
    | contradiction

theorem kept_replayArm {st0 : State} {s : State} {n : Nat} (hk : Kept st0 s) : Kept st0 (replayArm s n) := by
  unfold replayArm
  with_reducible repeat' first
    | assumption
    | (dsimp only)
    | refine kept_fst ?_ (by assumption)
    | apply kept_setMode
    | apply kept_wr
    | apply kept_foldl
    | apply kept_foldl_fst
    | apply kept_getD
    | intro _
    | split
    | exact kept_pair _ (by assumption)
    | (unfold Kept; dsimp only; first | refine kept_parts ?_ | refine kept_parts_out ?_ | refine kept_parts_put ?_ | refine kept_parts_regs ?_ | refine kept_parts_filter ?_)
    | contradiction

theorem kept_execReplayArm {st0 : State} {slot : Nat} {s : State} (hk : Kept st0 s) {t : State} (e : execReplayArm slot s = .next t) : Kept st0 t := by
  unfold execReplayArm at e
  injection e with e
  subst e
  with_reducible repeat' first
    | assumption
    | (dsimp only)
    | refine kept_fst ?_ (by assumption)
    | apply kept_replayArm
    | apply kept_foldl
    | apply kept_foldl_fst
    | apply kept_getD
    | intro _
    | split
    | exact kept_pair _ (by assumption)
    | (unfold Kept; dsimp only; first | refine kept_parts ?_ | refine kept_parts_out ?_ | refine kept_parts_put ?_ | refine kept_parts_regs ?_ | refine kept_parts_filter ?_)
    | contradiction

theorem kept_execZestReport {st0 : State} {pkt : Pkt} {s : State} (hk : Kept st0 s) {t : State} (e : execZestReport pkt s = .next t) : Kept st0 t := by
  unfold execZestReport at e
  injection e with e
  subst e
  with_reducible repeat' first
    | assumption
    | (dsimp only)
    | refine kept_fst ?_ (by assumption)
    | apply kept_withRecord
    | apply kept_zestReport
    | apply kept_foldl
    | apply kept_foldl_fst
    | apply kept_getD
    | intro _
    | split
    | exact kept_pair _ (by assumption)
    | (unfold Kept; dsimp only; first | refine kept_parts ?_ | refine kept_parts_out ?_ | refine kept_parts_put ?_ | refine kept_parts_regs ?_ | refine kept_parts_filter ?_)
    | contradiction

theorem kept_execZestVerdict {st0 : State} {pkt : Pkt} {s : State} (hk : Kept st0 s) {t : State} (e : execZestVerdict pkt s = .next t) : Kept st0 t := by
  unfold execZestVerdict at e
  injection e with e
  subst e
  with_reducible repeat' first
    | assumption
    | (dsimp only)
    | refine kept_fst ?_ (by assumption)
    | apply kept_withRecord
    | apply kept_zestVerdict
    | apply kept_foldl
    | apply kept_foldl_fst
    | apply kept_getD
    | intro _
    | split
    | exact kept_pair _ (by assumption)
    | (unfold Kept; dsimp only; first | refine kept_parts ?_ | refine kept_parts_out ?_ | refine kept_parts_put ?_ | refine kept_parts_regs ?_ | refine kept_parts_filter ?_)
    | contradiction

theorem kept_execZestHoldTimeout {st0 : State} {slot : Nat} {s : State} (hk : Kept st0 s) {t : State} (e : execZestHoldTimeout slot s = .next t) : Kept st0 t := by
  unfold execZestHoldTimeout at e
  injection e with e
  subst e
  with_reducible repeat' first
    | assumption
    | (dsimp only)
    | refine kept_fst ?_ (by assumption)
    | apply kept_postEvent
    | apply kept_foldl
    | apply kept_foldl_fst
    | apply kept_getD
    | intro _
    | split
    | exact kept_pair _ (by assumption)
    | (unfold Kept; dsimp only; first | refine kept_parts ?_ | refine kept_parts_out ?_ | refine kept_parts_put ?_ | refine kept_parts_regs ?_ | refine kept_parts_filter ?_)
    | contradiction

end Sys2Proof.Machine
end

