-- ==== Sys2Proof/Laws/KeptOperands.lean ====
section
/-!
SUPPORT. Sys2Proof/Laws/KeptOperands.lean: every operation of Sys2Proof/Machine/Operands.lean leaves the queue, appends to what has left the block, and keeps the canonical forms.
-/
set_option linter.unusedVariables false
set_option linter.unreachableTactic false
set_option linter.unusedTactic false
namespace Sys2Proof.Machine

theorem kept_VRes_wrote {st0 : State} {s : State} {y1 : VEng × List Elem} {extra : Nat} (hk : Kept st0 s) : Kept st0 (VRes.wrote s y1 extra).s := by
  unfold VRes.wrote
  with_reducible repeat' first
    | assumption
    | (dsimp only)
    | refine kept_fst ?_ (by assumption)
    | apply kept_foldl
    | apply kept_foldl_fst
    | apply kept_getD
    | intro _
    | split
    | exact kept_pair _ (by assumption)
    | (unfold Kept; dsimp only; first | refine kept_parts ?_ | refine kept_parts_out ?_ | refine kept_parts_put ?_ | refine kept_parts_regs ?_ | refine kept_parts_filter ?_)
    | contradiction

theorem kept_VRes_just {st0 : State} {s : State} {y1 : VEng} (hk : Kept st0 s) : Kept st0 (VRes.just s y1).s := by
  unfold VRes.just
  with_reducible repeat' first
    | assumption
    | (dsimp only)
    | refine kept_fst ?_ (by assumption)
    | apply kept_foldl
    | apply kept_foldl_fst
    | apply kept_getD
    | intro _
    | split
    | exact kept_pair _ (by assumption)
    | (unfold Kept; dsimp only; first | refine kept_parts ?_ | refine kept_parts_out ?_ | refine kept_parts_put ?_ | refine kept_parts_regs ?_ | refine kept_parts_filter ?_)
    | contradiction

theorem kept_VRes_bad {st0 : State} {s : State} {y1 : VEng} {st : Status} (hk : Kept st0 s) : Kept st0 (VRes.bad s y1 st).s := by
  unfold VRes.bad
  with_reducible repeat' first
    | assumption
    | (dsimp only)
    | refine kept_fst ?_ (by assumption)
    | apply kept_foldl
    | apply kept_foldl_fst
    | apply kept_getD
    | intro _
    | split
    | exact kept_pair _ (by assumption)
    | (unfold Kept; dsimp only; first | refine kept_parts ?_ | refine kept_parts_out ?_ | refine kept_parts_put ?_ | refine kept_parts_regs ?_ | refine kept_parts_filter ?_)
    | contradiction

theorem kept_setVeng {st0 : State} {s : State} {l : Nat} {y2 : VEng} (hk : Kept st0 s) : Kept st0 (setVeng s l y2) := by
  unfold setVeng
  with_reducible repeat' first
    | assumption
    | (dsimp only)
    | refine kept_fst ?_ (by assumption)
    | apply kept_setCore
    | apply kept_foldl
    | apply kept_foldl_fst
    | apply kept_getD
    | intro _
    | split
    | exact kept_pair _ (by assumption)
    | (unfold Kept; dsimp only; first | refine kept_parts ?_ | refine kept_parts_out ?_ | refine kept_parts_put ?_ | refine kept_parts_regs ?_ | refine kept_parts_filter ?_)
    | contradiction

theorem kept_dropMat {st0 : State} {s : State} {l : Nat} {k : Nat} {seq : Nat} (hk : Kept st0 s) : Kept st0 (dropMat s l k seq) := by
  unfold dropMat
  with_reducible repeat' first
    | assumption
    | (dsimp only)
    | refine kept_fst ?_ (by assumption)
    | apply kept_setCore
    | apply kept_foldl
    | apply kept_foldl_fst
    | apply kept_getD
    | intro _
    | split
    | exact kept_pair _ (by assumption)
    | (unfold Kept; dsimp only; first | refine kept_parts ?_ | refine kept_parts_out ?_ | refine kept_parts_put ?_ | refine kept_parts_regs ?_ | refine kept_parts_filter ?_)
    | contradiction

theorem kept_vFault {st0 : State} {s : State} {l : Nat} {k : Nat} {seq : Nat} {st : Status} {pc : Nat} {opc : Nat} (hk : Kept st0 s) : Kept st0 (vFault s l k seq st pc opc) := by
  unfold vFault
  with_reducible repeat' first
    | assumption
    | (dsimp only)
    | refine kept_fst ?_ (by assumption)
    | apply kept_wrs
    | apply kept_inc
    | apply kept_dropMat
    | apply kept_setVeng
    | apply kept_setRun
    | apply kept_foldl
    | apply kept_foldl_fst
    | apply kept_getD
    | intro _
    | split
    | exact kept_pair _ (by assumption)
    | (unfold Kept; dsimp only; first | refine kept_parts ?_ | refine kept_parts_out ?_ | refine kept_parts_put ?_ | refine kept_parts_regs ?_ | refine kept_parts_filter ?_)
    | contradiction

theorem kept_vCountUp {st0 : State} {s : State} {l : Nat} {k : Nat} {seq : Nat} {sat : Nat} {nan : Nat} (hk : Kept st0 s) : Kept st0 (vCountUp s l k seq sat nan) := by
  unfold vCountUp
  with_reducible repeat' first
    | assumption
    | (dsimp only)
    | refine kept_fst ?_ (by assumption)
    | apply kept_countSat
    | apply kept_inc
    | apply kept_foldl
    | apply kept_foldl_fst
    | apply kept_getD
    | intro _
    | split
    | exact kept_pair _ (by assumption)
    | (unfold Kept; dsimp only; first | refine kept_parts ?_ | refine kept_parts_out ?_ | refine kept_parts_put ?_ | refine kept_parts_regs ?_ | refine kept_parts_filter ?_)
    | contradiction

theorem kept_vstep {st0 : State} {s : State} {l : Nat} {opc : Nat} {f : State → VEng → Nat → VRes} (hk : Kept st0 s) (h_f : ∀ z0 z1 z2, Kept st0 z0 → Kept st0 (f z0 z1 z2).s) : Kept st0 (vstep s l opc f) := by
  unfold vstep
  dsimp only
  split
  · exact hk
  · split
    · exact hk
    · split
      · exact kept_vFault (kept_fresh _ hk)
      · have h := fun p n => kept_readMem (a := p) (n := n) (source := readSource p) hk
        split
        · rename_i e
          have := kept_fst (h _ _) e
          exact kept_vFault (kept_fresh _ this)
        · rename_i e
          have h1 := kept_fst (h _ _) e
          split
          · exact kept_vFault h1
          · split
            · exact hk
            · split
              · exact kept_vFault (kept_vCountUp (h_f _ _ _ h1))
              · exact kept_setVeng (kept_vCountUp (h_f _ _ _ h1))

theorem kept_vChecked {st0 : State} {ok : Nat → Bool} {f : State → VEng → Nat → VRes} {s : State} {y3 : VEng} {w : Nat} (hk : Kept st0 s) (h_f : ∀ z0 z1 z2, Kept st0 z0 → Kept st0 (f z0 z1 z2).s) : Kept st0 (vChecked ok f s y3 w).s := by
  unfold vChecked
  split
  · exact h_f _ _ _ hk
  · exact kept_VRes_bad hk

theorem kept_sqWrite {st0 : State} {f : VEng → Nat → Nat} {s : State} {y2 : VEng} {w : Nat} (hk : Kept st0 s) : Kept st0 (sqWrite f s y2 w).s := by
  unfold sqWrite
  with_reducible repeat' first
    | assumption
    | (dsimp only)
    | refine kept_fst ?_ (by assumption)
    | apply kept_VRes_just
    | apply kept_foldl
    | apply kept_foldl_fst
    | apply kept_getD
    | intro _
    | split
    | exact kept_pair _ (by assumption)
    | (unfold Kept; dsimp only; first | refine kept_parts ?_ | refine kept_parts_out ?_ | refine kept_parts_put ?_ | refine kept_parts_regs ?_ | refine kept_parts_filter ?_)
    | contradiction

theorem kept_vBranch {st0 : State} {c : VEng → Nat → Bool} {s : State} {y2 : VEng} {w : Nat} (hk : Kept st0 s) : Kept st0 (vBranch c s y2 w).s := by
  unfold vBranch
  with_reducible repeat' first
    | assumption
    | (dsimp only)
    | refine kept_fst ?_ (by assumption)
    | apply kept_VRes_just
    | apply kept_VRes_bad
    | apply kept_foldl
    | apply kept_foldl_fst
    | apply kept_getD
    | intro _
    | split
    | exact kept_pair _ (by assumption)
    | (unfold Kept; dsimp only; first | refine kept_parts ?_ | refine kept_parts_out ?_ | refine kept_parts_put ?_ | refine kept_parts_regs ?_ | refine kept_parts_filter ?_)
    | contradiction

theorem kept_vFloat {st0 : State} {srcs : Nat → List Nat} {g : Fmt → RMode → List Nat → Elem} {s : State} {y3 : VEng} {w : Nat} (hk : Kept st0 s) : Kept st0 (vFloat srcs g s y3 w).s := by
  unfold vFloat
  with_reducible repeat' first
    | assumption
    | (dsimp only)
    | refine kept_fst ?_ (by assumption)
    | apply kept_VRes_bad
    | apply kept_VRes_wrote
    | apply kept_foldl
    | apply kept_foldl_fst
    | apply kept_getD
    | intro _
    | split
    | exact kept_pair _ (by assumption)
    | (unfold Kept; dsimp only; first | refine kept_parts ?_ | refine kept_parts_out ?_ | refine kept_parts_put ?_ | refine kept_parts_regs ?_ | refine kept_parts_filter ?_)
    | contradiction

theorem kept_vFmaWide {st0 : State} {base : Nat} {s : State} {y2 : VEng} {w : Nat} (hk : Kept st0 s) : Kept st0 (vFmaWide base s y2 w).s := by
  unfold vFmaWide
  with_reducible repeat' first
    | assumption
    | (dsimp only)
    | refine kept_fst ?_ (by assumption)
    | apply kept_VRes_bad
    | apply kept_VRes_wrote
    | apply kept_foldl
    | apply kept_foldl_fst
    | apply kept_getD
    | intro _
    | split
    | exact kept_pair _ (by assumption)
    | (unfold Kept; dsimp only; first | refine kept_parts ?_ | refine kept_parts_out ?_ | refine kept_parts_put ?_ | refine kept_parts_regs ?_ | refine kept_parts_filter ?_)
    | contradiction

theorem kept_vDot4 {st0 : State} {s : State} {y1 : VEng} {w : Nat} (hk : Kept st0 s) : Kept st0 (vDot4 s y1 w).s := by
  unfold vDot4
  with_reducible repeat' first
    | assumption
    | (dsimp only)
    | refine kept_fst ?_ (by assumption)
    | apply kept_VRes_bad
    | apply kept_VRes_wrote
    | apply kept_foldl
    | apply kept_foldl_fst
    | apply kept_getD
    | intro _
    | split
    | exact kept_pair _ (by assumption)
    | (unfold Kept; dsimp only; first | refine kept_parts ?_ | refine kept_parts_out ?_ | refine kept_parts_put ?_ | refine kept_parts_regs ?_ | refine kept_parts_filter ?_)
    | contradiction

theorem kept_vRaw {st0 : State} {f : VEng → Nat → Nat → Nat} {s : State} {y2 : VEng} {w : Nat} (hk : Kept st0 s) : Kept st0 (vRaw f s y2 w).s := by
  unfold vRaw
  with_reducible repeat' first
    | assumption
    | (dsimp only)
    | refine kept_fst ?_ (by assumption)
    | apply kept_VRes_wrote
    | apply kept_foldl
    | apply kept_foldl_fst
    | apply kept_getD
    | intro _
    | split
    | exact kept_pair _ (by assumption)
    | (unfold Kept; dsimp only; first | refine kept_parts ?_ | refine kept_parts_out ?_ | refine kept_parts_put ?_ | refine kept_parts_regs ?_ | refine kept_parts_filter ?_)
    | contradiction

theorem kept_vInt {st0 : State} {f : Nat → Nat → Nat} {y1 : State} {y2 : VEng} {y3 : Nat} (hk : Kept st0 y1) : Kept st0 (vInt f y1 y2 y3).s := by
  unfold vInt
  with_reducible repeat' first
    | assumption
    | (dsimp only)
    | refine kept_fst ?_ (by assumption)
    | apply kept_vRaw
    | apply kept_foldl
    | apply kept_foldl_fst
    | apply kept_getD
    | intro _
    | split
    | exact kept_pair _ (by assumption)
    | (unfold Kept; dsimp only; first | refine kept_parts ?_ | refine kept_parts_out ?_ | refine kept_parts_put ?_ | refine kept_parts_regs ?_ | refine kept_parts_filter ?_)
    | contradiction

theorem kept_vCmp {st0 : State} {s : State} {y1 : VEng} {w : Nat} (hk : Kept st0 s) : Kept st0 (vCmp s y1 w).s := by
  unfold vCmp
  with_reducible repeat' first
    | assumption
    | (dsimp only)
    | refine kept_fst ?_ (by assumption)
    | apply kept_foldl
    | apply kept_foldl_fst
    | apply kept_getD
    | intro _
    | split
    | exact kept_pair _ (by assumption)
    | (unfold Kept; dsimp only; first | refine kept_parts ?_ | refine kept_parts_out ?_ | refine kept_parts_put ?_ | refine kept_parts_regs ?_ | refine kept_parts_filter ?_)
    | contradiction

theorem kept_pLogic {st0 : State} {f : BitVec 256 → BitVec 256 → BitVec 256} {s : State} {y2 : VEng} {w : Nat} (hk : Kept st0 s) : Kept st0 (pLogic f s y2 w).s := by
  unfold pLogic
  with_reducible repeat' first
    | assumption
    | (dsimp only)
    | refine kept_fst ?_ (by assumption)
    | apply kept_VRes_just
    | apply kept_foldl
    | apply kept_foldl_fst
    | apply kept_getD
    | intro _
    | split
    | exact kept_pair _ (by assumption)
    | (unfold Kept; dsimp only; first | refine kept_parts ?_ | refine kept_parts_out ?_ | refine kept_parts_put ?_ | refine kept_parts_regs ?_ | refine kept_parts_filter ?_)
    | contradiction

theorem kept_vCvt {st0 : State} {s : State} {y1 : VEng} {w : Nat} (hk : Kept st0 s) : Kept st0 (vCvt s y1 w).s := by
  unfold vCvt
  with_reducible repeat' first
    | assumption
    | (dsimp only)
    | refine kept_fst ?_ (by assumption)
    | apply kept_VRes_bad
    | apply kept_VRes_wrote
    | apply kept_foldl
    | apply kept_foldl_fst
    | apply kept_getD
    | intro _
    | split
    | exact kept_pair _ (by assumption)
    | (unfold Kept; dsimp only; first | refine kept_parts ?_ | refine kept_parts_out ?_ | refine kept_parts_put ?_ | refine kept_parts_regs ?_ | refine kept_parts_filter ?_)
    | contradiction

theorem kept_vFun {st0 : State} {g : FFun} {s : State} {y2 : VEng} {w : Nat} (hk : Kept st0 s) : Kept st0 (vFun g s y2 w).s := by
  unfold vFun
  with_reducible repeat' first
    | assumption
    | (dsimp only)
    | refine kept_fst ?_ (by assumption)
    | apply kept_vFloat
    | apply kept_foldl
    | apply kept_foldl_fst
    | apply kept_getD
    | intro _
    | split
    | exact kept_pair _ (by assumption)
    | (unfold Kept; dsimp only; first | refine kept_parts ?_ | refine kept_parts_out ?_ | refine kept_parts_put ?_ | refine kept_parts_regs ?_ | refine kept_parts_filter ?_)
    | contradiction

theorem kept_vGroupSum {st0 : State} {sq : Bool} {s : State} {y2 : VEng} {w : Nat} (hk : Kept st0 s) : Kept st0 (vGroupSum sq s y2 w).s := by
  unfold vGroupSum
  with_reducible repeat' first
    | assumption
    | (dsimp only)
    | refine kept_fst ?_ (by assumption)
    | apply kept_VRes_bad
    | apply kept_VRes_wrote
    | apply kept_foldl
    | apply kept_foldl_fst
    | apply kept_getD
    | intro _
    | split
    | exact kept_pair _ (by assumption)
    | (unfold Kept; dsimp only; first | refine kept_parts ?_ | refine kept_parts_out ?_ | refine kept_parts_put ?_ | refine kept_parts_regs ?_ | refine kept_parts_filter ?_)
    | contradiction

theorem kept_write3 {st0 : State} {s : State} {y1 : VEng} {w : Nat} {f : Nat → Nat × Nat × Nat} {sat : Nat} (hk : Kept st0 s) : Kept st0 (write3 s y1 w f sat).s := by
  unfold write3
  with_reducible repeat' first
    | assumption
    | (dsimp only)
    | refine kept_fst ?_ (by assumption)
    | apply kept_foldl
    | apply kept_foldl_fst
    | apply kept_getD
    | intro _
    | split
    | exact kept_pair _ (by assumption)
    | (unfold Kept; dsimp only; first | refine kept_parts ?_ | refine kept_parts_out ?_ | refine kept_parts_put ?_ | refine kept_parts_regs ?_ | refine kept_parts_filter ?_)
    | contradiction

theorem kept_vRmv {st0 : State} {s : State} {y1 : VEng} {w : Nat} (hk : Kept st0 s) : Kept st0 (vRmv s y1 w).s := by
  unfold vRmv
  with_reducible repeat' first
    | assumption
    | (dsimp only)
    | refine kept_fst ?_ (by assumption)
    | apply kept_write3
    | apply kept_foldl
    | apply kept_foldl_fst
    | apply kept_getD
    | intro _
    | split
    | exact kept_pair _ (by assumption)
    | (unfold Kept; dsimp only; first | refine kept_parts ?_ | refine kept_parts_out ?_ | refine kept_parts_put ?_ | refine kept_parts_regs ?_ | refine kept_parts_filter ?_)
    | contradiction

theorem kept_vMvMerge {st0 : State} {s : State} {y1 : VEng} {w : Nat} (hk : Kept st0 s) : Kept st0 (vMvMerge s y1 w).s := by
  unfold vMvMerge
  with_reducible repeat' first
    | assumption
    | (dsimp only)
    | refine kept_fst ?_ (by assumption)
    | apply kept_write3
    | apply kept_foldl
    | apply kept_foldl_fst
    | apply kept_getD
    | intro _
    | split
    | exact kept_pair _ (by assumption)
    | (unfold Kept; dsimp only; first | refine kept_parts ?_ | refine kept_parts_out ?_ | refine kept_parts_put ?_ | refine kept_parts_regs ?_ | refine kept_parts_filter ?_)
    | contradiction

theorem kept_vSegSum {st0 : State} {s : State} {y1 : VEng} {w : Nat} (hk : Kept st0 s) : Kept st0 (vSegSum s y1 w).s := by
  unfold vSegSum
  with_reducible repeat' first
    | assumption
    | (dsimp only)
    | refine kept_fst ?_ (by assumption)
    | apply kept_VRes_bad
    | apply kept_VRes_wrote
    | apply kept_foldl
    | apply kept_foldl_fst
    | apply kept_getD
    | intro _
    | split
    | exact kept_pair _ (by assumption)
    | (unfold Kept; dsimp only; first | refine kept_parts ?_ | refine kept_parts_out ?_ | refine kept_parts_put ?_ | refine kept_parts_regs ?_ | refine kept_parts_filter ?_)
    | contradiction

theorem kept_vBest {st0 : State} {larger : Bool} {s : State} {y2 : VEng} {w : Nat} (hk : Kept st0 s) : Kept st0 (vBest larger s y2 w).s := by
  unfold vBest
  with_reducible repeat' first
    | assumption
    | (dsimp only)
    | refine kept_fst ?_ (by assumption)
    | apply kept_VRes_bad
    | apply kept_foldl
    | apply kept_foldl_fst
    | apply kept_getD
    | intro _
    | split
    | exact kept_pair _ (by assumption)
    | (unfold Kept; dsimp only; first | refine kept_parts ?_ | refine kept_parts_out ?_ | refine kept_parts_put ?_ | refine kept_parts_regs ?_ | refine kept_parts_filter ?_)
    | contradiction

theorem kept_vSmRow {st0 : State} {s : State} {y1 : VEng} {w : Nat} (hk : Kept st0 s) : Kept st0 (vSmRow s y1 w).s := by
  unfold vSmRow
  with_reducible repeat' first
    | assumption
    | (dsimp only)
    | refine kept_fst ?_ (by assumption)
    | apply kept_VRes_wrote
    | apply kept_foldl
    | apply kept_foldl_fst
    | apply kept_getD
    | intro _
    | split
    | exact kept_pair _ (by assumption)
    | (unfold Kept; dsimp only; first | refine kept_parts ?_ | refine kept_parts_out ?_ | refine kept_parts_put ?_ | refine kept_parts_regs ?_ | refine kept_parts_filter ?_)
    | contradiction

theorem kept_vSmExp {st0 : State} {s : State} {y1 : VEng} {w : Nat} (hk : Kept st0 s) : Kept st0 (vSmExp s y1 w).s := by
  unfold vSmExp
  with_reducible repeat' first
    | assumption
    | (dsimp only)
    | refine kept_fst ?_ (by assumption)
    | apply kept_VRes_wrote
    | apply kept_foldl
    | apply kept_foldl_fst
    | apply kept_getD
    | intro _
    | split
    | exact kept_pair _ (by assumption)
    | (unfold Kept; dsimp only; first | refine kept_parts ?_ | refine kept_parts_out ?_ | refine kept_parts_put ?_ | refine kept_parts_regs ?_ | refine kept_parts_filter ?_)
    | contradiction

theorem kept_vSmSum {st0 : State} {s : State} {y1 : VEng} {w : Nat} (hk : Kept st0 s) : Kept st0 (vSmSum s y1 w).s := by
  unfold vSmSum
  with_reducible repeat' first
    | assumption
    | (dsimp only)
    | refine kept_fst ?_ (by assumption)
    | apply kept_VRes_bad
    | apply kept_VRes_wrote
    | apply kept_foldl
    | apply kept_foldl_fst
    | apply kept_getD
    | intro _
    | split
    | exact kept_pair _ (by assumption)
    | (unfold Kept; dsimp only; first | refine kept_parts ?_ | refine kept_parts_out ?_ | refine kept_parts_put ?_ | refine kept_parts_regs ?_ | refine kept_parts_filter ?_)
    | contradiction

theorem kept_vLoad {st0 : State} {s : State} {y1 : VEng} {a : Nat} {n : Nat} (hk : Kept st0 s) : Kept st0 (vLoad s y1 a n).1 := by
  unfold vLoad
  with_reducible repeat' first
    | assumption
    | (dsimp only)
    | refine kept_fst ?_ (by assumption)
    | apply kept_readWords
    | apply kept_foldl
    | apply kept_foldl_fst
    | apply kept_getD
    | intro _
    | split
    | exact kept_pair _ (by assumption)
    | (unfold Kept; dsimp only; first | refine kept_parts ?_ | refine kept_parts_out ?_ | refine kept_parts_put ?_ | refine kept_parts_regs ?_ | refine kept_parts_filter ?_)
    | contradiction

theorem kept_vLoads {st0 : State} {y0 : VEng} {n : Nat} {y2 : List Nat} {y3 : State} (hk : Kept st0 y3) : Kept st0 (vLoads y0 n y2 y3).1 := by
  induction y2 generalizing y0 y3 with
  | nil => unfold vLoads; with_reducible repeat' first
    | assumption
    | (dsimp only)
    | refine kept_fst ?_ (by assumption)
    | apply kept_vLoad
    | apply kept_foldl
    | apply kept_foldl_fst
    | apply kept_getD
    | intro _
    | split
    | exact kept_pair _ (by assumption)
    | (unfold Kept; dsimp only; first | refine kept_parts ?_ | refine kept_parts_out ?_ | refine kept_parts_put ?_ | refine kept_parts_regs ?_ | refine kept_parts_filter ?_)
    | contradiction
  | cons xx tt ih => unfold vLoads; with_reducible repeat' first
    | apply ih
    | assumption
    | (dsimp only)
    | refine kept_fst ?_ (by assumption)
    | apply kept_vLoad
    | apply kept_foldl
    | apply kept_foldl_fst
    | apply kept_getD
    | intro _
    | split
    | exact kept_pair _ (by assumption)
    | (unfold Kept; dsimp only; first | refine kept_parts ?_ | refine kept_parts_out ?_ | refine kept_parts_put ?_ | refine kept_parts_regs ?_ | refine kept_parts_filter ?_)
    | contradiction

theorem kept_stageDone {st0 : State} {s : State} {old : VEng} {y2 : VEng} (hk : Kept st0 s) : Kept st0 (stageDone s old y2).s := by
  unfold stageDone
  with_reducible repeat' first
    | assumption
    | (dsimp only)
    | refine kept_fst ?_ (by assumption)
    | apply kept_VRes_bad
    | apply kept_VRes_just
    | apply kept_foldl
    | apply kept_foldl_fst
    | apply kept_getD
    | intro _
    | split
    | exact kept_pair _ (by assumption)
    | (unfold Kept; dsimp only; first | refine kept_parts ?_ | refine kept_parts_out ?_ | refine kept_parts_put ?_ | refine kept_parts_regs ?_ | refine kept_parts_filter ?_)
    | contradiction

theorem kept_vLd {st0 : State} {s : State} {y1 : VEng} {w : Nat} (hk : Kept st0 s) : Kept st0 (vLd s y1 w).s := by
  unfold vLd
  with_reducible repeat' first
    | assumption
    | (dsimp only)
    | refine kept_fst ?_ (by assumption)
    | apply kept_VRes_bad
    | apply kept_vLoads
    | apply kept_VRes_wrote
    | apply kept_foldl
    | apply kept_foldl_fst
    | apply kept_getD
    | intro _
    | split
    | exact kept_pair _ (by assumption)
    | (unfold Kept; dsimp only; first | refine kept_parts ?_ | refine kept_parts_out ?_ | refine kept_parts_put ?_ | refine kept_parts_regs ?_ | refine kept_parts_filter ?_)
    | contradiction

theorem kept_vSt {st0 : State} {s : State} {y1 : VEng} {w : Nat} (hk : Kept st0 s) : Kept st0 (vSt s y1 w).s := by
  unfold vSt
  with_reducible repeat' first
    | assumption
    | (dsimp only)
    | refine kept_fst ?_ (by assumption)
    | apply kept_VRes_bad
    | apply kept_stageDone
    | apply kept_foldl
    | apply kept_foldl_fst
    | apply kept_getD
    | intro _
    | split
    | exact kept_pair _ (by assumption)
    | (unfold Kept; dsimp only; first | refine kept_parts ?_ | refine kept_parts_out ?_ | refine kept_parts_put ?_ | refine kept_parts_regs ?_ | refine kept_parts_filter ?_)
    | contradiction

theorem kept_vLdb {st0 : State} {s : State} {y1 : VEng} {w : Nat} (hk : Kept st0 s) : Kept st0 (vLdb s y1 w).s := by
  unfold vLdb
  with_reducible repeat' first
    | assumption
    | (dsimp only)
    | refine kept_fst ?_ (by assumption)
    | apply kept_VRes_bad
    | apply kept_VRes_just
    | apply kept_vLoad
    | apply kept_VRes_wrote
    | apply kept_foldl
    | apply kept_foldl_fst
    | apply kept_getD
    | intro _
    | split
    | exact kept_pair _ (by assumption)
    | (unfold Kept; dsimp only; first | refine kept_parts ?_ | refine kept_parts_out ?_ | refine kept_parts_put ?_ | refine kept_parts_regs ?_ | refine kept_parts_filter ?_)
    | contradiction

theorem kept_vGather {st0 : State} {s : State} {y1 : VEng} {w : Nat} (hk : Kept st0 s) : Kept st0 (vGather s y1 w).s := by
  unfold vGather
  with_reducible repeat' first
    | assumption
    | (dsimp only)
    | refine kept_fst ?_ (by assumption)
    | apply kept_VRes_bad
    | apply kept_vLoads
    | apply kept_VRes_wrote
    | apply kept_foldl
    | apply kept_foldl_fst
    | apply kept_getD
    | intro _
    | split
    | exact kept_pair _ (by assumption)
    | (unfold Kept; dsimp only; first | refine kept_parts ?_ | refine kept_parts_out ?_ | refine kept_parts_put ?_ | refine kept_parts_regs ?_ | refine kept_parts_filter ?_)
    | contradiction

theorem kept_vScatter {st0 : State} {s : State} {y1 : VEng} {w : Nat} (hk : Kept st0 s) : Kept st0 (vScatter s y1 w).s := by
  unfold vScatter
  with_reducible repeat' first
    | assumption
    | (dsimp only)
    | refine kept_fst ?_ (by assumption)
    | apply kept_VRes_bad
    | apply kept_stageDone
    | apply kept_foldl
    | apply kept_foldl_fst
    | apply kept_getD
    | intro _
    | split
    | exact kept_pair _ (by assumption)
    | (unfold Kept; dsimp only; first | refine kept_parts ?_ | refine kept_parts_out ?_ | refine kept_parts_put ?_ | refine kept_parts_regs ?_ | refine kept_parts_filter ?_)
    | contradiction

theorem kept_scatAdd {st0 : State} {base : Nat} {w : Nat} {y2 : List Nat} {y3 : List Nat} {y4 : State} {y5 : VEng} (hk : Kept st0 y4) : Kept st0 (scatAdd base w y2 y3 y4 y5).s := by
  induction y2 generalizing y3 y4 y5 with
  | nil => unfold scatAdd; with_reducible repeat' first
    | assumption
    | (dsimp only)
    | refine kept_fst ?_ (by assumption)
    | apply kept_VRes_just
    | apply kept_vLoad
    | apply kept_VRes_bad
    | apply kept_foldl
    | apply kept_foldl_fst
    | apply kept_getD
    | intro _
    | split
    | exact kept_pair _ (by assumption)
    | (unfold Kept; dsimp only; first | refine kept_parts ?_ | refine kept_parts_out ?_ | refine kept_parts_put ?_ | refine kept_parts_regs ?_ | refine kept_parts_filter ?_)
    | contradiction
  | cons xx tt ih => unfold scatAdd; with_reducible repeat' first
    | apply ih
    | assumption
    | (dsimp only)
    | refine kept_fst ?_ (by assumption)
    | apply kept_VRes_just
    | apply kept_vLoad
    | apply kept_VRes_bad
    | apply kept_foldl
    | apply kept_foldl_fst
    | apply kept_getD
    | intro _
    | split
    | exact kept_pair _ (by assumption)
    | (unfold Kept; dsimp only; first | refine kept_parts ?_ | refine kept_parts_out ?_ | refine kept_parts_put ?_ | refine kept_parts_regs ?_ | refine kept_parts_filter ?_)
    | contradiction

theorem kept_vScatAdd {st0 : State} {s : State} {y1 : VEng} {w : Nat} (hk : Kept st0 s) : Kept st0 (vScatAdd s y1 w).s := by
  unfold vScatAdd
  with_reducible repeat' first
    | assumption
    | (dsimp only)
    | refine kept_fst ?_ (by assumption)
    | apply kept_VRes_bad
    | apply kept_scatAdd
    | apply kept_stageDone
    | apply kept_foldl
    | apply kept_foldl_fst
    | apply kept_getD
    | intro _
    | split
    | exact kept_pair _ (by assumption)
    | (unfold Kept; dsimp only; first | refine kept_parts ?_ | refine kept_parts_out ?_ | refine kept_parts_put ?_ | refine kept_parts_regs ?_ | refine kept_parts_filter ?_)
    | contradiction

theorem kept_vStc {st0 : State} {s : State} {y1 : VEng} {w : Nat} (hk : Kept st0 s) : Kept st0 (vStc s y1 w).s := by
  unfold vStc
  with_reducible repeat' first
    | assumption
    | (dsimp only)
    | refine kept_fst ?_ (by assumption)
    | apply kept_VRes_bad
    | apply kept_stageDone
    | apply kept_foldl
    | apply kept_foldl_fst
    | apply kept_getD
    | intro _
    | split
    | exact kept_pair _ (by assumption)
    | (unfold Kept; dsimp only; first | refine kept_parts ?_ | refine kept_parts_out ?_ | refine kept_parts_put ?_ | refine kept_parts_regs ?_ | refine kept_parts_filter ?_)
    | contradiction

theorem kept_vPld {st0 : State} {s : State} {y1 : VEng} {w : Nat} (hk : Kept st0 s) : Kept st0 (vPld s y1 w).s := by
  unfold vPld
  with_reducible repeat' first
    | assumption
    | (dsimp only)
    | refine kept_fst ?_ (by assumption)
    | apply kept_VRes_bad
    | apply kept_vLoads
    | apply kept_VRes_just
    | apply kept_foldl
    | apply kept_foldl_fst
    | apply kept_getD
    | intro _
    | split
    | exact kept_pair _ (by assumption)
    | (unfold Kept; dsimp only; first | refine kept_parts ?_ | refine kept_parts_out ?_ | refine kept_parts_put ?_ | refine kept_parts_regs ?_ | refine kept_parts_filter ?_)
    | contradiction

theorem kept_vPst {st0 : State} {s : State} {y1 : VEng} {w : Nat} (hk : Kept st0 s) : Kept st0 (vPst s y1 w).s := by
  unfold vPst
  with_reducible repeat' first
    | assumption
    | (dsimp only)
    | refine kept_fst ?_ (by assumption)
    | apply kept_VRes_bad
    | apply kept_vLoads
    | apply kept_stageDone
    | apply kept_foldl
    | apply kept_foldl_fst
    | apply kept_getD
    | intro _
    | split
    | exact kept_pair _ (by assumption)
    | (unfold Kept; dsimp only; first | refine kept_parts ?_ | refine kept_parts_out ?_ | refine kept_parts_put ?_ | refine kept_parts_regs ?_ | refine kept_parts_filter ?_)
    | contradiction

end Sys2Proof.Machine
end

