-- ==== Sys2Proof/Laws/KeptMatrix.lean ====
section
/-!
SUPPORT. Sys2Proof/Laws/KeptMatrix.lean: every operation of Sys2Proof/Machine/Matrix.lean leaves the queue, appends to what has left the block, and keeps the canonical forms.
-/
set_option linter.unusedVariables false
set_option linter.unreachableTactic false
set_option linter.unusedTactic false
namespace Sys2Proof.Machine

theorem kept_vectorGo {st0 : State} {l : Nat} {k : Nat} {s : State} {q : QTile} {j : Nat} (hk : Kept st0 s) : Kept st0 (vectorGo l k s q j) := by
  unfold vectorGo
  with_reducible repeat' first
    | assumption
    | (dsimp only)
    | refine kept_fst ?_ (by assumption)
    | apply kept_setVeng
    | apply kept_foldl
    | apply kept_foldl_fst
    | apply kept_getD
    | intro _
    | split
    | exact kept_pair _ (by assumption)
    | (unfold Kept; dsimp only; first | refine kept_parts ?_ | refine kept_parts_out ?_ | refine kept_parts_put ?_ | refine kept_parts_regs ?_ | refine kept_parts_filter ?_)
    | contradiction

theorem kept_writeRuns {st0 : State} {y0 : List (Nat × List Byte)} {y1 : State} (hk : Kept st0 y1) : Kept st0 (writeRuns y0 y1).1 := by
  induction y0 generalizing y1 with
  | nil => unfold writeRuns; with_reducible repeat' first
    | assumption
    | (dsimp only)
    | refine kept_fst ?_ (by assumption)
    | apply kept_writeMem
    | apply kept_foldl
    | apply kept_foldl_fst
    | apply kept_getD
    | intro _
    | split
    | exact kept_pair _ (by assumption)
    | (unfold Kept; dsimp only; first | refine kept_parts ?_ | refine kept_parts_out ?_ | refine kept_parts_put ?_ | refine kept_parts_regs ?_ | refine kept_parts_filter ?_)
    | contradiction
  | cons xx tt ih => unfold writeRuns; with_reducible repeat' first
    | apply ih
    | assumption
    | (dsimp only)
    | refine kept_fst ?_ (by assumption)
    | apply kept_writeMem
    | apply kept_foldl
    | apply kept_foldl_fst
    | apply kept_getD
    | intro _
    | split
    | exact kept_pair _ (by assumption)
    | (unfold Kept; dsimp only; first | refine kept_parts ?_ | refine kept_parts_out ?_ | refine kept_parts_put ?_ | refine kept_parts_regs ?_ | refine kept_parts_filter ?_)
    | contradiction

theorem kept_readGranules {st0 : State} {y0 : List (Nat × Nat × Nat × Nat)} {y1 : State} (hk : Kept st0 y1) : Kept st0 (readGranules y0 y1).1 := by
  induction y0 generalizing y1 with
  | nil => unfold readGranules; with_reducible repeat' first
    | assumption
    | (dsimp only)
    | refine kept_fst ?_ (by assumption)
    | apply kept_readMem
    | apply kept_foldl
    | apply kept_foldl_fst
    | apply kept_getD
    | intro _
    | split
    | exact kept_pair _ (by assumption)
    | (unfold Kept; dsimp only; first | refine kept_parts ?_ | refine kept_parts_out ?_ | refine kept_parts_put ?_ | refine kept_parts_regs ?_ | refine kept_parts_filter ?_)
    | contradiction
  | cons xx tt ih => unfold readGranules; with_reducible repeat' first
    | apply ih
    | assumption
    | (dsimp only)
    | refine kept_fst ?_ (by assumption)
    | apply kept_readMem
    | apply kept_foldl
    | apply kept_foldl_fst
    | apply kept_getD
    | intro _
    | split
    | exact kept_pair _ (by assumption)
    | (unfold Kept; dsimp only; first | refine kept_parts ?_ | refine kept_parts_out ?_ | refine kept_parts_put ?_ | refine kept_parts_regs ?_ | refine kept_parts_filter ?_)
    | contradiction

theorem kept_setMat {st0 : State} {s : State} {l : Nat} {m : MatRun} (hk : Kept st0 s) : Kept st0 (setMat s l m) := by
  unfold setMat
  with_reducible repeat' first
    | assumption
    | (dsimp only)
    | refine kept_fst ?_ (by assumption)
    | apply kept_setCore
    | apply kept_foldl
    | apply kept_foldl_fst
    | apply kept_getD
    | intro _
    | split
    | exact kept_pair _ (by assumption)
    | (unfold Kept; dsimp only; first | refine kept_parts ?_ | refine kept_parts_out ?_ | refine kept_parts_put ?_ | refine kept_parts_regs ?_ | refine kept_parts_filter ?_)
    | contradiction

theorem kept_matEnd {st0 : State} {s : State} {l : Nat} {k : Nat} {seq : Nat} {st : Status} {detail : Nat} (hk : Kept st0 s) : Kept st0 (matEnd s l k seq st detail) := by
  unfold matEnd
  with_reducible repeat' first
    | assumption
    | (dsimp only)
    | refine kept_fst ?_ (by assumption)
    | apply kept_setVeng
    | apply kept_setRun
    | apply kept_dropMat
    | apply kept_foldl
    | apply kept_foldl_fst
    | apply kept_getD
    | intro _
    | split
    | exact kept_pair _ (by assumption)
    | (unfold Kept; dsimp only; first | refine kept_parts ?_ | refine kept_parts_out ?_ | refine kept_parts_put ?_ | refine kept_parts_regs ?_ | refine kept_parts_filter ?_)
    | contradiction

theorem kept_setPred {st0 : State} {s : State} {l : Nat} {k : Nat} {n : Nat} {p : PredSlot} (hk : Kept st0 s) : Kept st0 (setPred s l k n p) := by
  unfold setPred
  with_reducible repeat' first
    | assumption
    | (dsimp only)
    | refine kept_fst ?_ (by assumption)
    | apply kept_setCore
    | apply kept_foldl
    | apply kept_foldl_fst
    | apply kept_getD
    | intro _
    | split
    | exact kept_pair _ (by assumption)
    | (unfold Kept; dsimp only; first | refine kept_parts ?_ | refine kept_parts_out ?_ | refine kept_parts_put ?_ | refine kept_parts_regs ?_ | refine kept_parts_filter ?_)
    | contradiction

theorem kept_learnBlock {st0 : State} {s : State} {l : Nat} {m : MatRun} {d : List Byte} {b : Nat} {accs : List Nat} (hk : Kept st0 s) : Kept st0 (learnBlock s l m d b accs) := by
  unfold learnBlock
  with_reducible repeat' first
    | assumption
    | (dsimp only)
    | refine kept_fst ?_ (by assumption)
    | apply kept_setPred
    | apply kept_foldl
    | apply kept_foldl_fst
    | apply kept_getD
    | intro _
    | split
    | exact kept_pair _ (by assumption)
    | (unfold Kept; dsimp only; first | refine kept_parts ?_ | refine kept_parts_out ?_ | refine kept_parts_put ?_ | refine kept_parts_regs ?_ | refine kept_parts_filter ?_)
    | contradiction

theorem kept_stageBlock {st0 : State} {s : State} {l : Nat} {m : MatRun} {d : List Byte} {b : Nat} {codes : List Nat} (hk : Kept st0 s) : Kept st0 (stageBlock s l m d b codes) := by
  unfold stageBlock
  with_reducible repeat' first
    | assumption
    | (dsimp only)
    | refine kept_fst ?_ (by assumption)
    | apply kept_setMat
    | apply kept_writeMem
    | apply kept_matEnd
    | apply kept_foldl
    | apply kept_foldl_fst
    | apply kept_getD
    | intro _
    | split
    | exact kept_pair _ (by assumption)
    | (unfold Kept; dsimp only; first | refine kept_parts ?_ | refine kept_parts_out ?_ | refine kept_parts_put ?_ | refine kept_parts_regs ?_ | refine kept_parts_filter ?_)
    | contradiction

theorem kept_convertBlock {st0 : State} {s : State} {l : Nat} {j : Nat} {m : MatRun} {d : List Byte} {b : Nat} {accs : List Nat} (hk : Kept st0 s) : Kept st0 (convertBlock s l j m d b accs) := by
  unfold convertBlock
  with_reducible repeat' first
    | assumption
    | (dsimp only)
    | refine kept_fst ?_ (by assumption)
    | apply kept_countSat
    | apply kept_inc
    | apply kept_stageBlock
    | apply kept_foldl
    | apply kept_foldl_fst
    | apply kept_getD
    | intro _
    | split
    | exact kept_pair _ (by assumption)
    | (unfold Kept; dsimp only; first | refine kept_parts ?_ | refine kept_parts_out ?_ | refine kept_parts_put ?_ | refine kept_parts_regs ?_ | refine kept_parts_filter ?_)
    | contradiction

theorem kept_epiStart {st0 : State} {s : State} {l : Nat} {j : Nat} {m : MatRun} {d : List Byte} {b : Nat} {accs : List Nat} (hk : Kept st0 s) : Kept st0 (epiStart s l j m d b accs) := by
  unfold epiStart
  with_reducible repeat' first
    | assumption
    | (dsimp only)
    | refine kept_fst ?_ (by assumption)
    | apply kept_setVeng
    | apply kept_foldl
    | apply kept_foldl_fst
    | apply kept_getD
    | intro _
    | split
    | exact kept_pair _ (by assumption)
    | (unfold Kept; dsimp only; first | refine kept_parts ?_ | refine kept_parts_out ?_ | refine kept_parts_put ?_ | refine kept_parts_regs ?_ | refine kept_parts_filter ?_)
    | contradiction

theorem kept_vEnd {st0 : State} {s : State} {l : Nat} (hk : Kept st0 s) : Kept st0 (vEnd s l) := by
  unfold vEnd
  with_reducible repeat' first
    | assumption
    | (dsimp only)
    | refine kept_fst ?_ (by assumption)
    | apply kept_writeRuns
    | apply kept_setVeng
    | apply kept_setRun
    | apply kept_convertBlock
    | apply kept_foldl
    | apply kept_foldl_fst
    | apply kept_getD
    | intro _
    | split
    | exact kept_pair _ (by assumption)
    | (unfold Kept; dsimp only; first | refine kept_parts ?_ | refine kept_parts_out ?_ | refine kept_parts_put ?_ | refine kept_parts_regs ?_ | refine kept_parts_filter ?_)
    | contradiction

theorem kept_sparseCheck {st0 : State} {s : State} {l : Nat} {j : Nat} {d : List Byte} (hk : Kept st0 s) : Kept st0 (sparseCheck s l j d).1 := by
  unfold sparseCheck
  with_reducible repeat' first
    | assumption
    | (dsimp only)
    | refine kept_fst ?_ (by assumption)
    | apply kept_readGranules
    | apply kept_inc
    | apply kept_foldl
    | apply kept_foldl_fst
    | apply kept_getD
    | intro _
    | split
    | exact kept_pair _ (by assumption)
    | (unfold Kept; dsimp only; first | refine kept_parts ?_ | refine kept_parts_out ?_ | refine kept_parts_put ?_ | refine kept_parts_regs ?_ | refine kept_parts_filter ?_)
    | contradiction

theorem kept_matmulGo {st0 : State} {l : Nat} {k : Nat} {s : State} {q : QTile} {j : Nat} (hk : Kept st0 s) : Kept st0 (matmulGo l k s q j) := by
  unfold matmulGo
  with_reducible repeat' first
    | assumption
    | (dsimp only)
    | refine kept_fst ?_ (by assumption)
    | apply kept_setPred
    | apply kept_setCore
    | apply kept_sparseCheck
    | apply kept_setRun
    | apply kept_inc
    | apply kept_setFlight
    | apply kept_foldl
    | apply kept_foldl_fst
    | apply kept_getD
    | intro _
    | split
    | exact kept_pair _ (by assumption)
    | (unfold Kept; dsimp only; first | refine kept_parts ?_ | refine kept_parts_out ?_ | refine kept_parts_put ?_ | refine kept_parts_regs ?_ | refine kept_parts_filter ?_)
    | contradiction

theorem kept_sparseFallback {st0 : State} {s : State} {l : Nat} {k : Nat} {seq : Nat} (hk : Kept st0 s) : Kept st0 (sparseFallback s l k seq) := by
  unfold sparseFallback
  with_reducible repeat' first
    | assumption
    | (dsimp only)
    | refine kept_fst ?_ (by assumption)
    | apply kept_setFlight
    | apply kept_setMat
    | apply kept_foldl
    | apply kept_foldl_fst
    | apply kept_getD
    | intro _
    | split
    | exact kept_pair _ (by assumption)
    | (unfold Kept; dsimp only; first | refine kept_parts ?_ | refine kept_parts_out ?_ | refine kept_parts_put ?_ | refine kept_parts_regs ?_ | refine kept_parts_filter ?_)
    | contradiction

theorem kept_skipBlock {st0 : State} {s : State} {l : Nat} {m : MatRun} {d : List Byte} {b : Nat} (hk : Kept st0 s) : Kept st0 (skipBlock s l m d b) := by
  unfold skipBlock
  with_reducible repeat' first
    | assumption
    | (dsimp only)
    | refine kept_fst ?_ (by assumption)
    | apply kept_stageBlock
    | apply kept_inc
    | apply kept_foldl
    | apply kept_foldl_fst
    | apply kept_getD
    | intro _
    | split
    | exact kept_pair _ (by assumption)
    | (unfold Kept; dsimp only; first | refine kept_parts ?_ | refine kept_parts_out ?_ | refine kept_parts_put ?_ | refine kept_parts_regs ?_ | refine kept_parts_filter ?_)
    | contradiction

theorem kept_readBlock {st0 : State} {s : State} {l : Nat} {m : MatRun} {d : List Byte} {b : Nat} (hk : Kept st0 s) : Kept st0 (readBlock s l m d b).1 := by
  unfold readBlock
  with_reducible repeat' first
    | assumption
    | (dsimp only)
    | refine kept_fst ?_ (by assumption)
    | apply kept_readGranules
    | apply kept_countSat
    | apply kept_foldl
    | apply kept_foldl_fst
    | apply kept_getD
    | intro _
    | split
    | exact kept_pair _ (by assumption)
    | (unfold Kept; dsimp only; first | refine kept_parts ?_ | refine kept_parts_out ?_ | refine kept_parts_put ?_ | refine kept_parts_regs ?_ | refine kept_parts_filter ?_)
    | contradiction

theorem kept_computeBlock {st0 : State} {s : State} {l : Nat} {j : Nat} {m : MatRun} {d : List Byte} {b : Nat} (hk : Kept st0 s) : Kept st0 (computeBlock s l j m d b) := by
  unfold computeBlock
  with_reducible repeat' first
    | assumption
    | (dsimp only)
    | refine kept_fst ?_ (by assumption)
    | apply kept_readBlock
    | apply kept_matEnd
    | apply kept_countSat
    | apply kept_learnBlock
    | apply kept_setMat
    | apply kept_epiStart
    | apply kept_convertBlock
    | apply kept_foldl
    | apply kept_foldl_fst
    | apply kept_getD
    | intro _
    | split
    | exact kept_pair _ (by assumption)
    | (unfold Kept; dsimp only; first | refine kept_parts ?_ | refine kept_parts_out ?_ | refine kept_parts_put ?_ | refine kept_parts_regs ?_ | refine kept_parts_filter ?_)
    | contradiction

theorem kept_matmulBlock {st0 : State} {l : Nat} {k : Nat} {seq : Nat} {y3 : Nat} {y4 : State} (hk : Kept st0 y4) : Kept st0 (matmulBlock l k seq y3 y4) := by
  induction y3 generalizing y4 with
  | zero => unfold matmulBlock; with_reducible repeat' first
    | assumption
    | (dsimp only)
    | refine kept_fst ?_ (by assumption)
    | apply kept_computeBlock
    | apply kept_skipBlock
    | apply kept_inc
    | apply kept_readBlock
    | apply kept_matEnd
    | apply kept_setMat
    | apply kept_foldl
    | apply kept_foldl_fst
    | apply kept_getD
    | intro _
    | split
    | exact kept_pair _ (by assumption)
    | (unfold Kept; dsimp only; first | refine kept_parts ?_ | refine kept_parts_out ?_ | refine kept_parts_put ?_ | refine kept_parts_regs ?_ | refine kept_parts_filter ?_)
    | contradiction
  | succ m ih => unfold matmulBlock; with_reducible repeat' first
    | apply ih
    | assumption
    | (dsimp only)
    | refine kept_fst ?_ (by assumption)
    | apply kept_computeBlock
    | apply kept_skipBlock
    | apply kept_inc
    | apply kept_readBlock
    | apply kept_matEnd
    | apply kept_setMat
    | apply kept_foldl
    | apply kept_foldl_fst
    | apply kept_getD
    | intro _
    | split
    | exact kept_pair _ (by assumption)
    | (unfold Kept; dsimp only; first | refine kept_parts ?_ | refine kept_parts_out ?_ | refine kept_parts_put ?_ | refine kept_parts_regs ?_ | refine kept_parts_filter ?_)
    | contradiction

theorem kept_shadowDone {st0 : State} {s : State} {l : Nat} {k : Nat} {seq : Nat} (hk : Kept st0 s) : Kept st0 (shadowDone s l k seq) := by
  unfold shadowDone
  with_reducible repeat' first
    | assumption
    | (dsimp only)
    | refine kept_fst ?_ (by assumption)
    | apply kept_skipBlock
    | apply kept_setMat
    | apply kept_inc
    | apply kept_foldl
    | apply kept_foldl_fst
    | apply kept_getD
    | intro _
    | split
    | exact kept_pair _ (by assumption)
    | (unfold Kept; dsimp only; first | refine kept_parts ?_ | refine kept_parts_out ?_ | refine kept_parts_put ?_ | refine kept_parts_regs ?_ | refine kept_parts_filter ?_)
    | contradiction

theorem kept_execVector {st0 : State} {core : Nat} {ctx : Nat} {s : State} (hk : Kept st0 s) {t : State} (e : execVector core ctx s = .next t) : Kept st0 t := by
  unfold execVector at e
  injection e with e
  subst e
  with_reducible repeat' first
    | assumption
    | (dsimp only)
    | refine kept_fst ?_ (by assumption)
    | apply kept_startTile
    | apply kept_vectorGo
    | apply kept_foldl
    | apply kept_foldl_fst
    | apply kept_getD
    | intro _
    | split
    | exact kept_pair _ (by assumption)
    | (unfold Kept; dsimp only; first | refine kept_parts ?_ | refine kept_parts_out ?_ | refine kept_parts_put ?_ | refine kept_parts_regs ?_ | refine kept_parts_filter ?_)
    | contradiction

theorem kept_execMatmul {st0 : State} {core : Nat} {ctx : Nat} {s : State} (hk : Kept st0 s) {t : State} (e : execMatmul core ctx s = .next t) : Kept st0 t := by
  unfold execMatmul at e
  injection e with e
  subst e
  with_reducible repeat' first
    | assumption
    | (dsimp only)
    | refine kept_fst ?_ (by assumption)
    | apply kept_startTile
    | apply kept_matmulGo
    | apply kept_foldl
    | apply kept_foldl_fst
    | apply kept_getD
    | intro _
    | split
    | exact kept_pair _ (by assumption)
    | (unfold Kept; dsimp only; first | refine kept_parts ?_ | refine kept_parts_out ?_ | refine kept_parts_put ?_ | refine kept_parts_regs ?_ | refine kept_parts_filter ?_)
    | contradiction

theorem kept_execMatmulBlock {st0 : State} {core : Nat} {ctx : Nat} {seq : Nat} {s : State} (hk : Kept st0 s) {t : State} (e : execMatmulBlock core ctx seq s = .next t) : Kept st0 t := by
  unfold execMatmulBlock at e
  injection e with e
  subst e
  with_reducible repeat' first
    | assumption
    | (dsimp only)
    | refine kept_fst ?_ (by assumption)
    | apply kept_matmulBlock
    | apply kept_foldl
    | apply kept_foldl_fst
    | apply kept_getD
    | intro _
    | split
    | exact kept_pair _ (by assumption)
    | (unfold Kept; dsimp only; first | refine kept_parts ?_ | refine kept_parts_out ?_ | refine kept_parts_put ?_ | refine kept_parts_regs ?_ | refine kept_parts_filter ?_)
    | contradiction

theorem kept_execShadowDone {st0 : State} {core : Nat} {ctx : Nat} {seq : Nat} {s : State} (hk : Kept st0 s) {t : State} (e : execShadowDone core ctx seq s = .next t) : Kept st0 t := by
  unfold execShadowDone at e
  injection e with e
  subst e
  with_reducible repeat' first
    | assumption
    | (dsimp only)
    | refine kept_fst ?_ (by assumption)
    | apply kept_shadowDone
    | apply kept_foldl
    | apply kept_foldl_fst
    | apply kept_getD
    | intro _
    | split
    | exact kept_pair _ (by assumption)
    | (unfold Kept; dsimp only; first | refine kept_parts ?_ | refine kept_parts_out ?_ | refine kept_parts_put ?_ | refine kept_parts_regs ?_ | refine kept_parts_filter ?_)
    | contradiction

theorem kept_execSparseFallback {st0 : State} {core : Nat} {ctx : Nat} {seq : Nat} {s : State} (hk : Kept st0 s) {t : State} (e : execSparseFallback core ctx seq s = .next t) : Kept st0 t := by
  unfold execSparseFallback at e
  injection e with e
  subst e
  with_reducible repeat' first
    | assumption
    | (dsimp only)
    | refine kept_fst ?_ (by assumption)
    | apply kept_sparseFallback
    | apply kept_foldl
    | apply kept_foldl_fst
    | apply kept_getD
    | intro _
    | split
    | exact kept_pair _ (by assumption)
    | (unfold Kept; dsimp only; first | refine kept_parts ?_ | refine kept_parts_out ?_ | refine kept_parts_put ?_ | refine kept_parts_regs ?_ | refine kept_parts_filter ?_)
    | contradiction

theorem kept_execPredClear {st0 : State} {core : Nat} {s : State} (hk : Kept st0 s) {t : State} (e : execPredClear core s = .next t) : Kept st0 t := by
  unfold execPredClear at e
  injection e with e
  subst e
  with_reducible repeat' first
    | assumption
    | (dsimp only)
    | refine kept_fst ?_ (by assumption)
    | apply kept_setCore
    | apply kept_foldl
    | apply kept_foldl_fst
    | apply kept_getD
    | intro _
    | split
    | exact kept_pair _ (by assumption)
    | (unfold Kept; dsimp only; first | refine kept_parts ?_ | refine kept_parts_out ?_ | refine kept_parts_put ?_ | refine kept_parts_regs ?_ | refine kept_parts_filter ?_)
    | contradiction

end Sys2Proof.Machine
end

