-- ==== Sys2Proof/Laws/KeptReduce.lean ====
section
/-!
SUPPORT. Sys2Proof/Laws/KeptReduce.lean: every operation of Sys2Proof/Machine/Reduce.lean leaves the queue, appends to what has left the block, and keeps the canonical forms.
-/
set_option linter.unusedVariables false
set_option linter.unreachableTactic false
set_option linter.unusedTactic false
namespace Sys2Proof.Machine

theorem kept_countRed {st0 : State} {s : State} {y1 : RedOut} (hk : Kept st0 s) : Kept st0 (countRed s y1) := by
  unfold countRed
  with_reducible repeat' first
    | assumption
    | (dsimp only)
    | refine kept_fst ?_ (by assumption)
    | apply kept_inc
    | apply kept_foldl
    | apply kept_foldl_fst
    | apply kept_getD
    | intro _
    | split
    | exact kept_pair _ (by assumption)
    | (unfold Kept; dsimp only; first | refine kept_parts ?_ | refine kept_parts_out ?_ | refine kept_parts_put ?_ | refine kept_parts_regs ?_ | refine kept_parts_filter ?_)
    | contradiction

theorem kept_setSeg {st0 : State} {s : State} {x : RedSeg} (hk : Kept st0 s) : Kept st0 (setSeg s x) := by
  unfold setSeg
  with_reducible repeat' first
    | assumption
    | (dsimp only)
    | refine kept_fst ?_ (by assumption)
    | apply kept_foldl
    | apply kept_foldl_fst
    | apply kept_getD
    | intro _
    | split
    | exact kept_pair _ (by assumption)
    | (unfold Kept; dsimp only; first | refine kept_parts ?_ | refine kept_parts_out ?_ | refine kept_parts_put ?_ | refine kept_parts_regs ?_ | refine kept_parts_filter ?_)
    | contradiction

theorem kept_recordStep {st0 : State} {s : State} {x : RedStep} {d : List Byte} {unit : Option RecUnit} (hk : Kept st0 s) : Kept st0 (recordStep s x d unit) := by
  unfold recordStep
  with_reducible repeat' first
    | assumption
    | (dsimp only)
    | refine kept_fst ?_ (by assumption)
    | apply kept_writeMem
    | apply kept_postJobRec
    | apply kept_postFailRec
    | apply kept_foldl
    | apply kept_foldl_fst
    | apply kept_getD
    | intro _
    | split
    | exact kept_pair _ (by assumption)
    | (unfold Kept; dsimp only; first | refine kept_parts ?_ | refine kept_parts_out ?_ | refine kept_parts_put ?_ | refine kept_parts_regs ?_ | refine kept_parts_filter ?_)
    | contradiction

theorem kept_countSeg {st0 : State} {s : State} {k : SegKey} {d : List Byte} {st : Status} {bytes : Nat} {chunks : Nat} {unit : Option RecUnit} (hk : Kept st0 s) : Kept st0 (countSeg s k d st bytes chunks unit) := by
  unfold countSeg
  with_reducible repeat' first
    | assumption
    | (dsimp only)
    | refine kept_fst ?_ (by assumption)
    | apply kept_recordStep
    | apply kept_foldl
    | apply kept_foldl_fst
    | apply kept_getD
    | intro _
    | split
    | exact kept_pair _ (by assumption)
    | (unfold Kept; dsimp only; first | refine kept_parts ?_ | refine kept_parts_out ?_ | refine kept_parts_put ?_ | refine kept_parts_regs ?_ | refine kept_parts_filter ?_)
    | contradiction

theorem kept_completeSeg {st0 : State} {s : State} {k : SegKey} {st : Status} (hk : Kept st0 s) : Kept st0 (completeSeg s k st) := by
  unfold completeSeg
  with_reducible repeat' first
    | assumption
    | (dsimp only)
    | refine kept_fst ?_ (by assumption)
    | apply kept_setSeg
    | apply kept_inc
    | apply kept_giveSig
    | apply kept_postJobRec
    | apply kept_countSeg
    | apply kept_foldl
    | apply kept_foldl_fst
    | apply kept_getD
    | intro _
    | split
    | exact kept_pair _ (by assumption)
    | (unfold Kept; dsimp only; first | refine kept_parts ?_ | refine kept_parts_out ?_ | refine kept_parts_put ?_ | refine kept_parts_regs ?_ | refine kept_parts_filter ?_)
    | contradiction

theorem kept_sendFail {st0 : State} {s : State} {k : SegKey} {st : Status} {from' : Option Nat} {arg : Nat} (hk : Kept st0 s) : Kept st0 (sendFail s k st from' arg) := by
  unfold sendFail
  with_reducible repeat' first
    | assumption
    | (dsimp only)
    | refine kept_fst ?_ (by assumption)
    | apply kept_sendCtrl
    | apply kept_foldl
    | apply kept_foldl_fst
    | apply kept_getD
    | intro _
    | split
    | exact kept_pair _ (by assumption)
    | (unfold Kept; dsimp only; first | refine kept_parts ?_ | refine kept_parts_out ?_ | refine kept_parts_put ?_ | refine kept_parts_regs ?_ | refine kept_parts_filter ?_)
    | contradiction

theorem kept_failSeg {st0 : State} {s : State} {k : SegKey} {st : Status} {from' : Option Nat} {arg : Option Nat} (hk : Kept st0 s) : Kept st0 (failSeg s k st from' arg) := by
  unfold failSeg
  with_reducible repeat' first
    | assumption
    | (dsimp only)
    | refine kept_fst ?_ (by assumption)
    | apply kept_sendFail
    | apply kept_completeSeg
    | apply kept_setSeg
    | apply kept_foldl
    | apply kept_foldl_fst
    | apply kept_getD
    | intro _
    | split
    | exact kept_pair _ (by assumption)
    | (unfold Kept; dsimp only; first | refine kept_parts ?_ | refine kept_parts_out ?_ | refine kept_parts_put ?_ | refine kept_parts_regs ?_ | refine kept_parts_filter ?_)
    | contradiction

theorem kept_landChunk {st0 : State} {s : State} {k : SegKey} {core : Nat} {d : List Byte} {chunk : Nat} {data : List Byte} (hk : Kept st0 s) : Kept st0 (landChunk s k core d chunk data) := by
  unfold landChunk
  with_reducible repeat' first
    | assumption
    | (dsimp only)
    | refine kept_fst ?_ (by assumption)
    | apply kept_failSeg
    | apply kept_writeMem
    | apply kept_setSeg
    | apply kept_completeSeg
    | apply kept_foldl
    | apply kept_foldl_fst
    | apply kept_getD
    | intro _
    | split
    | exact kept_pair _ (by assumption)
    | (unfold Kept; dsimp only; first | refine kept_parts ?_ | refine kept_parts_out ?_ | refine kept_parts_put ?_ | refine kept_parts_regs ?_ | refine kept_parts_filter ?_)
    | contradiction

theorem kept_takeResult {st0 : State} {s : State} {k : SegKey} {chunk : Nat} {data : List Byte} {last : Bool} (hk : Kept st0 s) : Kept st0 (takeResult s k chunk data last) := by
  unfold takeResult
  with_reducible repeat' first
    | assumption
    | (dsimp only)
    | refine kept_fst ?_ (by assumption)
    | apply kept_landChunk
    | apply kept_setSeg
    | apply kept_foldl
    | apply kept_foldl_fst
    | apply kept_getD
    | intro _
    | split
    | exact kept_pair _ (by assumption)
    | (unfold Kept; dsimp only; first | refine kept_parts ?_ | refine kept_parts_out ?_ | refine kept_parts_put ?_ | refine kept_parts_regs ?_ | refine kept_parts_filter ?_)
    | contradiction

theorem kept_sendRed {st0 : State} {s : State} {k : SegKey} {dev : Nat} {chunk : Nat} {aux : Nat} {data : List Byte} (hk : Kept st0 s) : Kept st0 (sendRed s k dev chunk aux data) := by
  unfold sendRed
  with_reducible repeat' first
    | assumption
    | (dsimp only)
    | refine kept_fst ?_ (by assumption)
    | apply kept_sendStream
    | apply kept_foldl
    | apply kept_foldl_fst
    | apply kept_getD
    | intro _
    | split
    | exact kept_pair _ (by assumption)
    | (unfold Kept; dsimp only; first | refine kept_parts ?_ | refine kept_parts_out ?_ | refine kept_parts_put ?_ | refine kept_parts_regs ?_ | refine kept_parts_filter ?_)
    | contradiction

theorem kept_sendDown {st0 : State} {s : State} {k : SegKey} {y2 : Tree} {q : Nat} {chunk : Nat} {kind : Nat} {last : Bool} {data : List Byte} (hk : Kept st0 s) : Kept st0 (sendDown s k y2 q chunk kind last data) := by
  unfold sendDown
  with_reducible repeat' first
    | assumption
    | (dsimp only)
    | refine kept_fst ?_ (by assumption)
    | apply kept_sendRed
    | apply kept_foldl
    | apply kept_foldl_fst
    | apply kept_getD
    | intro _
    | split
    | exact kept_pair _ (by assumption)
    | (unfold Kept; dsimp only; first | refine kept_parts ?_ | refine kept_parts_out ?_ | refine kept_parts_put ?_ | refine kept_parts_regs ?_ | refine kept_parts_filter ?_)
    | contradiction

theorem kept_nodeDone {st0 : State} {s : State} {y1 : Tree} {c : RedChunk} {kind : Nat} {last : Bool} {data : List Byte} (hk : Kept st0 s) : Kept st0 (nodeDone s y1 c kind last data) := by
  unfold nodeDone
  with_reducible repeat' first
    | assumption
    | (dsimp only)
    | refine kept_fst ?_ (by assumption)
    | apply kept_setSeg
    | apply kept_sendRed
    | apply kept_sendDown
    | apply kept_takeResult
    | apply kept_completeSeg
    | apply kept_foldl
    | apply kept_foldl_fst
    | apply kept_getD
    | intro _
    | split
    | exact kept_pair _ (by assumption)
    | (unfold Kept; dsimp only; first | refine kept_parts ?_ | refine kept_parts_out ?_ | refine kept_parts_put ?_ | refine kept_parts_regs ?_ | refine kept_parts_filter ?_)
    | contradiction

theorem kept_setChunk {st0 : State} {s : State} {c : RedChunk} (hk : Kept st0 s) : Kept st0 (setChunk s c) := by
  unfold setChunk
  with_reducible repeat' first
    | assumption
    | (dsimp only)
    | refine kept_fst ?_ (by assumption)
    | apply kept_foldl
    | apply kept_foldl_fst
    | apply kept_getD
    | intro _
    | split
    | exact kept_pair _ (by assumption)
    | (unfold Kept; dsimp only; first | refine kept_parts ?_ | refine kept_parts_out ?_ | refine kept_parts_put ?_ | refine kept_parts_regs ?_ | refine kept_parts_filter ?_)
    | contradiction

theorem kept_nodeFail {st0 : State} {s : State} {c : RedChunk} {st : Status} (hk : Kept st0 s) : Kept st0 (nodeFail s c st) := by
  unfold nodeFail
  with_reducible repeat' first
    | assumption
    | (dsimp only)
    | refine kept_fst ?_ (by assumption)
    | apply kept_failSeg
    | apply kept_foldl
    | apply kept_foldl_fst
    | apply kept_getD
    | intro _
    | split
    | exact kept_pair _ (by assumption)
    | (unfold Kept; dsimp only; first | refine kept_parts ?_ | refine kept_parts_out ?_ | refine kept_parts_put ?_ | refine kept_parts_regs ?_ | refine kept_parts_filter ?_)
    | contradiction

theorem kept_advanceNode {st0 : State} {y0 : Tree} {y1 : Nat} {y2 : RedChunk} {y3 : State} (hk : Kept st0 y3) : Kept st0 (advanceNode y0 y1 y2 y3) := by
  induction y1 generalizing y0 y2 y3 with
  | zero => unfold advanceNode; with_reducible repeat' first
    | assumption
    | (dsimp only)
    | refine kept_fst ?_ (by assumption)
    | apply kept_nodeDone
    | apply kept_setChunk
    | apply kept_inc
    | apply kept_reportSuspect
    | apply kept_nodeFail
    | apply kept_countRed
    | apply kept_foldl
    | apply kept_foldl_fst
    | apply kept_getD
    | intro _
    | split
    | exact kept_pair _ (by assumption)
    | (unfold Kept; dsimp only; first | refine kept_parts ?_ | refine kept_parts_out ?_ | refine kept_parts_put ?_ | refine kept_parts_regs ?_ | refine kept_parts_filter ?_)
    | contradiction
  | succ m ih => unfold advanceNode; with_reducible repeat' first
    | apply ih
    | assumption
    | (dsimp only)
    | refine kept_fst ?_ (by assumption)
    | apply kept_nodeDone
    | apply kept_setChunk
    | apply kept_inc
    | apply kept_reportSuspect
    | apply kept_nodeFail
    | apply kept_countRed
    | apply kept_foldl
    | apply kept_foldl_fst
    | apply kept_getD
    | intro _
    | split
    | exact kept_pair _ (by assumption)
    | (unfold Kept; dsimp only; first | refine kept_parts ?_ | refine kept_parts_out ?_ | refine kept_parts_put ?_ | refine kept_parts_regs ?_ | refine kept_parts_filter ?_)
    | contradiction

theorem kept_chunkAt {st0 : State} {s : State} {y1 : Tree} {k : SegKey} {chunk : Nat} {node : Nat} {copy : Bool} (hk : Kept st0 s) : Kept st0 (chunkAt s y1 k chunk node copy).1 := by
  unfold chunkAt
  with_reducible repeat' first
    | assumption
    | (dsimp only)
    | refine kept_fst ?_ (by assumption)
    | apply kept_foldl
    | apply kept_foldl_fst
    | apply kept_getD
    | intro _
    | split
    | exact kept_pair _ (by assumption)
    | (unfold Kept; dsimp only; first | refine kept_parts ?_ | refine kept_parts_out ?_ | refine kept_parts_put ?_ | refine kept_parts_regs ?_ | refine kept_parts_filter ?_)
    | contradiction

theorem kept_offerLeaf {st0 : State} {s : State} {y1 : Tree} {k : SegKey} {chunk : Nat} {kind : Nat} {last : Bool} {data : List Byte} (hk : Kept st0 s) : Kept st0 (offerLeaf s y1 k chunk kind last data) := by
  unfold offerLeaf
  with_reducible repeat' first
    | assumption
    | (dsimp only)
    | refine kept_fst ?_ (by assumption)
    | apply kept_chunkAt
    | apply kept_advanceNode
    | apply kept_foldl
    | apply kept_foldl_fst
    | apply kept_getD
    | intro _
    | split
    | exact kept_pair _ (by assumption)
    | (unfold Kept; dsimp only; first | refine kept_parts ?_ | refine kept_parts_out ?_ | refine kept_parts_put ?_ | refine kept_parts_regs ?_ | refine kept_parts_filter ?_)
    | contradiction

theorem kept_takePart {st0 : State} {s : State} {y1 : Tree} {k : SegKey} {chunk : Nat} {p : RedPart} {node : Nat} {copy : Bool} (hk : Kept st0 s) : Kept st0 (takePart s y1 k chunk p node copy) := by
  unfold takePart
  with_reducible repeat' first
    | assumption
    | (dsimp only)
    | refine kept_fst ?_ (by assumption)
    | apply kept_inc
    | apply kept_chunkAt
    | apply kept_advanceNode
    | apply kept_foldl
    | apply kept_foldl_fst
    | apply kept_getD
    | intro _
    | split
    | exact kept_pair _ (by assumption)
    | (unfold Kept; dsimp only; first | refine kept_parts ?_ | refine kept_parts_out ?_ | refine kept_parts_put ?_ | refine kept_parts_regs ?_ | refine kept_parts_filter ?_)
    | contradiction

theorem kept_failPost {st0 : State} {s : State} {j : Nat} {d : List Byte} {st : Status} (hk : Kept st0 s) : Kept st0 (failPost s j d st) := by
  unfold failPost
  with_reducible repeat' first
    | assumption
    | (dsimp only)
    | refine kept_fst ?_ (by assumption)
    | apply kept_postFailRec
    | apply kept_inc
    | apply kept_foldl
    | apply kept_foldl_fst
    | apply kept_getD
    | intro _
    | split
    | exact kept_pair _ (by assumption)
    | (unfold Kept; dsimp only; first | refine kept_parts ?_ | refine kept_parts_out ?_ | refine kept_parts_put ?_ | refine kept_parts_regs ?_ | refine kept_parts_filter ?_)
    | contradiction

theorem kept_failPosted {st0 : State} {s : State} {l : Nat} {j : Nat} {d : List Byte} {st : Status} (hk : Kept st0 s) : Kept st0 (failPosted s l j d st) := by
  unfold failPosted
  with_reducible repeat' first
    | assumption
    | (dsimp only)
    | refine kept_fst ?_ (by assumption)
    | apply kept_failPost
    | apply kept_countSeg
    | apply kept_setSeg
    | apply kept_foldl
    | apply kept_foldl_fst
    | apply kept_getD
    | intro _
    | split
    | exact kept_pair _ (by assumption)
    | (unfold Kept; dsimp only; first | refine kept_parts ?_ | refine kept_parts_out ?_ | refine kept_parts_put ?_ | refine kept_parts_regs ?_ | refine kept_parts_filter ?_)
    | contradiction

theorem kept_acceptPost {st0 : State} {s : State} {l : Nat} {j : Nat} {d : List Byte} (hk : Kept st0 s) : Kept st0 (acceptPost s l j d) := by
  unfold acceptPost
  with_reducible repeat' first
    | assumption
    | (dsimp only)
    | refine kept_fst ?_ (by assumption)
    | apply kept_completeSeg
    | apply kept_setSeg
    | apply kept_failSeg
    | apply kept_landChunk
    | apply kept_foldl
    | apply kept_foldl_fst
    | apply kept_getD
    | intro _
    | split
    | exact kept_pair _ (by assumption)
    | (unfold Kept; dsimp only; first | refine kept_parts ?_ | refine kept_parts_out ?_ | refine kept_parts_put ?_ | refine kept_parts_regs ?_ | refine kept_parts_filter ?_)
    | contradiction

theorem kept_redPost {st0 : State} {s : State} {l : Nat} (hk : Kept st0 s) : Kept st0 (redPost s l) := by
  unfold redPost
  with_reducible repeat' first
    | assumption
    | (dsimp only)
    | refine kept_fst ?_ (by assumption)
    | apply kept_inc
    | apply kept_failPosted
    | apply kept_acceptPost
    | apply kept_foldl
    | apply kept_foldl_fst
    | apply kept_getD
    | intro _
    | split
    | exact kept_pair _ (by assumption)
    | (unfold Kept; dsimp only; first | refine kept_parts ?_ | refine kept_parts_out ?_ | refine kept_parts_put ?_ | refine kept_parts_regs ?_ | refine kept_parts_filter ?_)
    | contradiction

theorem kept_leafRead {st0 : State} {s : State} {c : Nat} (hk : Kept st0 s) : Kept st0 (leafRead s c) := by
  unfold leafRead
  with_reducible repeat' first
    | assumption
    | (dsimp only)
    | refine kept_fst ?_ (by assumption)
    | apply kept_readMem
    | apply kept_failSeg
    | apply kept_countRed
    | apply kept_takeResult
    | apply kept_offerLeaf
    | apply kept_foldl
    | apply kept_foldl_fst
    | apply kept_getD
    | intro _
    | split
    | exact kept_pair _ (by assumption)
    | (unfold Kept; dsimp only; first | refine kept_parts ?_ | refine kept_parts_out ?_ | refine kept_parts_put ?_ | refine kept_parts_regs ?_ | refine kept_parts_filter ?_)
    | contradiction

theorem kept_takeStream {st0 : State} {s : State} {p : Pkt} {k : Option SegKey} {fenced : Bool} (hk : Kept st0 s) : Kept st0 (takeStream s p k fenced).1 := by
  rw [takeStream]
  simp only []
  split
  · split
    · exact kept_sendCtrl (kept_inc hk)
    · exact kept_inc hk
  · split
    · exact kept_inc hk
    · split
      · exact kept_inc hk
      · generalize streamId p.src p.job p.epoch = sc
        have h := kept_rxSeq (c := sc) (p := p) hk
        split
        · exact kept_fst h ‹_›
        · have h1 := kept_fst h ‹_›
          split
          · exact h1
          · split
            · exact h1
            · exact kept_inc h1
            · split
              · split
                · exact kept_inc h1
                · exact kept_sendCtrl (kept_inc h1)
              · exact kept_inc h1

theorem kept_redIn {st0 : State} {s : State} {p : Pkt} (hk : Kept st0 s) : Kept st0 (redIn s p) := by
  unfold redIn
  with_reducible repeat' first
    | assumption
    | (dsimp only)
    | refine kept_fst ?_ (by assumption)
    | apply kept_failSeg
    | apply kept_takeResult
    | apply kept_sendDown
    | apply kept_takePart
    | apply kept_foldl
    | apply kept_foldl_fst
    | apply kept_getD
    | intro _
    | split
    | exact kept_pair _ (by assumption)
    | (unfold Kept; dsimp only; first | refine kept_parts ?_ | refine kept_parts_out ?_ | refine kept_parts_put ?_ | refine kept_parts_regs ?_ | refine kept_parts_filter ?_)
    | contradiction

theorem kept_loseStream {st0 : State} {s : State} {c : Nat} (hk : Kept st0 s) : Kept st0 (loseStream s c) := by
  unfold loseStream
  with_reducible repeat' first
    | assumption
    | (dsimp only)
    | refine kept_fst ?_ (by assumption)
    | apply kept_inc
    | apply kept_setFlow
    | apply kept_reportSuspect
    | apply kept_failSeg
    | apply kept_foldl
    | apply kept_foldl_fst
    | apply kept_getD
    | intro _
    | split
    | exact kept_pair _ (by assumption)
    | (unfold Kept; dsimp only; first | refine kept_parts ?_ | refine kept_parts_out ?_ | refine kept_parts_put ?_ | refine kept_parts_regs ?_ | refine kept_parts_filter ?_)
    | contradiction

theorem kept_epochSwitch {st0 : State} {s : State} {word : Nat} (hk : Kept st0 s) : Kept st0 (epochSwitch s word) := by
  unfold epochSwitch
  with_reducible repeat' first
    | assumption
    | (dsimp only)
    | refine kept_fst ?_ (by assumption)
    | apply kept_wrs
    | apply kept_wr
    | apply kept_foldl
    | apply kept_foldl_fst
    | apply kept_getD
    | intro _
    | split
    | exact kept_pair _ (by assumption)
    | (unfold Kept; dsimp only; first | refine kept_parts ?_ | refine kept_parts_out ?_ | refine kept_parts_put ?_ | refine kept_parts_regs ?_ | refine kept_parts_filter ?_)
    | contradiction

theorem kept_suspectIn {st0 : State} {s : State} {p : Pkt} (hk : Kept st0 s) : Kept st0 (suspectIn s p) := by
  unfold suspectIn
  with_reducible repeat' first
    | assumption
    | (dsimp only)
    | refine kept_fst ?_ (by assumption)
    | apply kept_onSuspect
    | apply kept_wrs
    | apply kept_inc
    | apply kept_postEvent
    | apply kept_foldl
    | apply kept_foldl_fst
    | apply kept_getD
    | intro _
    | split
    | exact kept_pair _ (by assumption)
    | (unfold Kept; dsimp only; first | refine kept_parts ?_ | refine kept_parts_out ?_ | refine kept_parts_put ?_ | refine kept_parts_regs ?_ | refine kept_parts_filter ?_)
    | contradiction

theorem kept_freeSuspect {st0 : State} {s : State} {y1 : Nat} (hk : Kept st0 s) : Kept st0 (freeSuspect s y1) := by
  unfold freeSuspect
  with_reducible repeat' first
    | assumption
    | (dsimp only)
    | refine kept_fst ?_ (by assumption)
    | apply kept_wr
    | apply kept_foldl
    | apply kept_foldl_fst
    | apply kept_getD
    | intro _
    | split
    | exact kept_pair _ (by assumption)
    | (unfold Kept; dsimp only; first | refine kept_parts ?_ | refine kept_parts_out ?_ | refine kept_parts_put ?_ | refine kept_parts_regs ?_ | refine kept_parts_filter ?_)
    | contradiction

theorem kept_execRedPost {st0 : State} {core : Nat} {s : State} (hk : Kept st0 s) {t : State} (e : execRedPost core s = .next t) : Kept st0 t := by
  unfold execRedPost at e
  injection e with e
  subst e
  with_reducible repeat' first
    | assumption
    | (dsimp only)
    | refine kept_fst ?_ (by assumption)
    | apply kept_redPost
    | apply kept_foldl
    | apply kept_foldl_fst
    | apply kept_getD
    | intro _
    | split
    | exact kept_pair _ (by assumption)
    | (unfold Kept; dsimp only; first | refine kept_parts ?_ | refine kept_parts_out ?_ | refine kept_parts_put ?_ | refine kept_parts_regs ?_ | refine kept_parts_filter ?_)
    | contradiction

theorem kept_execRedLeafRead {st0 : State} {cluster : Nat} {s : State} (hk : Kept st0 s) {t : State} (e : execRedLeafRead cluster s = .next t) : Kept st0 t := by
  unfold execRedLeafRead at e
  injection e with e
  subst e
  with_reducible repeat' first
    | assumption
    | (dsimp only)
    | refine kept_fst ?_ (by assumption)
    | apply kept_leafRead
    | apply kept_foldl
    | apply kept_foldl_fst
    | apply kept_getD
    | intro _
    | split
    | exact kept_pair _ (by assumption)
    | (unfold Kept; dsimp only; first | refine kept_parts ?_ | refine kept_parts_out ?_ | refine kept_parts_put ?_ | refine kept_parts_regs ?_ | refine kept_parts_filter ?_)
    | contradiction

theorem kept_execRed {st0 : State} {pkt : Pkt} {s : State} (hk : Kept st0 s) {t : State} (e : execRed pkt s = .next t) : Kept st0 t := by
  unfold execRed at e
  injection e with e
  subst e
  with_reducible repeat' first
    | assumption
    | (dsimp only)
    | refine kept_fst ?_ (by assumption)
    | apply kept_takeStream
    | apply kept_redIn
    | apply kept_foldl
    | apply kept_foldl_fst
    | apply kept_getD
    | intro _
    | split
    | exact kept_pair _ (by assumption)
    | (unfold Kept; dsimp only; first | refine kept_parts ?_ | refine kept_parts_out ?_ | refine kept_parts_put ?_ | refine kept_parts_regs ?_ | refine kept_parts_filter ?_)
    | contradiction

theorem kept_execFail {st0 : State} {pkt : Pkt} {s : State} (hk : Kept st0 s) {t : State} (e : execFail pkt s = .next t) : Kept st0 t := by
  unfold execFail at e
  injection e with e
  subst e
  with_reducible repeat' first
    | assumption
    | (dsimp only)
    | refine kept_fst ?_ (by assumption)
    | apply kept_takeStream
    | apply kept_failSeg
    | apply kept_foldl
    | apply kept_foldl_fst
    | apply kept_getD
    | intro _
    | split
    | exact kept_pair _ (by assumption)
    | (unfold Kept; dsimp only; first | refine kept_parts ?_ | refine kept_parts_out ?_ | refine kept_parts_put ?_ | refine kept_parts_regs ?_ | refine kept_parts_filter ?_)
    | contradiction

theorem kept_execNack {st0 : State} {pkt : Pkt} {s : State} (hk : Kept st0 s) {t : State} (e : execNack pkt s = .next t) : Kept st0 t := by
  unfold execNack at e
  injection e with e
  subst e
  with_reducible repeat' first
    | assumption
    | (dsimp only)
    | refine kept_fst ?_ (by assumption)
    | apply kept_takeStream
    | apply kept_failSeg
    | apply kept_foldl
    | apply kept_foldl_fst
    | apply kept_getD
    | intro _
    | split
    | exact kept_pair _ (by assumption)
    | (unfold Kept; dsimp only; first | refine kept_parts ?_ | refine kept_parts_out ?_ | refine kept_parts_put ?_ | refine kept_parts_regs ?_ | refine kept_parts_filter ?_)
    | contradiction

theorem kept_execMarker {st0 : State} {pkt : Pkt} {s : State} (hk : Kept st0 s) {t : State} (e : execMarker pkt s = .next t) : Kept st0 t := by
  unfold execMarker at e
  injection e with e
  subst e
  with_reducible repeat' first
    | assumption
    | (dsimp only)
    | refine kept_fst ?_ (by assumption)
    | apply kept_takeStream
    | apply kept_markerIn
    | apply kept_foldl
    | apply kept_foldl_fst
    | apply kept_getD
    | intro _
    | split
    | exact kept_pair _ (by assumption)
    | (unfold Kept; dsimp only; first | refine kept_parts ?_ | refine kept_parts_out ?_ | refine kept_parts_put ?_ | refine kept_parts_regs ?_ | refine kept_parts_filter ?_)
    | contradiction

theorem kept_execBackupTimeout {st0 : State} {index : Nat} {s : State} (hk : Kept st0 s) {t : State} (e : execBackupTimeout index s = .next t) : Kept st0 t := by
  unfold execBackupTimeout at e
  injection e with e
  subst e
  with_reducible repeat' first
    | assumption
    | (dsimp only)
    | refine kept_fst ?_ (by assumption)
    | apply kept_advanceNode
    | apply kept_foldl
    | apply kept_foldl_fst
    | apply kept_getD
    | intro _
    | split
    | exact kept_pair _ (by assumption)
    | (unfold Kept; dsimp only; first | refine kept_parts ?_ | refine kept_parts_out ?_ | refine kept_parts_put ?_ | refine kept_parts_regs ?_ | refine kept_parts_filter ?_)
    | contradiction

theorem kept_ownTimeout {st0 : State} {s : State} {x : RedSeg} (hk : Kept st0 s) : Kept st0 (ownTimeout s x) := by
  unfold ownTimeout
  with_reducible repeat' first
    | assumption
    | (dsimp only)
    | refine kept_fst ?_ (by assumption)
    | apply kept_failSeg
    | apply kept_completeSeg
    | apply kept_foldl
    | apply kept_foldl_fst
    | apply kept_getD
    | intro _
    | split
    | exact kept_pair _ (by assumption)
    | (unfold Kept; dsimp only; first | refine kept_parts ?_ | refine kept_parts_out ?_ | refine kept_parts_put ?_ | refine kept_parts_regs ?_ | refine kept_parts_filter ?_)
    | contradiction

theorem kept_execRedWaitTimeout {st0 : State} {index : Nat} {own : Bool} {s : State} (hk : Kept st0 s) {t : State} (e : execRedWaitTimeout index own s = .next t) : Kept st0 t := by
  unfold execRedWaitTimeout at e
  injection e with e
  subst e
  with_reducible repeat' first
    | assumption
    | (dsimp only)
    | refine kept_fst ?_ (by assumption)
    | apply kept_ownTimeout
    | apply kept_nodeFail
    | apply kept_reportSuspect
    | apply kept_foldl
    | apply kept_foldl_fst
    | apply kept_getD
    | intro _
    | split
    | exact kept_pair _ (by assumption)
    | (unfold Kept; dsimp only; first | refine kept_parts ?_ | refine kept_parts_out ?_ | refine kept_parts_put ?_ | refine kept_parts_regs ?_ | refine kept_parts_filter ?_)
    | contradiction

theorem kept_execEpochSwStart {st0 : State} {word : Nat} {s : State} (hk : Kept st0 s) {t : State} (e : execEpochSwStart word s = .next t) : Kept st0 t := by
  unfold execEpochSwStart at e
  injection e with e
  subst e
  with_reducible repeat' first
    | assumption
    | (dsimp only)
    | refine kept_fst ?_ (by assumption)
    | apply kept_epochSwitch
    | apply kept_foldl
    | apply kept_foldl_fst
    | apply kept_getD
    | intro _
    | split
    | exact kept_pair _ (by assumption)
    | (unfold Kept; dsimp only; first | refine kept_parts ?_ | refine kept_parts_out ?_ | refine kept_parts_put ?_ | refine kept_parts_regs ?_ | refine kept_parts_filter ?_)
    | contradiction

theorem kept_execSuspect {st0 : State} {pkt : Pkt} {s : State} (hk : Kept st0 s) {t : State} (e : execSuspect pkt s = .next t) : Kept st0 t := by
  unfold execSuspect at e
  injection e with e
  subst e
  with_reducible repeat' first
    | assumption
    | (dsimp only)
    | refine kept_fst ?_ (by assumption)
    | apply kept_suspectIn
    | apply kept_foldl
    | apply kept_foldl_fst
    | apply kept_getD
    | intro _
    | split
    | exact kept_pair _ (by assumption)
    | (unfold Kept; dsimp only; first | refine kept_parts ?_ | refine kept_parts_out ?_ | refine kept_parts_put ?_ | refine kept_parts_regs ?_ | refine kept_parts_filter ?_)
    | contradiction

theorem kept_execSuspectEntryTimer {st0 : State} {entry : Nat} {s : State} (hk : Kept st0 s) {t : State} (e : execSuspectEntryTimer entry s = .next t) : Kept st0 t := by
  unfold execSuspectEntryTimer at e
  injection e with e
  subst e
  with_reducible repeat' first
    | assumption
    | (dsimp only)
    | refine kept_fst ?_ (by assumption)
    | apply kept_postEvent
    | apply kept_wr
    | apply kept_stoneWrite
    | apply kept_foldl
    | apply kept_foldl_fst
    | apply kept_getD
    | intro _
    | split
    | exact kept_pair _ (by assumption)
    | (unfold Kept; dsimp only; first | refine kept_parts ?_ | refine kept_parts_out ?_ | refine kept_parts_put ?_ | refine kept_parts_regs ?_ | refine kept_parts_filter ?_)
    | contradiction

theorem kept_execSuspectEntryExpiry {st0 : State} {entry : Nat} {s : State} (hk : Kept st0 s) {t : State} (e : execSuspectEntryExpiry entry s = .next t) : Kept st0 t := by
  unfold execSuspectEntryExpiry at e
  injection e with e
  subst e
  with_reducible repeat' first
    | assumption
    | (dsimp only)
    | refine kept_fst ?_ (by assumption)
    | apply kept_freeSuspect
    | apply kept_foldl
    | apply kept_foldl_fst
    | apply kept_getD
    | intro _
    | split
    | exact kept_pair _ (by assumption)
    | (unfold Kept; dsimp only; first | refine kept_parts ?_ | refine kept_parts_out ?_ | refine kept_parts_put ?_ | refine kept_parts_regs ?_ | refine kept_parts_filter ?_)
    | contradiction

theorem kept_execSusValidClear {st0 : State} {entry : Nat} {s : State} (hk : Kept st0 s) {t : State} (e : execSusValidClear entry s = .next t) : Kept st0 t := by
  unfold execSusValidClear at e
  injection e with e
  subst e
  with_reducible repeat' first
    | assumption
    | (dsimp only)
    | refine kept_fst ?_ (by assumption)
    | apply kept_freeSuspect
    | apply kept_foldl
    | apply kept_foldl_fst
    | apply kept_getD
    | intro _
    | split
    | exact kept_pair _ (by assumption)
    | (unfold Kept; dsimp only; first | refine kept_parts ?_ | refine kept_parts_out ?_ | refine kept_parts_put ?_ | refine kept_parts_regs ?_ | refine kept_parts_filter ?_)
    | contradiction

end Sys2Proof.Machine
end

