-- ==== Sys2Proof/Laws/KeptMemory.lean ====
section
/-!
SUPPORT. Sys2Proof/Laws/KeptMemory.lean: every operation of Sys2Proof/Machine/Memory.lean leaves the queue, appends to what has left the block, and keeps the canonical forms.
-/
set_option linter.unusedVariables false
set_option linter.unreachableTactic false
set_option linter.unusedTactic false
namespace Sys2Proof.Machine

theorem kept_scrubPassed {st0 : State} {s : State} {unit : Nat} (hk : Kept st0 s) : Kept st0 (scrubPassed s unit) := by
  unfold scrubPassed
  with_reducible repeat' first
    | assumption
    | (dsimp only)
    | refine kept_fst ?_ (by assumption)
    | apply kept_inc
    | apply kept_foldl
    | apply kept_foldl_fst
    | apply kept_getD
    | intro _
    | split
    | exact kept_pair _ (by assumption)
    | (unfold Kept; dsimp only; first | refine kept_parts ?_ | refine kept_parts_out ?_ | refine kept_parts_put ?_ | refine kept_parts_regs ?_ | refine kept_parts_filter ?_)
    | contradiction

theorem kept_hbmEvent {st0 : State} {s : State} {w : Nat} (hk : Kept st0 s) : Kept st0 (hbmEvent s w) := by
  unfold hbmEvent
  have h : Kept st0 { s with freeCount := s.freeCount + 1 } := ⟨hk.1, hk.2.1, hk.2.2.1.trans (Nat.le_succ _), hk.2.2.2.1, hk.2.2.2.2⟩
  dsimp only
  split
  · exact kept_inc h
  · split
    · exact kept_inc h
    · split
      · exact h
      · exact h

theorem kept_patrolScrub {st0 : State} {s : State} {unit : Nat} (hk : Kept st0 s) : Kept st0 (patrolScrub s unit) := by
  unfold patrolScrub
  with_reducible repeat' first
    | assumption
    | (dsimp only)
    | refine kept_fst ?_ (by assumption)
    | apply kept_hbmEvent
    | apply kept_readWord
    | apply kept_scrubPassed
    | apply kept_foldl
    | apply kept_foldl_fst
    | apply kept_getD
    | intro _
    | split
    | exact kept_pair _ (by assumption)
    | (unfold Kept; dsimp only; first | refine kept_parts ?_ | refine kept_parts_out ?_ | refine kept_parts_put ?_ | refine kept_parts_regs ?_ | refine kept_parts_filter ?_)
    | contradiction

theorem kept_reportLost {st0 : State} {y0 : List Nat} {y1 : State} (hk : Kept st0 y1) : Kept st0 (reportLost y0 y1) := by
  induction y0 generalizing y1 with
  | nil => unfold reportLost; with_reducible repeat' first
    | assumption
    | (dsimp only)
    | refine kept_fst ?_ (by assumption)
    | apply kept_originate
    | apply kept_foldl
    | apply kept_foldl_fst
    | apply kept_getD
    | intro _
    | split
    | exact kept_pair _ (by assumption)
    | (unfold Kept; dsimp only; first | refine kept_parts ?_ | refine kept_parts_out ?_ | refine kept_parts_put ?_ | refine kept_parts_regs ?_ | refine kept_parts_filter ?_)
    | contradiction
  | cons xx tt ih => unfold reportLost; with_reducible repeat' first
    | apply ih
    | assumption
    | (dsimp only)
    | refine kept_fst ?_ (by assumption)
    | apply kept_originate
    | apply kept_foldl
    | apply kept_foldl_fst
    | apply kept_getD
    | intro _
    | split
    | exact kept_pair _ (by assumption)
    | (unfold Kept; dsimp only; first | refine kept_parts ?_ | refine kept_parts_out ?_ | refine kept_parts_put ?_ | refine kept_parts_regs ?_ | refine kept_parts_filter ?_)
    | contradiction

theorem kept_deviceLost {st0 : State} {s : State} (hk : Kept st0 s) : Kept st0 (deviceLost s) := by
  unfold deviceLost
  with_reducible repeat' first
    | assumption
    | (dsimp only)
    | refine kept_fst ?_ (by assumption)
    | apply kept_reportLost
    | apply kept_foldl
    | apply kept_foldl_fst
    | apply kept_getD
    | intro _
    | split
    | exact kept_pair _ (by assumption)
    | (unfold Kept; dsimp only; first | refine kept_parts ?_ | refine kept_parts_out ?_ | refine kept_parts_put ?_ | refine kept_parts_regs ?_ | refine kept_parts_filter ?_)
    | contradiction

theorem kept_stackLost {st0 : State} {s : State} {stack : Nat} (hk : Kept st0 s) : Kept st0 (stackLost s stack) := by
  unfold stackLost
  with_reducible repeat' first
    | assumption
    | (dsimp only)
    | refine kept_fst ?_ (by assumption)
    | apply kept_deviceLost
    | apply kept_wr
    | apply kept_foldl
    | apply kept_foldl_fst
    | apply kept_getD
    | intro _
    | split
    | exact kept_pair _ (by assumption)
    | (unfold Kept; dsimp only; first | refine kept_parts ?_ | refine kept_parts_out ?_ | refine kept_parts_put ?_ | refine kept_parts_regs ?_ | refine kept_parts_filter ?_)
    | contradiction

theorem kept_injectWrite {st0 : State} {s : State} {word : Nat} (hk : Kept st0 s) : Kept st0 (injectWrite s word) := by
  unfold injectWrite
  with_reducible repeat' first
    | assumption
    | (dsimp only)
    | refine kept_fst ?_ (by assumption)
    | apply kept_wr
    | apply kept_foldl
    | apply kept_foldl_fst
    | apply kept_getD
    | intro _
    | split
    | exact kept_pair _ (by assumption)
    | (unfold Kept; dsimp only; first | refine kept_parts ?_ | refine kept_parts_out ?_ | refine kept_parts_put ?_ | refine kept_parts_regs ?_ | refine kept_parts_filter ?_)
    | contradiction

theorem kept_disarmIn {st0 : State} {s : State} {p : Nat → Bool} (hk : Kept st0 s) : Kept st0 (disarmIn s p) := by
  unfold disarmIn
  with_reducible repeat' first
    | assumption
    | (dsimp only)
    | refine kept_fst ?_ (by assumption)
    | apply kept_wr
    | apply kept_foldl
    | apply kept_foldl_fst
    | apply kept_getD
    | intro _
    | split
    | exact kept_pair _ (by assumption)
    | (unfold Kept; dsimp only; first | refine kept_parts ?_ | refine kept_parts_out ?_ | refine kept_parts_put ?_ | refine kept_parts_regs ?_ | refine kept_parts_filter ?_)
    | contradiction

theorem kept_hdmRead {st0 : State} {s : State} {a : Nat} {n : Nat} {bar2 : Bool} (hk : Kept st0 s) : Kept st0 (hdmRead s a n bar2) := by
  unfold hdmRead
  with_reducible repeat' first
    | assumption
    | (dsimp only)
    | refine kept_fst ?_ (by assumption)
    | apply kept_emit
    | apply kept_inc
    | apply kept_readMem
    | apply kept_foldl
    | apply kept_foldl_fst
    | apply kept_getD
    | intro _
    | split
    | exact kept_pair _ (by assumption)
    | (unfold Kept; dsimp only; first | refine kept_parts ?_ | refine kept_parts_out ?_ | refine kept_parts_put ?_ | refine kept_parts_regs ?_ | refine kept_parts_filter ?_)
    | contradiction

theorem kept_mergeWord {st0 : State} {s : State} {w : Nat} {a : Nat} {d : List Byte} {en : List Bool} (hk : Kept st0 s) : Kept st0 (mergeWord s w a d en) := by
  unfold mergeWord
  with_reducible repeat' first
    | assumption
    | (dsimp only)
    | refine kept_fst ?_ (by assumption)
    | apply kept_recordUe
    | apply kept_writeWord
    | apply kept_foldl
    | apply kept_foldl_fst
    | apply kept_getD
    | intro _
    | split
    | exact kept_pair _ (by assumption)
    | (unfold Kept; dsimp only; first | refine kept_parts ?_ | refine kept_parts_out ?_ | refine kept_parts_put ?_ | refine kept_parts_regs ?_ | refine kept_parts_filter ?_)
    | contradiction

theorem kept_mergeWords {st0 : State} {a : Nat} {d : List Byte} {en : List Bool} {y3 : List Nat} {y4 : State} (hk : Kept st0 y4) : Kept st0 (mergeWords a d en y3 y4) := by
  induction y3 generalizing y4 with
  | nil => unfold mergeWords; with_reducible repeat' first
    | assumption
    | (dsimp only)
    | refine kept_fst ?_ (by assumption)
    | apply kept_mergeWord
    | apply kept_foldl
    | apply kept_foldl_fst
    | apply kept_getD
    | intro _
    | split
    | exact kept_pair _ (by assumption)
    | (unfold Kept; dsimp only; first | refine kept_parts ?_ | refine kept_parts_out ?_ | refine kept_parts_put ?_ | refine kept_parts_regs ?_ | refine kept_parts_filter ?_)
    | contradiction
  | cons xx tt ih => unfold mergeWords; with_reducible repeat' first
    | apply ih
    | assumption
    | (dsimp only)
    | refine kept_fst ?_ (by assumption)
    | apply kept_mergeWord
    | apply kept_foldl
    | apply kept_foldl_fst
    | apply kept_getD
    | intro _
    | split
    | exact kept_pair _ (by assumption)
    | (unfold Kept; dsimp only; first | refine kept_parts ?_ | refine kept_parts_out ?_ | refine kept_parts_put ?_ | refine kept_parts_regs ?_ | refine kept_parts_filter ?_)
    | contradiction

theorem kept_hdmWrite {st0 : State} {s : State} {a : Nat} {d : List Byte} {en : List Bool} {poison : Bool} {bar2 : Bool} (hk : Kept st0 s) : Kept st0 (hdmWrite s a d en poison bar2) := by
  unfold hdmWrite
  with_reducible repeat' first
    | assumption
    | (dsimp only)
    | refine kept_fst ?_ (by assumption)
    | apply kept_inc
    | apply kept_aer
    | apply kept_mergeWords
    | apply kept_dropPrefs
    | apply kept_foldl
    | apply kept_foldl_fst
    | apply kept_getD
    | intro _
    | split
    | exact kept_pair _ (by assumption)
    | (unfold Kept; dsimp only; first | refine kept_parts ?_ | refine kept_parts_out ?_ | refine kept_parts_put ?_ | refine kept_parts_regs ?_ | refine kept_parts_filter ?_)
    | contradiction

theorem kept_hdmTry {st0 : State} {s : State} {n : Nat} {base : Nat} {size : Nat} {ways : Nat} {skip : Nat} {lock : Bool} (hk : Kept st0 s) : Kept st0 (hdmTry s n base size ways skip lock) := by
  unfold hdmTry
  with_reducible repeat' first
    | assumption
    | (dsimp only)
    | refine kept_fst ?_ (by assumption)
    | apply kept_foldl
    | apply kept_foldl_fst
    | apply kept_getD
    | intro _
    | split
    | exact kept_pair _ (by assumption)
    | (unfold Kept; dsimp only; first | refine kept_parts ?_ | refine kept_parts_out ?_ | refine kept_parts_put ?_ | refine kept_parts_regs ?_ | refine kept_parts_filter ?_)
    | contradiction

theorem kept_setComp {st0 : State} {s : State} {d : Nat} {v : Nat} (hk : Kept st0 s) : Kept st0 (setComp s d v) := by
  unfold setComp
  with_reducible repeat' first
    | assumption
    | (dsimp only)
    | refine kept_fst ?_ (by assumption)
    | apply kept_foldl
    | apply kept_foldl_fst
    | apply kept_getD
    | intro _
    | split
    | exact kept_pair _ (by assumption)
    | (unfold Kept; dsimp only; first | refine kept_parts ?_ | refine kept_parts_out ?_ | refine kept_parts_put ?_ | refine kept_parts_regs ?_ | refine kept_parts_filter ?_)
    | contradiction

theorem kept_setDecoder {st0 : State} {s : State} {n : Nat} {base : Nat} {size : Nat} {ways : Nat} {skip : Nat} {lock : Bool} (hk : Kept st0 s) : Kept st0 (setDecoder s n base size ways skip lock) := by
  unfold setDecoder
  with_reducible repeat' first
    | assumption
    | (dsimp only)
    | refine kept_fst ?_ (by assumption)
    | apply kept_setComp
    | apply kept_foldl
    | apply kept_foldl_fst
    | apply kept_getD
    | intro _
    | split
    | exact kept_pair _ (by assumption)
    | (unfold Kept; dsimp only; first | refine kept_parts ?_ | refine kept_parts_out ?_ | refine kept_parts_put ?_ | refine kept_parts_regs ?_ | refine kept_parts_filter ?_)
    | contradiction

theorem kept_hdmCommit {st0 : State} {s : State} {n : Nat} {base : Nat} {size : Nat} {ways : Nat} {skip : Nat} {lock : Bool} (hk : Kept st0 s) : Kept st0 (hdmCommit s n base size ways skip lock) := by
  unfold hdmCommit
  with_reducible repeat' first
    | assumption
    | (dsimp only)
    | refine kept_fst ?_ (by assumption)
    | apply kept_hdmTry
    | apply kept_setDecoder
    | apply kept_foldl
    | apply kept_foldl_fst
    | apply kept_getD
    | intro _
    | split
    | exact kept_pair _ (by assumption)
    | (unfold Kept; dsimp only; first | refine kept_parts ?_ | refine kept_parts_out ?_ | refine kept_parts_put ?_ | refine kept_parts_regs ?_ | refine kept_parts_filter ?_)
    | contradiction

theorem kept_decoderControl {st0 : State} {s : State} {n : Nat} {v : Nat} (hk : Kept st0 s) : Kept st0 (decoderControl s n v) := by
  unfold decoderControl
  with_reducible repeat' first
    | assumption
    | (dsimp only)
    | refine kept_fst ?_ (by assumption)
    | apply kept_setComp
    | apply kept_hdmTry
    | apply kept_foldl
    | apply kept_foldl_fst
    | apply kept_getD
    | intro _
    | split
    | exact kept_pair _ (by assumption)
    | (unfold Kept; dsimp only; first | refine kept_parts ?_ | refine kept_parts_out ?_ | refine kept_parts_put ?_ | refine kept_parts_regs ?_ | refine kept_parts_filter ?_)
    | contradiction

theorem kept_compWrite {st0 : State} {s : State} {d : Nat} {v : Nat} (hk : Kept st0 s) : Kept st0 (compWrite s d v) := by
  unfold compWrite
  with_reducible repeat' first
    | assumption
    | (dsimp only)
    | refine kept_fst ?_ (by assumption)
    | apply kept_setComp
    | apply kept_decoderControl
    | apply kept_foldl
    | apply kept_foldl_fst
    | apply kept_getD
    | intro _
    | split
    | exact kept_pair _ (by assumption)
    | (unfold Kept; dsimp only; first | refine kept_parts ?_ | refine kept_parts_out ?_ | refine kept_parts_put ?_ | refine kept_parts_regs ?_ | refine kept_parts_filter ?_)
    | contradiction

theorem kept_execPatrolScrub {st0 : State} {unit : Nat} {s : State} (hk : Kept st0 s) {t : State} (e : execPatrolScrub unit s = .next t) : Kept st0 t := by
  unfold execPatrolScrub at e
  injection e with e
  subst e
  with_reducible repeat' first
    | assumption
    | (dsimp only)
    | refine kept_fst ?_ (by assumption)
    | apply kept_patrolScrub
    | apply kept_foldl
    | apply kept_foldl_fst
    | apply kept_getD
    | intro _
    | split
    | exact kept_pair _ (by assumption)
    | (unfold Kept; dsimp only; first | refine kept_parts ?_ | refine kept_parts_out ?_ | refine kept_parts_put ?_ | refine kept_parts_regs ?_ | refine kept_parts_filter ?_)
    | contradiction

theorem kept_execStackLost {st0 : State} {stack : Nat} {s : State} (hk : Kept st0 s) {t : State} (e : execStackLost stack s = .next t) : Kept st0 t := by
  unfold execStackLost at e
  injection e with e
  subst e
  with_reducible repeat' first
    | assumption
    | (dsimp only)
    | refine kept_fst ?_ (by assumption)
    | apply kept_stackLost
    | apply kept_foldl
    | apply kept_foldl_fst
    | apply kept_getD
    | intro _
    | split
    | exact kept_pair _ (by assumption)
    | (unfold Kept; dsimp only; first | refine kept_parts ?_ | refine kept_parts_out ?_ | refine kept_parts_put ?_ | refine kept_parts_regs ?_ | refine kept_parts_filter ?_)
    | contradiction

theorem kept_execHdmRead {st0 : State} {addr : Nat} {len : Nat} {bar2 : Bool} {s : State} (hk : Kept st0 s) {t : State} (e : execHdmRead addr len bar2 s = .next t) : Kept st0 t := by
  unfold execHdmRead at e
  injection e with e
  subst e
  with_reducible repeat' first
    | assumption
    | (dsimp only)
    | refine kept_fst ?_ (by assumption)
    | apply kept_hdmRead
    | apply kept_foldl
    | apply kept_foldl_fst
    | apply kept_getD
    | intro _
    | split
    | exact kept_pair _ (by assumption)
    | (unfold Kept; dsimp only; first | refine kept_parts ?_ | refine kept_parts_out ?_ | refine kept_parts_put ?_ | refine kept_parts_regs ?_ | refine kept_parts_filter ?_)
    | contradiction

theorem kept_execHdmWrite {st0 : State} {addr : Nat} {data : List Byte} {enables : List Bool} {poison : Bool} {bar2 : Bool} {s : State} (hk : Kept st0 s) {t : State} (e : execHdmWrite addr data enables poison bar2 s = .next t) : Kept st0 t := by
  unfold execHdmWrite at e
  injection e with e
  subst e
  with_reducible repeat' first
    | assumption
    | (dsimp only)
    | refine kept_fst ?_ (by assumption)
    | apply kept_hdmWrite
    | apply kept_foldl
    | apply kept_foldl_fst
    | apply kept_getD
    | intro _
    | split
    | exact kept_pair _ (by assumption)
    | (unfold Kept; dsimp only; first | refine kept_parts ?_ | refine kept_parts_out ?_ | refine kept_parts_put ?_ | refine kept_parts_regs ?_ | refine kept_parts_filter ?_)
    | contradiction

theorem kept_execInjectArm {st0 : State} {word : Nat} {s : State} (hk : Kept st0 s) {t : State} (e : execInjectArm word s = .next t) : Kept st0 t := by
  unfold execInjectArm at e
  injection e with e
  subst e
  with_reducible repeat' first
    | assumption
    | (dsimp only)
    | refine kept_fst ?_ (by assumption)
    | apply kept_injectWrite
    | apply kept_foldl
    | apply kept_foldl_fst
    | apply kept_getD
    | intro _
    | split
    | exact kept_pair _ (by assumption)
    | (unfold Kept; dsimp only; first | refine kept_parts ?_ | refine kept_parts_out ?_ | refine kept_parts_put ?_ | refine kept_parts_regs ?_ | refine kept_parts_filter ?_)
    | contradiction

theorem kept_execHdmDecoderCommit {st0 : State} {decoder : Nat} {base : Nat} {size : Nat} {ways : Nat} {skip : Nat} {lock : Bool} {s : State} (hk : Kept st0 s) {t : State} (e : execHdmDecoderCommit decoder base size ways skip lock s = .next t) : Kept st0 t := by
  unfold execHdmDecoderCommit at e
  injection e with e
  subst e
  with_reducible repeat' first
    | assumption
    | (dsimp only)
    | refine kept_fst ?_ (by assumption)
    | apply kept_hdmCommit
    | apply kept_foldl
    | apply kept_foldl_fst
    | apply kept_getD
    | intro _
    | split
    | exact kept_pair _ (by assumption)
    | (unfold Kept; dsimp only; first | refine kept_parts ?_ | refine kept_parts_out ?_ | refine kept_parts_put ?_ | refine kept_parts_regs ?_ | refine kept_parts_filter ?_)
    | contradiction

end Sys2Proof.Machine
end

