-- ==== Sys2Proof/Laws/KeptReset.lean ====
section
/-!
SUPPORT. Sys2Proof/Laws/KeptReset.lean: every operation of Sys2Proof/Machine/Reset.lean leaves the queue, appends to what has left the block, and keeps the canonical forms.
-/
set_option linter.unusedVariables false
set_option linter.unreachableTactic false
set_option linter.unusedTactic false
namespace Sys2Proof.Machine

theorem kept_flushRecs {st0 : State} {y0 : List ResetRec} {y1 : State} (hk : Kept st0 y1) : Kept st0 (flushRecs y0 y1) := by
  induction y0 generalizing y1 with
  | nil => unfold flushRecs; with_reducible repeat' first
    | assumption
    | (dsimp only)
    | refine kept_fst ?_ (by assumption)
    | apply kept_stoneWrite
    | apply kept_foldl
    | apply kept_foldl_fst
    | apply kept_getD
    | intro _
    | split
    | exact kept_pair _ (by assumption)
    | (unfold Kept; dsimp only; first | refine kept_parts ?_ | refine kept_parts_out ?_ | refine kept_parts_put ?_ | refine kept_parts_regs ?_ | refine kept_parts_filter ?_)
    | contradiction
  | cons xx tt ih => unfold flushRecs; with_reducible repeat' first
    | apply ih
    | assumption
    | (dsimp only)
    | refine kept_fst ?_ (by assumption)
    | apply kept_stoneWrite
    | apply kept_foldl
    | apply kept_foldl_fst
    | apply kept_getD
    | intro _
    | split
    | exact kept_pair _ (by assumption)
    | (unfold Kept; dsimp only; first | refine kept_parts ?_ | refine kept_parts_out ?_ | refine kept_parts_put ?_ | refine kept_parts_regs ?_ | refine kept_parts_filter ?_)
    | contradiction

theorem kept_addRec {st0 : State} {s : State} {y1 : ResetRec} (hk : Kept st0 s) : Kept st0 (addRec s y1) := by
  unfold addRec
  with_reducible repeat' first
    | assumption
    | (dsimp only)
    | refine kept_fst ?_ (by assumption)
    | apply kept_flushRecs
    | apply kept_foldl
    | apply kept_foldl_fst
    | apply kept_getD
    | intro _
    | split
    | exact kept_pair _ (by assumption)
    | (unfold Kept; dsimp only; first | refine kept_parts ?_ | refine kept_parts_out ?_ | refine kept_parts_put ?_ | refine kept_parts_regs ?_ | refine kept_parts_filter ?_)
    | contradiction

theorem kept_readyRec {st0 : State} {s : State} {o : ResetOp} {forced : Nat} (hk : Kept st0 s) : Kept st0 (readyRec s o forced) := by
  unfold readyRec
  with_reducible repeat' first
    | assumption
    | (dsimp only)
    | refine kept_fst ?_ (by assumption)
    | apply kept_flushRecs
    | apply kept_foldl
    | apply kept_foldl_fst
    | apply kept_getD
    | intro _
    | split
    | exact kept_pair _ (by assumption)
    | (unfold Kept; dsimp only; first | refine kept_parts ?_ | refine kept_parts_out ?_ | refine kept_parts_put ?_ | refine kept_parts_regs ?_ | refine kept_parts_filter ?_)
    | contradiction

theorem kept_quiesceCore {st0 : State} {s : State} {l : Nat} (hk : Kept st0 s) : Kept st0 (quiesceCore s l) := by
  unfold quiesceCore
  with_reducible repeat' first
    | assumption
    | (dsimp only)
    | refine kept_fst ?_ (by assumption)
    | apply kept_wr
    | apply kept_finishAborted
    | apply kept_flushCtx
    | apply kept_foldl
    | apply kept_foldl_fst
    | apply kept_getD
    | intro _
    | split
    | exact kept_pair _ (by assumption)
    | (unfold Kept; dsimp only; first | refine kept_parts ?_ | refine kept_parts_out ?_ | refine kept_parts_put ?_ | refine kept_parts_regs ?_ | refine kept_parts_filter ?_)
    | contradiction

theorem kept_freeHeld {st0 : State} {s : State} {cs : List Nat} (hk : Kept st0 s) : Kept st0 (freeHeld s cs) := by
  unfold freeHeld
  with_reducible repeat' first
    | assumption
    | (dsimp only)
    | refine kept_fst ?_ (by assumption)
    | apply kept_foldl
    | apply kept_foldl_fst
    | apply kept_getD
    | intro _
    | split
    | exact kept_pair _ (by assumption)
    | (unfold Kept; dsimp only; first | refine kept_parts ?_ | refine kept_parts_out ?_ | refine kept_parts_put ?_ | refine kept_parts_regs ?_ | refine kept_parts_filter ?_)
    | contradiction

theorem kept_beginReset {st0 : State} {s : State} {o : ResetOp} (hk : Kept st0 s) : Kept st0 (beginReset s o) := by
  unfold beginReset
  with_reducible repeat' first
    | assumption
    | (dsimp only)
    | refine kept_fst ?_ (by assumption)
    | apply kept_readyRec
    | apply kept_addRec
    | apply kept_setPartState
    | apply kept_inc
    | apply kept_quiesceCore
    | apply kept_freeHeld
    | apply kept_foldl
    | apply kept_foldl_fst
    | apply kept_getD
    | intro _
    | split
    | exact kept_pair _ (by assumption)
    | (unfold Kept; dsimp only; first | refine kept_parts ?_ | refine kept_parts_out ?_ | refine kept_parts_put ?_ | refine kept_parts_regs ?_ | refine kept_parts_filter ?_)
    | contradiction

theorem kept_startReset {st0 : State} {s : State} {domain : Nat} {target : Nat} {reason : Nat} (hk : Kept st0 s) : Kept st0 (startReset s domain target reason) := by
  unfold startReset
  with_reducible repeat' first
    | assumption
    | (dsimp only)
    | refine kept_fst ?_ (by assumption)
    | apply kept_interruptLoad
    | apply kept_addRec
    | apply kept_beginReset
    | apply kept_foldl
    | apply kept_foldl_fst
    | apply kept_getD
    | intro _
    | split
    | exact kept_pair _ (by assumption)
    | (unfold Kept; dsimp only; first | refine kept_parts ?_ | refine kept_parts_out ?_ | refine kept_parts_put ?_ | refine kept_parts_regs ?_ | refine kept_parts_filter ?_)
    | contradiction

theorem kept_dropRequests {st0 : State} {s : State} {o : ResetOp} (hk : Kept st0 s) : Kept st0 (dropRequests s o) := by
  unfold dropRequests
  with_reducible repeat' first
    | assumption
    | (dsimp only)
    | refine kept_fst ?_ (by assumption)
    | apply kept_quarantine
    | apply kept_foldl
    | apply kept_foldl_fst
    | apply kept_getD
    | intro _
    | split
    | exact kept_pair _ (by assumption)
    | (unfold Kept; dsimp only; first | refine kept_parts ?_ | refine kept_parts_out ?_ | refine kept_parts_put ?_ | refine kept_parts_regs ?_ | refine kept_parts_filter ?_)
    | contradiction

theorem kept_killScatters {st0 : State} {s : State} {ls : List Nat} (hk : Kept st0 s) : Kept st0 (killScatters s ls) := by
  unfold killScatters
  with_reducible repeat' first
    | assumption
    | (dsimp only)
    | refine kept_fst ?_ (by assumption)
    | apply kept_endScatter
    | apply kept_foldl
    | apply kept_foldl_fst
    | apply kept_getD
    | intro _
    | split
    | exact kept_pair _ (by assumption)
    | (unfold Kept; dsimp only; first | refine kept_parts ?_ | refine kept_parts_out ?_ | refine kept_parts_put ?_ | refine kept_parts_regs ?_ | refine kept_parts_filter ?_)
    | contradiction

theorem kept_killGathers {st0 : State} {s : State} {ls : List Nat} {cs : List Nat} (hk : Kept st0 s) : Kept st0 (killGathers s ls cs) := by
  unfold killGathers
  with_reducible repeat' first
    | assumption
    | (dsimp only)
    | refine kept_fst ?_ (by assumption)
    | apply kept_putRows
    | apply kept_endUnitReq
    | apply kept_setRun
    | apply kept_foldl
    | apply kept_foldl_fst
    | apply kept_getD
    | intro _
    | split
    | exact kept_pair _ (by assumption)
    | (unfold Kept; dsimp only; first | refine kept_parts ?_ | refine kept_parts_out ?_ | refine kept_parts_put ?_ | refine kept_parts_regs ?_ | refine kept_parts_filter ?_)
    | contradiction

theorem kept_killPosts {st0 : State} {s : State} {ls : List Nat} (hk : Kept st0 s) : Kept st0 (killPosts s ls) := by
  unfold killPosts
  with_reducible repeat' first
    | assumption
    | (dsimp only)
    | refine kept_fst ?_ (by assumption)
    | apply kept_failSeg
    | apply kept_foldl
    | apply kept_foldl_fst
    | apply kept_getD
    | intro _
    | split
    | exact kept_pair _ (by assumption)
    | (unfold Kept; dsimp only; first | refine kept_parts ?_ | refine kept_parts_out ?_ | refine kept_parts_put ?_ | refine kept_parts_regs ?_ | refine kept_parts_filter ?_)
    | contradiction

theorem kept_abortEntry {st0 : State} {s : State} {c : Nat} {j : Nat} {d : List Byte} (hk : Kept st0 s) : Kept st0 (abortEntry s c j d) := by
  unfold abortEntry
  with_reducible repeat' first
    | assumption
    | (dsimp only)
    | refine kept_fst ?_ (by assumption)
    | apply kept_endSampReq
    | apply kept_endUnitReq
    | apply kept_inc
    | apply kept_foldl
    | apply kept_foldl_fst
    | apply kept_getD
    | intro _
    | split
    | exact kept_pair _ (by assumption)
    | (unfold Kept; dsimp only; first | refine kept_parts ?_ | refine kept_parts_out ?_ | refine kept_parts_put ?_ | refine kept_parts_regs ?_ | refine kept_parts_filter ?_)
    | contradiction

theorem kept_killUnits {st0 : State} {s : State} {cs : List Nat} (hk : Kept st0 s) : Kept st0 (killUnits s cs) := by
  unfold killUnits
  with_reducible repeat' first
    | assumption
    | (dsimp only)
    | refine kept_fst ?_ (by assumption)
    | apply kept_endFailed
    | apply kept_failSort
    | apply kept_abortEntry
    | apply kept_foldl
    | apply kept_foldl_fst
    | apply kept_getD
    | intro _
    | split
    | exact kept_pair _ (by assumption)
    | (unfold Kept; dsimp only; first | refine kept_parts ?_ | refine kept_parts_out ?_ | refine kept_parts_put ?_ | refine kept_parts_regs ?_ | refine kept_parts_filter ?_)
    | contradiction

theorem kept_killFlight {st0 : State} {l : Nat} {k : Nat} {y2 : List FTile} {y3 : State} (hk : Kept st0 y3) : Kept st0 (killFlight l k y2 y3) := by
  induction y2 generalizing y3 with
  | nil => unfold killFlight; with_reducible repeat' first
    | assumption
    | (dsimp only)
    | refine kept_fst ?_ (by assumption)
    | apply kept_tileComplete
    | apply kept_setRun
    | apply kept_foldl
    | apply kept_foldl_fst
    | apply kept_getD
    | intro _
    | split
    | exact kept_pair _ (by assumption)
    | (unfold Kept; dsimp only; first | refine kept_parts ?_ | refine kept_parts_out ?_ | refine kept_parts_put ?_ | refine kept_parts_regs ?_ | refine kept_parts_filter ?_)
    | contradiction
  | cons xx tt ih => unfold killFlight; with_reducible repeat' first
    | apply ih
    | assumption
    | (dsimp only)
    | refine kept_fst ?_ (by assumption)
    | apply kept_tileComplete
    | apply kept_setRun
    | apply kept_foldl
    | apply kept_foldl_fst
    | apply kept_getD
    | intro _
    | split
    | exact kept_pair _ (by assumption)
    | (unfold Kept; dsimp only; first | refine kept_parts ?_ | refine kept_parts_out ?_ | refine kept_parts_put ?_ | refine kept_parts_regs ?_ | refine kept_parts_filter ?_)
    | contradiction

theorem kept_killCore {st0 : State} {firmware : Bool} {s : State} {l : Nat} (hk : Kept st0 s) : Kept st0 (killCore firmware s l) := by
  unfold killCore
  with_reducible repeat' first
    | assumption
    | (dsimp only)
    | refine kept_fst ?_ (by assumption)
    | apply kept_killFlight
    | apply kept_setCore
    | apply kept_foldl
    | apply kept_foldl_fst
    | apply kept_getD
    | intro _
    | split
    | exact kept_pair _ (by assumption)
    | (unfold Kept; dsimp only; first | refine kept_parts ?_ | refine kept_parts_out ?_ | refine kept_parts_put ?_ | refine kept_parts_regs ?_ | refine kept_parts_filter ?_)
    | contradiction

theorem kept_killApplies {st0 : State} {s : State} {js : List Nat} (hk : Kept st0 s) : Kept st0 (killApplies s js) := by
  unfold killApplies
  with_reducible repeat' first
    | assumption
    | (dsimp only)
    | refine kept_fst ?_ (by assumption)
    | apply kept_lastApply
    | apply kept_foldl
    | apply kept_foldl_fst
    | apply kept_getD
    | intro _
    | split
    | exact kept_pair _ (by assumption)
    | (unfold Kept; dsimp only; first | refine kept_parts ?_ | refine kept_parts_out ?_ | refine kept_parts_put ?_ | refine kept_parts_regs ?_ | refine kept_parts_filter ?_)
    | contradiction

theorem kept_killHeld {st0 : State} {s : State} {js : List Nat} (hk : Kept st0 s) : Kept st0 (killHeld s js) := by
  unfold killHeld
  with_reducible repeat' first
    | assumption
    | (dsimp only)
    | refine kept_fst ?_ (by assumption)
    | apply kept_respond
    | apply kept_inc
    | apply kept_foldl
    | apply kept_foldl_fst
    | apply kept_getD
    | intro _
    | split
    | exact kept_pair _ (by assumption)
    | (unfold Kept; dsimp only; first | refine kept_parts ?_ | refine kept_parts_out ?_ | refine kept_parts_put ?_ | refine kept_parts_regs ?_ | refine kept_parts_filter ?_)
    | contradiction

theorem kept_killJobs {st0 : State} {s : State} {js : List Nat} (hk : Kept st0 s) : Kept st0 (killJobs s js) := by
  unfold killJobs
  with_reducible repeat' first
    | assumption
    | (dsimp only)
    | refine kept_fst ?_ (by assumption)
    | apply kept_killHeld
    | apply kept_endMig
    | apply kept_failSeg
    | apply kept_abortJobCtxs
    | apply kept_foldl
    | apply kept_foldl_fst
    | apply kept_getD
    | intro _
    | split
    | exact kept_pair _ (by assumption)
    | (unfold Kept; dsimp only; first | refine kept_parts ?_ | refine kept_parts_out ?_ | refine kept_parts_put ?_ | refine kept_parts_regs ?_ | refine kept_parts_filter ?_)
    | contradiction

theorem kept_forceDomain {st0 : State} {s : State} {o : ResetOp} (hk : Kept st0 s) : Kept st0 (forceDomain s o) := by
  unfold forceDomain
  with_reducible repeat' first
    | assumption
    | (dsimp only)
    | refine kept_fst ?_ (by assumption)
    | apply kept_killGathers
    | apply kept_killScatters
    | apply kept_dropRequests
    | apply kept_killApplies
    | apply kept_killUnits
    | apply kept_killPosts
    | apply kept_abortSlices
    | apply kept_killJobs
    | apply kept_killCore
    | apply kept_foldl
    | apply kept_foldl_fst
    | apply kept_getD
    | intro _
    | split
    | exact kept_pair _ (by assumption)
    | (unfold Kept; dsimp only; first | refine kept_parts ?_ | refine kept_parts_out ?_ | refine kept_parts_put ?_ | refine kept_parts_regs ?_ | refine kept_parts_filter ?_)
    | contradiction

theorem kept_setOp {st0 : State} {s : State} {a : ResetOp} {b : ResetOp} (hk : Kept st0 s) : Kept st0 (setOp s a b) := by
  unfold setOp
  with_reducible repeat' first
    | assumption
    | (dsimp only)
    | refine kept_fst ?_ (by assumption)
    | apply kept_foldl
    | apply kept_foldl_fst
    | apply kept_getD
    | intro _
    | split
    | exact kept_pair _ (by assumption)
    | (unfold Kept; dsimp only; first | refine kept_parts ?_ | refine kept_parts_out ?_ | refine kept_parts_put ?_ | refine kept_parts_regs ?_ | refine kept_parts_filter ?_)
    | contradiction

theorem kept_stopDomain {st0 : State} {s : State} {o : ResetOp} {timeout : Bool} (hk : Kept st0 s) : Kept st0 (stopDomain s o timeout) := by
  unfold stopDomain
  with_reducible repeat' first
    | assumption
    | (dsimp only)
    | refine kept_fst ?_ (by assumption)
    | apply kept_postEvent
    | apply kept_inc
    | apply kept_readyRec
    | apply kept_forceDomain
    | apply kept_setOp
    | apply kept_foldl
    | apply kept_foldl_fst
    | apply kept_getD
    | intro _
    | split
    | exact kept_pair _ (by assumption)
    | (unfold Kept; dsimp only; first | refine kept_parts ?_ | refine kept_parts_out ?_ | refine kept_parts_put ?_ | refine kept_parts_regs ?_ | refine kept_parts_filter ?_)
    | contradiction

theorem kept_drained {st0 : State} {s : State} (hk : Kept st0 s) : Kept st0 (drained s) := by
  unfold drained
  with_reducible repeat' first
    | assumption
    | (dsimp only)
    | refine kept_fst ?_ (by assumption)
    | apply kept_setOp
    | apply kept_setLoad
    | apply kept_wr
    | apply kept_foldl
    | apply kept_foldl_fst
    | apply kept_getD
    | intro _
    | split
    | exact kept_pair _ (by assumption)
    | (unfold Kept; dsimp only; first | refine kept_parts ?_ | refine kept_parts_out ?_ | refine kept_parts_put ?_ | refine kept_parts_regs ?_ | refine kept_parts_filter ?_)
    | contradiction

theorem kept_wipe {st0 : State} {s : State} {a : Nat} {n : Nat} (hk : Kept st0 s) : Kept st0 (wipe s a n) := by
  unfold wipe
  with_reducible repeat' first
    | assumption
    | (dsimp only)
    | refine kept_fst ?_ (by assumption)
    | apply kept_disarmIn
    | apply kept_wipeRange
    | apply kept_foldl
    | apply kept_foldl_fst
    | apply kept_getD
    | intro _
    | split
    | exact kept_pair _ (by assumption)
    | (unfold Kept; dsimp only; first | refine kept_parts ?_ | refine kept_parts_out ?_ | refine kept_parts_put ?_ | refine kept_parts_regs ?_ | refine kept_parts_filter ?_)
    | contradiction

theorem kept_wipeCore {st0 : State} {firmware : Bool} {s : State} {l : Nat} (hk : Kept st0 s) : Kept st0 (wipeCore firmware s l) := by
  unfold wipeCore
  with_reducible repeat' first
    | assumption
    | (dsimp only)
    | refine kept_fst ?_ (by assumption)
    | apply kept_wipe
    | apply kept_putFirmware
    | apply kept_foldl
    | apply kept_foldl_fst
    | apply kept_getD
    | intro _
    | split
    | exact kept_pair _ (by assumption)
    | (unfold Kept; dsimp only; first | refine kept_parts ?_ | refine kept_parts_out ?_ | refine kept_parts_put ?_ | refine kept_parts_regs ?_ | refine kept_parts_filter ?_)
    | contradiction

theorem kept_wipeGbuf {st0 : State} {s : State} {c : Nat} (hk : Kept st0 s) : Kept st0 (wipeGbuf s c) := by
  unfold wipeGbuf
  with_reducible repeat' first
    | assumption
    | (dsimp only)
    | refine kept_fst ?_ (by assumption)
    | apply kept_wipe
    | apply kept_foldl
    | apply kept_foldl_fst
    | apply kept_getD
    | intro _
    | split
    | exact kept_pair _ (by assumption)
    | (unfold Kept; dsimp only; first | refine kept_parts ?_ | refine kept_parts_out ?_ | refine kept_parts_put ?_ | refine kept_parts_regs ?_ | refine kept_parts_filter ?_)
    | contradiction

theorem kept_resetBlocks {st0 : State} {s : State} {ls : List Nat} {cs : List Nat} (hk : Kept st0 s) : Kept st0 (resetBlocks s ls cs) := by
  unfold resetBlocks
  with_reducible repeat' first
    | assumption
    | (dsimp only)
    | refine kept_fst ?_ (by assumption)
    | apply kept_resetRegs
    | apply kept_foldl
    | apply kept_foldl_fst
    | apply kept_getD
    | intro _
    | split
    | exact kept_pair _ (by assumption)
    | (unfold Kept; dsimp only; first | refine kept_parts ?_ | refine kept_parts_out ?_ | refine kept_parts_put ?_ | refine kept_parts_regs ?_ | refine kept_parts_filter ?_)
    | contradiction

theorem kept_readBack {st0 : State} {bad : List Nat} {s : State} {y2 : Region} (hk : Kept st0 s) : Kept st0 (readBack bad s y2) := by
  unfold readBack
  with_reducible repeat' first
    | assumption
    | (dsimp only)
    | refine kept_fst ?_ (by assumption)
    | apply kept_inc
    | apply kept_recordUe
    | apply kept_stoneWrite
    | apply kept_retirePage
    | apply kept_foldl
    | apply kept_foldl_fst
    | apply kept_getD
    | intro _
    | split
    | exact kept_pair _ (by assumption)
    | (unfold Kept; dsimp only; first | refine kept_parts ?_ | refine kept_parts_out ?_ | refine kept_parts_put ?_ | refine kept_parts_regs ?_ | refine kept_parts_filter ?_)
    | contradiction

theorem kept_freeRedirects {st0 : State} {s : State} {js : List Nat} (hk : Kept st0 s) : Kept st0 (freeRedirects s js) := by
  unfold freeRedirects
  with_reducible repeat' first
    | assumption
    | (dsimp only)
    | refine kept_fst ?_ (by assumption)
    | apply kept_resetRegs
    | apply kept_wr
    | apply kept_foldl
    | apply kept_foldl_fst
    | apply kept_getD
    | intro _
    | split
    | exact kept_pair _ (by assumption)
    | (unfold Kept; dsimp only; first | refine kept_parts ?_ | refine kept_parts_out ?_ | refine kept_parts_put ?_ | refine kept_parts_regs ?_ | refine kept_parts_filter ?_)
    | contradiction

theorem kept_unbind {st0 : State} {s : State} {mask : Nat} (hk : Kept st0 s) : Kept st0 (unbind s mask) := by
  unfold unbind
  with_reducible repeat' first
    | assumption
    | (dsimp only)
    | refine kept_fst ?_ (by assumption)
    | apply kept_freeRedirects
    | apply kept_inc
    | apply kept_resetRegs
    | apply kept_wrs
    | apply kept_endRecovery
    | apply kept_foldl
    | apply kept_foldl_fst
    | apply kept_getD
    | intro _
    | split
    | exact kept_pair _ (by assumption)
    | (unfold Kept; dsimp only; first | refine kept_parts ?_ | refine kept_parts_out ?_ | refine kept_parts_put ?_ | refine kept_parts_regs ?_ | refine kept_parts_filter ?_)
    | contradiction

theorem kept_wipePart {st0 : State} {s : State} {o : ResetOp} {bad : List Nat} (hk : Kept st0 s) : Kept st0 (wipePart s o bad) := by
  unfold wipePart
  with_reducible repeat' first
    | assumption
    | (dsimp only)
    | refine kept_fst ?_ (by assumption)
    | apply kept_wipe
    | apply kept_readBack
    | apply kept_foldl
    | apply kept_foldl_fst
    | apply kept_getD
    | intro _
    | split
    | exact kept_pair _ (by assumption)
    | (unfold Kept; dsimp only; first | refine kept_parts ?_ | refine kept_parts_out ?_ | refine kept_parts_put ?_ | refine kept_parts_regs ?_ | refine kept_parts_filter ?_)
    | contradiction

theorem kept_wipeDomain {st0 : State} {s : State} {o : ResetOp} {bad : List Nat} (hk : Kept st0 s) : Kept st0 (wipeDomain s o bad) := by
  unfold wipeDomain
  with_reducible repeat' first
    | assumption
    | (dsimp only)
    | refine kept_fst ?_ (by assumption)
    | apply kept_wipeGbuf
    | apply kept_wipeCore
    | apply kept_resetBlocks
    | apply kept_wr
    | apply kept_unbind
    | apply kept_wipePart
    | apply kept_foldl
    | apply kept_foldl_fst
    | apply kept_getD
    | intro _
    | split
    | exact kept_pair _ (by assumption)
    | (unfold Kept; dsimp only; first | refine kept_parts ?_ | refine kept_parts_out ?_ | refine kept_parts_put ?_ | refine kept_parts_regs ?_ | refine kept_parts_filter ?_)
    | contradiction

theorem kept_endReset {st0 : State} {s : State} {o : ResetOp} (hk : Kept st0 s) : Kept st0 (endReset s o) := by
  unfold endReset
  with_reducible repeat' first
    | assumption
    | (dsimp only)
    | refine kept_fst ?_ (by assumption)
    | apply kept_wrs
    | apply kept_wr
    | apply kept_setPartState
    | apply kept_loadWiped
    | apply kept_postEvent
    | apply kept_foldl
    | apply kept_foldl_fst
    | apply kept_getD
    | intro _
    | split
    | exact kept_pair _ (by assumption)
    | (unfold Kept; dsimp only; first | refine kept_parts ?_ | refine kept_parts_out ?_ | refine kept_parts_put ?_ | refine kept_parts_regs ?_ | refine kept_parts_filter ?_)
    | contradiction

theorem kept_settleOps {st0 : State} {y0 : List ResetOp} {y1 : State} (hk : Kept st0 y1) : Kept st0 (settleOps y0 y1) := by
  induction y0 generalizing y1 with
  | nil => unfold settleOps; with_reducible repeat' first
    | assumption
    | (dsimp only)
    | refine kept_fst ?_ (by assumption)
    | apply kept_endReset
    | apply kept_foldl
    | apply kept_foldl_fst
    | apply kept_getD
    | intro _
    | split
    | exact kept_pair _ (by assumption)
    | (unfold Kept; dsimp only; first | refine kept_parts ?_ | refine kept_parts_out ?_ | refine kept_parts_put ?_ | refine kept_parts_regs ?_ | refine kept_parts_filter ?_)
    | contradiction
  | cons xx tt ih => unfold settleOps; with_reducible repeat' first
    | apply ih
    | assumption
    | (dsimp only)
    | refine kept_fst ?_ (by assumption)
    | apply kept_endReset
    | apply kept_foldl
    | apply kept_foldl_fst
    | apply kept_getD
    | intro _
    | split
    | exact kept_pair _ (by assumption)
    | (unfold Kept; dsimp only; first | refine kept_parts ?_ | refine kept_parts_out ?_ | refine kept_parts_put ?_ | refine kept_parts_regs ?_ | refine kept_parts_filter ?_)
    | contradiction

theorem kept_settle {st0 : State} {s : State} (hk : Kept st0 s) : Kept st0 (settle s) := by
  unfold settle
  with_reducible repeat' first
    | assumption
    | (dsimp only)
    | refine kept_fst ?_ (by assumption)
    | apply kept_settleOps
    | apply kept_foldl
    | apply kept_foldl_fst
    | apply kept_getD
    | intro _
    | split
    | exact kept_pair _ (by assumption)
    | (unfold Kept; dsimp only; first | refine kept_parts ?_ | refine kept_parts_out ?_ | refine kept_parts_put ?_ | refine kept_parts_regs ?_ | refine kept_parts_filter ?_)
    | contradiction

theorem kept_wiped {st0 : State} {s : State} {o : ResetOp} {bad : List Nat} (hk : Kept st0 s) : Kept st0 (wiped s o bad) := by
  unfold wiped
  with_reducible repeat' first
    | assumption
    | (dsimp only)
    | refine kept_fst ?_ (by assumption)
    | apply kept_wipeDomain
    | apply kept_setOp
    | apply kept_endReset
    | apply kept_settle
    | apply kept_startKats
    | apply kept_deliver
    | apply kept_foldl
    | apply kept_foldl_fst
    | apply kept_getD
    | intro _
    | split
    | exact kept_pair _ (by assumption)
    | (unfold Kept; dsimp only; first | refine kept_parts ?_ | refine kept_parts_out ?_ | refine kept_parts_put ?_ | refine kept_parts_regs ?_ | refine kept_parts_filter ?_)
    | contradiction

theorem kept_closeAll {st0 : State} {s : State} (hk : Kept st0 s) : Kept st0 (closeAll s) := by
  unfold closeAll
  with_reducible repeat' first
    | assumption
    | (dsimp only)
    | refine kept_fst ?_ (by assumption)
    | apply kept_originate
    | apply kept_foldl
    | apply kept_foldl_fst
    | apply kept_getD
    | intro _
    | split
    | exact kept_pair _ (by assumption)
    | (unfold Kept; dsimp only; first | refine kept_parts ?_ | refine kept_parts_out ?_ | refine kept_parts_put ?_ | refine kept_parts_regs ?_ | refine kept_parts_filter ?_)
    | contradiction

theorem kept_stoneBefore {st0 : State} {s : State} {domain : Nat} {reason : Nat} (hk : Kept st0 s) : Kept st0 (stoneBefore s domain reason) := by
  unfold stoneBefore
  with_reducible repeat' first
    | assumption
    | (dsimp only)
    | refine kept_fst ?_ (by assumption)
    | apply kept_stoneLose
    | apply kept_flushRecs
    | apply kept_loadRecord
    | apply kept_stoneWrite
    | apply kept_stoneFlush
    | apply kept_foldl
    | apply kept_foldl_fst
    | apply kept_getD
    | intro _
    | split
    | exact kept_pair _ (by assumption)
    | (unfold Kept; dsimp only; first | refine kept_parts ?_ | refine kept_parts_out ?_ | refine kept_parts_put ?_ | refine kept_parts_regs ?_ | refine kept_parts_filter ?_)
    | contradiction

theorem kept_clearDevice {st0 : State} {s : State} {cold : Bool} {reason : Nat} (hk : Kept st0 s) : Kept st0 (clearDevice s cold reason) := by
  unfold clearDevice
  have h1 : Kept st0 (setFault (closeAll (emit (stoneBefore s (if cold then 4 else 3) reason) (.pin 0 false)))
      (stoneBefore s (if cold then 4 else 3) reason).trip) := kept_setFault (kept_closeAll (kept_emit _ (kept_stoneBefore hk)))
  dsimp only
  generalize setFault _ _ = u at h1
  have h2 : Kept st0 (if cold then powerDown u else u) := by
    split
    · exact kept_powerDown h1
    · exact h1
  generalize (if cold then powerDown u else u) = v at h2
  apply kept_wrs
  generalize saveRegs v (keptRegs cold) ++ saveRetired v = sv
  have h4 : ∀ x y, Kept st0 { bare v with
    localNs := v.localNs, pwrGood := true, trip := v.trip, faultN := v.faultN, railsUp := v.railsUp, mem := v.mem, junk := x, marks := v.marks
    dirty := v.dirty, devReset := y } := fun _ _ => ⟨h2.1, h2.2.1, h2.2.2.1, h2.2.2.2.1, fun _ => regsCanon_nil⟩
  have h3 := kept_wrs (y1 := sv) (kept_variantRegs (h4 v.junk (some ⟨cold, false, true⟩)))
  split
  · exact h3
  · exact kept_inc h3

theorem kept_deviceReset {st0 : State} {s : State} {cold : Bool} {reason : Nat} (hk : Kept st0 s) : Kept st0 (deviceReset s cold reason) := by
  unfold deviceReset
  with_reducible repeat' first
    | assumption
    | (dsimp only)
    | refine kept_fst ?_ (by assumption)
    | apply kept_stoneWrite
    | apply kept_clearDevice
    | apply kept_foldl
    | apply kept_foldl_fst
    | apply kept_getD
    | intro _
    | split
    | exact kept_pair _ (by assumption)
    | (unfold Kept; dsimp only; first | refine kept_parts ?_ | refine kept_parts_out ?_ | refine kept_parts_put ?_ | refine kept_parts_regs ?_ | refine kept_parts_filter ?_)
    | contradiction

theorem kept_leaveReset {st0 : State} {s : State} (hk : Kept st0 s) : Kept st0 (leaveReset s) := by
  unfold leaveReset
  with_reducible repeat' first
    | assumption
    | (dsimp only)
    | refine kept_fst ?_ (by assumption)
    | apply kept_startBoot
    | apply kept_foldl
    | apply kept_foldl_fst
    | apply kept_getD
    | intro _
    | split
    | exact kept_pair _ (by assumption)
    | (unfold Kept; dsimp only; first | refine kept_parts ?_ | refine kept_parts_out ?_ | refine kept_parts_put ?_ | refine kept_parts_regs ?_ | refine kept_parts_filter ?_)
    | contradiction

theorem kept_wipeDone {st0 : State} {s : State} {bad : List Nat} (hk : Kept st0 s) : Kept st0 (wipeDone s bad) := by
  unfold wipeDone
  split
  · split
    · exact hk
    · exact kept_leaveReset ⟨hk.1, hk.2.1, hk.2.2.1, fun _ => rfl, hk.2.2.2.2⟩
  · split
    · exact kept_wiped hk
    · exact hk

theorem kept_stretchEnd {st0 : State} {s : State} (hk : Kept st0 s) : Kept st0 (stretchEnd s) := by
  unfold stretchEnd
  with_reducible repeat' first
    | assumption
    | (dsimp only)
    | refine kept_fst ?_ (by assumption)
    | apply kept_leaveReset
    | apply kept_emit
    | apply kept_foldl
    | apply kept_foldl_fst
    | apply kept_getD
    | intro _
    | split
    | exact kept_pair _ (by assumption)
    | (unfold Kept; dsimp only; first | refine kept_parts ?_ | refine kept_parts_out ?_ | refine kept_parts_put ?_ | refine kept_parts_regs ?_ | refine kept_parts_filter ?_)
    | contradiction

theorem kept_thermTrip {st0 : State} {s : State} (hk : Kept st0 s) : Kept st0 (thermTrip s) := by
  unfold thermTrip
  with_reducible repeat' first
    | assumption
    | (dsimp only)
    | refine kept_fst ?_ (by assumption)
    | apply kept_emit
    | apply kept_setFault
    | apply kept_deviceReset
    | apply kept_foldl
    | apply kept_foldl_fst
    | apply kept_getD
    | intro _
    | split
    | exact kept_pair _ (by assumption)
    | (unfold Kept; dsimp only; first | refine kept_parts ?_ | refine kept_parts_out ?_ | refine kept_parts_put ?_ | refine kept_parts_regs ?_ | refine kept_parts_filter ?_)
    | contradiction

theorem kept_requestReset {st0 : State} {s : State} {domain : Nat} {target : Nat} {reason : Nat} (hk : Kept st0 s) : Kept st0 (requestReset s domain target reason) := by
  unfold requestReset
  with_reducible repeat' first
    | assumption
    | (dsimp only)
    | refine kept_fst ?_ (by assumption)
    | apply kept_startReset
    | apply kept_deviceReset
    | apply kept_foldl
    | apply kept_foldl_fst
    | apply kept_getD
    | intro _
    | split
    | exact kept_pair _ (by assumption)
    | (unfold Kept; dsimp only; first | refine kept_parts ?_ | refine kept_parts_out ?_ | refine kept_parts_put ?_ | refine kept_parts_regs ?_ | refine kept_parts_filter ?_)
    | contradiction

theorem kept_resetCtrl {st0 : State} {s : State} (hk : Kept st0 s) : Kept st0 (resetCtrl s) := by
  unfold resetCtrl
  with_reducible repeat' first
    | assumption
    | (dsimp only)
    | refine kept_fst ?_ (by assumption)
    | apply kept_inc
    | apply kept_requestReset
    | apply kept_wr
    | apply kept_foldl
    | apply kept_foldl_fst
    | apply kept_getD
    | intro _
    | split
    | exact kept_pair _ (by assumption)
    | (unfold Kept; dsimp only; first | refine kept_parts ?_ | refine kept_parts_out ?_ | refine kept_parts_put ?_ | refine kept_parts_regs ?_ | refine kept_parts_filter ?_)
    | contradiction

theorem kept_forceAckTimeout {st0 : State} {s : State} {block : Nat} (hk : Kept st0 s) : Kept st0 (forceAckTimeout s block) := by
  unfold forceAckTimeout
  with_reducible repeat' first
    | assumption
    | (dsimp only)
    | refine kept_fst ?_ (by assumption)
    | apply kept_deviceReset
    | apply kept_addDefect
    | apply kept_addCluster
    | apply kept_foldl
    | apply kept_foldl_fst
    | apply kept_getD
    | intro _
    | split
    | exact kept_pair _ (by assumption)
    | (unfold Kept; dsimp only; first | refine kept_parts ?_ | refine kept_parts_out ?_ | refine kept_parts_put ?_ | refine kept_parts_regs ?_ | refine kept_parts_filter ?_)
    | contradiction

theorem kept_deliveryFailed {st0 : State} {s : State} {p : Nat} (hk : Kept st0 s) : Kept st0 (deliveryFailed s p) := by
  unfold deliveryFailed
  with_reducible repeat' first
    | assumption
    | (dsimp only)
    | refine kept_fst ?_ (by assumption)
    | apply kept_settle
    | apply kept_failPhys
    | apply kept_foldl
    | apply kept_foldl_fst
    | apply kept_getD
    | intro _
    | split
    | exact kept_pair _ (by assumption)
    | (unfold Kept; dsimp only; first | refine kept_parts ?_ | refine kept_parts_out ?_ | refine kept_parts_put ?_ | refine kept_parts_regs ?_ | refine kept_parts_filter ?_)
    | contradiction

theorem kept_delivered {st0 : State} {s : State} {p : Nat} (hk : Kept st0 s) : Kept st0 (delivered s p) := by
  unfold delivered
  with_reducible repeat' first
    | assumption
    | (dsimp only)
    | refine kept_fst ?_ (by assumption)
    | apply kept_startKats
    | apply kept_foldl
    | apply kept_foldl_fst
    | apply kept_getD
    | intro _
    | split
    | exact kept_pair _ (by assumption)
    | (unfold Kept; dsimp only; first | refine kept_parts ?_ | refine kept_parts_out ?_ | refine kept_parts_put ?_ | refine kept_parts_regs ?_ | refine kept_parts_filter ?_)
    | contradiction

theorem kept_chunkReport {st0 : State} {s : State} {p : Nat} {missing : Nat} {digestOk : Bool} (hk : Kept st0 s) : Kept st0 (chunkReport s p missing digestOk) := by
  unfold chunkReport
  with_reducible repeat' first
    | assumption
    | (dsimp only)
    | refine kept_fst ?_ (by assumption)
    | apply kept_delivered
    | apply kept_deliveryFailed
    | apply kept_emit
    | apply kept_inc
    | apply kept_foldl
    | apply kept_foldl_fst
    | apply kept_getD
    | intro _
    | split
    | exact kept_pair _ (by assumption)
    | (unfold Kept; dsimp only; first | refine kept_parts ?_ | refine kept_parts_out ?_ | refine kept_parts_put ?_ | refine kept_parts_regs ?_ | refine kept_parts_filter ?_)
    | contradiction

theorem kept_katsPassed {st0 : State} {s : State} {k : Nat} (hk : Kept st0 s) : Kept st0 (katsPassed s k) := by
  unfold katsPassed
  with_reducible repeat' first
    | assumption
    | (dsimp only)
    | refine kept_fst ?_ (by assumption)
    | apply kept_putFirmware
    | apply kept_setCore
    | apply kept_foldl
    | apply kept_foldl_fst
    | apply kept_getD
    | intro _
    | split
    | exact kept_pair _ (by assumption)
    | (unfold Kept; dsimp only; first | refine kept_parts ?_ | refine kept_parts_out ?_ | refine kept_parts_put ?_ | refine kept_parts_regs ?_ | refine kept_parts_filter ?_)
    | contradiction

theorem kept_katFailed {st0 : State} {s : State} {k : Nat} (hk : Kept st0 s) : Kept st0 (katFailed s k) := by
  rw [katFailed]
  split
  · exact kept_failPhys hk
  · split
    · have hp : ∀ u x, Kept st0 u → Kept st0 { u with kats := x } := fun _ _ h => h
      exact hp _ _ (kept_addCluster hk)
    · split
      · exact kept_stopBoot hk
      · exact hk

theorem kept_katDone {st0 : State} {s : State} {u : KatUnit} {crc : Nat} (hk : Kept st0 s) : Kept st0 (katDone s u crc) := by
  unfold katDone
  with_reducible repeat' first
    | assumption
    | (dsimp only)
    | refine kept_fst ?_ (by assumption)
    | apply kept_settle
    | apply kept_katsPassed
    | apply kept_katFailed
    | apply kept_foldl
    | apply kept_foldl_fst
    | apply kept_getD
    | intro _
    | split
    | exact kept_pair _ (by assumption)
    | (unfold Kept; dsimp only; first | refine kept_parts ?_ | refine kept_parts_out ?_ | refine kept_parts_put ?_ | refine kept_parts_regs ?_ | refine kept_parts_filter ?_)
    | contradiction

theorem kept_execCoreReset {st0 : State} {target : Nat} {reason : Nat} {s : State} (hk : Kept st0 s) {t : State} (e : execCoreReset target reason s = .next t) : Kept st0 t := by
  unfold execCoreReset at e
  injection e with e
  subst e
  with_reducible repeat' first
    | assumption
    | (dsimp only)
    | refine kept_fst ?_ (by assumption)
    | apply kept_requestReset
    | apply kept_foldl
    | apply kept_foldl_fst
    | apply kept_getD
    | intro _
    | split
    | exact kept_pair _ (by assumption)
    | (unfold Kept; dsimp only; first | refine kept_parts ?_ | refine kept_parts_out ?_ | refine kept_parts_put ?_ | refine kept_parts_regs ?_ | refine kept_parts_filter ?_)
    | contradiction

theorem kept_execClusterReset {st0 : State} {target : Nat} {reason : Nat} {s : State} (hk : Kept st0 s) {t : State} (e : execClusterReset target reason s = .next t) : Kept st0 t := by
  unfold execClusterReset at e
  injection e with e
  subst e
  with_reducible repeat' first
    | assumption
    | (dsimp only)
    | refine kept_fst ?_ (by assumption)
    | apply kept_requestReset
    | apply kept_foldl
    | apply kept_foldl_fst
    | apply kept_getD
    | intro _
    | split
    | exact kept_pair _ (by assumption)
    | (unfold Kept; dsimp only; first | refine kept_parts ?_ | refine kept_parts_out ?_ | refine kept_parts_put ?_ | refine kept_parts_regs ?_ | refine kept_parts_filter ?_)
    | contradiction

theorem kept_execPartitionReset {st0 : State} {target : Nat} {reason : Nat} {s : State} (hk : Kept st0 s) {t : State} (e : execPartitionReset target reason s = .next t) : Kept st0 t := by
  unfold execPartitionReset at e
  injection e with e
  subst e
  with_reducible repeat' first
    | assumption
    | (dsimp only)
    | refine kept_fst ?_ (by assumption)
    | apply kept_requestReset
    | apply kept_foldl
    | apply kept_foldl_fst
    | apply kept_getD
    | intro _
    | split
    | exact kept_pair _ (by assumption)
    | (unfold Kept; dsimp only; first | refine kept_parts ?_ | refine kept_parts_out ?_ | refine kept_parts_put ?_ | refine kept_parts_regs ?_ | refine kept_parts_filter ?_)
    | contradiction

theorem kept_execDeviceWarmReset {st0 : State} {reason : Nat} {s : State} (hk : Kept st0 s) {t : State} (e : execDeviceWarmReset reason s = .next t) : Kept st0 t := by
  unfold execDeviceWarmReset at e
  injection e with e
  subst e
  with_reducible repeat' first
    | assumption
    | (dsimp only)
    | refine kept_fst ?_ (by assumption)
    | apply kept_deviceReset
    | apply kept_foldl
    | apply kept_foldl_fst
    | apply kept_getD
    | intro _
    | split
    | exact kept_pair _ (by assumption)
    | (unfold Kept; dsimp only; first | refine kept_parts ?_ | refine kept_parts_out ?_ | refine kept_parts_put ?_ | refine kept_parts_regs ?_ | refine kept_parts_filter ?_)
    | contradiction

theorem kept_execDeviceColdReset {st0 : State} {reason : Nat} {s : State} (hk : Kept st0 s) {t : State} (e : execDeviceColdReset reason s = .next t) : Kept st0 t := by
  unfold execDeviceColdReset at e
  injection e with e
  subst e
  with_reducible repeat' first
    | assumption
    | (dsimp only)
    | refine kept_fst ?_ (by assumption)
    | apply kept_deviceReset
    | apply kept_foldl
    | apply kept_foldl_fst
    | apply kept_getD
    | intro _
    | split
    | exact kept_pair _ (by assumption)
    | (unfold Kept; dsimp only; first | refine kept_parts ?_ | refine kept_parts_out ?_ | refine kept_parts_put ?_ | refine kept_parts_regs ?_ | refine kept_parts_filter ?_)
    | contradiction

theorem kept_execQuiesceDone {st0 : State} {s : State} (hk : Kept st0 s) {t : State} (e : execQuiesceDone s = .next t) : Kept st0 t := by
  unfold execQuiesceDone at e
  injection e with e
  subst e
  with_reducible repeat' first
    | assumption
    | (dsimp only)
    | refine kept_fst ?_ (by assumption)
    | apply kept_stopDomain
    | apply kept_foldl
    | apply kept_foldl_fst
    | apply kept_getD
    | intro _
    | split
    | exact kept_pair _ (by assumption)
    | (unfold Kept; dsimp only; first | refine kept_parts ?_ | refine kept_parts_out ?_ | refine kept_parts_put ?_ | refine kept_parts_regs ?_ | refine kept_parts_filter ?_)
    | contradiction

theorem kept_execQuiesceTimeout {st0 : State} {s : State} (hk : Kept st0 s) {t : State} (e : execQuiesceTimeout s = .next t) : Kept st0 t := by
  unfold execQuiesceTimeout at e
  injection e with e
  subst e
  with_reducible repeat' first
    | assumption
    | (dsimp only)
    | refine kept_fst ?_ (by assumption)
    | apply kept_stopDomain
    | apply kept_foldl
    | apply kept_foldl_fst
    | apply kept_getD
    | intro _
    | split
    | exact kept_pair _ (by assumption)
    | (unfold Kept; dsimp only; first | refine kept_parts ?_ | refine kept_parts_out ?_ | refine kept_parts_put ?_ | refine kept_parts_regs ?_ | refine kept_parts_filter ?_)
    | contradiction

theorem kept_execForceAckTimeout {st0 : State} {block : Nat} {s : State} (hk : Kept st0 s) {t : State} (e : execForceAckTimeout block s = .next t) : Kept st0 t := by
  unfold execForceAckTimeout at e
  injection e with e
  subst e
  with_reducible repeat' first
    | assumption
    | (dsimp only)
    | refine kept_fst ?_ (by assumption)
    | apply kept_forceAckTimeout
    | apply kept_foldl
    | apply kept_foldl_fst
    | apply kept_getD
    | intro _
    | split
    | exact kept_pair _ (by assumption)
    | (unfold Kept; dsimp only; first | refine kept_parts ?_ | refine kept_parts_out ?_ | refine kept_parts_put ?_ | refine kept_parts_regs ?_ | refine kept_parts_filter ?_)
    | contradiction

theorem kept_execBoundaryDrainDone {st0 : State} {s : State} (hk : Kept st0 s) {t : State} (e : execBoundaryDrainDone s = .next t) : Kept st0 t := by
  unfold execBoundaryDrainDone at e
  injection e with e
  subst e
  with_reducible repeat' first
    | assumption
    | (dsimp only)
    | refine kept_fst ?_ (by assumption)
    | apply kept_drained
    | apply kept_foldl
    | apply kept_foldl_fst
    | apply kept_getD
    | intro _
    | split
    | exact kept_pair _ (by assumption)
    | (unfold Kept; dsimp only; first | refine kept_parts ?_ | refine kept_parts_out ?_ | refine kept_parts_put ?_ | refine kept_parts_regs ?_ | refine kept_parts_filter ?_)
    | contradiction

theorem kept_execWipeDone {st0 : State} {bad : List Nat} {s : State} (hk : Kept st0 s) {t : State} (e : execWipeDone bad s = .next t) : Kept st0 t := by
  unfold execWipeDone at e
  injection e with e
  subst e
  with_reducible repeat' first
    | assumption
    | (dsimp only)
    | refine kept_fst ?_ (by assumption)
    | apply kept_wipeDone
    | apply kept_foldl
    | apply kept_foldl_fst
    | apply kept_getD
    | intro _
    | split
    | exact kept_pair _ (by assumption)
    | (unfold Kept; dsimp only; first | refine kept_parts ?_ | refine kept_parts_out ?_ | refine kept_parts_put ?_ | refine kept_parts_regs ?_ | refine kept_parts_filter ?_)
    | contradiction

theorem kept_execSysRstNInput {st0 : State} {s : State} (hk : Kept st0 s) {t : State} (e : execSysRstNInput s = .next t) : Kept st0 t := by
  unfold execSysRstNInput at e
  injection e with e
  subst e
  with_reducible repeat' first
    | assumption
    | (dsimp only)
    | refine kept_fst ?_ (by assumption)
    | apply kept_deviceReset
    | apply kept_foldl
    | apply kept_foldl_fst
    | apply kept_getD
    | intro _
    | split
    | exact kept_pair _ (by assumption)
    | (unfold Kept; dsimp only; first | refine kept_parts ?_ | refine kept_parts_out ?_ | refine kept_parts_put ?_ | refine kept_parts_regs ?_ | refine kept_parts_filter ?_)
    | contradiction

theorem kept_execSysRstNStretchEnd {st0 : State} {s : State} (hk : Kept st0 s) {t : State} (e : execSysRstNStretchEnd s = .next t) : Kept st0 t := by
  unfold execSysRstNStretchEnd at e
  injection e with e
  subst e
  with_reducible repeat' first
    | assumption
    | (dsimp only)
    | refine kept_fst ?_ (by assumption)
    | apply kept_stretchEnd
    | apply kept_foldl
    | apply kept_foldl_fst
    | apply kept_getD
    | intro _
    | split
    | exact kept_pair _ (by assumption)
    | (unfold Kept; dsimp only; first | refine kept_parts ?_ | refine kept_parts_out ?_ | refine kept_parts_put ?_ | refine kept_parts_regs ?_ | refine kept_parts_filter ?_)
    | contradiction

theorem kept_execPipWatchdog {st0 : State} {s : State} (hk : Kept st0 s) {t : State} (e : execPipWatchdog s = .next t) : Kept st0 t := by
  unfold execPipWatchdog at e
  injection e with e
  subst e
  with_reducible repeat' first
    | assumption
    | (dsimp only)
    | refine kept_fst ?_ (by assumption)
    | apply kept_deviceReset
    | apply kept_foldl
    | apply kept_foldl_fst
    | apply kept_getD
    | intro _
    | split
    | exact kept_pair _ (by assumption)
    | (unfold Kept; dsimp only; first | refine kept_parts ?_ | refine kept_parts_out ?_ | refine kept_parts_put ?_ | refine kept_parts_regs ?_ | refine kept_parts_filter ?_)
    | contradiction

theorem kept_execThermTrip {st0 : State} {s : State} (hk : Kept st0 s) {t : State} (e : execThermTrip s = .next t) : Kept st0 t := by
  unfold execThermTrip at e
  injection e with e
  subst e
  with_reducible repeat' first
    | assumption
    | (dsimp only)
    | refine kept_fst ?_ (by assumption)
    | apply kept_thermTrip
    | apply kept_foldl
    | apply kept_foldl_fst
    | apply kept_getD
    | intro _
    | split
    | exact kept_pair _ (by assumption)
    | (unfold Kept; dsimp only; first | refine kept_parts ?_ | refine kept_parts_out ?_ | refine kept_parts_put ?_ | refine kept_parts_regs ?_ | refine kept_parts_filter ?_)
    | contradiction

theorem kept_execPerstNFall {st0 : State} {s : State} (hk : Kept st0 s) {t : State} (e : execPerstNFall s = .next t) : Kept st0 t := by
  unfold execPerstNFall at e
  injection e with e
  subst e
  with_reducible repeat' first
    | assumption
    | (dsimp only)
    | refine kept_fst ?_ (by assumption)
    | apply kept_deviceReset
    | apply kept_foldl
    | apply kept_foldl_fst
    | apply kept_getD
    | intro _
    | split
    | exact kept_pair _ (by assumption)
    | (unfold Kept; dsimp only; first | refine kept_parts ?_ | refine kept_parts_out ?_ | refine kept_parts_put ?_ | refine kept_parts_regs ?_ | refine kept_parts_filter ?_)
    | contradiction

theorem kept_execPerstNRise {st0 : State} {s : State} (hk : Kept st0 s) {t : State} (e : execPerstNRise s = .next t) : Kept st0 t := by
  unfold execPerstNRise at e
  injection e with e
  subst e
  with_reducible repeat' first
    | assumption
    | (dsimp only)
    | refine kept_fst ?_ (by assumption)
    | apply kept_foldl
    | apply kept_foldl_fst
    | apply kept_getD
    | intro _
    | split
    | exact kept_pair _ (by assumption)
    | (unfold Kept; dsimp only; first | refine kept_parts ?_ | refine kept_parts_out ?_ | refine kept_parts_put ?_ | refine kept_parts_regs ?_ | refine kept_parts_filter ?_)
    | contradiction

theorem kept_execDlActiveLoss {st0 : State} {s : State} (hk : Kept st0 s) {t : State} (e : execDlActiveLoss s = .next t) : Kept st0 t := by
  unfold execDlActiveLoss at e
  injection e with e
  subst e
  with_reducible repeat' first
    | assumption
    | (dsimp only)
    | refine kept_fst ?_ (by assumption)
    | apply kept_deviceReset
    | apply kept_foldl
    | apply kept_foldl_fst
    | apply kept_getD
    | intro _
    | split
    | exact kept_pair _ (by assumption)
    | (unfold Kept; dsimp only; first | refine kept_parts ?_ | refine kept_parts_out ?_ | refine kept_parts_put ?_ | refine kept_parts_regs ?_ | refine kept_parts_filter ?_)
    | contradiction

theorem kept_execFwChunkReport {st0 : State} {phys : Nat} {missing : Nat} {digestOk : Bool} {s : State} (hk : Kept st0 s) {t : State} (e : execFwChunkReport phys missing digestOk s = .next t) : Kept st0 t := by
  unfold execFwChunkReport at e
  injection e with e
  subst e
  with_reducible repeat' first
    | assumption
    | (dsimp only)
    | refine kept_fst ?_ (by assumption)
    | apply kept_chunkReport
    | apply kept_foldl
    | apply kept_foldl_fst
    | apply kept_getD
    | intro _
    | split
    | exact kept_pair _ (by assumption)
    | (unfold Kept; dsimp only; first | refine kept_parts ?_ | refine kept_parts_out ?_ | refine kept_parts_put ?_ | refine kept_parts_regs ?_ | refine kept_parts_filter ?_)
    | contradiction

theorem kept_execFwReportTimeout {st0 : State} {phys : Nat} {s : State} (hk : Kept st0 s) {t : State} (e : execFwReportTimeout phys s = .next t) : Kept st0 t := by
  unfold execFwReportTimeout at e
  injection e with e
  subst e
  with_reducible repeat' first
    | assumption
    | (dsimp only)
    | refine kept_fst ?_ (by assumption)
    | apply kept_chunkReport
    | apply kept_foldl
    | apply kept_foldl_fst
    | apply kept_getD
    | intro _
    | split
    | exact kept_pair _ (by assumption)
    | (unfold Kept; dsimp only; first | refine kept_parts ?_ | refine kept_parts_out ?_ | refine kept_parts_put ?_ | refine kept_parts_regs ?_ | refine kept_parts_filter ?_)
    | contradiction

theorem kept_execKatDone {st0 : State} {unit : KatUnit} {crc : Nat} {s : State} (hk : Kept st0 s) {t : State} (e : execKatDone unit crc s = .next t) : Kept st0 t := by
  unfold execKatDone at e
  injection e with e
  subst e
  with_reducible repeat' first
    | assumption
    | (dsimp only)
    | refine kept_fst ?_ (by assumption)
    | apply kept_katDone
    | apply kept_foldl
    | apply kept_foldl_fst
    | apply kept_getD
    | intro _
    | split
    | exact kept_pair _ (by assumption)
    | (unfold Kept; dsimp only; first | refine kept_parts ?_ | refine kept_parts_out ?_ | refine kept_parts_put ?_ | refine kept_parts_regs ?_ | refine kept_parts_filter ?_)
    | contradiction

theorem kept_execKatTimeout {st0 : State} {phys : Nat} {s : State} (hk : Kept st0 s) {t : State} (e : execKatTimeout phys s = .next t) : Kept st0 t := by
  unfold execKatTimeout at e
  injection e with e
  subst e
  with_reducible repeat' first
    | assumption
    | (dsimp only)
    | refine kept_fst ?_ (by assumption)
    | apply kept_settle
    | apply kept_failPhys
    | apply kept_foldl
    | apply kept_foldl_fst
    | apply kept_getD
    | intro _
    | split
    | exact kept_pair _ (by assumption)
    | (unfold Kept; dsimp only; first | refine kept_parts ?_ | refine kept_parts_out ?_ | refine kept_parts_put ?_ | refine kept_parts_regs ?_ | refine kept_parts_filter ?_)
    | contradiction

end Sys2Proof.Machine
end

