-- ==== Sys2Proof/Laws/KeptSpdm.lean ====
section
/-!
SUPPORT. Sys2Proof/Laws/KeptSpdm.lean: every operation of Sys2Proof/Machine/Spdm.lean leaves the queue, appends to what has left the block, and keeps the canonical forms.
-/
set_option linter.unusedVariables false
set_option linter.unreachableTactic false
set_option linter.unusedTactic false
namespace Sys2Proof.Machine

theorem kept_setSpdm {st0 : State} {s : State} {p : SpdmPath} {x : SpdmLink} (hk : Kept st0 s) : Kept st0 (setSpdm s p x) := by
  unfold setSpdm
  with_reducible repeat' first
    | assumption
    | (dsimp only)
    | refine kept_fst ?_ (by assumption)
    | apply kept_foldl
    | apply kept_foldl_fst
    | apply kept_getD
    | intro _
    | split
    | exact kept_pair _ (by assumption)
    | (unfold Kept; dsimp only; first | refine kept_parts ?_ | refine kept_parts_out ?_ | refine kept_parts_put ?_ | refine kept_parts_regs ?_ | refine kept_parts_filter ?_)
    | contradiction

theorem kept_spdmOut {st0 : State} {s : State} {y1 : SpdmReq} {b : List Byte} (hk : Kept st0 s) : Kept st0 (spdmOut s y1 b) := by
  unfold spdmOut
  with_reducible repeat' first
    | assumption
    | (dsimp only)
    | refine kept_fst ?_ (by assumption)
    | apply kept_emit
    | apply kept_endMbox
    | apply kept_originate
    | apply kept_foldl
    | apply kept_foldl_fst
    | apply kept_getD
    | intro _
    | split
    | exact kept_pair _ (by assumption)
    | (unfold Kept; dsimp only; first | refine kept_parts ?_ | refine kept_parts_out ?_ | refine kept_parts_put ?_ | refine kept_parts_regs ?_ | refine kept_parts_filter ?_)
    | contradiction

theorem kept_spdmAnswer {st0 : State} {s : State} {y1 : SpdmReq} {b : List Byte} (hk : Kept st0 s) : Kept st0 (spdmAnswer s y1 b) := by
  unfold spdmAnswer
  with_reducible repeat' first
    | assumption
    | (dsimp only)
    | refine kept_fst ?_ (by assumption)
    | apply kept_spdmOut
    | apply kept_setSpdm
    | apply kept_foldl
    | apply kept_foldl_fst
    | apply kept_getD
    | intro _
    | split
    | exact kept_pair _ (by assumption)
    | (unfold Kept; dsimp only; first | refine kept_parts ?_ | refine kept_parts_out ?_ | refine kept_parts_put ?_ | refine kept_parts_regs ?_ | refine kept_parts_filter ?_)
    | contradiction

theorem kept_seqTaken {st0 : State} {s : State} {path : SpdmPath} {session : Option Nat} {seq : Nat} (hk : Kept st0 s) : Kept st0 (seqTaken s path session seq) := by
  unfold seqTaken
  with_reducible repeat' first
    | assumption
    | (dsimp only)
    | refine kept_fst ?_ (by assumption)
    | apply kept_foldl
    | apply kept_foldl_fst
    | apply kept_getD
    | intro _
    | split
    | exact kept_pair _ (by assumption)
    | (unfold Kept; dsimp only; first | refine kept_parts ?_ | refine kept_parts_out ?_ | refine kept_parts_put ?_ | refine kept_parts_regs ?_ | refine kept_parts_filter ?_)
    | contradiction

theorem kept_spdmVersion {st0 : State} {s : State} {y1 : SpdmReq} (hk : Kept st0 s) : Kept st0 (spdmVersion s y1).1 := by
  unfold spdmVersion
  with_reducible repeat' first
    | assumption
    | (dsimp only)
    | refine kept_fst ?_ (by assumption)
    | apply kept_setSpdm
    | apply kept_foldl
    | apply kept_foldl_fst
    | apply kept_getD
    | intro _
    | split
    | exact kept_pair _ (by assumption)
    | (unfold Kept; dsimp only; first | refine kept_parts ?_ | refine kept_parts_out ?_ | refine kept_parts_put ?_ | refine kept_parts_regs ?_ | refine kept_parts_filter ?_)
    | contradiction

theorem kept_spdmCaps {st0 : State} {s : State} {y1 : SpdmReq} (hk : Kept st0 s) : Kept st0 (spdmCaps s y1).1 := by
  unfold spdmCaps
  with_reducible repeat' first
    | assumption
    | (dsimp only)
    | refine kept_fst ?_ (by assumption)
    | apply kept_freshBytes
    | apply kept_setSpdm
    | apply kept_foldl
    | apply kept_foldl_fst
    | apply kept_getD
    | intro _
    | split
    | exact kept_pair _ (by assumption)
    | (unfold Kept; dsimp only; first | refine kept_parts ?_ | refine kept_parts_out ?_ | refine kept_parts_put ?_ | refine kept_parts_regs ?_ | refine kept_parts_filter ?_)
    | contradiction

theorem kept_spdmAlgs {st0 : State} {s : State} {y1 : SpdmReq} (hk : Kept st0 s) : Kept st0 (spdmAlgs s y1).1 := by
  unfold spdmAlgs
  with_reducible repeat' first
    | assumption
    | (dsimp only)
    | refine kept_fst ?_ (by assumption)
    | apply kept_setSpdm
    | apply kept_foldl
    | apply kept_foldl_fst
    | apply kept_getD
    | intro _
    | split
    | exact kept_pair _ (by assumption)
    | (unfold Kept; dsimp only; first | refine kept_parts ?_ | refine kept_parts_out ?_ | refine kept_parts_put ?_ | refine kept_parts_regs ?_ | refine kept_parts_filter ?_)
    | contradiction

theorem kept_spdmDigests {st0 : State} {s : State} {y1 : SpdmReq} (hk : Kept st0 s) : Kept st0 (spdmDigests s y1).1 := by
  unfold spdmDigests
  with_reducible repeat' first
    | assumption
    | (dsimp only)
    | refine kept_fst ?_ (by assumption)
    | apply kept_foldl
    | apply kept_foldl_fst
    | apply kept_getD
    | intro _
    | split
    | exact kept_pair _ (by assumption)
    | (unfold Kept; dsimp only; first | refine kept_parts ?_ | refine kept_parts_out ?_ | refine kept_parts_put ?_ | refine kept_parts_regs ?_ | refine kept_parts_filter ?_)
    | contradiction

theorem kept_spdmCert {st0 : State} {s : State} {y1 : SpdmReq} (hk : Kept st0 s) : Kept st0 (spdmCert s y1).1 := by
  unfold spdmCert
  with_reducible repeat' first
    | assumption
    | (dsimp only)
    | refine kept_fst ?_ (by assumption)
    | apply kept_foldl
    | apply kept_foldl_fst
    | apply kept_getD
    | intro _
    | split
    | exact kept_pair _ (by assumption)
    | (unfold Kept; dsimp only; first | refine kept_parts ?_ | refine kept_parts_out ?_ | refine kept_parts_put ?_ | refine kept_parts_regs ?_ | refine kept_parts_filter ?_)
    | contradiction

theorem kept_spdmChallenge {st0 : State} {s : State} {y1 : SpdmReq} (hk : Kept st0 s) : Kept st0 (spdmChallenge s y1).1 := by
  unfold spdmChallenge
  with_reducible repeat' first
    | assumption
    | (dsimp only)
    | refine kept_fst ?_ (by assumption)
    | apply kept_freshBytes
    | apply kept_foldl
    | apply kept_foldl_fst
    | apply kept_getD
    | intro _
    | split
    | exact kept_pair _ (by assumption)
    | (unfold Kept; dsimp only; first | refine kept_parts ?_ | refine kept_parts_out ?_ | refine kept_parts_put ?_ | refine kept_parts_regs ?_ | refine kept_parts_filter ?_)
    | contradiction

theorem kept_spdmMeas {st0 : State} {s : State} {y1 : SpdmReq} (hk : Kept st0 s) : Kept st0 (spdmMeas s y1).1 := by
  unfold spdmMeas
  with_reducible repeat' first
    | assumption
    | (dsimp only)
    | refine kept_fst ?_ (by assumption)
    | apply kept_freshBytes
    | apply kept_foldl
    | apply kept_foldl_fst
    | apply kept_getD
    | intro _
    | split
    | exact kept_pair _ (by assumption)
    | (unfold Kept; dsimp only; first | refine kept_parts ?_ | refine kept_parts_out ?_ | refine kept_parts_put ?_ | refine kept_parts_regs ?_ | refine kept_parts_filter ?_)
    | contradiction

theorem kept_spdmKeyExchange {st0 : State} {s : State} {y1 : SpdmReq} (hk : Kept st0 s) : Kept st0 (spdmKeyExchange s y1).1 := by
  unfold spdmKeyExchange
  with_reducible repeat' first
    | assumption
    | (dsimp only)
    | refine kept_fst ?_ (by assumption)
    | apply kept_freshBytes
    | apply kept_setSpdm
    | apply kept_foldl
    | apply kept_foldl_fst
    | apply kept_getD
    | intro _
    | split
    | exact kept_pair _ (by assumption)
    | (unfold Kept; dsimp only; first | refine kept_parts ?_ | refine kept_parts_out ?_ | refine kept_parts_put ?_ | refine kept_parts_regs ?_ | refine kept_parts_filter ?_)
    | contradiction

theorem kept_spdmFinish {st0 : State} {s : State} {y1 : SpdmReq} (hk : Kept st0 s) : Kept st0 (spdmFinish s y1).1 := by
  unfold spdmFinish
  with_reducible repeat' first
    | assumption
    | (dsimp only)
    | refine kept_fst ?_ (by assumption)
    | apply kept_setSpdm
    | apply kept_foldl
    | apply kept_foldl_fst
    | apply kept_getD
    | intro _
    | split
    | exact kept_pair _ (by assumption)
    | (unfold Kept; dsimp only; first | refine kept_parts ?_ | refine kept_parts_out ?_ | refine kept_parts_put ?_ | refine kept_parts_regs ?_ | refine kept_parts_filter ?_)
    | contradiction

theorem kept_spdmHeartbeat {st0 : State} {s : State} {y1 : SpdmReq} (hk : Kept st0 s) : Kept st0 (spdmHeartbeat s y1).1 := by
  unfold spdmHeartbeat
  with_reducible repeat' first
    | assumption
    | (dsimp only)
    | refine kept_fst ?_ (by assumption)
    | apply kept_foldl
    | apply kept_foldl_fst
    | apply kept_getD
    | intro _
    | split
    | exact kept_pair _ (by assumption)
    | (unfold Kept; dsimp only; first | refine kept_parts ?_ | refine kept_parts_out ?_ | refine kept_parts_put ?_ | refine kept_parts_regs ?_ | refine kept_parts_filter ?_)
    | contradiction

theorem kept_spdmKeyUpdate {st0 : State} {s : State} {y1 : SpdmReq} (hk : Kept st0 s) : Kept st0 (spdmKeyUpdate s y1).1 := by
  unfold spdmKeyUpdate
  with_reducible repeat' first
    | assumption
    | (dsimp only)
    | refine kept_fst ?_ (by assumption)
    | apply kept_foldl
    | apply kept_foldl_fst
    | apply kept_getD
    | intro _
    | split
    | exact kept_pair _ (by assumption)
    | (unfold Kept; dsimp only; first | refine kept_parts ?_ | refine kept_parts_out ?_ | refine kept_parts_put ?_ | refine kept_parts_regs ?_ | refine kept_parts_filter ?_)
    | contradiction

theorem kept_endSession {st0 : State} {s : State} {n : Nat} (hk : Kept st0 s) : Kept st0 (endSession s n) := by
  unfold endSession
  with_reducible repeat' first
    | assumption
    | (dsimp only)
    | refine kept_fst ?_ (by assumption)
    | apply kept_foldl
    | apply kept_foldl_fst
    | apply kept_getD
    | intro _
    | split
    | exact kept_pair _ (by assumption)
    | (unfold Kept; dsimp only; first | refine kept_parts ?_ | refine kept_parts_out ?_ | refine kept_parts_put ?_ | refine kept_parts_regs ?_ | refine kept_parts_filter ?_)
    | contradiction

theorem kept_spdmEnd {st0 : State} {s : State} {y1 : SpdmReq} (hk : Kept st0 s) : Kept st0 (spdmEnd s y1).1 := by
  unfold spdmEnd
  with_reducible repeat' first
    | assumption
    | (dsimp only)
    | refine kept_fst ?_ (by assumption)
    | apply kept_endSession
    | apply kept_foldl
    | apply kept_foldl_fst
    | apply kept_getD
    | intro _
    | split
    | exact kept_pair _ (by assumption)
    | (unfold Kept; dsimp only; first | refine kept_parts ?_ | refine kept_parts_out ?_ | refine kept_parts_put ?_ | refine kept_parts_regs ?_ | refine kept_parts_filter ?_)
    | contradiction

theorem kept_fuseDone {st0 : State} {s : State} {code : Nat} {arg : Nat} (hk : Kept st0 s) : Kept st0 (fuseDone s code arg) := by
  unfold fuseDone
  with_reducible repeat' first
    | assumption
    | (dsimp only)
    | refine kept_fst ?_ (by assumption)
    | apply kept_postEvent
    | apply kept_stoneWrite
    | apply kept_foldl
    | apply kept_foldl_fst
    | apply kept_getD
    | intro _
    | split
    | exact kept_pair _ (by assumption)
    | (unfold Kept; dsimp only; first | refine kept_parts ?_ | refine kept_parts_out ?_ | refine kept_parts_put ?_ | refine kept_parts_regs ?_ | refine kept_parts_filter ?_)
    | contradiction

theorem kept_fuseBlow {st0 : State} {s : State} {y1 : SpdmReq} {code : Nat} {arg : Nat} {f : Fuses} (hk : Kept st0 s) : Kept st0 (fuseBlow s y1 code arg f).1 := by
  unfold fuseBlow
  with_reducible repeat' first
    | assumption
    | (dsimp only)
    | refine kept_fst ?_ (by assumption)
    | apply kept_fuseDone
    | apply kept_foldl
    | apply kept_foldl_fst
    | apply kept_getD
    | intro _
    | split
    | exact kept_pair _ (by assumption)
    | (unfold Kept; dsimp only; first | refine kept_parts ?_ | refine kept_parts_out ?_ | refine kept_parts_put ?_ | refine kept_parts_regs ?_ | refine kept_parts_filter ?_)
    | contradiction

theorem kept_keyEnroll {st0 : State} {s : State} {y1 : SpdmReq} (hk : Kept st0 s) : Kept st0 (keyEnroll s y1).1 := by
  unfold keyEnroll
  with_reducible repeat' first
    | assumption
    | (dsimp only)
    | refine kept_fst ?_ (by assumption)
    | apply kept_fuseBlow
    | apply kept_foldl
    | apply kept_foldl_fst
    | apply kept_getD
    | intro _
    | split
    | exact kept_pair _ (by assumption)
    | (unfold Kept; dsimp only; first | refine kept_parts ?_ | refine kept_parts_out ?_ | refine kept_parts_put ?_ | refine kept_parts_regs ?_ | refine kept_parts_filter ?_)
    | contradiction

theorem kept_keyRevoke {st0 : State} {s : State} {y1 : SpdmReq} (hk : Kept st0 s) : Kept st0 (keyRevoke s y1).1 := by
  unfold keyRevoke
  with_reducible repeat' first
    | assumption
    | (dsimp only)
    | refine kept_fst ?_ (by assumption)
    | apply kept_fuseBlow
    | apply kept_foldl
    | apply kept_foldl_fst
    | apply kept_getD
    | intro _
    | split
    | exact kept_pair _ (by assumption)
    | (unfold Kept; dsimp only; first | refine kept_parts ?_ | refine kept_parts_out ?_ | refine kept_parts_put ?_ | refine kept_parts_regs ?_ | refine kept_parts_filter ?_)
    | contradiction

theorem kept_setSigRequired {st0 : State} {s : State} {y1 : SpdmReq} (hk : Kept st0 s) : Kept st0 (setSigRequired s y1).1 := by
  unfold setSigRequired
  with_reducible repeat' first
    | assumption
    | (dsimp only)
    | refine kept_fst ?_ (by assumption)
    | apply kept_fuseBlow
    | apply kept_foldl
    | apply kept_foldl_fst
    | apply kept_getD
    | intro _
    | split
    | exact kept_pair _ (by assumption)
    | (unfold Kept; dsimp only; first | refine kept_parts ?_ | refine kept_parts_out ?_ | refine kept_parts_put ?_ | refine kept_parts_regs ?_ | refine kept_parts_filter ?_)
    | contradiction

theorem kept_raiseMinSvn {st0 : State} {s : State} {y1 : SpdmReq} (hk : Kept st0 s) : Kept st0 (raiseMinSvn s y1).1 := by
  unfold raiseMinSvn
  with_reducible repeat' first
    | assumption
    | (dsimp only)
    | refine kept_fst ?_ (by assumption)
    | apply kept_fuseBlow
    | apply kept_foldl
    | apply kept_foldl_fst
    | apply kept_getD
    | intro _
    | split
    | exact kept_pair _ (by assumption)
    | (unfold Kept; dsimp only; first | refine kept_parts ?_ | refine kept_parts_out ?_ | refine kept_parts_put ?_ | refine kept_parts_regs ?_ | refine kept_parts_filter ?_)
    | contradiction

theorem kept_lcTransition {st0 : State} {s : State} {y1 : SpdmReq} (hk : Kept st0 s) : Kept st0 (lcTransition s y1).1 := by
  unfold lcTransition
  with_reducible repeat' first
    | assumption
    | (dsimp only)
    | refine kept_fst ?_ (by assumption)
    | apply kept_stoneWrite
    | apply kept_stoneFlush
    | apply kept_fuseDone
    | apply kept_foldl
    | apply kept_foldl_fst
    | apply kept_getD
    | intro _
    | split
    | exact kept_pair _ (by assumption)
    | (unfold Kept; dsimp only; first | refine kept_parts ?_ | refine kept_parts_out ?_ | refine kept_parts_put ?_ | refine kept_parts_regs ?_ | refine kept_parts_filter ?_)
    | contradiction

theorem kept_sealedDevid {st0 : State} {s : State} {y1 : SpdmReq} (hk : Kept st0 s) : Kept st0 (sealedDevid s y1).1 := by
  unfold sealedDevid
  with_reducible repeat' first
    | assumption
    | (dsimp only)
    | refine kept_fst ?_ (by assumption)
    | apply kept_fuseDone
    | apply kept_foldl
    | apply kept_foldl_fst
    | apply kept_getD
    | intro _
    | split
    | exact kept_pair _ (by assumption)
    | (unfold Kept; dsimp only; first | refine kept_parts ?_ | refine kept_parts_out ?_ | refine kept_parts_put ?_ | refine kept_parts_regs ?_ | refine kept_parts_filter ?_)
    | contradiction

theorem kept_spdmServe {st0 : State} {s : State} {y1 : SpdmReq} {code : Nat} {level : Nat} {f : State → SpdmReq → State × List Byte} (hk : Kept st0 s) (h_f : ∀ z0 z1, Kept st0 z0 → Kept st0 (f z0 z1).1) : Kept st0 (spdmServe s y1 code level f) := by
  unfold spdmServe
  split
  · exact hk
  · split
    · exact kept_seqTaken (kept_spdmAnswer hk)
    · exact kept_seqTaken (kept_spdmAnswer (h_f _ _ hk))

theorem kept_vendorRun {st0 : State} {f : State → SpdmReq → State × Status × List Byte} {s : State} {y2 : SpdmReq} (hk : Kept st0 s) (h_f : ∀ z0 z1, Kept st0 z0 → Kept st0 (f z0 z1).1) : Kept st0 (vendorRun f s y2).1 := by
  exact h_f _ _ hk

theorem kept_serveVersion {st0 : State} {s : State} {y1 : SpdmReq} (hk : Kept st0 s) : Kept st0 (serveVersion s y1) := by
  unfold serveVersion
  with_reducible repeat' first
    | assumption
    | (dsimp only)
    | refine kept_fst ?_ (by assumption)
    | apply kept_spdmVersion
    | apply kept_seqTaken
    | apply kept_spdmAnswer
    | apply kept_foldl
    | apply kept_foldl_fst
    | apply kept_getD
    | intro _
    | split
    | exact kept_pair _ (by assumption)
    | (unfold Kept; dsimp only; first | refine kept_parts ?_ | refine kept_parts_out ?_ | refine kept_parts_put ?_ | refine kept_parts_regs ?_ | refine kept_parts_filter ?_)
    | contradiction

theorem kept_serveLc {st0 : State} {s : State} {y1 : SpdmReq} (hk : Kept st0 s) : Kept st0 (serveLc s y1) := by
  unfold serveLc
  with_reducible repeat' first
    | assumption
    | (dsimp only)
    | refine kept_fst ?_ (by assumption)
    | apply kept_spdmServe
    | apply kept_vendorRun
    | apply kept_lcTransition
    | apply kept_deviceReset
    | apply kept_foldl
    | apply kept_foldl_fst
    | apply kept_getD
    | intro _
    | split
    | exact kept_pair _ (by assumption)
    | (unfold Kept; dsimp only; first | refine kept_parts ?_ | refine kept_parts_out ?_ | refine kept_parts_put ?_ | refine kept_parts_regs ?_ | refine kept_parts_filter ?_)
    | contradiction

theorem kept_spdmVendor {st0 : State} {s : State} {y1 : SpdmReq} (hk : Kept st0 s) : Kept st0 (spdmVendor s y1).1 := by
  unfold spdmVendor
  dsimp only
  split
  · exact hk
  · split
    · rename_i f e
      unfold vendorOf at e
      repeat' split at e
      all_goals first
        | (injection e with e; subst e; apply kept_vendorRun hk; intro _ _ hz; with_reducible first | exact kept_keyEnroll hz | exact kept_keyRevoke hz | exact kept_setSigRequired hz | exact kept_raiseMinSvn hz | exact kept_lcTransition hz | exact kept_sealedDevid hz)
        | cases e
    · exact hk

theorem kept_spdmMessage {st0 : State} {s : State} {y1 : SpdmReq} {ver : Nat} {code : Nat} (hk : Kept st0 s) : Kept st0 (spdmMessage s y1 ver code).1 := by
  have step : ∀ (b : Prop) [Decidable b] (n : Nat) (g : State → SpdmReq → State × List Byte) (y : Option (Nat × (State → SpdmReq → State × List Byte))),
      Kept st0 (g s y1).1 → (∀ l f, y = some (l, f) → Kept st0 (f s y1).1) → ∀ l f, (if b then some (n, g) else y) = some (l, f) → Kept st0 (f s y1).1 := by
    intro b _ n g y hg hy l f e
    by_cases hb : b
    · rw [if_pos hb] at e
      injection e with e
      injection e with _ e
      exact e ▸ hg
    · rw [if_neg hb] at e
      exact hy l f e
  have h : ∀ l f, spdmHandler code = some (l, f) → Kept st0 (f s y1).1 := by
    unfold spdmHandler
    refine step _ 3 _ _ (kept_spdmDigests hk) ?_
    refine step _ 3 _ _ (kept_spdmCert hk) ?_
    refine step _ 3 _ _ (kept_spdmChallenge hk) ?_
    refine step _ 3 _ _ (kept_spdmMeas hk) ?_
    refine step _ 1 _ _ (kept_spdmCaps hk) ?_
    refine step _ 2 _ _ (kept_spdmAlgs hk) ?_
    refine step _ 3 _ _ (kept_spdmKeyExchange hk) ?_
    refine step _ 3 _ _ (kept_spdmHeartbeat hk) ?_
    refine step _ 3 _ _ (kept_spdmKeyUpdate hk) ?_
    refine step _ 3 _ _ (kept_spdmEnd hk) ?_
    refine step _ 3 _ _ (kept_spdmVendor hk) ?_
    intro l f e
    cases e
  unfold spdmMessage
  split
  · exact kept_spdmVersion hk
  · split
    · exact hk
    · split
      · exact hk
      · rename_i level f e
        split
        · exact hk
        · exact h level f e

theorem kept_spdmWhole {st0 : State} {s : State} {y1 : SpdmReq} {b : List Byte} (hk : Kept st0 s) : Kept st0 (spdmWhole s y1 b).1 := by
  unfold spdmWhole
  with_reducible repeat' first
    | assumption
    | (dsimp only)
    | refine kept_fst ?_ (by assumption)
    | apply kept_spdmMessage
    | apply kept_foldl
    | apply kept_foldl_fst
    | apply kept_getD
    | intro _
    | split
    | exact kept_pair _ (by assumption)
    | (unfold Kept; dsimp only; first | refine kept_parts ?_ | refine kept_parts_out ?_ | refine kept_parts_put ?_ | refine kept_parts_regs ?_ | refine kept_parts_filter ?_)
    | contradiction

theorem kept_spdmChunkSend {st0 : State} {s : State} {y1 : SpdmReq} (hk : Kept st0 s) : Kept st0 (spdmChunkSend s y1).1 := by
  unfold spdmChunkSend
  with_reducible repeat' first
    | assumption
    | (dsimp only)
    | refine kept_fst ?_ (by assumption)
    | apply kept_setSpdm
    | apply kept_spdmWhole
    | apply kept_foldl
    | apply kept_foldl_fst
    | apply kept_getD
    | intro _
    | split
    | exact kept_pair _ (by assumption)
    | (unfold Kept; dsimp only; first | refine kept_parts ?_ | refine kept_parts_out ?_ | refine kept_parts_put ?_ | refine kept_parts_regs ?_ | refine kept_parts_filter ?_)
    | contradiction

theorem kept_spdmChunkGet {st0 : State} {s : State} {y1 : SpdmReq} (hk : Kept st0 s) : Kept st0 (spdmChunkGet s y1).1 := by
  unfold spdmChunkGet
  with_reducible repeat' first
    | assumption
    | (dsimp only)
    | refine kept_fst ?_ (by assumption)
    | apply kept_setSpdm
    | apply kept_foldl
    | apply kept_foldl_fst
    | apply kept_getD
    | intro _
    | split
    | exact kept_pair _ (by assumption)
    | (unfold Kept; dsimp only; first | refine kept_parts ?_ | refine kept_parts_out ?_ | refine kept_parts_put ?_ | refine kept_parts_regs ?_ | refine kept_parts_filter ?_)
    | contradiction

theorem kept_spdmRaw {st0 : State} {s : State} {path : SpdmPath} {session : Option Nat} {seq : Nat} {b : List Byte} (hk : Kept st0 s) : Kept st0 (spdmRaw s path session seq b) := by
  unfold spdmRaw
  with_reducible repeat' first
    | assumption
    | (dsimp only)
    | refine kept_fst ?_ (by assumption)
    | apply kept_spdmAnswer
    | apply kept_spdmChunkSend
    | apply kept_spdmChunkGet
    | apply kept_spdmMessage
    | apply kept_deviceReset
    | apply kept_foldl
    | apply kept_foldl_fst
    | apply kept_getD
    | intro _
    | split
    | exact kept_pair _ (by assumption)
    | (unfold Kept; dsimp only; first | refine kept_parts ?_ | refine kept_parts_out ?_ | refine kept_parts_put ?_ | refine kept_parts_regs ?_ | refine kept_parts_filter ?_)
    | contradiction

theorem kept_execGetVersion {st0 : State} {req : SpdmReq} {s : State} (hk : Kept st0 s) {t : State} (e : execGetVersion req s = .next t) : Kept st0 t := by
  unfold execGetVersion at e
  injection e with e
  subst e
  with_reducible repeat' first
    | assumption
    | (dsimp only)
    | refine kept_fst ?_ (by assumption)
    | apply kept_serveVersion
    | apply kept_foldl
    | apply kept_foldl_fst
    | apply kept_getD
    | intro _
    | split
    | exact kept_pair _ (by assumption)
    | (unfold Kept; dsimp only; first | refine kept_parts ?_ | refine kept_parts_out ?_ | refine kept_parts_put ?_ | refine kept_parts_regs ?_ | refine kept_parts_filter ?_)
    | contradiction

theorem kept_execGetCapabilities {st0 : State} {req : SpdmReq} {s : State} (hk : Kept st0 s) {t : State} (e : execGetCapabilities req s = .next t) : Kept st0 t := by
  unfold execGetCapabilities at e
  injection e with e
  subst e
  with_reducible repeat' first
    | assumption
    | (dsimp only)
    | refine kept_fst ?_ (by assumption)
    | apply kept_spdmServe
    | apply kept_spdmCaps
    | apply kept_foldl
    | apply kept_foldl_fst
    | apply kept_getD
    | intro _
    | split
    | exact kept_pair _ (by assumption)
    | (unfold Kept; dsimp only; first | refine kept_parts ?_ | refine kept_parts_out ?_ | refine kept_parts_put ?_ | refine kept_parts_regs ?_ | refine kept_parts_filter ?_)
    | contradiction

theorem kept_execNegotiateAlgorithms {st0 : State} {req : SpdmReq} {s : State} (hk : Kept st0 s) {t : State} (e : execNegotiateAlgorithms req s = .next t) : Kept st0 t := by
  unfold execNegotiateAlgorithms at e
  injection e with e
  subst e
  with_reducible repeat' first
    | assumption
    | (dsimp only)
    | refine kept_fst ?_ (by assumption)
    | apply kept_spdmServe
    | apply kept_spdmAlgs
    | apply kept_foldl
    | apply kept_foldl_fst
    | apply kept_getD
    | intro _
    | split
    | exact kept_pair _ (by assumption)
    | (unfold Kept; dsimp only; first | refine kept_parts ?_ | refine kept_parts_out ?_ | refine kept_parts_put ?_ | refine kept_parts_regs ?_ | refine kept_parts_filter ?_)
    | contradiction

theorem kept_execGetDigests {st0 : State} {req : SpdmReq} {s : State} (hk : Kept st0 s) {t : State} (e : execGetDigests req s = .next t) : Kept st0 t := by
  unfold execGetDigests at e
  injection e with e
  subst e
  with_reducible repeat' first
    | assumption
    | (dsimp only)
    | refine kept_fst ?_ (by assumption)
    | apply kept_spdmServe
    | apply kept_spdmDigests
    | apply kept_foldl
    | apply kept_foldl_fst
    | apply kept_getD
    | intro _
    | split
    | exact kept_pair _ (by assumption)
    | (unfold Kept; dsimp only; first | refine kept_parts ?_ | refine kept_parts_out ?_ | refine kept_parts_put ?_ | refine kept_parts_regs ?_ | refine kept_parts_filter ?_)
    | contradiction

theorem kept_execGetCertificate {st0 : State} {req : SpdmReq} {s : State} (hk : Kept st0 s) {t : State} (e : execGetCertificate req s = .next t) : Kept st0 t := by
  unfold execGetCertificate at e
  injection e with e
  subst e
  with_reducible repeat' first
    | assumption
    | (dsimp only)
    | refine kept_fst ?_ (by assumption)
    | apply kept_spdmServe
    | apply kept_spdmCert
    | apply kept_foldl
    | apply kept_foldl_fst
    | apply kept_getD
    | intro _
    | split
    | exact kept_pair _ (by assumption)
    | (unfold Kept; dsimp only; first | refine kept_parts ?_ | refine kept_parts_out ?_ | refine kept_parts_put ?_ | refine kept_parts_regs ?_ | refine kept_parts_filter ?_)
    | contradiction

theorem kept_execChallenge {st0 : State} {req : SpdmReq} {s : State} (hk : Kept st0 s) {t : State} (e : execChallenge req s = .next t) : Kept st0 t := by
  unfold execChallenge at e
  injection e with e
  subst e
  with_reducible repeat' first
    | assumption
    | (dsimp only)
    | refine kept_fst ?_ (by assumption)
    | apply kept_spdmServe
    | apply kept_spdmChallenge
    | apply kept_foldl
    | apply kept_foldl_fst
    | apply kept_getD
    | intro _
    | split
    | exact kept_pair _ (by assumption)
    | (unfold Kept; dsimp only; first | refine kept_parts ?_ | refine kept_parts_out ?_ | refine kept_parts_put ?_ | refine kept_parts_regs ?_ | refine kept_parts_filter ?_)
    | contradiction

theorem kept_execGetMeasurements {st0 : State} {req : SpdmReq} {s : State} (hk : Kept st0 s) {t : State} (e : execGetMeasurements req s = .next t) : Kept st0 t := by
  unfold execGetMeasurements at e
  injection e with e
  subst e
  with_reducible repeat' first
    | assumption
    | (dsimp only)
    | refine kept_fst ?_ (by assumption)
    | apply kept_spdmServe
    | apply kept_spdmMeas
    | apply kept_foldl
    | apply kept_foldl_fst
    | apply kept_getD
    | intro _
    | split
    | exact kept_pair _ (by assumption)
    | (unfold Kept; dsimp only; first | refine kept_parts ?_ | refine kept_parts_out ?_ | refine kept_parts_put ?_ | refine kept_parts_regs ?_ | refine kept_parts_filter ?_)
    | contradiction

theorem kept_execKeyExchange {st0 : State} {req : SpdmReq} {s : State} (hk : Kept st0 s) {t : State} (e : execKeyExchange req s = .next t) : Kept st0 t := by
  unfold execKeyExchange at e
  injection e with e
  subst e
  with_reducible repeat' first
    | assumption
    | (dsimp only)
    | refine kept_fst ?_ (by assumption)
    | apply kept_spdmServe
    | apply kept_spdmKeyExchange
    | apply kept_foldl
    | apply kept_foldl_fst
    | apply kept_getD
    | intro _
    | split
    | exact kept_pair _ (by assumption)
    | (unfold Kept; dsimp only; first | refine kept_parts ?_ | refine kept_parts_out ?_ | refine kept_parts_put ?_ | refine kept_parts_regs ?_ | refine kept_parts_filter ?_)
    | contradiction

theorem kept_execFinish {st0 : State} {req : SpdmReq} {s : State} (hk : Kept st0 s) {t : State} (e : execFinish req s = .next t) : Kept st0 t := by
  unfold execFinish at e
  injection e with e
  subst e
  with_reducible repeat' first
    | assumption
    | (dsimp only)
    | refine kept_fst ?_ (by assumption)
    | apply kept_spdmServe
    | apply kept_spdmFinish
    | apply kept_foldl
    | apply kept_foldl_fst
    | apply kept_getD
    | intro _
    | split
    | exact kept_pair _ (by assumption)
    | (unfold Kept; dsimp only; first | refine kept_parts ?_ | refine kept_parts_out ?_ | refine kept_parts_put ?_ | refine kept_parts_regs ?_ | refine kept_parts_filter ?_)
    | contradiction

theorem kept_execHeartbeatSpdm {st0 : State} {req : SpdmReq} {s : State} (hk : Kept st0 s) {t : State} (e : execHeartbeatSpdm req s = .next t) : Kept st0 t := by
  unfold execHeartbeatSpdm at e
  injection e with e
  subst e
  with_reducible repeat' first
    | assumption
    | (dsimp only)
    | refine kept_fst ?_ (by assumption)
    | apply kept_spdmServe
    | apply kept_spdmHeartbeat
    | apply kept_foldl
    | apply kept_foldl_fst
    | apply kept_getD
    | intro _
    | split
    | exact kept_pair _ (by assumption)
    | (unfold Kept; dsimp only; first | refine kept_parts ?_ | refine kept_parts_out ?_ | refine kept_parts_put ?_ | refine kept_parts_regs ?_ | refine kept_parts_filter ?_)
    | contradiction

theorem kept_execKeyUpdate {st0 : State} {req : SpdmReq} {s : State} (hk : Kept st0 s) {t : State} (e : execKeyUpdate req s = .next t) : Kept st0 t := by
  unfold execKeyUpdate at e
  injection e with e
  subst e
  with_reducible repeat' first
    | assumption
    | (dsimp only)
    | refine kept_fst ?_ (by assumption)
    | apply kept_spdmServe
    | apply kept_spdmKeyUpdate
    | apply kept_foldl
    | apply kept_foldl_fst
    | apply kept_getD
    | intro _
    | split
    | exact kept_pair _ (by assumption)
    | (unfold Kept; dsimp only; first | refine kept_parts ?_ | refine kept_parts_out ?_ | refine kept_parts_put ?_ | refine kept_parts_regs ?_ | refine kept_parts_filter ?_)
    | contradiction

theorem kept_execEndSession {st0 : State} {req : SpdmReq} {s : State} (hk : Kept st0 s) {t : State} (e : execEndSession req s = .next t) : Kept st0 t := by
  unfold execEndSession at e
  injection e with e
  subst e
  with_reducible repeat' first
    | assumption
    | (dsimp only)
    | refine kept_fst ?_ (by assumption)
    | apply kept_spdmServe
    | apply kept_spdmEnd
    | apply kept_foldl
    | apply kept_foldl_fst
    | apply kept_getD
    | intro _
    | split
    | exact kept_pair _ (by assumption)
    | (unfold Kept; dsimp only; first | refine kept_parts ?_ | refine kept_parts_out ?_ | refine kept_parts_put ?_ | refine kept_parts_regs ?_ | refine kept_parts_filter ?_)
    | contradiction

theorem kept_execChunkSend {st0 : State} {req : SpdmReq} {s : State} (hk : Kept st0 s) {t : State} (e : execChunkSend req s = .next t) : Kept st0 t := by
  unfold execChunkSend at e
  injection e with e
  subst e
  with_reducible repeat' first
    | assumption
    | (dsimp only)
    | refine kept_fst ?_ (by assumption)
    | apply kept_spdmServe
    | apply kept_spdmChunkSend
    | apply kept_deviceReset
    | apply kept_foldl
    | apply kept_foldl_fst
    | apply kept_getD
    | intro _
    | split
    | exact kept_pair _ (by assumption)
    | (unfold Kept; dsimp only; first | refine kept_parts ?_ | refine kept_parts_out ?_ | refine kept_parts_put ?_ | refine kept_parts_regs ?_ | refine kept_parts_filter ?_)
    | contradiction

theorem kept_execChunkGet {st0 : State} {req : SpdmReq} {s : State} (hk : Kept st0 s) {t : State} (e : execChunkGet req s = .next t) : Kept st0 t := by
  unfold execChunkGet at e
  injection e with e
  subst e
  with_reducible repeat' first
    | assumption
    | (dsimp only)
    | refine kept_fst ?_ (by assumption)
    | apply kept_spdmServe
    | apply kept_spdmChunkGet
    | apply kept_foldl
    | apply kept_foldl_fst
    | apply kept_getD
    | intro _
    | split
    | exact kept_pair _ (by assumption)
    | (unfold Kept; dsimp only; first | refine kept_parts ?_ | refine kept_parts_out ?_ | refine kept_parts_put ?_ | refine kept_parts_regs ?_ | refine kept_parts_filter ?_)
    | contradiction

theorem kept_execKeyEnroll {st0 : State} {req : SpdmReq} {s : State} (hk : Kept st0 s) {t : State} (e : execKeyEnroll req s = .next t) : Kept st0 t := by
  unfold execKeyEnroll at e
  injection e with e
  subst e
  with_reducible repeat' first
    | assumption
    | (dsimp only)
    | refine kept_fst ?_ (by assumption)
    | apply kept_spdmServe
    | apply kept_vendorRun
    | apply kept_keyEnroll
    | apply kept_foldl
    | apply kept_foldl_fst
    | apply kept_getD
    | intro _
    | split
    | exact kept_pair _ (by assumption)
    | (unfold Kept; dsimp only; first | refine kept_parts ?_ | refine kept_parts_out ?_ | refine kept_parts_put ?_ | refine kept_parts_regs ?_ | refine kept_parts_filter ?_)
    | contradiction

theorem kept_execKeyRevoke {st0 : State} {req : SpdmReq} {s : State} (hk : Kept st0 s) {t : State} (e : execKeyRevoke req s = .next t) : Kept st0 t := by
  unfold execKeyRevoke at e
  injection e with e
  subst e
  with_reducible repeat' first
    | assumption
    | (dsimp only)
    | refine kept_fst ?_ (by assumption)
    | apply kept_spdmServe
    | apply kept_vendorRun
    | apply kept_keyRevoke
    | apply kept_foldl
    | apply kept_foldl_fst
    | apply kept_getD
    | intro _
    | split
    | exact kept_pair _ (by assumption)
    | (unfold Kept; dsimp only; first | refine kept_parts ?_ | refine kept_parts_out ?_ | refine kept_parts_put ?_ | refine kept_parts_regs ?_ | refine kept_parts_filter ?_)
    | contradiction

theorem kept_execSetSigRequired {st0 : State} {req : SpdmReq} {s : State} (hk : Kept st0 s) {t : State} (e : execSetSigRequired req s = .next t) : Kept st0 t := by
  unfold execSetSigRequired at e
  injection e with e
  subst e
  with_reducible repeat' first
    | assumption
    | (dsimp only)
    | refine kept_fst ?_ (by assumption)
    | apply kept_spdmServe
    | apply kept_vendorRun
    | apply kept_setSigRequired
    | apply kept_foldl
    | apply kept_foldl_fst
    | apply kept_getD
    | intro _
    | split
    | exact kept_pair _ (by assumption)
    | (unfold Kept; dsimp only; first | refine kept_parts ?_ | refine kept_parts_out ?_ | refine kept_parts_put ?_ | refine kept_parts_regs ?_ | refine kept_parts_filter ?_)
    | contradiction

theorem kept_execRaiseMinSvn {st0 : State} {req : SpdmReq} {s : State} (hk : Kept st0 s) {t : State} (e : execRaiseMinSvn req s = .next t) : Kept st0 t := by
  unfold execRaiseMinSvn at e
  injection e with e
  subst e
  with_reducible repeat' first
    | assumption
    | (dsimp only)
    | refine kept_fst ?_ (by assumption)
    | apply kept_spdmServe
    | apply kept_vendorRun
    | apply kept_raiseMinSvn
    | apply kept_foldl
    | apply kept_foldl_fst
    | apply kept_getD
    | intro _
    | split
    | exact kept_pair _ (by assumption)
    | (unfold Kept; dsimp only; first | refine kept_parts ?_ | refine kept_parts_out ?_ | refine kept_parts_put ?_ | refine kept_parts_regs ?_ | refine kept_parts_filter ?_)
    | contradiction

theorem kept_execLcTransition {st0 : State} {req : SpdmReq} {s : State} (hk : Kept st0 s) {t : State} (e : execLcTransition req s = .next t) : Kept st0 t := by
  unfold execLcTransition at e
  injection e with e
  subst e
  with_reducible repeat' first
    | assumption
    | (dsimp only)
    | refine kept_fst ?_ (by assumption)
    | apply kept_serveLc
    | apply kept_foldl
    | apply kept_foldl_fst
    | apply kept_getD
    | intro _
    | split
    | exact kept_pair _ (by assumption)
    | (unfold Kept; dsimp only; first | refine kept_parts ?_ | refine kept_parts_out ?_ | refine kept_parts_put ?_ | refine kept_parts_regs ?_ | refine kept_parts_filter ?_)
    | contradiction

theorem kept_execGetSealedDevid {st0 : State} {req : SpdmReq} {s : State} (hk : Kept st0 s) {t : State} (e : execGetSealedDevid req s = .next t) : Kept st0 t := by
  unfold execGetSealedDevid at e
  injection e with e
  subst e
  with_reducible repeat' first
    | assumption
    | (dsimp only)
    | refine kept_fst ?_ (by assumption)
    | apply kept_spdmServe
    | apply kept_vendorRun
    | apply kept_sealedDevid
    | apply kept_foldl
    | apply kept_foldl_fst
    | apply kept_getD
    | intro _
    | split
    | exact kept_pair _ (by assumption)
    | (unfold Kept; dsimp only; first | refine kept_parts ?_ | refine kept_parts_out ?_ | refine kept_parts_put ?_ | refine kept_parts_regs ?_ | refine kept_parts_filter ?_)
    | contradiction

end Sys2Proof.Machine
end

