-- ==== Sys2Proof/Laws/KeptMgmt.lean ====
section
/-!
SUPPORT. Sys2Proof/Laws/KeptMgmt.lean: every operation of Sys2Proof/Machine/Mgmt.lean leaves the queue, appends to what has left the block, and keeps the canonical forms.
-/
set_option linter.unusedVariables false
set_option linter.unreachableTactic false
set_option linter.unusedTactic false
namespace Sys2Proof.Machine

theorem kept_mgmtReject {st0 : State} {s : State} {y1 : MgmtReq} {cmd : Nat} (hk : Kept st0 s) : Kept st0 (mgmtReject s y1 cmd) := by
  unfold mgmtReject
  with_reducible repeat' first
    | assumption
    | (dsimp only)
    | refine kept_fst ?_ (by assumption)
    | apply kept_inc
    | apply kept_stoneWrite
    | apply kept_mgmtAnswer
    | apply kept_foldl
    | apply kept_foldl_fst
    | apply kept_getD
    | intro _
    | split
    | exact kept_pair _ (by assumption)
    | (unfold Kept; dsimp only; first | refine kept_parts ?_ | refine kept_parts_out ?_ | refine kept_parts_put ?_ | refine kept_parts_regs ?_ | refine kept_parts_filter ?_)
    | contradiction

theorem kept_mgmtServe {st0 : State} {s : State} {y1 : MgmtReq} {cmd : Nat} {c : MgmtClass} {lenOk : Nat → Bool} {f : State → MgmtReq → State} (hk : Kept st0 s) (h_f : ∀ z0 z1, Kept st0 z0 → Kept st0 (f z0 z1)) : Kept st0 (mgmtServe s y1 cmd c lenOk f) := by
  unfold mgmtServe
  split
  · exact hk
  · split
    · exact hk
    · apply kept_seqTaken
      split
      · exact kept_mgmtAnswer hk
      · split
        · exact kept_mgmtReject hk
        · exact h_f _ _ hk

theorem kept_imageRead {st0 : State} {s : State} {y1 : MgmtReq} (hk : Kept st0 s) : Kept st0 (imageRead s y1) := by
  unfold imageRead
  with_reducible repeat' first
    | assumption
    | (dsimp only)
    | refine kept_fst ?_ (by assumption)
    | apply kept_mgmtAnswer
    | apply kept_readMem
    | apply kept_foldl
    | apply kept_foldl_fst
    | apply kept_getD
    | intro _
    | split
    | exact kept_pair _ (by assumption)
    | (unfold Kept; dsimp only; first | refine kept_parts ?_ | refine kept_parts_out ?_ | refine kept_parts_put ?_ | refine kept_parts_regs ?_ | refine kept_parts_filter ?_)
    | contradiction

theorem kept_spdmCommand {st0 : State} {s : State} {y1 : MgmtReq} (hk : Kept st0 s) : Kept st0 (spdmCommand s y1) := by
  unfold spdmCommand
  with_reducible repeat' first
    | assumption
    | (dsimp only)
    | refine kept_fst ?_ (by assumption)
    | apply kept_spdmRaw
    | apply kept_foldl
    | apply kept_foldl_fst
    | apply kept_getD
    | intro _
    | split
    | exact kept_pair _ (by assumption)
    | (unfold Kept; dsimp only; first | refine kept_parts ?_ | refine kept_parts_out ?_ | refine kept_parts_put ?_ | refine kept_parts_regs ?_ | refine kept_parts_filter ?_)
    | contradiction

theorem kept_setTorus {st0 : State} {s : State} {y1 : MgmtReq} (hk : Kept st0 s) : Kept st0 (setTorus s y1) := by
  unfold setTorus
  with_reducible repeat' first
    | assumption
    | (dsimp only)
    | refine kept_fst ?_ (by assumption)
    | apply kept_mgmtAnswer
    | apply kept_wrs
    | apply kept_sendIdents
    | apply kept_foldl
    | apply kept_foldl_fst
    | apply kept_getD
    | intro _
    | split
    | exact kept_pair _ (by assumption)
    | (unfold Kept; dsimp only; first | refine kept_parts ?_ | refine kept_parts_out ?_ | refine kept_parts_put ?_ | refine kept_parts_regs ?_ | refine kept_parts_filter ?_)
    | contradiction

theorem kept_setId {st0 : State} {s : State} {y1 : MgmtReq} (hk : Kept st0 s) : Kept st0 (setId s y1) := by
  unfold setId
  with_reducible repeat' first
    | assumption
    | (dsimp only)
    | refine kept_fst ?_ (by assumption)
    | apply kept_mgmtAnswer
    | apply kept_wrs
    | apply kept_sendIdents
    | apply kept_foldl
    | apply kept_foldl_fst
    | apply kept_getD
    | intro _
    | split
    | exact kept_pair _ (by assumption)
    | (unfold Kept; dsimp only; first | refine kept_parts ?_ | refine kept_parts_out ?_ | refine kept_parts_put ?_ | refine kept_parts_regs ?_ | refine kept_parts_filter ?_)
    | contradiction

theorem kept_imageLoad {st0 : State} {s : State} {y1 : MgmtReq} (hk : Kept st0 s) : Kept st0 (imageLoad s y1) := by
  unfold imageLoad
  with_reducible repeat' first
    | assumption
    | (dsimp only)
    | refine kept_fst ?_ (by assumption)
    | apply kept_mgmtAnswer
    | apply kept_loadRecord
    | apply kept_acceptLoad
    | apply kept_foldl
    | apply kept_foldl_fst
    | apply kept_getD
    | intro _
    | split
    | exact kept_pair _ (by assumption)
    | (unfold Kept; dsimp only; first | refine kept_parts ?_ | refine kept_parts_out ?_ | refine kept_parts_put ?_ | refine kept_parts_regs ?_ | refine kept_parts_filter ?_)
    | contradiction

theorem kept_resetCommand {st0 : State} {s : State} {y1 : MgmtReq} (hk : Kept st0 s) : Kept st0 (resetCommand s y1) := by
  unfold resetCommand
  with_reducible repeat' first
    | assumption
    | (dsimp only)
    | refine kept_fst ?_ (by assumption)
    | apply kept_mgmtAnswer
    | apply kept_requestReset
    | apply kept_stoneWrite
    | apply kept_foldl
    | apply kept_foldl_fst
    | apply kept_getD
    | intro _
    | split
    | exact kept_pair _ (by assumption)
    | (unfold Kept; dsimp only; first | refine kept_parts ?_ | refine kept_parts_out ?_ | refine kept_parts_put ?_ | refine kept_parts_regs ?_ | refine kept_parts_filter ?_)
    | contradiction

theorem kept_portRetrain {st0 : State} {s : State} {p : Nat} (hk : Kept st0 s) : Kept st0 (portRetrain s p) := by
  unfold portRetrain
  with_reducible repeat' first
    | assumption
    | (dsimp only)
    | refine kept_fst ?_ (by assumption)
    | apply kept_retrain
    | apply kept_dropPort
    | apply kept_foldl
    | apply kept_foldl_fst
    | apply kept_getD
    | intro _
    | split
    | exact kept_pair _ (by assumption)
    | (unfold Kept; dsimp only; first | refine kept_parts ?_ | refine kept_parts_out ?_ | refine kept_parts_put ?_ | refine kept_parts_regs ?_ | refine kept_parts_filter ?_)
    | contradiction

theorem kept_portDisable {st0 : State} {s : State} {p : Nat} (hk : Kept st0 s) : Kept st0 (portDisable s p) := by
  unfold portDisable
  with_reducible repeat' first
    | assumption
    | (dsimp only)
    | refine kept_fst ?_ (by assumption)
    | apply kept_dropPort
    | apply kept_foldl
    | apply kept_foldl_fst
    | apply kept_getD
    | intro _
    | split
    | exact kept_pair _ (by assumption)
    | (unfold Kept; dsimp only; first | refine kept_parts ?_ | refine kept_parts_out ?_ | refine kept_parts_put ?_ | refine kept_parts_regs ?_ | refine kept_parts_filter ?_)
    | contradiction

theorem kept_portEnable {st0 : State} {s : State} {p : Nat} (hk : Kept st0 s) : Kept st0 (portEnable s p) := by
  unfold portEnable
  with_reducible repeat' first
    | assumption
    | (dsimp only)
    | refine kept_fst ?_ (by assumption)
    | apply kept_dropPort
    | apply kept_foldl
    | apply kept_foldl_fst
    | apply kept_getD
    | intro _
    | split
    | exact kept_pair _ (by assumption)
    | (unfold Kept; dsimp only; first | refine kept_parts ?_ | refine kept_parts_out ?_ | refine kept_parts_put ?_ | refine kept_parts_regs ?_ | refine kept_parts_filter ?_)
    | contradiction

theorem kept_portCtrl {st0 : State} {act : Nat} {f : State → Nat → State} {s : State} {y3 : MgmtReq} (hk : Kept st0 s) (h_f : ∀ z0 z1, Kept st0 z0 → Kept st0 (f z0 z1)) : Kept st0 (portCtrl act f s y3) := by
  unfold portCtrl
  dsimp only
  split
  · exact kept_mgmtAnswer hk
  · split
    · exact hk
    · split
      · exact kept_mgmtAnswer hk
      · exact kept_mgmtAnswer (h_f _ _ hk)

theorem kept_stoneRead {st0 : State} {s : State} {y1 : MgmtReq} (hk : Kept st0 s) : Kept st0 (stoneRead s y1) := by
  unfold stoneRead
  with_reducible repeat' first
    | assumption
    | (dsimp only)
    | refine kept_fst ?_ (by assumption)
    | apply kept_mgmtAnswer
    | apply kept_foldl
    | apply kept_foldl_fst
    | apply kept_getD
    | intro _
    | split
    | exact kept_pair _ (by assumption)
    | (unfold Kept; dsimp only; first | refine kept_parts ?_ | refine kept_parts_out ?_ | refine kept_parts_put ?_ | refine kept_parts_regs ?_ | refine kept_parts_filter ?_)
    | contradiction

theorem kept_recoveryWrite {st0 : State} {s : State} {y1 : MgmtReq} (hk : Kept st0 s) : Kept st0 (recoveryWrite s y1) := by
  unfold recoveryWrite
  with_reducible repeat' first
    | assumption
    | (dsimp only)
    | refine kept_fst ?_ (by assumption)
    | apply kept_mgmtAnswer
    | apply kept_foldl
    | apply kept_foldl_fst
    | apply kept_getD
    | intro _
    | split
    | exact kept_pair _ (by assumption)
    | (unfold Kept; dsimp only; first | refine kept_parts ?_ | refine kept_parts_out ?_ | refine kept_parts_put ?_ | refine kept_parts_regs ?_ | refine kept_parts_filter ?_)
    | contradiction

theorem kept_recoveryCommit {st0 : State} {s : State} {y1 : MgmtReq} (hk : Kept st0 s) : Kept st0 (recoveryCommit s y1) := by
  unfold recoveryCommit
  with_reducible repeat' first
    | assumption
    | (dsimp only)
    | refine kept_fst ?_ (by assumption)
    | apply kept_mgmtAnswer
    | apply kept_setPreferred
    | apply kept_startBoot
    | apply kept_wrs
    | apply kept_foldl
    | apply kept_foldl_fst
    | apply kept_getD
    | intro _
    | split
    | exact kept_pair _ (by assumption)
    | (unfold Kept; dsimp only; first | refine kept_parts ?_ | refine kept_parts_out ?_ | refine kept_parts_put ?_ | refine kept_parts_regs ?_ | refine kept_parts_filter ?_)
    | contradiction

theorem kept_mboxStart {st0 : State} {s : State} {vector : Nat} (hk : Kept st0 s) : Kept st0 (mboxStart s vector) := by
  unfold mboxStart
  with_reducible repeat' first
    | assumption
    | (dsimp only)
    | refine kept_fst ?_ (by assumption)
    | apply kept_wr
    | apply kept_wrs
    | apply kept_endMbox
    | apply kept_sendReq
    | apply kept_foldl
    | apply kept_foldl_fst
    | apply kept_getD
    | intro _
    | split
    | exact kept_pair _ (by assumption)
    | (unfold Kept; dsimp only; first | refine kept_parts ?_ | refine kept_parts_out ?_ | refine kept_parts_put ?_ | refine kept_parts_regs ?_ | refine kept_parts_filter ?_)
    | contradiction

theorem kept_mboxTimeout {st0 : State} {s : State} (hk : Kept st0 s) : Kept st0 (mboxTimeout s) := by
  unfold mboxTimeout
  with_reducible repeat' first
    | assumption
    | (dsimp only)
    | refine kept_fst ?_ (by assumption)
    | apply kept_endMbox
    | apply kept_quarantine
    | apply kept_foldl
    | apply kept_foldl_fst
    | apply kept_getD
    | intro _
    | split
    | exact kept_pair _ (by assumption)
    | (unfold Kept; dsimp only; first | refine kept_parts ?_ | refine kept_parts_out ?_ | refine kept_parts_put ?_ | refine kept_parts_regs ?_ | refine kept_parts_filter ?_)
    | contradiction

theorem kept_mgmtResponse {st0 : State} {s : State} {p : Pkt} (hk : Kept st0 s) : Kept st0 (mgmtResponse s p) := by
  unfold mgmtResponse
  with_reducible repeat' first
    | assumption
    | (dsimp only)
    | refine kept_fst ?_ (by assumption)
    | apply kept_inc
    | apply kept_releaseTag
    | apply kept_endMbox
    | apply kept_rebindFeed
    | apply kept_loadFeedAnswer
    | apply kept_imageReadAnswer
    | apply kept_foldl
    | apply kept_foldl_fst
    | apply kept_getD
    | intro _
    | split
    | exact kept_pair _ (by assumption)
    | (unfold Kept; dsimp only; first | refine kept_parts ?_ | refine kept_parts_out ?_ | refine kept_parts_put ?_ | refine kept_parts_regs ?_ | refine kept_parts_filter ?_)
    | contradiction

theorem kept_imageReadTimeout {st0 : State} {s : State} {y1 : Nat} (hk : Kept st0 s) : Kept st0 (imageReadTimeout s y1) := by
  unfold imageReadTimeout
  with_reducible repeat' first
    | assumption
    | (dsimp only)
    | refine kept_fst ?_ (by assumption)
    | apply kept_originate
    | apply kept_sourceFailed
    | apply kept_quarantine
    | apply kept_foldl
    | apply kept_foldl_fst
    | apply kept_getD
    | intro _
    | split
    | exact kept_pair _ (by assumption)
    | (unfold Kept; dsimp only; first | refine kept_parts ?_ | refine kept_parts_out ?_ | refine kept_parts_put ?_ | refine kept_parts_regs ?_ | refine kept_parts_filter ?_)
    | contradiction

theorem kept_execMboxStart {st0 : State} {vector : Nat} {s : State} (hk : Kept st0 s) {t : State} (e : execMboxStart vector s = .next t) : Kept st0 t := by
  unfold execMboxStart at e
  injection e with e
  subst e
  with_reducible repeat' first
    | assumption
    | (dsimp only)
    | refine kept_fst ?_ (by assumption)
    | apply kept_mboxStart
    | apply kept_foldl
    | apply kept_foldl_fst
    | apply kept_getD
    | intro _
    | split
    | exact kept_pair _ (by assumption)
    | (unfold Kept; dsimp only; first | refine kept_parts ?_ | refine kept_parts_out ?_ | refine kept_parts_put ?_ | refine kept_parts_regs ?_ | refine kept_parts_filter ?_)
    | contradiction

theorem kept_execMboxTimeout {st0 : State} {s : State} (hk : Kept st0 s) {t : State} (e : execMboxTimeout s = .next t) : Kept st0 t := by
  unfold execMboxTimeout at e
  injection e with e
  subst e
  with_reducible repeat' first
    | assumption
    | (dsimp only)
    | refine kept_fst ?_ (by assumption)
    | apply kept_mboxTimeout
    | apply kept_foldl
    | apply kept_foldl_fst
    | apply kept_getD
    | intro _
    | split
    | exact kept_pair _ (by assumption)
    | (unfold Kept; dsimp only; first | refine kept_parts ?_ | refine kept_parts_out ?_ | refine kept_parts_put ?_ | refine kept_parts_regs ?_ | refine kept_parts_filter ?_)
    | contradiction

theorem kept_execMgmtResponse {st0 : State} {pkt : Pkt} {s : State} (hk : Kept st0 s) {t : State} (e : execMgmtResponse pkt s = .next t) : Kept st0 t := by
  unfold execMgmtResponse at e
  injection e with e
  subst e
  with_reducible repeat' first
    | assumption
    | (dsimp only)
    | refine kept_fst ?_ (by assumption)
    | apply kept_mgmtResponse
    | apply kept_foldl
    | apply kept_foldl_fst
    | apply kept_getD
    | intro _
    | split
    | exact kept_pair _ (by assumption)
    | (unfold Kept; dsimp only; first | refine kept_parts ?_ | refine kept_parts_out ?_ | refine kept_parts_put ?_ | refine kept_parts_regs ?_ | refine kept_parts_filter ?_)
    | contradiction

theorem kept_execMgmtSessionIdleTimeout {st0 : State} {session : Nat} {s : State} (hk : Kept st0 s) {t : State} (e : execMgmtSessionIdleTimeout session s = .next t) : Kept st0 t := by
  unfold execMgmtSessionIdleTimeout at e
  injection e with e
  subst e
  with_reducible repeat' first
    | assumption
    | (dsimp only)
    | refine kept_fst ?_ (by assumption)
    | apply kept_endSession
    | apply kept_foldl
    | apply kept_foldl_fst
    | apply kept_getD
    | intro _
    | split
    | exact kept_pair _ (by assumption)
    | (unfold Kept; dsimp only; first | refine kept_parts ?_ | refine kept_parts_out ?_ | refine kept_parts_put ?_ | refine kept_parts_regs ?_ | refine kept_parts_filter ?_)
    | contradiction

theorem kept_execIdentify {st0 : State} {req : MgmtReq} {s : State} (hk : Kept st0 s) {t : State} (e : execIdentify req s = .next t) : Kept st0 t := by
  unfold execIdentify at e
  injection e with e
  subst e
  with_reducible repeat' first
    | assumption
    | (dsimp only)
    | refine kept_fst ?_ (by assumption)
    | apply kept_mgmtServe
    | apply kept_mgmtAnswer
    | apply kept_foldl
    | apply kept_foldl_fst
    | apply kept_getD
    | intro _
    | split
    | exact kept_pair _ (by assumption)
    | (unfold Kept; dsimp only; first | refine kept_parts ?_ | refine kept_parts_out ?_ | refine kept_parts_put ?_ | refine kept_parts_regs ?_ | refine kept_parts_filter ?_)
    | contradiction

theorem kept_execFeedQuery {st0 : State} {req : MgmtReq} {s : State} (hk : Kept st0 s) {t : State} (e : execFeedQuery req s = .next t) : Kept st0 t := by
  unfold execFeedQuery at e
  injection e with e
  subst e
  with_reducible repeat' first
    | assumption
    | (dsimp only)
    | refine kept_fst ?_ (by assumption)
    | apply kept_mgmtServe
    | apply kept_mgmtAnswer
    | apply kept_foldl
    | apply kept_foldl_fst
    | apply kept_getD
    | intro _
    | split
    | exact kept_pair _ (by assumption)
    | (unfold Kept; dsimp only; first | refine kept_parts ?_ | refine kept_parts_out ?_ | refine kept_parts_put ?_ | refine kept_parts_regs ?_ | refine kept_parts_filter ?_)
    | contradiction

theorem kept_execSpdm {st0 : State} {req : MgmtReq} {s : State} (hk : Kept st0 s) {t : State} (e : execSpdm req s = .next t) : Kept st0 t := by
  unfold execSpdm at e
  injection e with e
  subst e
  with_reducible repeat' first
    | assumption
    | (dsimp only)
    | refine kept_fst ?_ (by assumption)
    | apply kept_mgmtServe
    | apply kept_spdmCommand
    | apply kept_foldl
    | apply kept_foldl_fst
    | apply kept_getD
    | intro _
    | split
    | exact kept_pair _ (by assumption)
    | (unfold Kept; dsimp only; first | refine kept_parts ?_ | refine kept_parts_out ?_ | refine kept_parts_put ?_ | refine kept_parts_regs ?_ | refine kept_parts_filter ?_)
    | contradiction

theorem kept_execPortReport {st0 : State} {req : MgmtReq} {s : State} (hk : Kept st0 s) {t : State} (e : execPortReport req s = .next t) : Kept st0 t := by
  unfold execPortReport at e
  injection e with e
  subst e
  with_reducible repeat' first
    | assumption
    | (dsimp only)
    | refine kept_fst ?_ (by assumption)
    | apply kept_mgmtServe
    | apply kept_mgmtAnswer
    | apply kept_foldl
    | apply kept_foldl_fst
    | apply kept_getD
    | intro _
    | split
    | exact kept_pair _ (by assumption)
    | (unfold Kept; dsimp only; first | refine kept_parts ?_ | refine kept_parts_out ?_ | refine kept_parts_put ?_ | refine kept_parts_regs ?_ | refine kept_parts_filter ?_)
    | contradiction

theorem kept_execSetTorus {st0 : State} {req : MgmtReq} {s : State} (hk : Kept st0 s) {t : State} (e : execSetTorus req s = .next t) : Kept st0 t := by
  unfold execSetTorus at e
  injection e with e
  subst e
  with_reducible repeat' first
    | assumption
    | (dsimp only)
    | refine kept_fst ?_ (by assumption)
    | apply kept_mgmtServe
    | apply kept_setTorus
    | apply kept_foldl
    | apply kept_foldl_fst
    | apply kept_getD
    | intro _
    | split
    | exact kept_pair _ (by assumption)
    | (unfold Kept; dsimp only; first | refine kept_parts ?_ | refine kept_parts_out ?_ | refine kept_parts_put ?_ | refine kept_parts_regs ?_ | refine kept_parts_filter ?_)
    | contradiction

theorem kept_execSetId {st0 : State} {req : MgmtReq} {s : State} (hk : Kept st0 s) {t : State} (e : execSetId req s = .next t) : Kept st0 t := by
  unfold execSetId at e
  injection e with e
  subst e
  with_reducible repeat' first
    | assumption
    | (dsimp only)
    | refine kept_fst ?_ (by assumption)
    | apply kept_mgmtServe
    | apply kept_setId
    | apply kept_foldl
    | apply kept_foldl_fst
    | apply kept_getD
    | intro _
    | split
    | exact kept_pair _ (by assumption)
    | (unfold Kept; dsimp only; first | refine kept_parts ?_ | refine kept_parts_out ?_ | refine kept_parts_put ?_ | refine kept_parts_regs ?_ | refine kept_parts_filter ?_)
    | contradiction

theorem kept_execImageLoad {st0 : State} {req : MgmtReq} {s : State} (hk : Kept st0 s) {t : State} (e : execImageLoad req s = .next t) : Kept st0 t := by
  unfold execImageLoad at e
  injection e with e
  subst e
  with_reducible repeat' first
    | assumption
    | (dsimp only)
    | refine kept_fst ?_ (by assumption)
    | apply kept_mgmtServe
    | apply kept_imageLoad
    | apply kept_foldl
    | apply kept_foldl_fst
    | apply kept_getD
    | intro _
    | split
    | exact kept_pair _ (by assumption)
    | (unfold Kept; dsimp only; first | refine kept_parts ?_ | refine kept_parts_out ?_ | refine kept_parts_put ?_ | refine kept_parts_regs ?_ | refine kept_parts_filter ?_)
    | contradiction

theorem kept_execReset {st0 : State} {req : MgmtReq} {s : State} (hk : Kept st0 s) {t : State} (e : execReset req s = .next t) : Kept st0 t := by
  unfold execReset at e
  injection e with e
  subst e
  with_reducible repeat' first
    | assumption
    | (dsimp only)
    | refine kept_fst ?_ (by assumption)
    | apply kept_mgmtServe
    | apply kept_resetCommand
    | apply kept_foldl
    | apply kept_foldl_fst
    | apply kept_getD
    | intro _
    | split
    | exact kept_pair _ (by assumption)
    | (unfold Kept; dsimp only; first | refine kept_parts ?_ | refine kept_parts_out ?_ | refine kept_parts_put ?_ | refine kept_parts_regs ?_ | refine kept_parts_filter ?_)
    | contradiction

theorem kept_execPortCtrlRetrain {st0 : State} {req : MgmtReq} {s : State} (hk : Kept st0 s) {t : State} (e : execPortCtrlRetrain req s = .next t) : Kept st0 t := by
  unfold execPortCtrlRetrain at e
  injection e with e
  subst e
  with_reducible repeat' first
    | assumption
    | (dsimp only)
    | refine kept_fst ?_ (by assumption)
    | apply kept_mgmtServe
    | apply kept_portCtrl
    | apply kept_portRetrain
    | apply kept_foldl
    | apply kept_foldl_fst
    | apply kept_getD
    | intro _
    | split
    | exact kept_pair _ (by assumption)
    | (unfold Kept; dsimp only; first | refine kept_parts ?_ | refine kept_parts_out ?_ | refine kept_parts_put ?_ | refine kept_parts_regs ?_ | refine kept_parts_filter ?_)
    | contradiction

theorem kept_execPortCtrlDisable {st0 : State} {req : MgmtReq} {s : State} (hk : Kept st0 s) {t : State} (e : execPortCtrlDisable req s = .next t) : Kept st0 t := by
  unfold execPortCtrlDisable at e
  injection e with e
  subst e
  with_reducible repeat' first
    | assumption
    | (dsimp only)
    | refine kept_fst ?_ (by assumption)
    | apply kept_mgmtServe
    | apply kept_portCtrl
    | apply kept_portDisable
    | apply kept_foldl
    | apply kept_foldl_fst
    | apply kept_getD
    | intro _
    | split
    | exact kept_pair _ (by assumption)
    | (unfold Kept; dsimp only; first | refine kept_parts ?_ | refine kept_parts_out ?_ | refine kept_parts_put ?_ | refine kept_parts_regs ?_ | refine kept_parts_filter ?_)
    | contradiction

theorem kept_execPortCtrlEnable {st0 : State} {req : MgmtReq} {s : State} (hk : Kept st0 s) {t : State} (e : execPortCtrlEnable req s = .next t) : Kept st0 t := by
  unfold execPortCtrlEnable at e
  injection e with e
  subst e
  with_reducible repeat' first
    | assumption
    | (dsimp only)
    | refine kept_fst ?_ (by assumption)
    | apply kept_mgmtServe
    | apply kept_portCtrl
    | apply kept_portEnable
    | apply kept_foldl
    | apply kept_foldl_fst
    | apply kept_getD
    | intro _
    | split
    | exact kept_pair _ (by assumption)
    | (unfold Kept; dsimp only; first | refine kept_parts ?_ | refine kept_parts_out ?_ | refine kept_parts_put ?_ | refine kept_parts_regs ?_ | refine kept_parts_filter ?_)
    | contradiction

theorem kept_execImageRead {st0 : State} {req : MgmtReq} {s : State} (hk : Kept st0 s) {t : State} (e : execImageRead req s = .next t) : Kept st0 t := by
  unfold execImageRead at e
  injection e with e
  subst e
  with_reducible repeat' first
    | assumption
    | (dsimp only)
    | refine kept_fst ?_ (by assumption)
    | apply kept_mgmtServe
    | apply kept_imageRead
    | apply kept_foldl
    | apply kept_foldl_fst
    | apply kept_getD
    | intro _
    | split
    | exact kept_pair _ (by assumption)
    | (unfold Kept; dsimp only; first | refine kept_parts ?_ | refine kept_parts_out ?_ | refine kept_parts_put ?_ | refine kept_parts_regs ?_ | refine kept_parts_filter ?_)
    | contradiction

theorem kept_execImageReadTimeout {st0 : State} {tag : Nat} {s : State} (hk : Kept st0 s) {t : State} (e : execImageReadTimeout tag s = .next t) : Kept st0 t := by
  unfold execImageReadTimeout at e
  injection e with e
  subst e
  with_reducible repeat' first
    | assumption
    | (dsimp only)
    | refine kept_fst ?_ (by assumption)
    | apply kept_imageReadTimeout
    | apply kept_foldl
    | apply kept_foldl_fst
    | apply kept_getD
    | intro _
    | split
    | exact kept_pair _ (by assumption)
    | (unfold Kept; dsimp only; first | refine kept_parts ?_ | refine kept_parts_out ?_ | refine kept_parts_put ?_ | refine kept_parts_regs ?_ | refine kept_parts_filter ?_)
    | contradiction

theorem kept_execStoneInfo {st0 : State} {req : MgmtReq} {s : State} (hk : Kept st0 s) {t : State} (e : execStoneInfo req s = .next t) : Kept st0 t := by
  unfold execStoneInfo at e
  injection e with e
  subst e
  with_reducible repeat' first
    | assumption
    | (dsimp only)
    | refine kept_fst ?_ (by assumption)
    | apply kept_mgmtServe
    | apply kept_mgmtAnswer
    | apply kept_foldl
    | apply kept_foldl_fst
    | apply kept_getD
    | intro _
    | split
    | exact kept_pair _ (by assumption)
    | (unfold Kept; dsimp only; first | refine kept_parts ?_ | refine kept_parts_out ?_ | refine kept_parts_put ?_ | refine kept_parts_regs ?_ | refine kept_parts_filter ?_)
    | contradiction

theorem kept_execStoneRead {st0 : State} {req : MgmtReq} {s : State} (hk : Kept st0 s) {t : State} (e : execStoneRead req s = .next t) : Kept st0 t := by
  unfold execStoneRead at e
  injection e with e
  subst e
  with_reducible repeat' first
    | assumption
    | (dsimp only)
    | refine kept_fst ?_ (by assumption)
    | apply kept_mgmtServe
    | apply kept_stoneRead
    | apply kept_foldl
    | apply kept_foldl_fst
    | apply kept_getD
    | intro _
    | split
    | exact kept_pair _ (by assumption)
    | (unfold Kept; dsimp only; first | refine kept_parts ?_ | refine kept_parts_out ?_ | refine kept_parts_put ?_ | refine kept_parts_regs ?_ | refine kept_parts_filter ?_)
    | contradiction

theorem kept_execRecoveryWrite {st0 : State} {req : MgmtReq} {s : State} (hk : Kept st0 s) {t : State} (e : execRecoveryWrite req s = .next t) : Kept st0 t := by
  unfold execRecoveryWrite at e
  injection e with e
  subst e
  with_reducible repeat' first
    | assumption
    | (dsimp only)
    | refine kept_fst ?_ (by assumption)
    | apply kept_mgmtServe
    | apply kept_recoveryWrite
    | apply kept_foldl
    | apply kept_foldl_fst
    | apply kept_getD
    | intro _
    | split
    | exact kept_pair _ (by assumption)
    | (unfold Kept; dsimp only; first | refine kept_parts ?_ | refine kept_parts_out ?_ | refine kept_parts_put ?_ | refine kept_parts_regs ?_ | refine kept_parts_filter ?_)
    | contradiction

theorem kept_execRecoveryCommit {st0 : State} {req : MgmtReq} {s : State} (hk : Kept st0 s) {t : State} (e : execRecoveryCommit req s = .next t) : Kept st0 t := by
  unfold execRecoveryCommit at e
  injection e with e
  subst e
  with_reducible repeat' first
    | assumption
    | (dsimp only)
    | refine kept_fst ?_ (by assumption)
    | apply kept_mgmtServe
    | apply kept_recoveryCommit
    | apply kept_foldl
    | apply kept_foldl_fst
    | apply kept_getD
    | intro _
    | split
    | exact kept_pair _ (by assumption)
    | (unfold Kept; dsimp only; first | refine kept_parts ?_ | refine kept_parts_out ?_ | refine kept_parts_put ?_ | refine kept_parts_regs ?_ | refine kept_parts_filter ?_)
    | contradiction

end Sys2Proof.Machine
end

