-- ==== Sys2Proof/Laws/KeptFirmware.lean ====
section
/-!
SUPPORT. Sys2Proof/Laws/KeptFirmware.lean: every operation of Sys2Proof/Machine/Firmware.lean leaves the queue, appends to what has left the block, and keeps the canonical forms.
-/
set_option linter.unusedVariables false
set_option linter.unreachableTactic false
set_option linter.unusedTactic false
namespace Sys2Proof.Machine

theorem kept_stageEnd {st0 : State} {s : State} {p : List Byte} {st : Status} {slot : Nat} (hk : Kept st0 s) : Kept st0 (stageEnd s p st slot) := by
  unfold stageEnd
  with_reducible repeat' first
    | assumption
    | (dsimp only)
    | refine kept_fst ?_ (by assumption)
    | apply kept_wrs
    | apply kept_stoneWrite
    | apply kept_postEvent
    | apply kept_sendMsi
    | apply kept_foldl
    | apply kept_foldl_fst
    | apply kept_getD
    | intro _
    | split
    | exact kept_pair _ (by assumption)
    | (unfold Kept; dsimp only; first | refine kept_parts ?_ | refine kept_parts_out ?_ | refine kept_parts_put ?_ | refine kept_parts_regs ?_ | refine kept_parts_filter ?_)
    | contradiction

theorem kept_stageStart {st0 : State} {s : State} {vector : Nat} {src : Option (List Byte)} (hk : Kept st0 s) : Kept st0 (stageStart s vector src) := by
  unfold stageStart
  with_reducible repeat' first
    | assumption
    | (dsimp only)
    | refine kept_fst ?_ (by assumption)
    | apply kept_wr
    | apply kept_stageEnd
    | apply kept_setPreferred
    | apply kept_foldl
    | apply kept_foldl_fst
    | apply kept_getD
    | intro _
    | split
    | exact kept_pair _ (by assumption)
    | (unfold Kept; dsimp only; first | refine kept_parts ?_ | refine kept_parts_out ?_ | refine kept_parts_put ?_ | refine kept_parts_regs ?_ | refine kept_parts_filter ?_)
    | contradiction

theorem kept_execFwStageStart {st0 : State} {vector : Nat} {src : Option (List Byte)} {s : State} (hk : Kept st0 s) {t : State} (e : execFwStageStart vector src s = .next t) : Kept st0 t := by
  unfold execFwStageStart at e
  injection e with e
  subst e
  with_reducible repeat' first
    | assumption
    | (dsimp only)
    | refine kept_fst ?_ (by assumption)
    | apply kept_stageStart
    | apply kept_foldl
    | apply kept_foldl_fst
    | apply kept_getD
    | intro _
    | split
    | exact kept_pair _ (by assumption)
    | (unfold Kept; dsimp only; first | refine kept_parts ?_ | refine kept_parts_out ?_ | refine kept_parts_put ?_ | refine kept_parts_regs ?_ | refine kept_parts_filter ?_)
    | contradiction

end Sys2Proof.Machine
end

