-- ==== Sys2Proof/Laws/KeptSideband.lean ====
section
/-!
SUPPORT. Sys2Proof/Laws/KeptSideband.lean: every operation of Sys2Proof/Machine/Sideband.lean leaves the queue, appends to what has left the block, and keeps the canonical forms.
-/
set_option linter.unusedVariables false
set_option linter.unreachableTactic false
set_option linter.unusedTactic false
namespace Sys2Proof.Machine

theorem kept_ctlReply {st0 : State} {s : State} {y1 : SbReq} {cmd : Nat} {cc : Nat} {b : List Byte} (hk : Kept st0 s) : Kept st0 (ctlReply s y1 cmd cc b) := by
  unfold ctlReply
  with_reducible repeat' first
    | assumption
    | (dsimp only)
    | refine kept_fst ?_ (by assumption)
    | apply kept_emit
    | apply kept_foldl
    | apply kept_foldl_fst
    | apply kept_getD
    | intro _
    | split
    | exact kept_pair _ (by assumption)
    | (unfold Kept; dsimp only; first | refine kept_parts ?_ | refine kept_parts_out ?_ | refine kept_parts_put ?_ | refine kept_parts_regs ?_ | refine kept_parts_filter ?_)
    | contradiction

theorem kept_pldmReply {st0 : State} {s : State} {y1 : SbReq} {typ : Nat} {cmd : Nat} {cc : Nat} {b : List Byte} (hk : Kept st0 s) : Kept st0 (pldmReply s y1 typ cmd cc b) := by
  unfold pldmReply
  with_reducible repeat' first
    | assumption
    | (dsimp only)
    | refine kept_fst ?_ (by assumption)
    | apply kept_emit
    | apply kept_foldl
    | apply kept_foldl_fst
    | apply kept_getD
    | intro _
    | split
    | exact kept_pair _ (by assumption)
    | (unfold Kept; dsimp only; first | refine kept_parts ?_ | refine kept_parts_out ?_ | refine kept_parts_put ?_ | refine kept_parts_regs ?_ | refine kept_parts_filter ?_)
    | contradiction

theorem kept_ctlServe {st0 : State} {s : State} {y1 : SbReq} {cmd : Nat} {n : Nat} {f : State → SbReq → State} (hk : Kept st0 s) (h_f : ∀ z0 z1, Kept st0 z0 → Kept st0 (f z0 z1)) : Kept st0 (ctlServe s y1 cmd n f) := by
  unfold ctlServe
  split
  · exact hk
  · split
    · exact kept_ctlReply hk
    · exact h_f _ _ hk

theorem kept_pldmServe {st0 : State} {s : State} {y1 : SbReq} {typ : Nat} {cmd : Nat} {n : Nat} {f : State → SbReq → State} (hk : Kept st0 s) (h_f : ∀ z0 z1, Kept st0 z0 → Kept st0 (f z0 z1)) : Kept st0 (pldmServe s y1 typ cmd n f) := by
  unfold pldmServe
  split
  · exact hk
  · split
    · exact kept_pldmReply hk
    · exact h_f _ _ hk

theorem kept_setEid {st0 : State} {s : State} {y1 : SbReq} (hk : Kept st0 s) : Kept st0 (setEid s y1) := by
  unfold setEid
  with_reducible repeat' first
    | assumption
    | (dsimp only)
    | refine kept_fst ?_ (by assumption)
    | apply kept_ctlReply
    | apply kept_foldl
    | apply kept_foldl_fst
    | apply kept_getD
    | intro _
    | split
    | exact kept_pair _ (by assumption)
    | (unfold Kept; dsimp only; first | refine kept_parts ?_ | refine kept_parts_out ?_ | refine kept_parts_put ?_ | refine kept_parts_regs ?_ | refine kept_parts_filter ?_)
    | contradiction

theorem kept_getEid {st0 : State} {s : State} {y1 : SbReq} (hk : Kept st0 s) : Kept st0 (getEid s y1) := by
  unfold getEid
  with_reducible repeat' first
    | assumption
    | (dsimp only)
    | refine kept_fst ?_ (by assumption)
    | apply kept_ctlReply
    | apply kept_foldl
    | apply kept_foldl_fst
    | apply kept_getD
    | intro _
    | split
    | exact kept_pair _ (by assumption)
    | (unfold Kept; dsimp only; first | refine kept_parts ?_ | refine kept_parts_out ?_ | refine kept_parts_put ?_ | refine kept_parts_regs ?_ | refine kept_parts_filter ?_)
    | contradiction

theorem kept_mctpVersion {st0 : State} {s : State} {y1 : SbReq} (hk : Kept st0 s) : Kept st0 (mctpVersion s y1) := by
  unfold mctpVersion
  with_reducible repeat' first
    | assumption
    | (dsimp only)
    | refine kept_fst ?_ (by assumption)
    | apply kept_ctlReply
    | apply kept_foldl
    | apply kept_foldl_fst
    | apply kept_getD
    | intro _
    | split
    | exact kept_pair _ (by assumption)
    | (unfold Kept; dsimp only; first | refine kept_parts ?_ | refine kept_parts_out ?_ | refine kept_parts_put ?_ | refine kept_parts_regs ?_ | refine kept_parts_filter ?_)
    | contradiction

theorem kept_mctpTypes {st0 : State} {s : State} {y1 : SbReq} (hk : Kept st0 s) : Kept st0 (mctpTypes s y1) := by
  unfold mctpTypes
  with_reducible repeat' first
    | assumption
    | (dsimp only)
    | refine kept_fst ?_ (by assumption)
    | apply kept_ctlReply
    | apply kept_foldl
    | apply kept_foldl_fst
    | apply kept_getD
    | intro _
    | split
    | exact kept_pair _ (by assumption)
    | (unfold Kept; dsimp only; first | refine kept_parts ?_ | refine kept_parts_out ?_ | refine kept_parts_put ?_ | refine kept_parts_regs ?_ | refine kept_parts_filter ?_)
    | contradiction

theorem kept_mctpVendor {st0 : State} {s : State} {y1 : SbReq} (hk : Kept st0 s) : Kept st0 (mctpVendor s y1) := by
  unfold mctpVendor
  with_reducible repeat' first
    | assumption
    | (dsimp only)
    | refine kept_fst ?_ (by assumption)
    | apply kept_ctlReply
    | apply kept_foldl
    | apply kept_foldl_fst
    | apply kept_getD
    | intro _
    | split
    | exact kept_pair _ (by assumption)
    | (unfold Kept; dsimp only; first | refine kept_parts ?_ | refine kept_parts_out ?_ | refine kept_parts_put ?_ | refine kept_parts_regs ?_ | refine kept_parts_filter ?_)
    | contradiction

theorem kept_getTid {st0 : State} {s : State} {y1 : SbReq} (hk : Kept st0 s) : Kept st0 (getTid s y1) := by
  unfold getTid
  with_reducible repeat' first
    | assumption
    | (dsimp only)
    | refine kept_fst ?_ (by assumption)
    | apply kept_pldmReply
    | apply kept_foldl
    | apply kept_foldl_fst
    | apply kept_getD
    | intro _
    | split
    | exact kept_pair _ (by assumption)
    | (unfold Kept; dsimp only; first | refine kept_parts ?_ | refine kept_parts_out ?_ | refine kept_parts_put ?_ | refine kept_parts_regs ?_ | refine kept_parts_filter ?_)
    | contradiction

theorem kept_setTid {st0 : State} {s : State} {y1 : SbReq} (hk : Kept st0 s) : Kept st0 (setTid s y1) := by
  unfold setTid
  with_reducible repeat' first
    | assumption
    | (dsimp only)
    | refine kept_fst ?_ (by assumption)
    | apply kept_pldmReply
    | apply kept_foldl
    | apply kept_foldl_fst
    | apply kept_getD
    | intro _
    | split
    | exact kept_pair _ (by assumption)
    | (unfold Kept; dsimp only; first | refine kept_parts ?_ | refine kept_parts_out ?_ | refine kept_parts_put ?_ | refine kept_parts_regs ?_ | refine kept_parts_filter ?_)
    | contradiction

theorem kept_getPldmVersion {st0 : State} {s : State} {y1 : SbReq} (hk : Kept st0 s) : Kept st0 (getPldmVersion s y1) := by
  unfold getPldmVersion
  with_reducible repeat' first
    | assumption
    | (dsimp only)
    | refine kept_fst ?_ (by assumption)
    | apply kept_pldmReply
    | apply kept_foldl
    | apply kept_foldl_fst
    | apply kept_getD
    | intro _
    | split
    | exact kept_pair _ (by assumption)
    | (unfold Kept; dsimp only; first | refine kept_parts ?_ | refine kept_parts_out ?_ | refine kept_parts_put ?_ | refine kept_parts_regs ?_ | refine kept_parts_filter ?_)
    | contradiction

theorem kept_getPldmTypes {st0 : State} {s : State} {y1 : SbReq} (hk : Kept st0 s) : Kept st0 (getPldmTypes s y1) := by
  unfold getPldmTypes
  with_reducible repeat' first
    | assumption
    | (dsimp only)
    | refine kept_fst ?_ (by assumption)
    | apply kept_pldmReply
    | apply kept_foldl
    | apply kept_foldl_fst
    | apply kept_getD
    | intro _
    | split
    | exact kept_pair _ (by assumption)
    | (unfold Kept; dsimp only; first | refine kept_parts ?_ | refine kept_parts_out ?_ | refine kept_parts_put ?_ | refine kept_parts_regs ?_ | refine kept_parts_filter ?_)
    | contradiction

theorem kept_getPldmCommands {st0 : State} {s : State} {y1 : SbReq} (hk : Kept st0 s) : Kept st0 (getPldmCommands s y1) := by
  unfold getPldmCommands
  with_reducible repeat' first
    | assumption
    | (dsimp only)
    | refine kept_fst ?_ (by assumption)
    | apply kept_pldmReply
    | apply kept_foldl
    | apply kept_foldl_fst
    | apply kept_getD
    | intro _
    | split
    | exact kept_pair _ (by assumption)
    | (unfold Kept; dsimp only; first | refine kept_parts ?_ | refine kept_parts_out ?_ | refine kept_parts_put ?_ | refine kept_parts_regs ?_ | refine kept_parts_filter ?_)
    | contradiction

theorem kept_pdrInfo {st0 : State} {s : State} {y1 : SbReq} (hk : Kept st0 s) : Kept st0 (pdrInfo s y1) := by
  unfold pdrInfo
  with_reducible repeat' first
    | assumption
    | (dsimp only)
    | refine kept_fst ?_ (by assumption)
    | apply kept_freshBytes
    | apply kept_pldmReply
    | apply kept_foldl
    | apply kept_foldl_fst
    | apply kept_getD
    | intro _
    | split
    | exact kept_pair _ (by assumption)
    | (unfold Kept; dsimp only; first | refine kept_parts ?_ | refine kept_parts_out ?_ | refine kept_parts_put ?_ | refine kept_parts_regs ?_ | refine kept_parts_filter ?_)
    | contradiction

theorem kept_getPdr {st0 : State} {s : State} {y1 : SbReq} (hk : Kept st0 s) : Kept st0 (getPdr s y1) := by
  unfold getPdr
  with_reducible repeat' first
    | assumption
    | (dsimp only)
    | refine kept_fst ?_ (by assumption)
    | apply kept_pldmReply
    | apply kept_foldl
    | apply kept_foldl_fst
    | apply kept_getD
    | intro _
    | split
    | exact kept_pair _ (by assumption)
    | (unfold Kept; dsimp only; first | refine kept_parts ?_ | refine kept_parts_out ?_ | refine kept_parts_put ?_ | refine kept_parts_regs ?_ | refine kept_parts_filter ?_)
    | contradiction

theorem kept_sensorReading {st0 : State} {s : State} {y1 : SbReq} (hk : Kept st0 s) : Kept st0 (sensorReading s y1) := by
  unfold sensorReading
  with_reducible repeat' first
    | assumption
    | (dsimp only)
    | refine kept_fst ?_ (by assumption)
    | apply kept_pldmReply
    | apply kept_freshBytes
    | apply kept_foldl
    | apply kept_foldl_fst
    | apply kept_getD
    | intro _
    | split
    | exact kept_pair _ (by assumption)
    | (unfold Kept; dsimp only; first | refine kept_parts ?_ | refine kept_parts_out ?_ | refine kept_parts_put ?_ | refine kept_parts_regs ?_ | refine kept_parts_filter ?_)
    | contradiction

theorem kept_stateReadings {st0 : State} {s : State} {y1 : SbReq} (hk : Kept st0 s) : Kept st0 (stateReadings s y1) := by
  unfold stateReadings
  with_reducible repeat' first
    | assumption
    | (dsimp only)
    | refine kept_fst ?_ (by assumption)
    | apply kept_pldmReply
    | apply kept_freshBytes
    | apply kept_foldl
    | apply kept_foldl_fst
    | apply kept_getD
    | intro _
    | split
    | exact kept_pair _ (by assumption)
    | (unfold Kept; dsimp only; first | refine kept_parts ?_ | refine kept_parts_out ?_ | refine kept_parts_put ?_ | refine kept_parts_regs ?_ | refine kept_parts_filter ?_)
    | contradiction

theorem kept_setReceiver {st0 : State} {s : State} {y1 : SbReq} (hk : Kept st0 s) : Kept st0 (setReceiver s y1) := by
  unfold setReceiver
  with_reducible repeat' first
    | assumption
    | (dsimp only)
    | refine kept_fst ?_ (by assumption)
    | apply kept_pldmReply
    | apply kept_foldl
    | apply kept_foldl_fst
    | apply kept_getD
    | intro _
    | split
    | exact kept_pair _ (by assumption)
    | (unfold Kept; dsimp only; first | refine kept_parts ?_ | refine kept_parts_out ?_ | refine kept_parts_put ?_ | refine kept_parts_regs ?_ | refine kept_parts_filter ?_)
    | contradiction

theorem kept_eventSupported {st0 : State} {s : State} {y1 : SbReq} (hk : Kept st0 s) : Kept st0 (eventSupported s y1) := by
  unfold eventSupported
  with_reducible repeat' first
    | assumption
    | (dsimp only)
    | refine kept_fst ?_ (by assumption)
    | apply kept_pldmReply
    | apply kept_foldl
    | apply kept_foldl_fst
    | apply kept_getD
    | intro _
    | split
    | exact kept_pair _ (by assumption)
    | (unfold Kept; dsimp only; first | refine kept_parts ?_ | refine kept_parts_out ?_ | refine kept_parts_put ?_ | refine kept_parts_regs ?_ | refine kept_parts_filter ?_)
    | contradiction

theorem kept_eventBuffer {st0 : State} {s : State} {y1 : SbReq} (hk : Kept st0 s) : Kept st0 (eventBuffer s y1) := by
  unfold eventBuffer
  with_reducible repeat' first
    | assumption
    | (dsimp only)
    | refine kept_fst ?_ (by assumption)
    | apply kept_pldmReply
    | apply kept_foldl
    | apply kept_foldl_fst
    | apply kept_getD
    | intro _
    | split
    | exact kept_pair _ (by assumption)
    | (unfold Kept; dsimp only; first | refine kept_parts ?_ | refine kept_parts_out ?_ | refine kept_parts_put ?_ | refine kept_parts_regs ?_ | refine kept_parts_filter ?_)
    | contradiction

theorem kept_platformEvent {st0 : State} {s : State} {cls : Nat} {d : List Byte} (hk : Kept st0 s) : Kept st0 (platformEvent s cls d) := by
  unfold platformEvent
  with_reducible repeat' first
    | assumption
    | (dsimp only)
    | refine kept_fst ?_ (by assumption)
    | apply kept_emit
    | apply kept_foldl
    | apply kept_foldl_fst
    | apply kept_getD
    | intro _
    | split
    | exact kept_pair _ (by assumption)
    | (unfold Kept; dsimp only; first | refine kept_parts ?_ | refine kept_parts_out ?_ | refine kept_parts_put ?_ | refine kept_parts_regs ?_ | refine kept_parts_filter ?_)
    | contradiction

theorem kept_pollEvent {st0 : State} {s : State} {y1 : SbReq} (hk : Kept st0 s) : Kept st0 (pollEvent s y1) := by
  unfold pollEvent
  with_reducible repeat' first
    | assumption
    | (dsimp only)
    | refine kept_fst ?_ (by assumption)
    | apply kept_pldmReply
    | apply kept_foldl
    | apply kept_foldl_fst
    | apply kept_getD
    | intro _
    | split
    | exact kept_pair _ (by assumption)
    | (unfold Kept; dsimp only; first | refine kept_parts ?_ | refine kept_parts_out ?_ | refine kept_parts_put ?_ | refine kept_parts_regs ?_ | refine kept_parts_filter ?_)
    | contradiction

theorem kept_execSetEndpointId {st0 : State} {req : SbReq} {s : State} (hk : Kept st0 s) {t : State} (e : execSetEndpointId req s = .next t) : Kept st0 t := by
  unfold execSetEndpointId at e
  injection e with e
  subst e
  with_reducible repeat' first
    | assumption
    | (dsimp only)
    | refine kept_fst ?_ (by assumption)
    | apply kept_ctlServe
    | apply kept_setEid
    | apply kept_foldl
    | apply kept_foldl_fst
    | apply kept_getD
    | intro _
    | split
    | exact kept_pair _ (by assumption)
    | (unfold Kept; dsimp only; first | refine kept_parts ?_ | refine kept_parts_out ?_ | refine kept_parts_put ?_ | refine kept_parts_regs ?_ | refine kept_parts_filter ?_)
    | contradiction

theorem kept_execGetEndpointId {st0 : State} {req : SbReq} {s : State} (hk : Kept st0 s) {t : State} (e : execGetEndpointId req s = .next t) : Kept st0 t := by
  unfold execGetEndpointId at e
  injection e with e
  subst e
  with_reducible repeat' first
    | assumption
    | (dsimp only)
    | refine kept_fst ?_ (by assumption)
    | apply kept_ctlServe
    | apply kept_getEid
    | apply kept_foldl
    | apply kept_foldl_fst
    | apply kept_getD
    | intro _
    | split
    | exact kept_pair _ (by assumption)
    | (unfold Kept; dsimp only; first | refine kept_parts ?_ | refine kept_parts_out ?_ | refine kept_parts_put ?_ | refine kept_parts_regs ?_ | refine kept_parts_filter ?_)
    | contradiction

theorem kept_execGetMctpVersionSupport {st0 : State} {req : SbReq} {s : State} (hk : Kept st0 s) {t : State} (e : execGetMctpVersionSupport req s = .next t) : Kept st0 t := by
  unfold execGetMctpVersionSupport at e
  injection e with e
  subst e
  with_reducible repeat' first
    | assumption
    | (dsimp only)
    | refine kept_fst ?_ (by assumption)
    | apply kept_ctlServe
    | apply kept_mctpVersion
    | apply kept_foldl
    | apply kept_foldl_fst
    | apply kept_getD
    | intro _
    | split
    | exact kept_pair _ (by assumption)
    | (unfold Kept; dsimp only; first | refine kept_parts ?_ | refine kept_parts_out ?_ | refine kept_parts_put ?_ | refine kept_parts_regs ?_ | refine kept_parts_filter ?_)
    | contradiction

theorem kept_execGetMessageTypeSupport {st0 : State} {req : SbReq} {s : State} (hk : Kept st0 s) {t : State} (e : execGetMessageTypeSupport req s = .next t) : Kept st0 t := by
  unfold execGetMessageTypeSupport at e
  injection e with e
  subst e
  with_reducible repeat' first
    | assumption
    | (dsimp only)
    | refine kept_fst ?_ (by assumption)
    | apply kept_ctlServe
    | apply kept_mctpTypes
    | apply kept_foldl
    | apply kept_foldl_fst
    | apply kept_getD
    | intro _
    | split
    | exact kept_pair _ (by assumption)
    | (unfold Kept; dsimp only; first | refine kept_parts ?_ | refine kept_parts_out ?_ | refine kept_parts_put ?_ | refine kept_parts_regs ?_ | refine kept_parts_filter ?_)
    | contradiction

theorem kept_execGetVendorDefinedMessageSupport {st0 : State} {req : SbReq} {s : State} (hk : Kept st0 s) {t : State} (e : execGetVendorDefinedMessageSupport req s = .next t) : Kept st0 t := by
  unfold execGetVendorDefinedMessageSupport at e
  injection e with e
  subst e
  with_reducible repeat' first
    | assumption
    | (dsimp only)
    | refine kept_fst ?_ (by assumption)
    | apply kept_ctlServe
    | apply kept_mctpVendor
    | apply kept_foldl
    | apply kept_foldl_fst
    | apply kept_getD
    | intro _
    | split
    | exact kept_pair _ (by assumption)
    | (unfold Kept; dsimp only; first | refine kept_parts ?_ | refine kept_parts_out ?_ | refine kept_parts_put ?_ | refine kept_parts_regs ?_ | refine kept_parts_filter ?_)
    | contradiction

theorem kept_execGettid {st0 : State} {req : SbReq} {s : State} (hk : Kept st0 s) {t : State} (e : execGettid req s = .next t) : Kept st0 t := by
  unfold execGettid at e
  injection e with e
  subst e
  with_reducible repeat' first
    | assumption
    | (dsimp only)
    | refine kept_fst ?_ (by assumption)
    | apply kept_pldmServe
    | apply kept_getTid
    | apply kept_foldl
    | apply kept_foldl_fst
    | apply kept_getD
    | intro _
    | split
    | exact kept_pair _ (by assumption)
    | (unfold Kept; dsimp only; first | refine kept_parts ?_ | refine kept_parts_out ?_ | refine kept_parts_put ?_ | refine kept_parts_regs ?_ | refine kept_parts_filter ?_)
    | contradiction

theorem kept_execSettid {st0 : State} {req : SbReq} {s : State} (hk : Kept st0 s) {t : State} (e : execSettid req s = .next t) : Kept st0 t := by
  unfold execSettid at e
  injection e with e
  subst e
  with_reducible repeat' first
    | assumption
    | (dsimp only)
    | refine kept_fst ?_ (by assumption)
    | apply kept_pldmServe
    | apply kept_setTid
    | apply kept_foldl
    | apply kept_foldl_fst
    | apply kept_getD
    | intro _
    | split
    | exact kept_pair _ (by assumption)
    | (unfold Kept; dsimp only; first | refine kept_parts ?_ | refine kept_parts_out ?_ | refine kept_parts_put ?_ | refine kept_parts_regs ?_ | refine kept_parts_filter ?_)
    | contradiction

theorem kept_execGetpldmversion {st0 : State} {req : SbReq} {s : State} (hk : Kept st0 s) {t : State} (e : execGetpldmversion req s = .next t) : Kept st0 t := by
  unfold execGetpldmversion at e
  injection e with e
  subst e
  with_reducible repeat' first
    | assumption
    | (dsimp only)
    | refine kept_fst ?_ (by assumption)
    | apply kept_pldmServe
    | apply kept_getPldmVersion
    | apply kept_foldl
    | apply kept_foldl_fst
    | apply kept_getD
    | intro _
    | split
    | exact kept_pair _ (by assumption)
    | (unfold Kept; dsimp only; first | refine kept_parts ?_ | refine kept_parts_out ?_ | refine kept_parts_put ?_ | refine kept_parts_regs ?_ | refine kept_parts_filter ?_)
    | contradiction

theorem kept_execGetpldmtypes {st0 : State} {req : SbReq} {s : State} (hk : Kept st0 s) {t : State} (e : execGetpldmtypes req s = .next t) : Kept st0 t := by
  unfold execGetpldmtypes at e
  injection e with e
  subst e
  with_reducible repeat' first
    | assumption
    | (dsimp only)
    | refine kept_fst ?_ (by assumption)
    | apply kept_pldmServe
    | apply kept_getPldmTypes
    | apply kept_foldl
    | apply kept_foldl_fst
    | apply kept_getD
    | intro _
    | split
    | exact kept_pair _ (by assumption)
    | (unfold Kept; dsimp only; first | refine kept_parts ?_ | refine kept_parts_out ?_ | refine kept_parts_put ?_ | refine kept_parts_regs ?_ | refine kept_parts_filter ?_)
    | contradiction

theorem kept_execGetpldmcommands {st0 : State} {req : SbReq} {s : State} (hk : Kept st0 s) {t : State} (e : execGetpldmcommands req s = .next t) : Kept st0 t := by
  unfold execGetpldmcommands at e
  injection e with e
  subst e
  with_reducible repeat' first
    | assumption
    | (dsimp only)
    | refine kept_fst ?_ (by assumption)
    | apply kept_pldmServe
    | apply kept_getPldmCommands
    | apply kept_foldl
    | apply kept_foldl_fst
    | apply kept_getD
    | intro _
    | split
    | exact kept_pair _ (by assumption)
    | (unfold Kept; dsimp only; first | refine kept_parts ?_ | refine kept_parts_out ?_ | refine kept_parts_put ?_ | refine kept_parts_regs ?_ | refine kept_parts_filter ?_)
    | contradiction

theorem kept_execGetpdrrepositoryinfo {st0 : State} {req : SbReq} {s : State} (hk : Kept st0 s) {t : State} (e : execGetpdrrepositoryinfo req s = .next t) : Kept st0 t := by
  unfold execGetpdrrepositoryinfo at e
  injection e with e
  subst e
  with_reducible repeat' first
    | assumption
    | (dsimp only)
    | refine kept_fst ?_ (by assumption)
    | apply kept_pldmServe
    | apply kept_pdrInfo
    | apply kept_foldl
    | apply kept_foldl_fst
    | apply kept_getD
    | intro _
    | split
    | exact kept_pair _ (by assumption)
    | (unfold Kept; dsimp only; first | refine kept_parts ?_ | refine kept_parts_out ?_ | refine kept_parts_put ?_ | refine kept_parts_regs ?_ | refine kept_parts_filter ?_)
    | contradiction

theorem kept_execGetpdr {st0 : State} {req : SbReq} {s : State} (hk : Kept st0 s) {t : State} (e : execGetpdr req s = .next t) : Kept st0 t := by
  unfold execGetpdr at e
  injection e with e
  subst e
  with_reducible repeat' first
    | assumption
    | (dsimp only)
    | refine kept_fst ?_ (by assumption)
    | apply kept_pldmServe
    | apply kept_getPdr
    | apply kept_foldl
    | apply kept_foldl_fst
    | apply kept_getD
    | intro _
    | split
    | exact kept_pair _ (by assumption)
    | (unfold Kept; dsimp only; first | refine kept_parts ?_ | refine kept_parts_out ?_ | refine kept_parts_put ?_ | refine kept_parts_regs ?_ | refine kept_parts_filter ?_)
    | contradiction

theorem kept_execGetsensorreading {st0 : State} {req : SbReq} {s : State} (hk : Kept st0 s) {t : State} (e : execGetsensorreading req s = .next t) : Kept st0 t := by
  unfold execGetsensorreading at e
  injection e with e
  subst e
  with_reducible repeat' first
    | assumption
    | (dsimp only)
    | refine kept_fst ?_ (by assumption)
    | apply kept_pldmServe
    | apply kept_sensorReading
    | apply kept_foldl
    | apply kept_foldl_fst
    | apply kept_getD
    | intro _
    | split
    | exact kept_pair _ (by assumption)
    | (unfold Kept; dsimp only; first | refine kept_parts ?_ | refine kept_parts_out ?_ | refine kept_parts_put ?_ | refine kept_parts_regs ?_ | refine kept_parts_filter ?_)
    | contradiction

theorem kept_execGetstatesensorreadings {st0 : State} {req : SbReq} {s : State} (hk : Kept st0 s) {t : State} (e : execGetstatesensorreadings req s = .next t) : Kept st0 t := by
  unfold execGetstatesensorreadings at e
  injection e with e
  subst e
  with_reducible repeat' first
    | assumption
    | (dsimp only)
    | refine kept_fst ?_ (by assumption)
    | apply kept_pldmServe
    | apply kept_stateReadings
    | apply kept_foldl
    | apply kept_foldl_fst
    | apply kept_getD
    | intro _
    | split
    | exact kept_pair _ (by assumption)
    | (unfold Kept; dsimp only; first | refine kept_parts ?_ | refine kept_parts_out ?_ | refine kept_parts_put ?_ | refine kept_parts_regs ?_ | refine kept_parts_filter ?_)
    | contradiction

theorem kept_execSeteventreceiver {st0 : State} {req : SbReq} {s : State} (hk : Kept st0 s) {t : State} (e : execSeteventreceiver req s = .next t) : Kept st0 t := by
  unfold execSeteventreceiver at e
  injection e with e
  subst e
  with_reducible repeat' first
    | assumption
    | (dsimp only)
    | refine kept_fst ?_ (by assumption)
    | apply kept_pldmServe
    | apply kept_setReceiver
    | apply kept_foldl
    | apply kept_foldl_fst
    | apply kept_getD
    | intro _
    | split
    | exact kept_pair _ (by assumption)
    | (unfold Kept; dsimp only; first | refine kept_parts ?_ | refine kept_parts_out ?_ | refine kept_parts_put ?_ | refine kept_parts_regs ?_ | refine kept_parts_filter ?_)
    | contradiction

theorem kept_execEventmessagesupported {st0 : State} {req : SbReq} {s : State} (hk : Kept st0 s) {t : State} (e : execEventmessagesupported req s = .next t) : Kept st0 t := by
  unfold execEventmessagesupported at e
  injection e with e
  subst e
  with_reducible repeat' first
    | assumption
    | (dsimp only)
    | refine kept_fst ?_ (by assumption)
    | apply kept_pldmServe
    | apply kept_eventSupported
    | apply kept_foldl
    | apply kept_foldl_fst
    | apply kept_getD
    | intro _
    | split
    | exact kept_pair _ (by assumption)
    | (unfold Kept; dsimp only; first | refine kept_parts ?_ | refine kept_parts_out ?_ | refine kept_parts_put ?_ | refine kept_parts_regs ?_ | refine kept_parts_filter ?_)
    | contradiction

theorem kept_execEventmessagebuffersize {st0 : State} {req : SbReq} {s : State} (hk : Kept st0 s) {t : State} (e : execEventmessagebuffersize req s = .next t) : Kept st0 t := by
  unfold execEventmessagebuffersize at e
  injection e with e
  subst e
  with_reducible repeat' first
    | assumption
    | (dsimp only)
    | refine kept_fst ?_ (by assumption)
    | apply kept_pldmServe
    | apply kept_eventBuffer
    | apply kept_foldl
    | apply kept_foldl_fst
    | apply kept_getD
    | intro _
    | split
    | exact kept_pair _ (by assumption)
    | (unfold Kept; dsimp only; first | refine kept_parts ?_ | refine kept_parts_out ?_ | refine kept_parts_put ?_ | refine kept_parts_regs ?_ | refine kept_parts_filter ?_)
    | contradiction

theorem kept_execPollforplatformeventmessage {st0 : State} {req : SbReq} {s : State} (hk : Kept st0 s) {t : State} (e : execPollforplatformeventmessage req s = .next t) : Kept st0 t := by
  unfold execPollforplatformeventmessage at e
  injection e with e
  subst e
  with_reducible repeat' first
    | assumption
    | (dsimp only)
    | refine kept_fst ?_ (by assumption)
    | apply kept_pldmServe
    | apply kept_pollEvent
    | apply kept_foldl
    | apply kept_foldl_fst
    | apply kept_getD
    | intro _
    | split
    | exact kept_pair _ (by assumption)
    | (unfold Kept; dsimp only; first | refine kept_parts ?_ | refine kept_parts_out ?_ | refine kept_parts_put ?_ | refine kept_parts_regs ?_ | refine kept_parts_filter ?_)
    | contradiction

end Sys2Proof.Machine
end

