-- ==== Sys2Proof/Laws/KeptDamson.lean ====
section
/-!
SUPPORT. Sys2Proof/Laws/KeptDamson.lean: every operation of Sys2Proof/Machine/Damson.lean leaves the queue, appends to what has left the block, and keeps the canonical forms.
-/
set_option linter.unusedVariables false
set_option linter.unreachableTactic false
set_option linter.unusedTactic false
namespace Sys2Proof.Machine

theorem kept_damsonLoad {st0 : State} {s : State} {vector : Nat} {src : Option (List Byte)} (hk : Kept st0 s) : Kept st0 (damsonLoad s vector src) := by
  unfold damsonLoad
  with_reducible repeat' first
    | assumption
    | (dsimp only)
    | refine kept_fst ?_ (by assumption)
    | apply kept_wr
    | apply kept_extendSlot
    | apply kept_stoneWrite
    | apply kept_wrs
    | apply kept_sendMsi
    | apply kept_foldl
    | apply kept_foldl_fst
    | apply kept_getD
    | intro _
    | split
    | exact kept_pair _ (by assumption)
    | (unfold Kept; dsimp only; first | refine kept_parts ?_ | refine kept_parts_out ?_ | refine kept_parts_put ?_ | refine kept_parts_regs ?_ | refine kept_parts_filter ?_)
    | contradiction

theorem kept_runPattern {st0 : State} {s : State} {l : Nat} {y2 : List Byte} (hk : Kept st0 s) : Kept st0 (runPattern s l y2) := by
  unfold runPattern
  with_reducible repeat' first
    | assumption
    | (dsimp only)
    | refine kept_fst ?_ (by assumption)
    | apply kept_writeMem
    | apply kept_leaveUndefined
    | apply kept_foldl
    | apply kept_foldl_fst
    | apply kept_getD
    | intro _
    | split
    | exact kept_pair _ (by assumption)
    | (unfold Kept; dsimp only; first | refine kept_parts ?_ | refine kept_parts_out ?_ | refine kept_parts_put ?_ | refine kept_parts_regs ?_ | refine kept_parts_filter ?_)
    | contradiction

theorem kept_patternNext {st0 : State} {s : State} {l : Nat} (hk : Kept st0 s) : Kept st0 (patternNext s l) := by
  unfold patternNext
  with_reducible repeat' first
    | assumption
    | (dsimp only)
    | refine kept_fst ?_ (by assumption)
    | apply kept_wr
    | apply kept_foldl
    | apply kept_foldl_fst
    | apply kept_getD
    | intro _
    | split
    | exact kept_pair _ (by assumption)
    | (unfold Kept; dsimp only; first | refine kept_parts ?_ | refine kept_parts_out ?_ | refine kept_parts_put ?_ | refine kept_parts_regs ?_ | refine kept_parts_filter ?_)
    | contradiction

theorem kept_damsonPattern {st0 : State} {s : State} {l : Nat} {result : Option Nat} (hk : Kept st0 s) : Kept st0 (damsonPattern s l result) := by
  have hd : ∀ (u : State) (x : DamsonSt), Kept st0 u → Kept st0 { u with damson := x } := fun _ _ h => h
  unfold damsonPattern
  split
  · exact hk
  · extract_lets x s1 e s2
    have h1 : Kept st0 s1 := by
      unfold s1
      split
      · exact hk
      · exact hd _ _ hk
    have h2 : Kept st0 s2 := kept_runPattern h1
    clear_value s2
    split
    · exact kept_patternNext (kept_inc h2)
    · split
      · exact hd _ _ h2
      · exact kept_patternNext (kept_stoneWrite (kept_postEvent (kept_wrs (kept_inc h2))))

theorem kept_execDamsonLoad {st0 : State} {vector : Nat} {src : Option (List Byte)} {s : State} (hk : Kept st0 s) {t : State} (e : execDamsonLoad vector src s = .next t) : Kept st0 t := by
  unfold execDamsonLoad at e
  injection e with e
  subst e
  with_reducible repeat' first
    | assumption
    | (dsimp only)
    | refine kept_fst ?_ (by assumption)
    | apply kept_damsonLoad
    | apply kept_foldl
    | apply kept_foldl_fst
    | apply kept_getD
    | intro _
    | split
    | exact kept_pair _ (by assumption)
    | (unfold Kept; dsimp only; first | refine kept_parts ?_ | refine kept_parts_out ?_ | refine kept_parts_put ?_ | refine kept_parts_regs ?_ | refine kept_parts_filter ?_)
    | contradiction

theorem kept_execDamsonPattern {st0 : State} {core : Nat} {result : Option Nat} {s : State} (hk : Kept st0 s) {t : State} (e : execDamsonPattern core result s = .next t) : Kept st0 t := by
  unfold execDamsonPattern at e
  injection e with e
  subst e
  with_reducible repeat' first
    | assumption
    | (dsimp only)
    | refine kept_fst ?_ (by assumption)
    | apply kept_damsonPattern
    | apply kept_foldl
    | apply kept_foldl_fst
    | apply kept_getD
    | intro _
    | split
    | exact kept_pair _ (by assumption)
    | (unfold Kept; dsimp only; first | refine kept_parts ?_ | refine kept_parts_out ?_ | refine kept_parts_put ?_ | refine kept_parts_regs ?_ | refine kept_parts_filter ?_)
    | contradiction

end Sys2Proof.Machine
end

