-- ==== Sys2Proof/Laws/KeptCsr.lean ====
section
/-!
SUPPORT. Sys2Proof/Laws/KeptCsr.lean: every operation of Sys2Proof/Machine/Csr.lean leaves the queue, appends to what has left the block, and keeps the canonical forms.
-/
set_option linter.unusedVariables false
set_option linter.unreachableTactic false
set_option linter.unusedTactic false
namespace Sys2Proof.Machine

theorem kept_readBuf {st0 : State} {s : State} {frz : Bool} {y2 : CsrBuf} (hk : Kept st0 s) : Kept st0 (readBuf s frz y2).1 := by
  unfold readBuf
  with_reducible repeat' first
    | assumption
    | (dsimp only)
    | refine kept_fst ?_ (by assumption)
    | apply kept_foldl
    | apply kept_foldl_fst
    | apply kept_getD
    | intro _
    | split
    | exact kept_pair _ (by assumption)
    | (unfold Kept; dsimp only; first | refine kept_parts ?_ | refine kept_parts_out ?_ | refine kept_parts_put ?_ | refine kept_parts_regs ?_ | refine kept_parts_filter ?_)
    | contradiction

theorem kept_peekWord {st0 : State} {s : State} {w : Nat} (hk : Kept st0 s) : Kept st0 (peekWord s w).1 := by
  unfold peekWord
  with_reducible repeat' first
    | assumption
    | (dsimp only)
    | refine kept_fst ?_ (by assumption)
    | apply kept_readBuf
    | apply kept_foldl
    | apply kept_foldl_fst
    | apply kept_getD
    | intro _
    | split
    | exact kept_pair _ (by assumption)
    | (unfold Kept; dsimp only; first | refine kept_parts ?_ | refine kept_parts_out ?_ | refine kept_parts_put ?_ | refine kept_parts_regs ?_ | refine kept_parts_filter ?_)
    | contradiction

theorem kept_clearRc {st0 : State} {y0 : List (Reg × Nat × Nat)} {y1 : State} (hk : Kept st0 y1) : Kept st0 (clearRc y0 y1) := by
  induction y0 generalizing y1 with
  | nil => unfold clearRc; with_reducible repeat' first
    | assumption
    | (dsimp only)
    | refine kept_fst ?_ (by assumption)
    | apply kept_wr
    | apply kept_foldl
    | apply kept_foldl_fst
    | apply kept_getD
    | intro _
    | split
    | exact kept_pair _ (by assumption)
    | (unfold Kept; dsimp only; first | refine kept_parts ?_ | refine kept_parts_out ?_ | refine kept_parts_put ?_ | refine kept_parts_regs ?_ | refine kept_parts_filter ?_)
    | contradiction
  | cons xx tt ih => unfold clearRc; with_reducible repeat' first
    | apply ih
    | assumption
    | (dsimp only)
    | refine kept_fst ?_ (by assumption)
    | apply kept_wr
    | apply kept_foldl
    | apply kept_foldl_fst
    | apply kept_getD
    | intro _
    | split
    | exact kept_pair _ (by assumption)
    | (unfold Kept; dsimp only; first | refine kept_parts ?_ | refine kept_parts_out ?_ | refine kept_parts_put ?_ | refine kept_parts_regs ?_ | refine kept_parts_filter ?_)
    | contradiction

theorem kept_readEffect {st0 : State} {s : State} {w : Nat} (hk : Kept st0 s) : Kept st0 (readEffect s w) := by
  unfold readEffect
  with_reducible repeat' first
    | assumption
    | (dsimp only)
    | refine kept_fst ?_ (by assumption)
    | apply kept_clearRc
    | apply kept_foldl
    | apply kept_foldl_fst
    | apply kept_getD
    | intro _
    | split
    | exact kept_pair _ (by assumption)
    | (unfold Kept; dsimp only; first | refine kept_parts ?_ | refine kept_parts_out ?_ | refine kept_parts_put ?_ | refine kept_parts_regs ?_ | refine kept_parts_filter ?_)
    | contradiction

theorem kept_readWord32 {st0 : State} {s : State} {rdr : Reader} {w : Nat} (hk : Kept st0 s) : Kept st0 (readWord32 s rdr w).1 := by
  unfold readWord32
  with_reducible repeat' first
    | assumption
    | (dsimp only)
    | refine kept_fst ?_ (by assumption)
    | apply kept_peekWord
    | apply kept_readEffect
    | apply kept_foldl
    | apply kept_foldl_fst
    | apply kept_getD
    | intro _
    | split
    | exact kept_pair _ (by assumption)
    | (unfold Kept; dsimp only; first | refine kept_parts ?_ | refine kept_parts_out ?_ | refine kept_parts_put ?_ | refine kept_parts_regs ?_ | refine kept_parts_filter ?_)
    | contradiction

theorem kept_readWord64 {st0 : State} {s : State} {w : Nat} (hk : Kept st0 s) : Kept st0 (readWord64 s w).1 := by
  unfold readWord64
  with_reducible repeat' first
    | assumption
    | (dsimp only)
    | refine kept_fst ?_ (by assumption)
    | apply kept_peekWord
    | apply kept_readEffect
    | apply kept_foldl
    | apply kept_foldl_fst
    | apply kept_getD
    | intro _
    | split
    | exact kept_pair _ (by assumption)
    | (unfold Kept; dsimp only; first | refine kept_parts ?_ | refine kept_parts_out ?_ | refine kept_parts_put ?_ | refine kept_parts_regs ?_ | refine kept_parts_filter ?_)
    | contradiction

theorem kept_readCsr {st0 : State} {s : State} {rdr : Reader} {o : Nat} {width : Nat} (hk : Kept st0 s) : Kept st0 (readCsr s rdr o width).1 := by
  unfold readCsr
  with_reducible repeat' first
    | assumption
    | (dsimp only)
    | refine kept_fst ?_ (by assumption)
    | apply kept_readWord64
    | apply kept_readWord32
    | apply kept_foldl
    | apply kept_foldl_fst
    | apply kept_getD
    | intro _
    | split
    | exact kept_pair _ (by assumption)
    | (unfold Kept; dsimp only; first | refine kept_parts ?_ | refine kept_parts_out ?_ | refine kept_parts_put ?_ | refine kept_parts_regs ?_ | refine kept_parts_filter ?_)
    | contradiction

theorem kept_putField {st0 : State} {s : State} {y1 : Reg} {i : Nat} {v : Nat} (hk : Kept st0 s) : Kept st0 (putField s y1 i v) := by
  unfold putField
  with_reducible repeat' first
    | assumption
    | (dsimp only)
    | refine kept_fst ?_ (by assumption)
    | apply kept_opReqWrite
    | apply kept_powerLimitWrite
    | apply kept_stoneRdIndex
    | apply kept_writeCringTail
    | apply kept_evqHeadWrite
    | apply kept_wr
    | apply kept_enableQueue
    | apply kept_disableQueue
    | apply kept_foldl
    | apply kept_foldl_fst
    | apply kept_getD
    | intro _
    | split
    | exact kept_pair _ (by assumption)
    | (unfold Kept; dsimp only; first | refine kept_parts ?_ | refine kept_parts_out ?_ | refine kept_parts_put ?_ | refine kept_parts_regs ?_ | refine kept_parts_filter ?_)
    | contradiction

theorem kept_putFields {st0 : State} {v : Nat} {y1 : List (Reg × Nat × Nat)} {y2 : State} (hk : Kept st0 y2) : Kept st0 (putFields v y1 y2) := by
  induction y1 generalizing y2 with
  | nil => unfold putFields; with_reducible repeat' first
    | assumption
    | (dsimp only)
    | refine kept_fst ?_ (by assumption)
    | apply kept_putField
    | apply kept_foldl
    | apply kept_foldl_fst
    | apply kept_getD
    | intro _
    | split
    | exact kept_pair _ (by assumption)
    | (unfold Kept; dsimp only; first | refine kept_parts ?_ | refine kept_parts_out ?_ | refine kept_parts_put ?_ | refine kept_parts_regs ?_ | refine kept_parts_filter ?_)
    | contradiction
  | cons xx tt ih => unfold putFields; with_reducible repeat' first
    | apply ih
    | assumption
    | (dsimp only)
    | refine kept_fst ?_ (by assumption)
    | apply kept_putField
    | apply kept_foldl
    | apply kept_foldl_fst
    | apply kept_getD
    | intro _
    | split
    | exact kept_pair _ (by assumption)
    | (unfold Kept; dsimp only; first | refine kept_parts ?_ | refine kept_parts_out ?_ | refine kept_parts_put ?_ | refine kept_parts_regs ?_ | refine kept_parts_filter ?_)
    | contradiction

theorem kept_writeBuf {st0 : State} {s : State} {v : Nat} {y2 : CsrBuf} (hk : Kept st0 s) : Kept st0 (writeBuf s v y2) := by
  unfold writeBuf
  with_reducible repeat' first
    | assumption
    | (dsimp only)
    | refine kept_fst ?_ (by assumption)
    | apply kept_msixWrite
    | apply kept_compWrite
    | apply kept_foldl
    | apply kept_foldl_fst
    | apply kept_getD
    | intro _
    | split
    | exact kept_pair _ (by assumption)
    | (unfold Kept; dsimp only; first | refine kept_parts ?_ | refine kept_parts_out ?_ | refine kept_parts_put ?_ | refine kept_parts_regs ?_ | refine kept_parts_filter ?_)
    | contradiction

theorem kept_writeRw {st0 : State} {s : State} {w : Nat} {v : Nat} (hk : Kept st0 s) : Kept st0 (writeRw s w v) := by
  unfold writeRw
  with_reducible repeat' first
    | assumption
    | (dsimp only)
    | refine kept_fst ?_ (by assumption)
    | apply kept_writeBuf
    | apply kept_evqControl
    | apply kept_writeCringConfig
    | apply kept_putFields
    | apply kept_foldl
    | apply kept_foldl_fst
    | apply kept_getD
    | intro _
    | split
    | exact kept_pair _ (by assumption)
    | (unfold Kept; dsimp only; first | refine kept_parts ?_ | refine kept_parts_out ?_ | refine kept_parts_put ?_ | refine kept_parts_regs ?_ | refine kept_parts_filter ?_)
    | contradiction

theorem kept_writeResume {st0 : State} {s : State} {l : Nat} {v : Nat} (hk : Kept st0 s) : Kept st0 (writeResume s l v) := by
  unfold writeResume
  with_reducible repeat' first
    | assumption
    | (dsimp only)
    | refine kept_fst ?_ (by assumption)
    | apply kept_resumeCtx
    | apply kept_foldl
    | apply kept_foldl_fst
    | apply kept_getD
    | intro _
    | split
    | exact kept_pair _ (by assumption)
    | (unfold Kept; dsimp only; first | refine kept_parts ?_ | refine kept_parts_out ?_ | refine kept_parts_put ?_ | refine kept_parts_regs ?_ | refine kept_parts_filter ?_)
    | contradiction

theorem kept_hostSource {st0 : State} {s : State} {n : Nat} (hk : Kept st0 s) : Kept st0 (hostSource s n).1 := by
  exact ⟨hk.1, hk.2.1, hk.2.2.1.trans (Nat.le_succ _), hk.2.2.2.1, hk.2.2.2.2⟩

theorem kept_act {st0 : State} {s : State} {v : Nat} {x : Reg × Nat × Nat} (hk : Kept st0 s) : Kept st0 (act s v x) := by
  unfold act
  with_reducible repeat' first
    | assumption
    | (dsimp only)
    | refine kept_fst ?_ (by assumption)
    | apply kept_startLoad
    | apply kept_writeResume
    | apply kept_setCore
    | apply kept_redPost
    | apply kept_hostSource
    | apply kept_stageStart
    | apply kept_damsonLoad
    | apply kept_migStart
    | apply kept_injectWrite
    | apply kept_peerStart
    | apply kept_mboxStart
    | apply kept_epochSwitch
    | apply kept_freeSuspect
    | apply kept_doorbell
    | apply kept_applyDoorbell
    | apply kept_ckptAck
    | apply kept_rebind
    | apply kept_refillStart
    | apply kept_replayArm
    | apply kept_resetCtrl
    | apply kept_foldl
    | apply kept_foldl_fst
    | apply kept_getD
    | intro _
    | split
    | exact kept_pair _ (by assumption)
    | (unfold Kept; dsimp only; first | refine kept_parts ?_ | refine kept_parts_out ?_ | refine kept_parts_put ?_ | refine kept_parts_regs ?_ | refine kept_parts_filter ?_)
    | contradiction

theorem kept_actAll {st0 : State} {v : Nat} {y1 : List (Reg × Nat × Nat)} {y2 : State} (hk : Kept st0 y2) : Kept st0 (actAll v y1 y2) := by
  induction y1 generalizing y2 with
  | nil => unfold actAll; with_reducible repeat' first
    | assumption
    | (dsimp only)
    | refine kept_fst ?_ (by assumption)
    | apply kept_act
    | apply kept_foldl
    | apply kept_foldl_fst
    | apply kept_getD
    | intro _
    | split
    | exact kept_pair _ (by assumption)
    | (unfold Kept; dsimp only; first | refine kept_parts ?_ | refine kept_parts_out ?_ | refine kept_parts_put ?_ | refine kept_parts_regs ?_ | refine kept_parts_filter ?_)
    | contradiction
  | cons xx tt ih => unfold actAll; with_reducible repeat' first
    | apply ih
    | assumption
    | (dsimp only)
    | refine kept_fst ?_ (by assumption)
    | apply kept_act
    | apply kept_foldl
    | apply kept_foldl_fst
    | apply kept_getD
    | intro _
    | split
    | exact kept_pair _ (by assumption)
    | (unfold Kept; dsimp only; first | refine kept_parts ?_ | refine kept_parts_out ?_ | refine kept_parts_put ?_ | refine kept_parts_regs ?_ | refine kept_parts_filter ?_)
    | contradiction

theorem kept_writeAct {st0 : State} {s : State} {w : Nat} {v : Nat} (hk : Kept st0 s) : Kept st0 (writeAct s w v) := by
  unfold writeAct
  with_reducible repeat' first
    | assumption
    | (dsimp only)
    | refine kept_fst ?_ (by assumption)
    | apply kept_actAll
    | apply kept_foldl
    | apply kept_foldl_fst
    | apply kept_getD
    | intro _
    | split
    | exact kept_pair _ (by assumption)
    | (unfold Kept; dsimp only; first | refine kept_parts ?_ | refine kept_parts_out ?_ | refine kept_parts_put ?_ | refine kept_parts_regs ?_ | refine kept_parts_filter ?_)
    | contradiction

theorem kept_writeCsr {st0 : State} {s : State} {o : Nat} {width : Nat} {v : Nat} (hk : Kept st0 s) : Kept st0 (writeCsr s o width v) := by
  unfold writeCsr
  with_reducible repeat' first
    | assumption
    | (dsimp only)
    | refine kept_fst ?_ (by assumption)
    | apply kept_writeAct
    | apply kept_writeRw
    | apply kept_foldl
    | apply kept_foldl_fst
    | apply kept_getD
    | intro _
    | split
    | exact kept_pair _ (by assumption)
    | (unfold Kept; dsimp only; first | refine kept_parts ?_ | refine kept_parts_out ?_ | refine kept_parts_put ?_ | refine kept_parts_regs ?_ | refine kept_parts_filter ?_)
    | contradiction

theorem kept_csrAccess {st0 : State} {s : State} {rdr : Reader} {o : Nat} {width : Nat} {go : State → State} (hk : Kept st0 s) (h_go : ∀ z0, Kept st0 z0 → Kept st0 (go z0)) : Kept st0 (csrAccess s rdr o width go) := by
  unfold csrAccess
  split
  · split
    · exact hk
    · split
      · exact kept_emit _ hk
      · apply h_go
        split
        · exact kept_inc hk
        · exact hk
  · split
    · exact h_go _ hk
    · exact hk
  · split
    · exact h_go _ hk
    · exact hk

theorem kept_csrRead {st0 : State} {s : State} {rdr : Reader} {o : Nat} {width : Nat} (hk : Kept st0 s) : Kept st0 (csrRead s rdr o width) := by
  unfold csrRead
  with_reducible repeat' first
    | assumption
    | (dsimp only)
    | refine kept_fst ?_ (by assumption)
    | apply kept_csrAccess
    | apply kept_emit
    | apply kept_readCsr
    | apply kept_foldl
    | apply kept_foldl_fst
    | apply kept_getD
    | intro _
    | split
    | exact kept_pair _ (by assumption)
    | (unfold Kept; dsimp only; first | refine kept_parts ?_ | refine kept_parts_out ?_ | refine kept_parts_put ?_ | refine kept_parts_regs ?_ | refine kept_parts_filter ?_)
    | contradiction

theorem kept_execRcRead {st0 : State} {reader : Reader} {offset : Nat} {width : Nat} {s : State} (hk : Kept st0 s) {t : State} (e : execRcRead reader offset width s = .next t) : Kept st0 t := by
  unfold execRcRead at e
  injection e with e
  subst e
  with_reducible repeat' first
    | assumption
    | (dsimp only)
    | refine kept_fst ?_ (by assumption)
    | apply kept_csrRead
    | apply kept_foldl
    | apply kept_foldl_fst
    | apply kept_getD
    | intro _
    | split
    | exact kept_pair _ (by assumption)
    | (unfold Kept; dsimp only; first | refine kept_parts ?_ | refine kept_parts_out ?_ | refine kept_parts_put ?_ | refine kept_parts_regs ?_ | refine kept_parts_filter ?_)
    | contradiction

theorem kept_execCsrHalfRead {st0 : State} {reader : Reader} {offset : Nat} {s : State} (hk : Kept st0 s) {t : State} (e : execCsrHalfRead reader offset s = .next t) : Kept st0 t := by
  unfold execCsrHalfRead at e
  injection e with e
  subst e
  with_reducible repeat' first
    | assumption
    | (dsimp only)
    | refine kept_fst ?_ (by assumption)
    | apply kept_csrRead
    | apply kept_foldl
    | apply kept_foldl_fst
    | apply kept_getD
    | intro _
    | split
    | exact kept_pair _ (by assumption)
    | (unfold Kept; dsimp only; first | refine kept_parts ?_ | refine kept_parts_out ?_ | refine kept_parts_put ?_ | refine kept_parts_regs ?_ | refine kept_parts_filter ?_)
    | contradiction

theorem kept_execCsrWrite {st0 : State} {reader : Reader} {offset : Nat} {width : Nat} {value : Nat} {s : State} (hk : Kept st0 s) {t : State} (e : execCsrWrite reader offset width value s = .next t) : Kept st0 t := by
  unfold execCsrWrite at e
  injection e with e
  subst e
  with_reducible repeat' first
    | assumption
    | (dsimp only)
    | refine kept_fst ?_ (by assumption)
    | apply kept_csrAccess
    | apply kept_writeCsr
    | apply kept_foldl
    | apply kept_foldl_fst
    | apply kept_getD
    | intro _
    | split
    | exact kept_pair _ (by assumption)
    | (unfold Kept; dsimp only; first | refine kept_parts ?_ | refine kept_parts_out ?_ | refine kept_parts_put ?_ | refine kept_parts_regs ?_ | refine kept_parts_filter ?_)
    | contradiction

end Sys2Proof.Machine
end

