-- ==== Sys2Proof/Laws/KeptScalar.lean ====
section
/-!
SUPPORT. Sys2Proof/Laws/KeptScalar.lean: every operation of Sys2Proof/Machine/Scalar.lean leaves the queue, appends to what has left the block, and keeps the canonical forms.
-/
set_option linter.unusedVariables false
set_option linter.unreachableTactic false
set_option linter.unusedTactic false
namespace Sys2Proof.Machine

theorem kept_setHart {st0 : State} {s : State} {l : Nat} {h : Hart} (hk : Kept st0 s) : Kept st0 (setHart s l h) := by
  unfold setHart
  with_reducible repeat' first
    | assumption
    | (dsimp only)
    | refine kept_fst ?_ (by assumption)
    | apply kept_setCore
    | apply kept_foldl
    | apply kept_foldl_fst
    | apply kept_getD
    | intro _
    | split
    | exact kept_pair _ (by assumption)
    | (unfold Kept; dsimp only; first | refine kept_parts ?_ | refine kept_parts_out ?_ | refine kept_parts_put ?_ | refine kept_parts_regs ?_ | refine kept_parts_filter ?_)
    | contradiction

theorem kept_retire {st0 : State} {s : State} {l : Nat} {n : Nat} {rd' : Nat} {v : BitVec 64} (hk : Kept st0 s) : Kept st0 (retire s l n rd' v) := by
  unfold retire
  with_reducible repeat' first
    | assumption
    | (dsimp only)
    | refine kept_fst ?_ (by assumption)
    | apply kept_setHart
    | apply kept_foldl
    | apply kept_foldl_fst
    | apply kept_getD
    | intro _
    | split
    | exact kept_pair _ (by assumption)
    | (unfold Kept; dsimp only; first | refine kept_parts ?_ | refine kept_parts_out ?_ | refine kept_parts_put ?_ | refine kept_parts_regs ?_ | refine kept_parts_filter ?_)
    | contradiction

theorem kept_readCsrReg {st0 : State} {s : State} {h : Hart} {n : Nat} (hk : Kept st0 s) {t : State} {r : _} (e : readCsrReg s h n = some (t, r)) : Kept st0 t := by
  unfold readCsrReg at e
  repeat' split at e
  all_goals first
    | (cases e; exact hk)
    | (injection e with e; exact kept_fst (kept_fresh 64 hk) e)
    | cases e

theorem kept_programFault {st0 : State} {s : State} {l : Nat} {cause : Nat} {epc : Nat} {tval : Nat} (hk : Kept st0 s) : Kept st0 (programFault s l cause epc tval) := by
  unfold programFault
  with_reducible repeat' first
    | assumption
    | (dsimp only)
    | refine kept_fst ?_ (by assumption)
    | apply kept_setHart
    | apply kept_emit
    | apply kept_wr
    | apply kept_foldl
    | apply kept_foldl_fst
    | apply kept_getD
    | intro _
    | split
    | exact kept_pair _ (by assumption)
    | (unfold Kept; dsimp only; first | refine kept_parts ?_ | refine kept_parts_out ?_ | refine kept_parts_put ?_ | refine kept_parts_regs ?_ | refine kept_parts_filter ?_)
    | contradiction

theorem kept_takeException {st0 : State} {s : State} {l : Nat} {cause : Nat} {tval : Nat} (hk : Kept st0 s) : Kept st0 (takeException s l cause tval) := by
  unfold takeException
  with_reducible repeat' first
    | assumption
    | (dsimp only)
    | refine kept_fst ?_ (by assumption)
    | apply kept_setHart
    | apply kept_programFault
    | apply kept_foldl
    | apply kept_foldl_fst
    | apply kept_getD
    | intro _
    | split
    | exact kept_pair _ (by assumption)
    | (unfold Kept; dsimp only; first | refine kept_parts ?_ | refine kept_parts_out ?_ | refine kept_parts_put ?_ | refine kept_parts_regs ?_ | refine kept_parts_filter ?_)
    | contradiction

theorem kept_illegalInstr {st0 : State} {s : State} {l : Nat} (hk : Kept st0 s) : Kept st0 (illegalInstr s l) := by
  unfold illegalInstr
  with_reducible repeat' first
    | assumption
    | (dsimp only)
    | refine kept_fst ?_ (by assumption)
    | apply kept_fresh
    | apply kept_takeException
    | apply kept_foldl
    | apply kept_foldl_fst
    | apply kept_getD
    | intro _
    | split
    | exact kept_pair _ (by assumption)
    | (unfold Kept; dsimp only; first | refine kept_parts ?_ | refine kept_parts_out ?_ | refine kept_parts_put ?_ | refine kept_parts_regs ?_ | refine kept_parts_filter ?_)
    | contradiction

theorem kept_scalarUe {st0 : State} {s : State} {l : Nat} {cause : Nat} {tval : Nat} (hk : Kept st0 s) : Kept st0 (scalarUe s l cause tval) := by
  unfold scalarUe
  with_reducible repeat' first
    | assumption
    | (dsimp only)
    | refine kept_fst ?_ (by assumption)
    | apply kept_takeException
    | apply kept_deviceReset
    | apply kept_addDefect
    | apply kept_foldl
    | apply kept_foldl_fst
    | apply kept_getD
    | intro _
    | split
    | exact kept_pair _ (by assumption)
    | (unfold Kept; dsimp only; first | refine kept_parts ?_ | refine kept_parts_out ?_ | refine kept_parts_put ?_ | refine kept_parts_regs ?_ | refine kept_parts_filter ?_)
    | contradiction

theorem kept_readStore {st0 : State} {s : State} {l : Nat} {a : Nat} {n : Nat} (hk : Kept st0 s) : Kept st0 (readStore s l a n).1 := by
  unfold readStore
  with_reducible repeat' first
    | assumption
    | (dsimp only)
    | refine kept_fst ?_ (by assumption)
    | apply kept_readMem
    | apply kept_foldl
    | apply kept_foldl_fst
    | apply kept_getD
    | intro _
    | split
    | exact kept_pair _ (by assumption)
    | (unfold Kept; dsimp only; first | refine kept_parts ?_ | refine kept_parts_out ?_ | refine kept_parts_put ?_ | refine kept_parts_regs ?_ | refine kept_parts_filter ?_)
    | contradiction

theorem kept_scalarRead {st0 : State} {s : State} {l : Nat} {a : Nat} {n : Nat} (hk : Kept st0 s) : Kept st0 (scalarRead s l a n).1 := by
  unfold scalarRead
  with_reducible repeat' first
    | assumption
    | (dsimp only)
    | refine kept_fst ?_ (by assumption)
    | apply kept_readStore
    | apply kept_readCsr
    | apply kept_foldl
    | apply kept_foldl_fst
    | apply kept_getD
    | intro _
    | split
    | exact kept_pair _ (by assumption)
    | (unfold Kept; dsimp only; first | refine kept_parts ?_ | refine kept_parts_out ?_ | refine kept_parts_put ?_ | refine kept_parts_regs ?_ | refine kept_parts_filter ?_)
    | contradiction

theorem kept_scalarWrite {st0 : State} {s : State} {l : Nat} {user : Bool} {a : Nat} {n : Nat} {v : Nat} (hk : Kept st0 s) : Kept st0 (scalarWrite s l user a n v).1 := by
  unfold scalarWrite
  with_reducible repeat' first
    | assumption
    | (dsimp only)
    | refine kept_fst ?_ (by assumption)
    | apply kept_writeMem
    | apply kept_writeCsr
    | apply kept_foldl
    | apply kept_foldl_fst
    | apply kept_getD
    | intro _
    | split
    | exact kept_pair _ (by assumption)
    | (unfold Kept; dsimp only; first | refine kept_parts ?_ | refine kept_parts_out ?_ | refine kept_parts_put ?_ | refine kept_parts_regs ?_ | refine kept_parts_filter ?_)
    | contradiction

theorem kept_accessFailed {st0 : State} {s : State} {l : Nat} {cause : Nat} {a : Nat} {y4 : AccessErr} (hk : Kept st0 s) : Kept st0 (accessFailed s l cause a y4) := by
  unfold accessFailed
  with_reducible repeat' first
    | assumption
    | (dsimp only)
    | refine kept_fst ?_ (by assumption)
    | apply kept_takeException
    | apply kept_scalarUe
    | apply kept_foldl
    | apply kept_foldl_fst
    | apply kept_getD
    | intro _
    | split
    | exact kept_pair _ (by assumption)
    | (unfold Kept; dsimp only; first | refine kept_parts ?_ | refine kept_parts_out ?_ | refine kept_parts_put ?_ | refine kept_parts_regs ?_ | refine kept_parts_filter ?_)
    | contradiction

theorem kept_stepAt {st0 : State} {s : State} {l : Nat} {go : State → RvOp → Nat → Option State} (hk : Kept st0 s) (h_go : ∀ z0 z1 z2, Kept st0 z0 → ∀ t, go z0 z1 z2 = some t → Kept st0 t) : Kept st0 (stepAt s l go) := by
  unfold stepAt
  split
  · exact hk
  · split
    · exact kept_getD hk (fun t e => h_go _ _ _ (kept_readStore hk) _ e)
    · exact hk

theorem kept_csrStep {st0 : State} {s : State} {l : Nat} {n : Nat} {f3 : Nat} {rd' : Nat} {src : Nat} {num : Nat} (hk : Kept st0 s) : Kept st0 (csrStep s l n f3 rd' src num) := by
  unfold csrStep
  with_reducible repeat' first
    | assumption
    | (dsimp only)
    | refine kept_fst ?_ (by assumption)
    | apply kept_illegalInstr
    | refine kept_readCsrReg ?_ (by assumption)
    | apply kept_setHart
    | apply kept_foldl
    | apply kept_foldl_fst
    | apply kept_getD
    | intro _
    | split
    | exact kept_pair _ (by assumption)
    | (unfold Kept; dsimp only; first | refine kept_parts ?_ | refine kept_parts_out ?_ | refine kept_parts_put ?_ | refine kept_parts_regs ?_ | refine kept_parts_filter ?_)
    | contradiction

theorem kept_loadStep {st0 : State} {s : State} {l : Nat} {n : Nat} {f3 : Nat} {rd' : Nat} {a : Nat} (hk : Kept st0 s) : Kept st0 (loadStep s l n f3 rd' a) := by
  unfold loadStep
  with_reducible repeat' first
    | assumption
    | (dsimp only)
    | refine kept_fst ?_ (by assumption)
    | apply kept_scalarRead
    | apply kept_retire
    | apply kept_accessFailed
    | apply kept_foldl
    | apply kept_foldl_fst
    | apply kept_getD
    | intro _
    | split
    | exact kept_pair _ (by assumption)
    | (unfold Kept; dsimp only; first | refine kept_parts ?_ | refine kept_parts_out ?_ | refine kept_parts_put ?_ | refine kept_parts_regs ?_ | refine kept_parts_filter ?_)
    | contradiction

theorem kept_storeStep {st0 : State} {s : State} {l : Nat} {n : Nat} {f3 : Nat} {a : Nat} {v : Nat} (hk : Kept st0 s) : Kept st0 (storeStep s l n f3 a v) := by
  unfold storeStep
  with_reducible repeat' first
    | assumption
    | (dsimp only)
    | refine kept_fst ?_ (by assumption)
    | apply kept_scalarWrite
    | apply kept_setHart
    | apply kept_takeException
    | apply kept_foldl
    | apply kept_foldl_fst
    | apply kept_getD
    | intro _
    | split
    | exact kept_pair _ (by assumption)
    | (unfold Kept; dsimp only; first | refine kept_parts ?_ | refine kept_parts_out ?_ | refine kept_parts_put ?_ | refine kept_parts_regs ?_ | refine kept_parts_filter ?_)
    | contradiction

theorem kept_lrStep {st0 : State} {s : State} {l : Nat} {n : Nat} {w : Bool} {rd' : Nat} {a : Nat} (hk : Kept st0 s) : Kept st0 (lrStep s l n w rd' a) := by
  unfold lrStep
  with_reducible repeat' first
    | assumption
    | (dsimp only)
    | refine kept_fst ?_ (by assumption)
    | apply kept_takeException
    | apply kept_readStore
    | apply kept_retire
    | apply kept_setHart
    | apply kept_accessFailed
    | apply kept_foldl
    | apply kept_foldl_fst
    | apply kept_getD
    | intro _
    | split
    | exact kept_pair _ (by assumption)
    | (unfold Kept; dsimp only; first | refine kept_parts ?_ | refine kept_parts_out ?_ | refine kept_parts_put ?_ | refine kept_parts_regs ?_ | refine kept_parts_filter ?_)
    | contradiction

theorem kept_scStep {st0 : State} {s : State} {l : Nat} {n : Nat} {w : Bool} {rd' : Nat} {a : Nat} {v : Nat} (hk : Kept st0 s) : Kept st0 (scStep s l n w rd' a v) := by
  unfold scStep
  with_reducible repeat' first
    | assumption
    | (dsimp only)
    | refine kept_fst ?_ (by assumption)
    | apply kept_takeException
    | apply kept_setHart
    | apply kept_retire
    | apply kept_writeMem
    | apply kept_foldl
    | apply kept_foldl_fst
    | apply kept_getD
    | intro _
    | split
    | exact kept_pair _ (by assumption)
    | (unfold Kept; dsimp only; first | refine kept_parts ?_ | refine kept_parts_out ?_ | refine kept_parts_put ?_ | refine kept_parts_regs ?_ | refine kept_parts_filter ?_)
    | contradiction

theorem kept_amoStep {st0 : State} {s : State} {l : Nat} {n : Nat} {f5 : Nat} {w : Bool} {rd' : Nat} {a : Nat} {v : BitVec 64} (hk : Kept st0 s) : Kept st0 (amoStep s l n f5 w rd' a v) := by
  unfold amoStep
  with_reducible repeat' first
    | assumption
    | (dsimp only)
    | refine kept_fst ?_ (by assumption)
    | apply kept_takeException
    | apply kept_readStore
    | apply kept_retire
    | apply kept_writeMem
    | apply kept_accessFailed
    | apply kept_foldl
    | apply kept_foldl_fst
    | apply kept_getD
    | intro _
    | split
    | exact kept_pair _ (by assumption)
    | (unfold Kept; dsimp only; first | refine kept_parts ?_ | refine kept_parts_out ?_ | refine kept_parts_put ?_ | refine kept_parts_regs ?_ | refine kept_parts_filter ?_)
    | contradiction

theorem kept_jumpTo {st0 : State} {s : State} {l : Nat} {n : Nat} {rd' : Nat} {y4 : BitVec 64} (hk : Kept st0 s) : Kept st0 (jumpTo s l n rd' y4) := by
  unfold jumpTo
  with_reducible repeat' first
    | assumption
    | (dsimp only)
    | refine kept_fst ?_ (by assumption)
    | apply kept_setHart
    | apply kept_foldl
    | apply kept_foldl_fst
    | apply kept_getD
    | intro _
    | split
    | exact kept_pair _ (by assumption)
    | (unfold Kept; dsimp only; first | refine kept_parts ?_ | refine kept_parts_out ?_ | refine kept_parts_put ?_ | refine kept_parts_regs ?_ | refine kept_parts_filter ?_)
    | contradiction

theorem kept_plainStep {st0 : State} {l : Nat} {s : State} {o : RvOp} {n : Nat} (hk : Kept st0 s) {t : State} (e : plainStep l s o n = some t) : Kept st0 t := by
  unfold plainStep at e
  revert e
  with_reducible repeat' first
    | (intro e; injection e with e; subst e)
    | (intro e; injection e with e; injection e with e _; subst e)
    | (intro e; cases e)
    | assumption
    | (dsimp only)
    | refine kept_fst ?_ (by assumption)
    | apply kept_illegalInstr
    | apply kept_retire
    | apply kept_jumpTo
    | apply kept_setHart
    | apply kept_loadStep
    | apply kept_storeStep
    | apply kept_csrStep
    | apply kept_takeException
    | apply kept_lrStep
    | apply kept_scStep
    | apply kept_amoStep
    | apply kept_foldl
    | apply kept_foldl_fst
    | apply kept_getD
    | split
    | intro _
    | exact kept_pair _ (by assumption)
    | (unfold Kept; dsimp only; first | refine kept_parts ?_ | refine kept_parts_out ?_ | refine kept_parts_put ?_ | refine kept_parts_regs ?_ | refine kept_parts_filter ?_)
    | contradiction

theorem kept_scalarStep {st0 : State} {s : State} {l : Nat} (hk : Kept st0 s) : Kept st0 (scalarStep s l) := by
  unfold scalarStep
  with_reducible repeat' first
    | assumption
    | (dsimp only)
    | refine kept_fst ?_ (by assumption)
    | apply kept_takeException
    | apply kept_accessFailed
    | apply kept_readStore
    | apply kept_stepAt
    | refine kept_plainStep ?_ (by assumption)
    | apply kept_foldl
    | apply kept_foldl_fst
    | apply kept_getD
    | intro _
    | split
    | exact kept_pair _ (by assumption)
    | (unfold Kept; dsimp only; first | refine kept_parts ?_ | refine kept_parts_out ?_ | refine kept_parts_put ?_ | refine kept_parts_regs ?_ | refine kept_parts_filter ?_)
    | contradiction

theorem kept_ecallStep {st0 : State} {l : Nat} {s : State} {o : RvOp} {y3 : Nat} (hk : Kept st0 s) {t : State} (e : ecallStep l s o y3 = some t) : Kept st0 t := by
  unfold ecallStep at e
  revert e
  with_reducible repeat' first
    | (intro e; injection e with e; subst e)
    | (intro e; injection e with e; injection e with e _; subst e)
    | (intro e; cases e)
    | assumption
    | (dsimp only)
    | refine kept_fst ?_ (by assumption)
    | apply kept_setHart
    | apply kept_takeException
    | apply kept_foldl
    | apply kept_foldl_fst
    | apply kept_getD
    | split
    | intro _
    | exact kept_pair _ (by assumption)
    | (unfold Kept; dsimp only; first | refine kept_parts ?_ | refine kept_parts_out ?_ | refine kept_parts_put ?_ | refine kept_parts_regs ?_ | refine kept_parts_filter ?_)
    | contradiction

theorem kept_tdIssueStep {st0 : State} {l : Nat} {s : State} {o : RvOp} {n : Nat} (hk : Kept st0 s) {t : State} (e : tdIssueStep l s o n = some t) : Kept st0 t := by
  unfold tdIssueStep at e
  revert e
  with_reducible repeat' first
    | (intro e; injection e with e; subst e)
    | (intro e; injection e with e; injection e with e _; subst e)
    | (intro e; cases e)
    | assumption
    | (dsimp only)
    | refine kept_fst ?_ (by assumption)
    | apply kept_takeException
    | apply kept_readMem
    | apply kept_issueTile
    | apply kept_retire
    | apply kept_accessFailed
    | apply kept_foldl
    | apply kept_foldl_fst
    | apply kept_getD
    | split
    | intro _
    | exact kept_pair _ (by assumption)
    | (unfold Kept; dsimp only; first | refine kept_parts ?_ | refine kept_parts_out ?_ | refine kept_parts_put ?_ | refine kept_parts_regs ?_ | refine kept_parts_filter ?_)
    | contradiction

theorem kept_tdFenceStep {st0 : State} {l : Nat} {s : State} {o : RvOp} {n : Nat} (hk : Kept st0 s) {t : State} (e : tdFenceStep l s o n = some t) : Kept st0 t := by
  unfold tdFenceStep at e
  revert e
  with_reducible repeat' first
    | (intro e; injection e with e; subst e)
    | (intro e; injection e with e; injection e with e _; subst e)
    | (intro e; cases e)
    | assumption
    | (dsimp only)
    | refine kept_fst ?_ (by assumption)
    | apply kept_retire
    | apply kept_foldl
    | apply kept_foldl_fst
    | apply kept_getD
    | split
    | intro _
    | exact kept_pair _ (by assumption)
    | (unfold Kept; dsimp only; first | refine kept_parts ?_ | refine kept_parts_out ?_ | refine kept_parts_put ?_ | refine kept_parts_regs ?_ | refine kept_parts_filter ?_)
    | contradiction

theorem kept_tdResumeStep {st0 : State} {l : Nat} {s : State} {o : RvOp} {n : Nat} (hk : Kept st0 s) {t : State} (e : tdResumeStep l s o n = some t) : Kept st0 t := by
  unfold tdResumeStep at e
  revert e
  with_reducible repeat' first
    | (intro e; injection e with e; subst e)
    | (intro e; injection e with e; injection e with e _; subst e)
    | (intro e; cases e)
    | assumption
    | (dsimp only)
    | refine kept_fst ?_ (by assumption)
    | apply kept_resumeCtx
    | apply kept_setHart
    | apply kept_foldl
    | apply kept_foldl_fst
    | apply kept_getD
    | split
    | intro _
    | exact kept_pair _ (by assumption)
    | (unfold Kept; dsimp only; first | refine kept_parts ?_ | refine kept_parts_out ?_ | refine kept_parts_put ?_ | refine kept_parts_regs ?_ | refine kept_parts_filter ?_)
    | contradiction

theorem kept_tdStatStep {st0 : State} {l : Nat} {s : State} {o : RvOp} {n : Nat} (hk : Kept st0 s) {t : State} (e : tdStatStep l s o n = some t) : Kept st0 t := by
  unfold tdStatStep at e
  revert e
  with_reducible repeat' first
    | (intro e; injection e with e; subst e)
    | (intro e; injection e with e; injection e with e _; subst e)
    | (intro e; cases e)
    | assumption
    | (dsimp only)
    | refine kept_fst ?_ (by assumption)
    | apply kept_retire
    | apply kept_foldl
    | apply kept_foldl_fst
    | apply kept_getD
    | split
    | intro _
    | exact kept_pair _ (by assumption)
    | (unfold Kept; dsimp only; first | refine kept_parts ?_ | refine kept_parts_out ?_ | refine kept_parts_put ?_ | refine kept_parts_regs ?_ | refine kept_parts_filter ?_)
    | contradiction

theorem kept_tkReadStep {st0 : State} {l : Nat} {s : State} {o : RvOp} {n : Nat} (hk : Kept st0 s) {t : State} (e : tkReadStep l s o n = some t) : Kept st0 t := by
  unfold tkReadStep at e
  revert e
  with_reducible repeat' first
    | (intro e; injection e with e; subst e)
    | (intro e; injection e with e; injection e with e _; subst e)
    | (intro e; cases e)
    | assumption
    | (dsimp only)
    | refine kept_fst ?_ (by assumption)
    | apply kept_retire
    | apply kept_foldl
    | apply kept_foldl_fst
    | apply kept_getD
    | split
    | intro _
    | exact kept_pair _ (by assumption)
    | (unfold Kept; dsimp only; first | refine kept_parts ?_ | refine kept_parts_out ?_ | refine kept_parts_put ?_ | refine kept_parts_regs ?_ | refine kept_parts_filter ?_)
    | contradiction

theorem kept_tkSetStep {st0 : State} {l : Nat} {s : State} {o : RvOp} {n : Nat} (hk : Kept st0 s) {t : State} (e : tkSetStep l s o n = some t) : Kept st0 t := by
  unfold tkSetStep at e
  revert e
  with_reducible repeat' first
    | (intro e; injection e with e; subst e)
    | (intro e; injection e with e; injection e with e _; subst e)
    | (intro e; cases e)
    | assumption
    | (dsimp only)
    | refine kept_fst ?_ (by assumption)
    | apply kept_recheckWait
    | apply kept_setToken
    | apply kept_setHart
    | apply kept_illegalInstr
    | apply kept_foldl
    | apply kept_foldl_fst
    | apply kept_getD
    | split
    | intro _
    | exact kept_pair _ (by assumption)
    | (unfold Kept; dsimp only; first | refine kept_parts ?_ | refine kept_parts_out ?_ | refine kept_parts_put ?_ | refine kept_parts_regs ?_ | refine kept_parts_filter ?_)
    | contradiction

theorem kept_tkAddStep {st0 : State} {l : Nat} {s : State} {o : RvOp} {n : Nat} (hk : Kept st0 s) {t : State} (e : tkAddStep l s o n = some t) : Kept st0 t := by
  unfold tkAddStep at e
  revert e
  with_reducible repeat' first
    | (intro e; injection e with e; subst e)
    | (intro e; injection e with e; injection e with e _; subst e)
    | (intro e; cases e)
    | assumption
    | (dsimp only)
    | refine kept_fst ?_ (by assumption)
    | apply kept_addToken
    | apply kept_setHart
    | apply kept_illegalInstr
    | apply kept_foldl
    | apply kept_foldl_fst
    | apply kept_getD
    | split
    | intro _
    | exact kept_pair _ (by assumption)
    | (unfold Kept; dsimp only; first | refine kept_parts ?_ | refine kept_parts_out ?_ | refine kept_parts_put ?_ | refine kept_parts_regs ?_ | refine kept_parts_filter ?_)
    | contradiction

theorem kept_tkWaitStep {st0 : State} {l : Nat} {s : State} {o : RvOp} {y3 : Nat} (hk : Kept st0 s) {t : State} (e : tkWaitStep l s o y3 = some t) : Kept st0 t := by
  unfold tkWaitStep at e
  revert e
  with_reducible repeat' first
    | (intro e; injection e with e; subst e)
    | (intro e; injection e with e; injection e with e _; subst e)
    | (intro e; cases e)
    | assumption
    | (dsimp only)
    | refine kept_fst ?_ (by assumption)
    | apply kept_recheckWait
    | apply kept_setHart
    | apply kept_illegalInstr
    | apply kept_foldl
    | apply kept_foldl_fst
    | apply kept_getD
    | split
    | intro _
    | exact kept_pair _ (by assumption)
    | (unfold Kept; dsimp only; first | refine kept_parts ?_ | refine kept_parts_out ?_ | refine kept_parts_put ?_ | refine kept_parts_regs ?_ | refine kept_parts_filter ?_)
    | contradiction

theorem kept_tkExpire {st0 : State} {s : State} {l : Nat} (hk : Kept st0 s) : Kept st0 (tkExpire s l) := by
  unfold tkExpire
  with_reducible repeat' first
    | assumption
    | (dsimp only)
    | refine kept_fst ?_ (by assumption)
    | apply kept_inc
    | apply kept_setHart
    | apply kept_foldl
    | apply kept_foldl_fst
    | apply kept_getD
    | intro _
    | split
    | exact kept_pair _ (by assumption)
    | (unfold Kept; dsimp only; first | refine kept_parts ?_ | refine kept_parts_out ?_ | refine kept_parts_put ?_ | refine kept_parts_regs ?_ | refine kept_parts_filter ?_)
    | contradiction

theorem kept_nsReadStep {st0 : State} {l : Nat} {s : State} {o : RvOp} {n : Nat} (hk : Kept st0 s) {t : State} (e : nsReadStep l s o n = some t) : Kept st0 t := by
  unfold nsReadStep at e
  revert e
  with_reducible repeat' first
    | (intro e; injection e with e; subst e)
    | (intro e; injection e with e; injection e with e _; subst e)
    | (intro e; cases e)
    | assumption
    | (dsimp only)
    | refine kept_fst ?_ (by assumption)
    | apply kept_retire
    | apply kept_foldl
    | apply kept_foldl_fst
    | apply kept_getD
    | split
    | intro _
    | exact kept_pair _ (by assumption)
    | (unfold Kept; dsimp only; first | refine kept_parts ?_ | refine kept_parts_out ?_ | refine kept_parts_put ?_ | refine kept_parts_regs ?_ | refine kept_parts_filter ?_)
    | contradiction

theorem kept_execScalarInstruction {st0 : State} {core : Nat} {s : State} (hk : Kept st0 s) {t : State} (e : execScalarInstruction core s = .next t) : Kept st0 t := by
  unfold execScalarInstruction at e
  injection e with e
  subst e
  with_reducible repeat' first
    | assumption
    | (dsimp only)
    | refine kept_fst ?_ (by assumption)
    | apply kept_scalarStep
    | apply kept_foldl
    | apply kept_foldl_fst
    | apply kept_getD
    | intro _
    | split
    | exact kept_pair _ (by assumption)
    | (unfold Kept; dsimp only; first | refine kept_parts ?_ | refine kept_parts_out ?_ | refine kept_parts_put ?_ | refine kept_parts_regs ?_ | refine kept_parts_filter ?_)
    | contradiction

theorem kept_execEcall {st0 : State} {core : Nat} {s : State} (hk : Kept st0 s) {t : State} (e : execEcall core s = .next t) : Kept st0 t := by
  unfold execEcall at e
  injection e with e
  subst e
  with_reducible repeat' first
    | assumption
    | (dsimp only)
    | refine kept_fst ?_ (by assumption)
    | apply kept_stepAt
    | refine kept_ecallStep ?_ (by assumption)
    | apply kept_foldl
    | apply kept_foldl_fst
    | apply kept_getD
    | intro _
    | split
    | exact kept_pair _ (by assumption)
    | (unfold Kept; dsimp only; first | refine kept_parts ?_ | refine kept_parts_out ?_ | refine kept_parts_put ?_ | refine kept_parts_regs ?_ | refine kept_parts_filter ?_)
    | contradiction

theorem kept_execProgDoneSet {st0 : State} {core : Nat} {s : State} (hk : Kept st0 s) {t : State} (e : execProgDoneSet core s = .next t) : Kept st0 t := by
  unfold execProgDoneSet at e
  injection e with e
  subst e
  with_reducible repeat' first
    | assumption
    | (dsimp only)
    | refine kept_fst ?_ (by assumption)
    | apply kept_wr
    | apply kept_foldl
    | apply kept_foldl_fst
    | apply kept_getD
    | intro _
    | split
    | exact kept_pair _ (by assumption)
    | (unfold Kept; dsimp only; first | refine kept_parts ?_ | refine kept_parts_out ?_ | refine kept_parts_put ?_ | refine kept_parts_regs ?_ | refine kept_parts_filter ?_)
    | contradiction

theorem kept_execTdIssue {st0 : State} {core : Nat} {s : State} (hk : Kept st0 s) {t : State} (e : execTdIssue core s = .next t) : Kept st0 t := by
  unfold execTdIssue at e
  injection e with e
  subst e
  with_reducible repeat' first
    | assumption
    | (dsimp only)
    | refine kept_fst ?_ (by assumption)
    | apply kept_stepAt
    | refine kept_tdIssueStep ?_ (by assumption)
    | apply kept_foldl
    | apply kept_foldl_fst
    | apply kept_getD
    | intro _
    | split
    | exact kept_pair _ (by assumption)
    | (unfold Kept; dsimp only; first | refine kept_parts ?_ | refine kept_parts_out ?_ | refine kept_parts_put ?_ | refine kept_parts_regs ?_ | refine kept_parts_filter ?_)
    | contradiction

theorem kept_execTdFence {st0 : State} {core : Nat} {s : State} (hk : Kept st0 s) {t : State} (e : execTdFence core s = .next t) : Kept st0 t := by
  unfold execTdFence at e
  injection e with e
  subst e
  with_reducible repeat' first
    | assumption
    | (dsimp only)
    | refine kept_fst ?_ (by assumption)
    | apply kept_stepAt
    | refine kept_tdFenceStep ?_ (by assumption)
    | apply kept_foldl
    | apply kept_foldl_fst
    | apply kept_getD
    | intro _
    | split
    | exact kept_pair _ (by assumption)
    | (unfold Kept; dsimp only; first | refine kept_parts ?_ | refine kept_parts_out ?_ | refine kept_parts_put ?_ | refine kept_parts_regs ?_ | refine kept_parts_filter ?_)
    | contradiction

theorem kept_execTdResume {st0 : State} {core : Nat} {s : State} (hk : Kept st0 s) {t : State} (e : execTdResume core s = .next t) : Kept st0 t := by
  unfold execTdResume at e
  injection e with e
  subst e
  with_reducible repeat' first
    | assumption
    | (dsimp only)
    | refine kept_fst ?_ (by assumption)
    | apply kept_stepAt
    | refine kept_tdResumeStep ?_ (by assumption)
    | apply kept_foldl
    | apply kept_foldl_fst
    | apply kept_getD
    | intro _
    | split
    | exact kept_pair _ (by assumption)
    | (unfold Kept; dsimp only; first | refine kept_parts ?_ | refine kept_parts_out ?_ | refine kept_parts_put ?_ | refine kept_parts_regs ?_ | refine kept_parts_filter ?_)
    | contradiction

theorem kept_execTdStat {st0 : State} {core : Nat} {s : State} (hk : Kept st0 s) {t : State} (e : execTdStat core s = .next t) : Kept st0 t := by
  unfold execTdStat at e
  injection e with e
  subst e
  with_reducible repeat' first
    | assumption
    | (dsimp only)
    | refine kept_fst ?_ (by assumption)
    | apply kept_stepAt
    | refine kept_tdStatStep ?_ (by assumption)
    | apply kept_foldl
    | apply kept_foldl_fst
    | apply kept_getD
    | intro _
    | split
    | exact kept_pair _ (by assumption)
    | (unfold Kept; dsimp only; first | refine kept_parts ?_ | refine kept_parts_out ?_ | refine kept_parts_put ?_ | refine kept_parts_regs ?_ | refine kept_parts_filter ?_)
    | contradiction

theorem kept_execTkRead {st0 : State} {core : Nat} {s : State} (hk : Kept st0 s) {t : State} (e : execTkRead core s = .next t) : Kept st0 t := by
  unfold execTkRead at e
  injection e with e
  subst e
  with_reducible repeat' first
    | assumption
    | (dsimp only)
    | refine kept_fst ?_ (by assumption)
    | apply kept_stepAt
    | refine kept_tkReadStep ?_ (by assumption)
    | apply kept_foldl
    | apply kept_foldl_fst
    | apply kept_getD
    | intro _
    | split
    | exact kept_pair _ (by assumption)
    | (unfold Kept; dsimp only; first | refine kept_parts ?_ | refine kept_parts_out ?_ | refine kept_parts_put ?_ | refine kept_parts_regs ?_ | refine kept_parts_filter ?_)
    | contradiction

theorem kept_execTkSet {st0 : State} {core : Nat} {s : State} (hk : Kept st0 s) {t : State} (e : execTkSet core s = .next t) : Kept st0 t := by
  unfold execTkSet at e
  injection e with e
  subst e
  with_reducible repeat' first
    | assumption
    | (dsimp only)
    | refine kept_fst ?_ (by assumption)
    | apply kept_stepAt
    | refine kept_tkSetStep ?_ (by assumption)
    | apply kept_foldl
    | apply kept_foldl_fst
    | apply kept_getD
    | intro _
    | split
    | exact kept_pair _ (by assumption)
    | (unfold Kept; dsimp only; first | refine kept_parts ?_ | refine kept_parts_out ?_ | refine kept_parts_put ?_ | refine kept_parts_regs ?_ | refine kept_parts_filter ?_)
    | contradiction

theorem kept_execTkAdd {st0 : State} {core : Nat} {s : State} (hk : Kept st0 s) {t : State} (e : execTkAdd core s = .next t) : Kept st0 t := by
  unfold execTkAdd at e
  injection e with e
  subst e
  with_reducible repeat' first
    | assumption
    | (dsimp only)
    | refine kept_fst ?_ (by assumption)
    | apply kept_stepAt
    | refine kept_tkAddStep ?_ (by assumption)
    | apply kept_foldl
    | apply kept_foldl_fst
    | apply kept_getD
    | intro _
    | split
    | exact kept_pair _ (by assumption)
    | (unfold Kept; dsimp only; first | refine kept_parts ?_ | refine kept_parts_out ?_ | refine kept_parts_put ?_ | refine kept_parts_regs ?_ | refine kept_parts_filter ?_)
    | contradiction

theorem kept_execTkWait {st0 : State} {core : Nat} {s : State} (hk : Kept st0 s) {t : State} (e : execTkWait core s = .next t) : Kept st0 t := by
  unfold execTkWait at e
  injection e with e
  subst e
  with_reducible repeat' first
    | assumption
    | (dsimp only)
    | refine kept_fst ?_ (by assumption)
    | apply kept_stepAt
    | refine kept_tkWaitStep ?_ (by assumption)
    | apply kept_foldl
    | apply kept_foldl_fst
    | apply kept_getD
    | intro _
    | split
    | exact kept_pair _ (by assumption)
    | (unfold Kept; dsimp only; first | refine kept_parts ?_ | refine kept_parts_out ?_ | refine kept_parts_put ?_ | refine kept_parts_regs ?_ | refine kept_parts_filter ?_)
    | contradiction

theorem kept_execTkWaitTimeout {st0 : State} {core : Nat} {s : State} (hk : Kept st0 s) {t : State} (e : execTkWaitTimeout core s = .next t) : Kept st0 t := by
  unfold execTkWaitTimeout at e
  injection e with e
  subst e
  with_reducible repeat' first
    | assumption
    | (dsimp only)
    | refine kept_fst ?_ (by assumption)
    | apply kept_tkExpire
    | apply kept_foldl
    | apply kept_foldl_fst
    | apply kept_getD
    | intro _
    | split
    | exact kept_pair _ (by assumption)
    | (unfold Kept; dsimp only; first | refine kept_parts ?_ | refine kept_parts_out ?_ | refine kept_parts_put ?_ | refine kept_parts_regs ?_ | refine kept_parts_filter ?_)
    | contradiction

theorem kept_execNsRead {st0 : State} {core : Nat} {s : State} (hk : Kept st0 s) {t : State} (e : execNsRead core s = .next t) : Kept st0 t := by
  unfold execNsRead at e
  injection e with e
  subst e
  with_reducible repeat' first
    | assumption
    | (dsimp only)
    | refine kept_fst ?_ (by assumption)
    | apply kept_stepAt
    | refine kept_nsReadStep ?_ (by assumption)
    | apply kept_foldl
    | apply kept_foldl_fst
    | apply kept_getD
    | intro _
    | split
    | exact kept_pair _ (by assumption)
    | (unfold Kept; dsimp only; first | refine kept_parts ?_ | refine kept_parts_out ?_ | refine kept_parts_put ?_ | refine kept_parts_regs ?_ | refine kept_parts_filter ?_)
    | contradiction

end Sys2Proof.Machine
end

