-- ==== Sys2Proof/Laws/KeptVector.lean ====
section
/-!
SUPPORT. Sys2Proof/Laws/KeptVector.lean: every operation of Sys2Proof/Machine/Vector.lean leaves the queue, appends to what has left the block, and keeps the canonical forms.
-/
set_option linter.unusedVariables false
set_option linter.unreachableTactic false
set_option linter.unusedTactic false
namespace Sys2Proof.Machine

theorem kept_vInstr {st0 : State} {opc : Nat} {ok : Nat → Bool} {f : State → VEng → Nat → VRes} {core : Nat} {s : State} (hk : Kept st0 s) (h_f : ∀ z0 z1 z2, Kept st0 z0 → Kept st0 (f z0 z1 z2).s) {t : State} (e : vInstr opc ok f core s = .next t) : Kept st0 t := by
  unfold vInstr at e
  injection e with e
  subst e
  with_reducible repeat' first
    | assumption
    | (dsimp only)
    | refine kept_fst ?_ (by assumption)
    | apply kept_vstep
    | apply kept_vChecked
    | apply kept_foldl
    | apply kept_foldl_fst
    | apply kept_getD
    | intro _
    | split
    | exact kept_pair _ (by assumption)
    | (unfold Kept; dsimp only; first | refine kept_parts ?_ | refine kept_parts_out ?_ | refine kept_parts_put ?_ | refine kept_parts_regs ?_ | refine kept_parts_filter ?_)
    | contradiction

theorem kept_opNop {st0 : State} {y0 : State} {y1 : VEng} {y2 : Nat} (hk : Kept st0 y0) : Kept st0 (opNop y0 y1 y2).s := by
  unfold opNop
  with_reducible repeat' first
    | assumption
    | (dsimp only)
    | refine kept_fst ?_ (by assumption)
    | apply kept_VRes_just
    | apply kept_foldl
    | apply kept_foldl_fst
    | apply kept_getD
    | intro _
    | split
    | exact kept_pair _ (by assumption)
    | (unfold Kept; dsimp only; first | refine kept_parts ?_ | refine kept_parts_out ?_ | refine kept_parts_put ?_ | refine kept_parts_regs ?_ | refine kept_parts_filter ?_)
    | contradiction

theorem kept_execNop {st0 : State} {core : Nat} {s : State} (hk : Kept st0 s) {t : State} (e : execNop core s = .next t) : Kept st0 t := by
  exact kept_vInstr hk (fun _ _ _ h => kept_opNop h) e

theorem kept_opSli {st0 : State} {y0 : State} {y1 : VEng} {y2 : Nat} (hk : Kept st0 y0) : Kept st0 (opSli y0 y1 y2).s := by
  unfold opSli
  with_reducible repeat' first
    | assumption
    | (dsimp only)
    | refine kept_fst ?_ (by assumption)
    | apply kept_sqWrite
    | apply kept_foldl
    | apply kept_foldl_fst
    | apply kept_getD
    | intro _
    | split
    | exact kept_pair _ (by assumption)
    | (unfold Kept; dsimp only; first | refine kept_parts ?_ | refine kept_parts_out ?_ | refine kept_parts_put ?_ | refine kept_parts_regs ?_ | refine kept_parts_filter ?_)
    | contradiction

theorem kept_execSli {st0 : State} {core : Nat} {s : State} (hk : Kept st0 s) {t : State} (e : execSli core s = .next t) : Kept st0 t := by
  exact kept_vInstr hk (fun _ _ _ h => kept_opSli h) e

theorem kept_opSaddi {st0 : State} {y0 : State} {y1 : VEng} {y2 : Nat} (hk : Kept st0 y0) : Kept st0 (opSaddi y0 y1 y2).s := by
  unfold opSaddi
  with_reducible repeat' first
    | assumption
    | (dsimp only)
    | refine kept_fst ?_ (by assumption)
    | apply kept_sqWrite
    | apply kept_foldl
    | apply kept_foldl_fst
    | apply kept_getD
    | intro _
    | split
    | exact kept_pair _ (by assumption)
    | (unfold Kept; dsimp only; first | refine kept_parts ?_ | refine kept_parts_out ?_ | refine kept_parts_put ?_ | refine kept_parts_regs ?_ | refine kept_parts_filter ?_)
    | contradiction

theorem kept_execSaddi {st0 : State} {core : Nat} {s : State} (hk : Kept st0 s) {t : State} (e : execSaddi core s = .next t) : Kept st0 t := by
  exact kept_vInstr hk (fun _ _ _ h => kept_opSaddi h) e

theorem kept_opSadd {st0 : State} {y0 : State} {y1 : VEng} {y2 : Nat} (hk : Kept st0 y0) : Kept st0 (opSadd y0 y1 y2).s := by
  unfold opSadd
  with_reducible repeat' first
    | assumption
    | (dsimp only)
    | refine kept_fst ?_ (by assumption)
    | apply kept_sqWrite
    | apply kept_foldl
    | apply kept_foldl_fst
    | apply kept_getD
    | intro _
    | split
    | exact kept_pair _ (by assumption)
    | (unfold Kept; dsimp only; first | refine kept_parts ?_ | refine kept_parts_out ?_ | refine kept_parts_put ?_ | refine kept_parts_regs ?_ | refine kept_parts_filter ?_)
    | contradiction

theorem kept_execSadd {st0 : State} {core : Nat} {s : State} (hk : Kept st0 s) {t : State} (e : execSadd core s = .next t) : Kept st0 t := by
  exact kept_vInstr hk (fun _ _ _ h => kept_opSadd h) e

theorem kept_opSmul {st0 : State} {y0 : State} {y1 : VEng} {y2 : Nat} (hk : Kept st0 y0) : Kept st0 (opSmul y0 y1 y2).s := by
  unfold opSmul
  with_reducible repeat' first
    | assumption
    | (dsimp only)
    | refine kept_fst ?_ (by assumption)
    | apply kept_sqWrite
    | apply kept_foldl
    | apply kept_foldl_fst
    | apply kept_getD
    | intro _
    | split
    | exact kept_pair _ (by assumption)
    | (unfold Kept; dsimp only; first | refine kept_parts ?_ | refine kept_parts_out ?_ | refine kept_parts_put ?_ | refine kept_parts_regs ?_ | refine kept_parts_filter ?_)
    | contradiction

theorem kept_execSmul {st0 : State} {core : Nat} {s : State} (hk : Kept st0 s) {t : State} (e : execSmul core s = .next t) : Kept st0 t := by
  exact kept_vInstr hk (fun _ _ _ h => kept_opSmul h) e

theorem kept_opSshli {st0 : State} {y0 : State} {y1 : VEng} {y2 : Nat} (hk : Kept st0 y0) : Kept st0 (opSshli y0 y1 y2).s := by
  unfold opSshli
  with_reducible repeat' first
    | assumption
    | (dsimp only)
    | refine kept_fst ?_ (by assumption)
    | apply kept_sqWrite
    | apply kept_foldl
    | apply kept_foldl_fst
    | apply kept_getD
    | intro _
    | split
    | exact kept_pair _ (by assumption)
    | (unfold Kept; dsimp only; first | refine kept_parts ?_ | refine kept_parts_out ?_ | refine kept_parts_put ?_ | refine kept_parts_regs ?_ | refine kept_parts_filter ?_)
    | contradiction

theorem kept_execSshli {st0 : State} {core : Nat} {s : State} (hk : Kept st0 s) {t : State} (e : execSshli core s = .next t) : Kept st0 t := by
  exact kept_vInstr hk (fun _ _ _ h => kept_opSshli h) e

theorem kept_opSshri {st0 : State} {y0 : State} {y1 : VEng} {y2 : Nat} (hk : Kept st0 y0) : Kept st0 (opSshri y0 y1 y2).s := by
  unfold opSshri
  with_reducible repeat' first
    | assumption
    | (dsimp only)
    | refine kept_fst ?_ (by assumption)
    | apply kept_sqWrite
    | apply kept_foldl
    | apply kept_foldl_fst
    | apply kept_getD
    | intro _
    | split
    | exact kept_pair _ (by assumption)
    | (unfold Kept; dsimp only; first | refine kept_parts ?_ | refine kept_parts_out ?_ | refine kept_parts_put ?_ | refine kept_parts_regs ?_ | refine kept_parts_filter ?_)
    | contradiction

theorem kept_execSshri {st0 : State} {core : Nat} {s : State} (hk : Kept st0 s) {t : State} (e : execSshri core s = .next t) : Kept st0 t := by
  exact kept_vInstr hk (fun _ _ _ h => kept_opSshri h) e

theorem kept_opSbnz {st0 : State} {y0 : State} {y1 : VEng} {y2 : Nat} (hk : Kept st0 y0) : Kept st0 (opSbnz y0 y1 y2).s := by
  unfold opSbnz
  with_reducible repeat' first
    | assumption
    | (dsimp only)
    | refine kept_fst ?_ (by assumption)
    | apply kept_vBranch
    | apply kept_foldl
    | apply kept_foldl_fst
    | apply kept_getD
    | intro _
    | split
    | exact kept_pair _ (by assumption)
    | (unfold Kept; dsimp only; first | refine kept_parts ?_ | refine kept_parts_out ?_ | refine kept_parts_put ?_ | refine kept_parts_regs ?_ | refine kept_parts_filter ?_)
    | contradiction

theorem kept_execSbnz {st0 : State} {core : Nat} {s : State} (hk : Kept st0 s) {t : State} (e : execSbnz core s = .next t) : Kept st0 t := by
  exact kept_vInstr hk (fun _ _ _ h => kept_opSbnz h) e

theorem kept_opSblt {st0 : State} {y0 : State} {y1 : VEng} {y2 : Nat} (hk : Kept st0 y0) : Kept st0 (opSblt y0 y1 y2).s := by
  unfold opSblt
  with_reducible repeat' first
    | assumption
    | (dsimp only)
    | refine kept_fst ?_ (by assumption)
    | apply kept_vBranch
    | apply kept_foldl
    | apply kept_foldl_fst
    | apply kept_getD
    | intro _
    | split
    | exact kept_pair _ (by assumption)
    | (unfold Kept; dsimp only; first | refine kept_parts ?_ | refine kept_parts_out ?_ | refine kept_parts_put ?_ | refine kept_parts_regs ?_ | refine kept_parts_filter ?_)
    | contradiction

theorem kept_execSblt {st0 : State} {core : Nat} {s : State} (hk : Kept st0 s) {t : State} (e : execSblt core s = .next t) : Kept st0 t := by
  exact kept_vInstr hk (fun _ _ _ h => kept_opSblt h) e

theorem kept_opSld {st0 : State} {y0 : State} {y1 : VEng} {y2 : Nat} (hk : Kept st0 y0) : Kept st0 (opSld y0 y1 y2).s := by
  unfold opSld
  with_reducible repeat' first
    | assumption
    | (dsimp only)
    | refine kept_fst ?_ (by assumption)
    | apply kept_VRes_bad
    | apply kept_vLoad
    | apply kept_VRes_just
    | apply kept_foldl
    | apply kept_foldl_fst
    | apply kept_getD
    | intro _
    | split
    | exact kept_pair _ (by assumption)
    | (unfold Kept; dsimp only; first | refine kept_parts ?_ | refine kept_parts_out ?_ | refine kept_parts_put ?_ | refine kept_parts_regs ?_ | refine kept_parts_filter ?_)
    | contradiction

theorem kept_execSld {st0 : State} {core : Nat} {s : State} (hk : Kept st0 s) {t : State} (e : execSld core s = .next t) : Kept st0 t := by
  exact kept_vInstr hk (fun _ _ _ h => kept_opSld h) e

theorem kept_opScnt {st0 : State} {y0 : State} {y1 : VEng} {y2 : Nat} (hk : Kept st0 y0) : Kept st0 (opScnt y0 y1 y2).s := by
  unfold opScnt
  with_reducible repeat' first
    | assumption
    | (dsimp only)
    | refine kept_fst ?_ (by assumption)
    | apply kept_sqWrite
    | apply kept_foldl
    | apply kept_foldl_fst
    | apply kept_getD
    | intro _
    | split
    | exact kept_pair _ (by assumption)
    | (unfold Kept; dsimp only; first | refine kept_parts ?_ | refine kept_parts_out ?_ | refine kept_parts_put ?_ | refine kept_parts_regs ?_ | refine kept_parts_filter ?_)
    | contradiction

theorem kept_execScnt {st0 : State} {core : Nat} {s : State} (hk : Kept st0 s) {t : State} (e : execScnt core s = .next t) : Kept st0 t := by
  exact kept_vInstr hk (fun _ _ _ h => kept_opScnt h) e

theorem kept_opSvext {st0 : State} {y0 : State} {y1 : VEng} {y2 : Nat} (hk : Kept st0 y0) : Kept st0 (opSvext y0 y1 y2).s := by
  unfold opSvext
  with_reducible repeat' first
    | assumption
    | (dsimp only)
    | refine kept_fst ?_ (by assumption)
    | apply kept_sqWrite
    | apply kept_foldl
    | apply kept_foldl_fst
    | apply kept_getD
    | intro _
    | split
    | exact kept_pair _ (by assumption)
    | (unfold Kept; dsimp only; first | refine kept_parts ?_ | refine kept_parts_out ?_ | refine kept_parts_put ?_ | refine kept_parts_regs ?_ | refine kept_parts_filter ?_)
    | contradiction

theorem kept_execSvext {st0 : State} {core : Nat} {s : State} (hk : Kept st0 s) {t : State} (e : execSvext core s = .next t) : Kept st0 t := by
  exact kept_vInstr hk (fun _ _ _ h => kept_opSvext h) e

theorem kept_opPwhile {st0 : State} {y0 : State} {y1 : VEng} {y2 : Nat} (hk : Kept st0 y0) : Kept st0 (opPwhile y0 y1 y2).s := by
  unfold opPwhile
  with_reducible repeat' first
    | assumption
    | (dsimp only)
    | refine kept_fst ?_ (by assumption)
    | apply kept_VRes_just
    | apply kept_foldl
    | apply kept_foldl_fst
    | apply kept_getD
    | intro _
    | split
    | exact kept_pair _ (by assumption)
    | (unfold Kept; dsimp only; first | refine kept_parts ?_ | refine kept_parts_out ?_ | refine kept_parts_put ?_ | refine kept_parts_regs ?_ | refine kept_parts_filter ?_)
    | contradiction

theorem kept_execPwhile {st0 : State} {core : Nat} {s : State} (hk : Kept st0 s) {t : State} (e : execPwhile core s = .next t) : Kept st0 t := by
  exact kept_vInstr hk (fun _ _ _ h => kept_opPwhile h) e

theorem kept_opPand {st0 : State} {y0 : State} {y1 : VEng} {y2 : Nat} (hk : Kept st0 y0) : Kept st0 (opPand y0 y1 y2).s := by
  unfold opPand
  with_reducible repeat' first
    | assumption
    | (dsimp only)
    | refine kept_fst ?_ (by assumption)
    | apply kept_pLogic
    | apply kept_foldl
    | apply kept_foldl_fst
    | apply kept_getD
    | intro _
    | split
    | exact kept_pair _ (by assumption)
    | (unfold Kept; dsimp only; first | refine kept_parts ?_ | refine kept_parts_out ?_ | refine kept_parts_put ?_ | refine kept_parts_regs ?_ | refine kept_parts_filter ?_)
    | contradiction

theorem kept_execPand {st0 : State} {core : Nat} {s : State} (hk : Kept st0 s) {t : State} (e : execPand core s = .next t) : Kept st0 t := by
  exact kept_vInstr hk (fun _ _ _ h => kept_opPand h) e

theorem kept_opPor {st0 : State} {y0 : State} {y1 : VEng} {y2 : Nat} (hk : Kept st0 y0) : Kept st0 (opPor y0 y1 y2).s := by
  unfold opPor
  with_reducible repeat' first
    | assumption
    | (dsimp only)
    | refine kept_fst ?_ (by assumption)
    | apply kept_pLogic
    | apply kept_foldl
    | apply kept_foldl_fst
    | apply kept_getD
    | intro _
    | split
    | exact kept_pair _ (by assumption)
    | (unfold Kept; dsimp only; first | refine kept_parts ?_ | refine kept_parts_out ?_ | refine kept_parts_put ?_ | refine kept_parts_regs ?_ | refine kept_parts_filter ?_)
    | contradiction

theorem kept_execPor {st0 : State} {core : Nat} {s : State} (hk : Kept st0 s) {t : State} (e : execPor core s = .next t) : Kept st0 t := by
  exact kept_vInstr hk (fun _ _ _ h => kept_opPor h) e

theorem kept_opPxor {st0 : State} {y0 : State} {y1 : VEng} {y2 : Nat} (hk : Kept st0 y0) : Kept st0 (opPxor y0 y1 y2).s := by
  unfold opPxor
  with_reducible repeat' first
    | assumption
    | (dsimp only)
    | refine kept_fst ?_ (by assumption)
    | apply kept_pLogic
    | apply kept_foldl
    | apply kept_foldl_fst
    | apply kept_getD
    | intro _
    | split
    | exact kept_pair _ (by assumption)
    | (unfold Kept; dsimp only; first | refine kept_parts ?_ | refine kept_parts_out ?_ | refine kept_parts_put ?_ | refine kept_parts_regs ?_ | refine kept_parts_filter ?_)
    | contradiction

theorem kept_execPxor {st0 : State} {core : Nat} {s : State} (hk : Kept st0 s) {t : State} (e : execPxor core s = .next t) : Kept st0 t := by
  exact kept_vInstr hk (fun _ _ _ h => kept_opPxor h) e

theorem kept_opPnot {st0 : State} {y0 : State} {y1 : VEng} {y2 : Nat} (hk : Kept st0 y0) : Kept st0 (opPnot y0 y1 y2).s := by
  unfold opPnot
  with_reducible repeat' first
    | assumption
    | (dsimp only)
    | refine kept_fst ?_ (by assumption)
    | apply kept_pLogic
    | apply kept_foldl
    | apply kept_foldl_fst
    | apply kept_getD
    | intro _
    | split
    | exact kept_pair _ (by assumption)
    | (unfold Kept; dsimp only; first | refine kept_parts ?_ | refine kept_parts_out ?_ | refine kept_parts_put ?_ | refine kept_parts_regs ?_ | refine kept_parts_filter ?_)
    | contradiction

theorem kept_execPnot {st0 : State} {core : Nat} {s : State} (hk : Kept st0 s) {t : State} (e : execPnot core s = .next t) : Kept st0 t := by
  exact kept_vInstr hk (fun _ _ _ h => kept_opPnot h) e

theorem kept_opVcmp {st0 : State} {y0 : State} {y1 : VEng} {y2 : Nat} (hk : Kept st0 y0) : Kept st0 (opVcmp y0 y1 y2).s := by
  unfold opVcmp
  with_reducible repeat' first
    | assumption
    | (dsimp only)
    | refine kept_fst ?_ (by assumption)
    | apply kept_vCmp
    | apply kept_foldl
    | apply kept_foldl_fst
    | apply kept_getD
    | intro _
    | split
    | exact kept_pair _ (by assumption)
    | (unfold Kept; dsimp only; first | refine kept_parts ?_ | refine kept_parts_out ?_ | refine kept_parts_put ?_ | refine kept_parts_regs ?_ | refine kept_parts_filter ?_)
    | contradiction

theorem kept_execVcmp {st0 : State} {core : Nat} {s : State} (hk : Kept st0 s) {t : State} (e : execVcmp core s = .next t) : Kept st0 t := by
  exact kept_vInstr hk (fun _ _ _ h => kept_opVcmp h) e

theorem kept_opVadd {st0 : State} {y0 : State} {y1 : VEng} {y2 : Nat} (hk : Kept st0 y0) : Kept st0 (opVadd y0 y1 y2).s := by
  unfold opVadd
  with_reducible repeat' first
    | assumption
    | (dsimp only)
    | refine kept_fst ?_ (by assumption)
    | apply kept_vFloat
    | apply kept_foldl
    | apply kept_foldl_fst
    | apply kept_getD
    | intro _
    | split
    | exact kept_pair _ (by assumption)
    | (unfold Kept; dsimp only; first | refine kept_parts ?_ | refine kept_parts_out ?_ | refine kept_parts_put ?_ | refine kept_parts_regs ?_ | refine kept_parts_filter ?_)
    | contradiction

theorem kept_execVadd {st0 : State} {core : Nat} {s : State} (hk : Kept st0 s) {t : State} (e : execVadd core s = .next t) : Kept st0 t := by
  exact kept_vInstr hk (fun _ _ _ h => kept_opVadd h) e

theorem kept_opVsub {st0 : State} {y0 : State} {y1 : VEng} {y2 : Nat} (hk : Kept st0 y0) : Kept st0 (opVsub y0 y1 y2).s := by
  unfold opVsub
  with_reducible repeat' first
    | assumption
    | (dsimp only)
    | refine kept_fst ?_ (by assumption)
    | apply kept_vFloat
    | apply kept_foldl
    | apply kept_foldl_fst
    | apply kept_getD
    | intro _
    | split
    | exact kept_pair _ (by assumption)
    | (unfold Kept; dsimp only; first | refine kept_parts ?_ | refine kept_parts_out ?_ | refine kept_parts_put ?_ | refine kept_parts_regs ?_ | refine kept_parts_filter ?_)
    | contradiction

theorem kept_execVsub {st0 : State} {core : Nat} {s : State} (hk : Kept st0 s) {t : State} (e : execVsub core s = .next t) : Kept st0 t := by
  exact kept_vInstr hk (fun _ _ _ h => kept_opVsub h) e

theorem kept_opVmul {st0 : State} {y0 : State} {y1 : VEng} {y2 : Nat} (hk : Kept st0 y0) : Kept st0 (opVmul y0 y1 y2).s := by
  unfold opVmul
  with_reducible repeat' first
    | assumption
    | (dsimp only)
    | refine kept_fst ?_ (by assumption)
    | apply kept_vFloat
    | apply kept_foldl
    | apply kept_foldl_fst
    | apply kept_getD
    | intro _
    | split
    | exact kept_pair _ (by assumption)
    | (unfold Kept; dsimp only; first | refine kept_parts ?_ | refine kept_parts_out ?_ | refine kept_parts_put ?_ | refine kept_parts_regs ?_ | refine kept_parts_filter ?_)
    | contradiction

theorem kept_execVmul {st0 : State} {core : Nat} {s : State} (hk : Kept st0 s) {t : State} (e : execVmul core s = .next t) : Kept st0 t := by
  exact kept_vInstr hk (fun _ _ _ h => kept_opVmul h) e

theorem kept_opVfma {st0 : State} {y0 : State} {y1 : VEng} {y2 : Nat} (hk : Kept st0 y0) : Kept st0 (opVfma y0 y1 y2).s := by
  unfold opVfma
  with_reducible repeat' first
    | assumption
    | (dsimp only)
    | refine kept_fst ?_ (by assumption)
    | apply kept_vFloat
    | apply kept_foldl
    | apply kept_foldl_fst
    | apply kept_getD
    | intro _
    | split
    | exact kept_pair _ (by assumption)
    | (unfold Kept; dsimp only; first | refine kept_parts ?_ | refine kept_parts_out ?_ | refine kept_parts_put ?_ | refine kept_parts_regs ?_ | refine kept_parts_filter ?_)
    | contradiction

theorem kept_execVfma {st0 : State} {core : Nat} {s : State} (hk : Kept st0 s) {t : State} (e : execVfma core s = .next t) : Kept st0 t := by
  exact kept_vInstr hk (fun _ _ _ h => kept_opVfma h) e

theorem kept_opVfnma {st0 : State} {y0 : State} {y1 : VEng} {y2 : Nat} (hk : Kept st0 y0) : Kept st0 (opVfnma y0 y1 y2).s := by
  unfold opVfnma
  with_reducible repeat' first
    | assumption
    | (dsimp only)
    | refine kept_fst ?_ (by assumption)
    | apply kept_vFloat
    | apply kept_foldl
    | apply kept_foldl_fst
    | apply kept_getD
    | intro _
    | split
    | exact kept_pair _ (by assumption)
    | (unfold Kept; dsimp only; first | refine kept_parts ?_ | refine kept_parts_out ?_ | refine kept_parts_put ?_ | refine kept_parts_regs ?_ | refine kept_parts_filter ?_)
    | contradiction

theorem kept_execVfnma {st0 : State} {core : Nat} {s : State} (hk : Kept st0 s) {t : State} (e : execVfnma core s = .next t) : Kept st0 t := by
  exact kept_vInstr hk (fun _ _ _ h => kept_opVfnma h) e

theorem kept_opVdiv {st0 : State} {y0 : State} {y1 : VEng} {y2 : Nat} (hk : Kept st0 y0) : Kept st0 (opVdiv y0 y1 y2).s := by
  unfold opVdiv
  with_reducible repeat' first
    | assumption
    | (dsimp only)
    | refine kept_fst ?_ (by assumption)
    | apply kept_vFloat
    | apply kept_foldl
    | apply kept_foldl_fst
    | apply kept_getD
    | intro _
    | split
    | exact kept_pair _ (by assumption)
    | (unfold Kept; dsimp only; first | refine kept_parts ?_ | refine kept_parts_out ?_ | refine kept_parts_put ?_ | refine kept_parts_regs ?_ | refine kept_parts_filter ?_)
    | contradiction

theorem kept_execVdiv {st0 : State} {core : Nat} {s : State} (hk : Kept st0 s) {t : State} (e : execVdiv core s = .next t) : Kept st0 t := by
  exact kept_vInstr hk (fun _ _ _ h => kept_opVdiv h) e

theorem kept_opVsqrt {st0 : State} {y0 : State} {y1 : VEng} {y2 : Nat} (hk : Kept st0 y0) : Kept st0 (opVsqrt y0 y1 y2).s := by
  unfold opVsqrt
  with_reducible repeat' first
    | assumption
    | (dsimp only)
    | refine kept_fst ?_ (by assumption)
    | apply kept_vFloat
    | apply kept_foldl
    | apply kept_foldl_fst
    | apply kept_getD
    | intro _
    | split
    | exact kept_pair _ (by assumption)
    | (unfold Kept; dsimp only; first | refine kept_parts ?_ | refine kept_parts_out ?_ | refine kept_parts_put ?_ | refine kept_parts_regs ?_ | refine kept_parts_filter ?_)
    | contradiction

theorem kept_execVsqrt {st0 : State} {core : Nat} {s : State} (hk : Kept st0 s) {t : State} (e : execVsqrt core s = .next t) : Kept st0 t := by
  exact kept_vInstr hk (fun _ _ _ h => kept_opVsqrt h) e

theorem kept_opVmin {st0 : State} {y0 : State} {y1 : VEng} {y2 : Nat} (hk : Kept st0 y0) : Kept st0 (opVmin y0 y1 y2).s := by
  unfold opVmin
  with_reducible repeat' first
    | assumption
    | (dsimp only)
    | refine kept_fst ?_ (by assumption)
    | apply kept_vFloat
    | apply kept_foldl
    | apply kept_foldl_fst
    | apply kept_getD
    | intro _
    | split
    | exact kept_pair _ (by assumption)
    | (unfold Kept; dsimp only; first | refine kept_parts ?_ | refine kept_parts_out ?_ | refine kept_parts_put ?_ | refine kept_parts_regs ?_ | refine kept_parts_filter ?_)
    | contradiction

theorem kept_execVmin {st0 : State} {core : Nat} {s : State} (hk : Kept st0 s) {t : State} (e : execVmin core s = .next t) : Kept st0 t := by
  exact kept_vInstr hk (fun _ _ _ h => kept_opVmin h) e

theorem kept_opVmax {st0 : State} {y0 : State} {y1 : VEng} {y2 : Nat} (hk : Kept st0 y0) : Kept st0 (opVmax y0 y1 y2).s := by
  unfold opVmax
  with_reducible repeat' first
    | assumption
    | (dsimp only)
    | refine kept_fst ?_ (by assumption)
    | apply kept_vFloat
    | apply kept_foldl
    | apply kept_foldl_fst
    | apply kept_getD
    | intro _
    | split
    | exact kept_pair _ (by assumption)
    | (unfold Kept; dsimp only; first | refine kept_parts ?_ | refine kept_parts_out ?_ | refine kept_parts_put ?_ | refine kept_parts_regs ?_ | refine kept_parts_filter ?_)
    | contradiction

theorem kept_execVmax {st0 : State} {core : Nat} {s : State} (hk : Kept st0 s) {t : State} (e : execVmax core s = .next t) : Kept st0 t := by
  exact kept_vInstr hk (fun _ _ _ h => kept_opVmax h) e

theorem kept_opVabs {st0 : State} {y0 : State} {y1 : VEng} {y2 : Nat} (hk : Kept st0 y0) : Kept st0 (opVabs y0 y1 y2).s := by
  unfold opVabs
  with_reducible repeat' first
    | assumption
    | (dsimp only)
    | refine kept_fst ?_ (by assumption)
    | apply kept_vFloat
    | apply kept_foldl
    | apply kept_foldl_fst
    | apply kept_getD
    | intro _
    | split
    | exact kept_pair _ (by assumption)
    | (unfold Kept; dsimp only; first | refine kept_parts ?_ | refine kept_parts_out ?_ | refine kept_parts_put ?_ | refine kept_parts_regs ?_ | refine kept_parts_filter ?_)
    | contradiction

theorem kept_execVabs {st0 : State} {core : Nat} {s : State} (hk : Kept st0 s) {t : State} (e : execVabs core s = .next t) : Kept st0 t := by
  exact kept_vInstr hk (fun _ _ _ h => kept_opVabs h) e

theorem kept_opVneg {st0 : State} {y0 : State} {y1 : VEng} {y2 : Nat} (hk : Kept st0 y0) : Kept st0 (opVneg y0 y1 y2).s := by
  unfold opVneg
  with_reducible repeat' first
    | assumption
    | (dsimp only)
    | refine kept_fst ?_ (by assumption)
    | apply kept_vFloat
    | apply kept_foldl
    | apply kept_foldl_fst
    | apply kept_getD
    | intro _
    | split
    | exact kept_pair _ (by assumption)
    | (unfold Kept; dsimp only; first | refine kept_parts ?_ | refine kept_parts_out ?_ | refine kept_parts_put ?_ | refine kept_parts_regs ?_ | refine kept_parts_filter ?_)
    | contradiction

theorem kept_execVneg {st0 : State} {core : Nat} {s : State} (hk : Kept st0 s) {t : State} (e : execVneg core s = .next t) : Kept st0 t := by
  exact kept_vInstr hk (fun _ _ _ h => kept_opVneg h) e

theorem kept_opVfmawl {st0 : State} {y0 : State} {y1 : VEng} {y2 : Nat} (hk : Kept st0 y0) : Kept st0 (opVfmawl y0 y1 y2).s := by
  unfold opVfmawl
  with_reducible repeat' first
    | assumption
    | (dsimp only)
    | refine kept_fst ?_ (by assumption)
    | apply kept_vFmaWide
    | apply kept_foldl
    | apply kept_foldl_fst
    | apply kept_getD
    | intro _
    | split
    | exact kept_pair _ (by assumption)
    | (unfold Kept; dsimp only; first | refine kept_parts ?_ | refine kept_parts_out ?_ | refine kept_parts_put ?_ | refine kept_parts_regs ?_ | refine kept_parts_filter ?_)
    | contradiction

theorem kept_execVfmawl {st0 : State} {core : Nat} {s : State} (hk : Kept st0 s) {t : State} (e : execVfmawl core s = .next t) : Kept st0 t := by
  exact kept_vInstr hk (fun _ _ _ h => kept_opVfmawl h) e

theorem kept_opVfmawh {st0 : State} {y0 : State} {y1 : VEng} {y2 : Nat} (hk : Kept st0 y0) : Kept st0 (opVfmawh y0 y1 y2).s := by
  unfold opVfmawh
  with_reducible repeat' first
    | assumption
    | (dsimp only)
    | refine kept_fst ?_ (by assumption)
    | apply kept_vFmaWide
    | apply kept_foldl
    | apply kept_foldl_fst
    | apply kept_getD
    | intro _
    | split
    | exact kept_pair _ (by assumption)
    | (unfold Kept; dsimp only; first | refine kept_parts ?_ | refine kept_parts_out ?_ | refine kept_parts_put ?_ | refine kept_parts_regs ?_ | refine kept_parts_filter ?_)
    | contradiction

theorem kept_execVfmawh {st0 : State} {core : Nat} {s : State} (hk : Kept st0 s) {t : State} (e : execVfmawh core s = .next t) : Kept st0 t := by
  exact kept_vInstr hk (fun _ _ _ h => kept_opVfmawh h) e

theorem kept_opVdot4 {st0 : State} {y0 : State} {y1 : VEng} {y2 : Nat} (hk : Kept st0 y0) : Kept st0 (opVdot4 y0 y1 y2).s := by
  unfold opVdot4
  with_reducible repeat' first
    | assumption
    | (dsimp only)
    | refine kept_fst ?_ (by assumption)
    | apply kept_vDot4
    | apply kept_foldl
    | apply kept_foldl_fst
    | apply kept_getD
    | intro _
    | split
    | exact kept_pair _ (by assumption)
    | (unfold Kept; dsimp only; first | refine kept_parts ?_ | refine kept_parts_out ?_ | refine kept_parts_put ?_ | refine kept_parts_regs ?_ | refine kept_parts_filter ?_)
    | contradiction

theorem kept_execVdot4 {st0 : State} {core : Nat} {s : State} (hk : Kept st0 s) {t : State} (e : execVdot4 core s = .next t) : Kept st0 t := by
  exact kept_vInstr hk (fun _ _ _ h => kept_opVdot4 h) e

theorem kept_opVmov {st0 : State} {y0 : State} {y1 : VEng} {y2 : Nat} (hk : Kept st0 y0) : Kept st0 (opVmov y0 y1 y2).s := by
  unfold opVmov
  with_reducible repeat' first
    | assumption
    | (dsimp only)
    | refine kept_fst ?_ (by assumption)
    | apply kept_vRaw
    | apply kept_foldl
    | apply kept_foldl_fst
    | apply kept_getD
    | intro _
    | split
    | exact kept_pair _ (by assumption)
    | (unfold Kept; dsimp only; first | refine kept_parts ?_ | refine kept_parts_out ?_ | refine kept_parts_put ?_ | refine kept_parts_regs ?_ | refine kept_parts_filter ?_)
    | contradiction

theorem kept_execVmov {st0 : State} {core : Nat} {s : State} (hk : Kept st0 s) {t : State} (e : execVmov core s = .next t) : Kept st0 t := by
  exact kept_vInstr hk (fun _ _ _ h => kept_opVmov h) e

theorem kept_opVsel {st0 : State} {y0 : State} {y1 : VEng} {y2 : Nat} (hk : Kept st0 y0) : Kept st0 (opVsel y0 y1 y2).s := by
  unfold opVsel
  with_reducible repeat' first
    | assumption
    | (dsimp only)
    | refine kept_fst ?_ (by assumption)
    | apply kept_VRes_wrote
    | apply kept_foldl
    | apply kept_foldl_fst
    | apply kept_getD
    | intro _
    | split
    | exact kept_pair _ (by assumption)
    | (unfold Kept; dsimp only; first | refine kept_parts ?_ | refine kept_parts_out ?_ | refine kept_parts_put ?_ | refine kept_parts_regs ?_ | refine kept_parts_filter ?_)
    | contradiction

theorem kept_execVsel {st0 : State} {core : Nat} {s : State} (hk : Kept st0 s) {t : State} (e : execVsel core s = .next t) : Kept st0 t := by
  exact kept_vInstr hk (fun _ _ _ h => kept_opVsel h) e

theorem kept_opVperm {st0 : State} {y0 : State} {y1 : VEng} {y2 : Nat} (hk : Kept st0 y0) : Kept st0 (opVperm y0 y1 y2).s := by
  unfold opVperm
  with_reducible repeat' first
    | assumption
    | (dsimp only)
    | refine kept_fst ?_ (by assumption)
    | apply kept_vRaw
    | apply kept_foldl
    | apply kept_foldl_fst
    | apply kept_getD
    | intro _
    | split
    | exact kept_pair _ (by assumption)
    | (unfold Kept; dsimp only; first | refine kept_parts ?_ | refine kept_parts_out ?_ | refine kept_parts_put ?_ | refine kept_parts_regs ?_ | refine kept_parts_filter ?_)
    | contradiction

theorem kept_execVperm {st0 : State} {core : Nat} {s : State} (hk : Kept st0 s) {t : State} (e : execVperm core s = .next t) : Kept st0 t := by
  exact kept_vInstr hk (fun _ _ _ h => kept_opVperm h) e

theorem kept_opVdups {st0 : State} {y0 : State} {y1 : VEng} {y2 : Nat} (hk : Kept st0 y0) : Kept st0 (opVdups y0 y1 y2).s := by
  unfold opVdups
  with_reducible repeat' first
    | assumption
    | (dsimp only)
    | refine kept_fst ?_ (by assumption)
    | apply kept_vRaw
    | apply kept_foldl
    | apply kept_foldl_fst
    | apply kept_getD
    | intro _
    | split
    | exact kept_pair _ (by assumption)
    | (unfold Kept; dsimp only; first | refine kept_parts ?_ | refine kept_parts_out ?_ | refine kept_parts_put ?_ | refine kept_parts_regs ?_ | refine kept_parts_filter ?_)
    | contradiction

theorem kept_execVdups {st0 : State} {core : Nat} {s : State} (hk : Kept st0 s) {t : State} (e : execVdups core s = .next t) : Kept st0 t := by
  exact kept_vInstr hk (fun _ _ _ h => kept_opVdups h) e

theorem kept_opViota {st0 : State} {y0 : State} {y1 : VEng} {y2 : Nat} (hk : Kept st0 y0) : Kept st0 (opViota y0 y1 y2).s := by
  unfold opViota
  with_reducible repeat' first
    | assumption
    | (dsimp only)
    | refine kept_fst ?_ (by assumption)
    | apply kept_vRaw
    | apply kept_foldl
    | apply kept_foldl_fst
    | apply kept_getD
    | intro _
    | split
    | exact kept_pair _ (by assumption)
    | (unfold Kept; dsimp only; first | refine kept_parts ?_ | refine kept_parts_out ?_ | refine kept_parts_put ?_ | refine kept_parts_regs ?_ | refine kept_parts_filter ?_)
    | contradiction

theorem kept_execViota {st0 : State} {core : Nat} {s : State} (hk : Kept st0 s) {t : State} (e : execViota core s = .next t) : Kept st0 t := by
  exact kept_vInstr hk (fun _ _ _ h => kept_opViota h) e

theorem kept_opViadd {st0 : State} {y0 : State} {y1 : VEng} {y2 : Nat} (hk : Kept st0 y0) : Kept st0 (opViadd y0 y1 y2).s := by
  unfold opViadd
  with_reducible repeat' first
    | assumption
    | (dsimp only)
    | refine kept_fst ?_ (by assumption)
    | apply kept_vInt
    | apply kept_foldl
    | apply kept_foldl_fst
    | apply kept_getD
    | intro _
    | split
    | exact kept_pair _ (by assumption)
    | (unfold Kept; dsimp only; first | refine kept_parts ?_ | refine kept_parts_out ?_ | refine kept_parts_put ?_ | refine kept_parts_regs ?_ | refine kept_parts_filter ?_)
    | contradiction

theorem kept_execViadd {st0 : State} {core : Nat} {s : State} (hk : Kept st0 s) {t : State} (e : execViadd core s = .next t) : Kept st0 t := by
  exact kept_vInstr hk (fun _ _ _ h => kept_opViadd h) e

theorem kept_opVisub {st0 : State} {y0 : State} {y1 : VEng} {y2 : Nat} (hk : Kept st0 y0) : Kept st0 (opVisub y0 y1 y2).s := by
  unfold opVisub
  with_reducible repeat' first
    | assumption
    | (dsimp only)
    | refine kept_fst ?_ (by assumption)
    | apply kept_vInt
    | apply kept_foldl
    | apply kept_foldl_fst
    | apply kept_getD
    | intro _
    | split
    | exact kept_pair _ (by assumption)
    | (unfold Kept; dsimp only; first | refine kept_parts ?_ | refine kept_parts_out ?_ | refine kept_parts_put ?_ | refine kept_parts_regs ?_ | refine kept_parts_filter ?_)
    | contradiction

theorem kept_execVisub {st0 : State} {core : Nat} {s : State} (hk : Kept st0 s) {t : State} (e : execVisub core s = .next t) : Kept st0 t := by
  exact kept_vInstr hk (fun _ _ _ h => kept_opVisub h) e

theorem kept_opVimul {st0 : State} {y0 : State} {y1 : VEng} {y2 : Nat} (hk : Kept st0 y0) : Kept st0 (opVimul y0 y1 y2).s := by
  unfold opVimul
  with_reducible repeat' first
    | assumption
    | (dsimp only)
    | refine kept_fst ?_ (by assumption)
    | apply kept_vInt
    | apply kept_foldl
    | apply kept_foldl_fst
    | apply kept_getD
    | intro _
    | split
    | exact kept_pair _ (by assumption)
    | (unfold Kept; dsimp only; first | refine kept_parts ?_ | refine kept_parts_out ?_ | refine kept_parts_put ?_ | refine kept_parts_regs ?_ | refine kept_parts_filter ?_)
    | contradiction

theorem kept_execVimul {st0 : State} {core : Nat} {s : State} (hk : Kept st0 s) {t : State} (e : execVimul core s = .next t) : Kept st0 t := by
  exact kept_vInstr hk (fun _ _ _ h => kept_opVimul h) e

theorem kept_opViand {st0 : State} {y0 : State} {y1 : VEng} {y2 : Nat} (hk : Kept st0 y0) : Kept st0 (opViand y0 y1 y2).s := by
  unfold opViand
  with_reducible repeat' first
    | assumption
    | (dsimp only)
    | refine kept_fst ?_ (by assumption)
    | apply kept_vInt
    | apply kept_foldl
    | apply kept_foldl_fst
    | apply kept_getD
    | intro _
    | split
    | exact kept_pair _ (by assumption)
    | (unfold Kept; dsimp only; first | refine kept_parts ?_ | refine kept_parts_out ?_ | refine kept_parts_put ?_ | refine kept_parts_regs ?_ | refine kept_parts_filter ?_)
    | contradiction

theorem kept_execViand {st0 : State} {core : Nat} {s : State} (hk : Kept st0 s) {t : State} (e : execViand core s = .next t) : Kept st0 t := by
  exact kept_vInstr hk (fun _ _ _ h => kept_opViand h) e

theorem kept_opVior {st0 : State} {y0 : State} {y1 : VEng} {y2 : Nat} (hk : Kept st0 y0) : Kept st0 (opVior y0 y1 y2).s := by
  unfold opVior
  with_reducible repeat' first
    | assumption
    | (dsimp only)
    | refine kept_fst ?_ (by assumption)
    | apply kept_vInt
    | apply kept_foldl
    | apply kept_foldl_fst
    | apply kept_getD
    | intro _
    | split
    | exact kept_pair _ (by assumption)
    | (unfold Kept; dsimp only; first | refine kept_parts ?_ | refine kept_parts_out ?_ | refine kept_parts_put ?_ | refine kept_parts_regs ?_ | refine kept_parts_filter ?_)
    | contradiction

theorem kept_execVior {st0 : State} {core : Nat} {s : State} (hk : Kept st0 s) {t : State} (e : execVior core s = .next t) : Kept st0 t := by
  exact kept_vInstr hk (fun _ _ _ h => kept_opVior h) e

theorem kept_opVixor {st0 : State} {y0 : State} {y1 : VEng} {y2 : Nat} (hk : Kept st0 y0) : Kept st0 (opVixor y0 y1 y2).s := by
  unfold opVixor
  with_reducible repeat' first
    | assumption
    | (dsimp only)
    | refine kept_fst ?_ (by assumption)
    | apply kept_vInt
    | apply kept_foldl
    | apply kept_foldl_fst
    | apply kept_getD
    | intro _
    | split
    | exact kept_pair _ (by assumption)
    | (unfold Kept; dsimp only; first | refine kept_parts ?_ | refine kept_parts_out ?_ | refine kept_parts_put ?_ | refine kept_parts_regs ?_ | refine kept_parts_filter ?_)
    | contradiction

theorem kept_execVixor {st0 : State} {core : Nat} {s : State} (hk : Kept st0 s) {t : State} (e : execVixor core s = .next t) : Kept st0 t := by
  exact kept_vInstr hk (fun _ _ _ h => kept_opVixor h) e

theorem kept_opVishl {st0 : State} {y0 : State} {y1 : VEng} {y2 : Nat} (hk : Kept st0 y0) : Kept st0 (opVishl y0 y1 y2).s := by
  unfold opVishl
  with_reducible repeat' first
    | assumption
    | (dsimp only)
    | refine kept_fst ?_ (by assumption)
    | apply kept_vInt
    | apply kept_foldl
    | apply kept_foldl_fst
    | apply kept_getD
    | intro _
    | split
    | exact kept_pair _ (by assumption)
    | (unfold Kept; dsimp only; first | refine kept_parts ?_ | refine kept_parts_out ?_ | refine kept_parts_put ?_ | refine kept_parts_regs ?_ | refine kept_parts_filter ?_)
    | contradiction

theorem kept_execVishl {st0 : State} {core : Nat} {s : State} (hk : Kept st0 s) {t : State} (e : execVishl core s = .next t) : Kept st0 t := by
  exact kept_vInstr hk (fun _ _ _ h => kept_opVishl h) e

theorem kept_opVishr {st0 : State} {y0 : State} {y1 : VEng} {y2 : Nat} (hk : Kept st0 y0) : Kept st0 (opVishr y0 y1 y2).s := by
  unfold opVishr
  with_reducible repeat' first
    | assumption
    | (dsimp only)
    | refine kept_fst ?_ (by assumption)
    | apply kept_vInt
    | apply kept_foldl
    | apply kept_foldl_fst
    | apply kept_getD
    | intro _
    | split
    | exact kept_pair _ (by assumption)
    | (unfold Kept; dsimp only; first | refine kept_parts ?_ | refine kept_parts_out ?_ | refine kept_parts_put ?_ | refine kept_parts_regs ?_ | refine kept_parts_filter ?_)
    | contradiction

theorem kept_execVishr {st0 : State} {core : Nat} {s : State} (hk : Kept st0 s) {t : State} (e : execVishr core s = .next t) : Kept st0 t := by
  exact kept_vInstr hk (fun _ _ _ h => kept_opVishr h) e

theorem kept_opVcvt {st0 : State} {y0 : State} {y1 : VEng} {y2 : Nat} (hk : Kept st0 y0) : Kept st0 (opVcvt y0 y1 y2).s := by
  unfold opVcvt
  with_reducible repeat' first
    | assumption
    | (dsimp only)
    | refine kept_fst ?_ (by assumption)
    | apply kept_vCvt
    | apply kept_foldl
    | apply kept_foldl_fst
    | apply kept_getD
    | intro _
    | split
    | exact kept_pair _ (by assumption)
    | (unfold Kept; dsimp only; first | refine kept_parts ?_ | refine kept_parts_out ?_ | refine kept_parts_put ?_ | refine kept_parts_regs ?_ | refine kept_parts_filter ?_)
    | contradiction

theorem kept_execVcvt {st0 : State} {core : Nat} {s : State} (hk : Kept st0 s) {t : State} (e : execVcvt core s = .next t) : Kept st0 t := by
  exact kept_vInstr hk (fun _ _ _ h => kept_opVcvt h) e

theorem kept_opVcvtfi {st0 : State} {y0 : State} {y1 : VEng} {y2 : Nat} (hk : Kept st0 y0) : Kept st0 (opVcvtfi y0 y1 y2).s := by
  unfold opVcvtfi
  with_reducible repeat' first
    | assumption
    | (dsimp only)
    | refine kept_fst ?_ (by assumption)
    | apply kept_VRes_wrote
    | apply kept_foldl
    | apply kept_foldl_fst
    | apply kept_getD
    | intro _
    | split
    | exact kept_pair _ (by assumption)
    | (unfold Kept; dsimp only; first | refine kept_parts ?_ | refine kept_parts_out ?_ | refine kept_parts_put ?_ | refine kept_parts_regs ?_ | refine kept_parts_filter ?_)
    | contradiction

theorem kept_execVcvtfi {st0 : State} {core : Nat} {s : State} (hk : Kept st0 s) {t : State} (e : execVcvtfi core s = .next t) : Kept st0 t := by
  exact kept_vInstr hk (fun _ _ _ h => kept_opVcvtfi h) e

theorem kept_opVcvtif {st0 : State} {y0 : State} {y1 : VEng} {y2 : Nat} (hk : Kept st0 y0) : Kept st0 (opVcvtif y0 y1 y2).s := by
  unfold opVcvtif
  with_reducible repeat' first
    | assumption
    | (dsimp only)
    | refine kept_fst ?_ (by assumption)
    | apply kept_VRes_bad
    | apply kept_VRes_wrote
    | apply kept_foldl
    | apply kept_foldl_fst
    | apply kept_getD
    | intro _
    | split
    | exact kept_pair _ (by assumption)
    | (unfold Kept; dsimp only; first | refine kept_parts ?_ | refine kept_parts_out ?_ | refine kept_parts_put ?_ | refine kept_parts_regs ?_ | refine kept_parts_filter ?_)
    | contradiction

theorem kept_execVcvtif {st0 : State} {core : Nat} {s : State} (hk : Kept st0 s) {t : State} (e : execVcvtif core s = .next t) : Kept st0 t := by
  exact kept_vInstr hk (fun _ _ _ h => kept_opVcvtif h) e

theorem kept_opVrsum {st0 : State} {y0 : State} {y1 : VEng} {y2 : Nat} (hk : Kept st0 y0) : Kept st0 (opVrsum y0 y1 y2).s := by
  unfold opVrsum
  with_reducible repeat' first
    | assumption
    | (dsimp only)
    | refine kept_fst ?_ (by assumption)
    | apply kept_vGroupSum
    | apply kept_foldl
    | apply kept_foldl_fst
    | apply kept_getD
    | intro _
    | split
    | exact kept_pair _ (by assumption)
    | (unfold Kept; dsimp only; first | refine kept_parts ?_ | refine kept_parts_out ?_ | refine kept_parts_put ?_ | refine kept_parts_regs ?_ | refine kept_parts_filter ?_)
    | contradiction

theorem kept_execVrsum {st0 : State} {core : Nat} {s : State} (hk : Kept st0 s) {t : State} (e : execVrsum core s = .next t) : Kept st0 t := by
  exact kept_vInstr hk (fun _ _ _ h => kept_opVrsum h) e

theorem kept_opVrssq {st0 : State} {y0 : State} {y1 : VEng} {y2 : Nat} (hk : Kept st0 y0) : Kept st0 (opVrssq y0 y1 y2).s := by
  unfold opVrssq
  with_reducible repeat' first
    | assumption
    | (dsimp only)
    | refine kept_fst ?_ (by assumption)
    | apply kept_vGroupSum
    | apply kept_foldl
    | apply kept_foldl_fst
    | apply kept_getD
    | intro _
    | split
    | exact kept_pair _ (by assumption)
    | (unfold Kept; dsimp only; first | refine kept_parts ?_ | refine kept_parts_out ?_ | refine kept_parts_put ?_ | refine kept_parts_regs ?_ | refine kept_parts_filter ?_)
    | contradiction

theorem kept_execVrssq {st0 : State} {core : Nat} {s : State} (hk : Kept st0 s) {t : State} (e : execVrssq core s = .next t) : Kept st0 t := by
  exact kept_vInstr hk (fun _ _ _ h => kept_opVrssq h) e

theorem kept_opVrmv {st0 : State} {y0 : State} {y1 : VEng} {y2 : Nat} (hk : Kept st0 y0) : Kept st0 (opVrmv y0 y1 y2).s := by
  unfold opVrmv
  with_reducible repeat' first
    | assumption
    | (dsimp only)
    | refine kept_fst ?_ (by assumption)
    | apply kept_vRmv
    | apply kept_foldl
    | apply kept_foldl_fst
    | apply kept_getD
    | intro _
    | split
    | exact kept_pair _ (by assumption)
    | (unfold Kept; dsimp only; first | refine kept_parts ?_ | refine kept_parts_out ?_ | refine kept_parts_put ?_ | refine kept_parts_regs ?_ | refine kept_parts_filter ?_)
    | contradiction

theorem kept_execVrmv {st0 : State} {core : Nat} {s : State} (hk : Kept st0 s) {t : State} (e : execVrmv core s = .next t) : Kept st0 t := by
  exact kept_vInstr hk (fun _ _ _ h => kept_opVrmv h) e

theorem kept_opVmvmerge {st0 : State} {y0 : State} {y1 : VEng} {y2 : Nat} (hk : Kept st0 y0) : Kept st0 (opVmvmerge y0 y1 y2).s := by
  unfold opVmvmerge
  with_reducible repeat' first
    | assumption
    | (dsimp only)
    | refine kept_fst ?_ (by assumption)
    | apply kept_vMvMerge
    | apply kept_foldl
    | apply kept_foldl_fst
    | apply kept_getD
    | intro _
    | split
    | exact kept_pair _ (by assumption)
    | (unfold Kept; dsimp only; first | refine kept_parts ?_ | refine kept_parts_out ?_ | refine kept_parts_put ?_ | refine kept_parts_regs ?_ | refine kept_parts_filter ?_)
    | contradiction

theorem kept_execVmvmerge {st0 : State} {core : Nat} {s : State} (hk : Kept st0 s) {t : State} (e : execVmvmerge core s = .next t) : Kept st0 t := by
  exact kept_vInstr hk (fun _ _ _ h => kept_opVmvmerge h) e

theorem kept_opVsegsum {st0 : State} {y0 : State} {y1 : VEng} {y2 : Nat} (hk : Kept st0 y0) : Kept st0 (opVsegsum y0 y1 y2).s := by
  unfold opVsegsum
  with_reducible repeat' first
    | assumption
    | (dsimp only)
    | refine kept_fst ?_ (by assumption)
    | apply kept_vSegSum
    | apply kept_foldl
    | apply kept_foldl_fst
    | apply kept_getD
    | intro _
    | split
    | exact kept_pair _ (by assumption)
    | (unfold Kept; dsimp only; first | refine kept_parts ?_ | refine kept_parts_out ?_ | refine kept_parts_put ?_ | refine kept_parts_regs ?_ | refine kept_parts_filter ?_)
    | contradiction

theorem kept_execVsegsum {st0 : State} {core : Nat} {s : State} (hk : Kept st0 s) {t : State} (e : execVsegsum core s = .next t) : Kept st0 t := by
  exact kept_vInstr hk (fun _ _ _ h => kept_opVsegsum h) e

theorem kept_opVrmaxi {st0 : State} {y0 : State} {y1 : VEng} {y2 : Nat} (hk : Kept st0 y0) : Kept st0 (opVrmaxi y0 y1 y2).s := by
  unfold opVrmaxi
  with_reducible repeat' first
    | assumption
    | (dsimp only)
    | refine kept_fst ?_ (by assumption)
    | apply kept_vBest
    | apply kept_foldl
    | apply kept_foldl_fst
    | apply kept_getD
    | intro _
    | split
    | exact kept_pair _ (by assumption)
    | (unfold Kept; dsimp only; first | refine kept_parts ?_ | refine kept_parts_out ?_ | refine kept_parts_put ?_ | refine kept_parts_regs ?_ | refine kept_parts_filter ?_)
    | contradiction

theorem kept_execVrmaxi {st0 : State} {core : Nat} {s : State} (hk : Kept st0 s) {t : State} (e : execVrmaxi core s = .next t) : Kept st0 t := by
  exact kept_vInstr hk (fun _ _ _ h => kept_opVrmaxi h) e

theorem kept_opVrmini {st0 : State} {y0 : State} {y1 : VEng} {y2 : Nat} (hk : Kept st0 y0) : Kept st0 (opVrmini y0 y1 y2).s := by
  unfold opVrmini
  with_reducible repeat' first
    | assumption
    | (dsimp only)
    | refine kept_fst ?_ (by assumption)
    | apply kept_vBest
    | apply kept_foldl
    | apply kept_foldl_fst
    | apply kept_getD
    | intro _
    | split
    | exact kept_pair _ (by assumption)
    | (unfold Kept; dsimp only; first | refine kept_parts ?_ | refine kept_parts_out ?_ | refine kept_parts_put ?_ | refine kept_parts_regs ?_ | refine kept_parts_filter ?_)
    | contradiction

theorem kept_execVrmini {st0 : State} {core : Nat} {s : State} (hk : Kept st0 s) {t : State} (e : execVrmini core s = .next t) : Kept st0 t := by
  exact kept_vInstr hk (fun _ _ _ h => kept_opVrmini h) e

theorem kept_opVsmrow {st0 : State} {y0 : State} {y1 : VEng} {y2 : Nat} (hk : Kept st0 y0) : Kept st0 (opVsmrow y0 y1 y2).s := by
  unfold opVsmrow
  with_reducible repeat' first
    | assumption
    | (dsimp only)
    | refine kept_fst ?_ (by assumption)
    | apply kept_vSmRow
    | apply kept_foldl
    | apply kept_foldl_fst
    | apply kept_getD
    | intro _
    | split
    | exact kept_pair _ (by assumption)
    | (unfold Kept; dsimp only; first | refine kept_parts ?_ | refine kept_parts_out ?_ | refine kept_parts_put ?_ | refine kept_parts_regs ?_ | refine kept_parts_filter ?_)
    | contradiction

theorem kept_execVsmrow {st0 : State} {core : Nat} {s : State} (hk : Kept st0 s) {t : State} (e : execVsmrow core s = .next t) : Kept st0 t := by
  exact kept_vInstr hk (fun _ _ _ h => kept_opVsmrow h) e

theorem kept_opVsmexp {st0 : State} {y0 : State} {y1 : VEng} {y2 : Nat} (hk : Kept st0 y0) : Kept st0 (opVsmexp y0 y1 y2).s := by
  unfold opVsmexp
  with_reducible repeat' first
    | assumption
    | (dsimp only)
    | refine kept_fst ?_ (by assumption)
    | apply kept_vSmExp
    | apply kept_foldl
    | apply kept_foldl_fst
    | apply kept_getD
    | intro _
    | split
    | exact kept_pair _ (by assumption)
    | (unfold Kept; dsimp only; first | refine kept_parts ?_ | refine kept_parts_out ?_ | refine kept_parts_put ?_ | refine kept_parts_regs ?_ | refine kept_parts_filter ?_)
    | contradiction

theorem kept_execVsmexp {st0 : State} {core : Nat} {s : State} (hk : Kept st0 s) {t : State} (e : execVsmexp core s = .next t) : Kept st0 t := by
  exact kept_vInstr hk (fun _ _ _ h => kept_opVsmexp h) e

theorem kept_opVsmsum {st0 : State} {y0 : State} {y1 : VEng} {y2 : Nat} (hk : Kept st0 y0) : Kept st0 (opVsmsum y0 y1 y2).s := by
  unfold opVsmsum
  with_reducible repeat' first
    | assumption
    | (dsimp only)
    | refine kept_fst ?_ (by assumption)
    | apply kept_vSmSum
    | apply kept_foldl
    | apply kept_foldl_fst
    | apply kept_getD
    | intro _
    | split
    | exact kept_pair _ (by assumption)
    | (unfold Kept; dsimp only; first | refine kept_parts ?_ | refine kept_parts_out ?_ | refine kept_parts_put ?_ | refine kept_parts_regs ?_ | refine kept_parts_filter ?_)
    | contradiction

theorem kept_execVsmsum {st0 : State} {core : Nat} {s : State} (hk : Kept st0 s) {t : State} (e : execVsmsum core s = .next t) : Kept st0 t := by
  exact kept_vInstr hk (fun _ _ _ h => kept_opVsmsum h) e

theorem kept_opVexp2 {st0 : State} {y0 : State} {y1 : VEng} {y2 : Nat} (hk : Kept st0 y0) : Kept st0 (opVexp2 y0 y1 y2).s := by
  unfold opVexp2
  with_reducible repeat' first
    | assumption
    | (dsimp only)
    | refine kept_fst ?_ (by assumption)
    | apply kept_vFun
    | apply kept_foldl
    | apply kept_foldl_fst
    | apply kept_getD
    | intro _
    | split
    | exact kept_pair _ (by assumption)
    | (unfold Kept; dsimp only; first | refine kept_parts ?_ | refine kept_parts_out ?_ | refine kept_parts_put ?_ | refine kept_parts_regs ?_ | refine kept_parts_filter ?_)
    | contradiction

theorem kept_execVexp2 {st0 : State} {core : Nat} {s : State} (hk : Kept st0 s) {t : State} (e : execVexp2 core s = .next t) : Kept st0 t := by
  exact kept_vInstr hk (fun _ _ _ h => kept_opVexp2 h) e

theorem kept_opVlog2 {st0 : State} {y0 : State} {y1 : VEng} {y2 : Nat} (hk : Kept st0 y0) : Kept st0 (opVlog2 y0 y1 y2).s := by
  unfold opVlog2
  with_reducible repeat' first
    | assumption
    | (dsimp only)
    | refine kept_fst ?_ (by assumption)
    | apply kept_vFun
    | apply kept_foldl
    | apply kept_foldl_fst
    | apply kept_getD
    | intro _
    | split
    | exact kept_pair _ (by assumption)
    | (unfold Kept; dsimp only; first | refine kept_parts ?_ | refine kept_parts_out ?_ | refine kept_parts_put ?_ | refine kept_parts_regs ?_ | refine kept_parts_filter ?_)
    | contradiction

theorem kept_execVlog2 {st0 : State} {core : Nat} {s : State} (hk : Kept st0 s) {t : State} (e : execVlog2 core s = .next t) : Kept st0 t := by
  exact kept_vInstr hk (fun _ _ _ h => kept_opVlog2 h) e

theorem kept_opVrcp {st0 : State} {y0 : State} {y1 : VEng} {y2 : Nat} (hk : Kept st0 y0) : Kept st0 (opVrcp y0 y1 y2).s := by
  unfold opVrcp
  with_reducible repeat' first
    | assumption
    | (dsimp only)
    | refine kept_fst ?_ (by assumption)
    | apply kept_vFun
    | apply kept_foldl
    | apply kept_foldl_fst
    | apply kept_getD
    | intro _
    | split
    | exact kept_pair _ (by assumption)
    | (unfold Kept; dsimp only; first | refine kept_parts ?_ | refine kept_parts_out ?_ | refine kept_parts_put ?_ | refine kept_parts_regs ?_ | refine kept_parts_filter ?_)
    | contradiction

theorem kept_execVrcp {st0 : State} {core : Nat} {s : State} (hk : Kept st0 s) {t : State} (e : execVrcp core s = .next t) : Kept st0 t := by
  exact kept_vInstr hk (fun _ _ _ h => kept_opVrcp h) e

theorem kept_opVrsqrt {st0 : State} {y0 : State} {y1 : VEng} {y2 : Nat} (hk : Kept st0 y0) : Kept st0 (opVrsqrt y0 y1 y2).s := by
  unfold opVrsqrt
  with_reducible repeat' first
    | assumption
    | (dsimp only)
    | refine kept_fst ?_ (by assumption)
    | apply kept_vFun
    | apply kept_foldl
    | apply kept_foldl_fst
    | apply kept_getD
    | intro _
    | split
    | exact kept_pair _ (by assumption)
    | (unfold Kept; dsimp only; first | refine kept_parts ?_ | refine kept_parts_out ?_ | refine kept_parts_put ?_ | refine kept_parts_regs ?_ | refine kept_parts_filter ?_)
    | contradiction

theorem kept_execVrsqrt {st0 : State} {core : Nat} {s : State} (hk : Kept st0 s) {t : State} (e : execVrsqrt core s = .next t) : Kept st0 t := by
  exact kept_vInstr hk (fun _ _ _ h => kept_opVrsqrt h) e

theorem kept_opVtanh {st0 : State} {y0 : State} {y1 : VEng} {y2 : Nat} (hk : Kept st0 y0) : Kept st0 (opVtanh y0 y1 y2).s := by
  unfold opVtanh
  with_reducible repeat' first
    | assumption
    | (dsimp only)
    | refine kept_fst ?_ (by assumption)
    | apply kept_vFun
    | apply kept_foldl
    | apply kept_foldl_fst
    | apply kept_getD
    | intro _
    | split
    | exact kept_pair _ (by assumption)
    | (unfold Kept; dsimp only; first | refine kept_parts ?_ | refine kept_parts_out ?_ | refine kept_parts_put ?_ | refine kept_parts_regs ?_ | refine kept_parts_filter ?_)
    | contradiction

theorem kept_execVtanh {st0 : State} {core : Nat} {s : State} (hk : Kept st0 s) {t : State} (e : execVtanh core s = .next t) : Kept st0 t := by
  exact kept_vInstr hk (fun _ _ _ h => kept_opVtanh h) e

theorem kept_opVerf {st0 : State} {y0 : State} {y1 : VEng} {y2 : Nat} (hk : Kept st0 y0) : Kept st0 (opVerf y0 y1 y2).s := by
  unfold opVerf
  with_reducible repeat' first
    | assumption
    | (dsimp only)
    | refine kept_fst ?_ (by assumption)
    | apply kept_vFun
    | apply kept_foldl
    | apply kept_foldl_fst
    | apply kept_getD
    | intro _
    | split
    | exact kept_pair _ (by assumption)
    | (unfold Kept; dsimp only; first | refine kept_parts ?_ | refine kept_parts_out ?_ | refine kept_parts_put ?_ | refine kept_parts_regs ?_ | refine kept_parts_filter ?_)
    | contradiction

theorem kept_execVerf {st0 : State} {core : Nat} {s : State} (hk : Kept st0 s) {t : State} (e : execVerf core s = .next t) : Kept st0 t := by
  exact kept_vInstr hk (fun _ _ _ h => kept_opVerf h) e

theorem kept_opVld {st0 : State} {y0 : State} {y1 : VEng} {y2 : Nat} (hk : Kept st0 y0) : Kept st0 (opVld y0 y1 y2).s := by
  unfold opVld
  with_reducible repeat' first
    | assumption
    | (dsimp only)
    | refine kept_fst ?_ (by assumption)
    | apply kept_vLd
    | apply kept_foldl
    | apply kept_foldl_fst
    | apply kept_getD
    | intro _
    | split
    | exact kept_pair _ (by assumption)
    | (unfold Kept; dsimp only; first | refine kept_parts ?_ | refine kept_parts_out ?_ | refine kept_parts_put ?_ | refine kept_parts_regs ?_ | refine kept_parts_filter ?_)
    | contradiction

theorem kept_execVld {st0 : State} {core : Nat} {s : State} (hk : Kept st0 s) {t : State} (e : execVld core s = .next t) : Kept st0 t := by
  exact kept_vInstr hk (fun _ _ _ h => kept_opVld h) e

theorem kept_opVst {st0 : State} {y0 : State} {y1 : VEng} {y2 : Nat} (hk : Kept st0 y0) : Kept st0 (opVst y0 y1 y2).s := by
  unfold opVst
  with_reducible repeat' first
    | assumption
    | (dsimp only)
    | refine kept_fst ?_ (by assumption)
    | apply kept_vSt
    | apply kept_foldl
    | apply kept_foldl_fst
    | apply kept_getD
    | intro _
    | split
    | exact kept_pair _ (by assumption)
    | (unfold Kept; dsimp only; first | refine kept_parts ?_ | refine kept_parts_out ?_ | refine kept_parts_put ?_ | refine kept_parts_regs ?_ | refine kept_parts_filter ?_)
    | contradiction

theorem kept_execVst {st0 : State} {core : Nat} {s : State} (hk : Kept st0 s) {t : State} (e : execVst core s = .next t) : Kept st0 t := by
  exact kept_vInstr hk (fun _ _ _ h => kept_opVst h) e

theorem kept_opVldb {st0 : State} {y0 : State} {y1 : VEng} {y2 : Nat} (hk : Kept st0 y0) : Kept st0 (opVldb y0 y1 y2).s := by
  unfold opVldb
  with_reducible repeat' first
    | assumption
    | (dsimp only)
    | refine kept_fst ?_ (by assumption)
    | apply kept_vLdb
    | apply kept_foldl
    | apply kept_foldl_fst
    | apply kept_getD
    | intro _
    | split
    | exact kept_pair _ (by assumption)
    | (unfold Kept; dsimp only; first | refine kept_parts ?_ | refine kept_parts_out ?_ | refine kept_parts_put ?_ | refine kept_parts_regs ?_ | refine kept_parts_filter ?_)
    | contradiction

theorem kept_execVldb {st0 : State} {core : Nat} {s : State} (hk : Kept st0 s) {t : State} (e : execVldb core s = .next t) : Kept st0 t := by
  exact kept_vInstr hk (fun _ _ _ h => kept_opVldb h) e

theorem kept_opVgather {st0 : State} {y0 : State} {y1 : VEng} {y2 : Nat} (hk : Kept st0 y0) : Kept st0 (opVgather y0 y1 y2).s := by
  unfold opVgather
  with_reducible repeat' first
    | assumption
    | (dsimp only)
    | refine kept_fst ?_ (by assumption)
    | apply kept_vGather
    | apply kept_foldl
    | apply kept_foldl_fst
    | apply kept_getD
    | intro _
    | split
    | exact kept_pair _ (by assumption)
    | (unfold Kept; dsimp only; first | refine kept_parts ?_ | refine kept_parts_out ?_ | refine kept_parts_put ?_ | refine kept_parts_regs ?_ | refine kept_parts_filter ?_)
    | contradiction

theorem kept_execVgather {st0 : State} {core : Nat} {s : State} (hk : Kept st0 s) {t : State} (e : execVgather core s = .next t) : Kept st0 t := by
  exact kept_vInstr hk (fun _ _ _ h => kept_opVgather h) e

theorem kept_opVscatter {st0 : State} {y0 : State} {y1 : VEng} {y2 : Nat} (hk : Kept st0 y0) : Kept st0 (opVscatter y0 y1 y2).s := by
  unfold opVscatter
  with_reducible repeat' first
    | assumption
    | (dsimp only)
    | refine kept_fst ?_ (by assumption)
    | apply kept_vScatter
    | apply kept_foldl
    | apply kept_foldl_fst
    | apply kept_getD
    | intro _
    | split
    | exact kept_pair _ (by assumption)
    | (unfold Kept; dsimp only; first | refine kept_parts ?_ | refine kept_parts_out ?_ | refine kept_parts_put ?_ | refine kept_parts_regs ?_ | refine kept_parts_filter ?_)
    | contradiction

theorem kept_execVscatter {st0 : State} {core : Nat} {s : State} (hk : Kept st0 s) {t : State} (e : execVscatter core s = .next t) : Kept st0 t := by
  exact kept_vInstr hk (fun _ _ _ h => kept_opVscatter h) e

theorem kept_opVscatadd {st0 : State} {y0 : State} {y1 : VEng} {y2 : Nat} (hk : Kept st0 y0) : Kept st0 (opVscatadd y0 y1 y2).s := by
  unfold opVscatadd
  with_reducible repeat' first
    | assumption
    | (dsimp only)
    | refine kept_fst ?_ (by assumption)
    | apply kept_vScatAdd
    | apply kept_foldl
    | apply kept_foldl_fst
    | apply kept_getD
    | intro _
    | split
    | exact kept_pair _ (by assumption)
    | (unfold Kept; dsimp only; first | refine kept_parts ?_ | refine kept_parts_out ?_ | refine kept_parts_put ?_ | refine kept_parts_regs ?_ | refine kept_parts_filter ?_)
    | contradiction

theorem kept_execVscatadd {st0 : State} {core : Nat} {s : State} (hk : Kept st0 s) {t : State} (e : execVscatadd core s = .next t) : Kept st0 t := by
  exact kept_vInstr hk (fun _ _ _ h => kept_opVscatadd h) e

theorem kept_opVstc {st0 : State} {y0 : State} {y1 : VEng} {y2 : Nat} (hk : Kept st0 y0) : Kept st0 (opVstc y0 y1 y2).s := by
  unfold opVstc
  with_reducible repeat' first
    | assumption
    | (dsimp only)
    | refine kept_fst ?_ (by assumption)
    | apply kept_vStc
    | apply kept_foldl
    | apply kept_foldl_fst
    | apply kept_getD
    | intro _
    | split
    | exact kept_pair _ (by assumption)
    | (unfold Kept; dsimp only; first | refine kept_parts ?_ | refine kept_parts_out ?_ | refine kept_parts_put ?_ | refine kept_parts_regs ?_ | refine kept_parts_filter ?_)
    | contradiction

theorem kept_execVstc {st0 : State} {core : Nat} {s : State} (hk : Kept st0 s) {t : State} (e : execVstc core s = .next t) : Kept st0 t := by
  exact kept_vInstr hk (fun _ _ _ h => kept_opVstc h) e

theorem kept_opPld {st0 : State} {y0 : State} {y1 : VEng} {y2 : Nat} (hk : Kept st0 y0) : Kept st0 (opPld y0 y1 y2).s := by
  unfold opPld
  with_reducible repeat' first
    | assumption
    | (dsimp only)
    | refine kept_fst ?_ (by assumption)
    | apply kept_vPld
    | apply kept_foldl
    | apply kept_foldl_fst
    | apply kept_getD
    | intro _
    | split
    | exact kept_pair _ (by assumption)
    | (unfold Kept; dsimp only; first | refine kept_parts ?_ | refine kept_parts_out ?_ | refine kept_parts_put ?_ | refine kept_parts_regs ?_ | refine kept_parts_filter ?_)
    | contradiction

theorem kept_execPld {st0 : State} {core : Nat} {s : State} (hk : Kept st0 s) {t : State} (e : execPld core s = .next t) : Kept st0 t := by
  exact kept_vInstr hk (fun _ _ _ h => kept_opPld h) e

theorem kept_opPst {st0 : State} {y0 : State} {y1 : VEng} {y2 : Nat} (hk : Kept st0 y0) : Kept st0 (opPst y0 y1 y2).s := by
  unfold opPst
  with_reducible repeat' first
    | assumption
    | (dsimp only)
    | refine kept_fst ?_ (by assumption)
    | apply kept_vPst
    | apply kept_foldl
    | apply kept_foldl_fst
    | apply kept_getD
    | intro _
    | split
    | exact kept_pair _ (by assumption)
    | (unfold Kept; dsimp only; first | refine kept_parts ?_ | refine kept_parts_out ?_ | refine kept_parts_put ?_ | refine kept_parts_regs ?_ | refine kept_parts_filter ?_)
    | contradiction

theorem kept_execPst {st0 : State} {core : Nat} {s : State} (hk : Kept st0 s) {t : State} (e : execPst core s = .next t) : Kept st0 t := by
  exact kept_vInstr hk (fun _ _ _ h => kept_opPst h) e

theorem kept_execEndProg {st0 : State} {core : Nat} {s : State} (hk : Kept st0 s) {t : State} (e : execEndProg core s = .next t) : Kept st0 t := by
  unfold execEndProg at e
  injection e with e
  subst e
  with_reducible repeat' first
    | assumption
    | (dsimp only)
    | refine kept_fst ?_ (by assumption)
    | apply kept_vstep
    | apply kept_vChecked
    | apply kept_VRes_just
    | apply kept_vEnd
    | apply kept_foldl
    | apply kept_foldl_fst
    | apply kept_getD
    | intro _
    | split
    | exact kept_pair _ (by assumption)
    | (unfold Kept; dsimp only; first | refine kept_parts ?_ | refine kept_parts_out ?_ | refine kept_parts_put ?_ | refine kept_parts_regs ?_ | refine kept_parts_filter ?_)
    | contradiction

theorem kept_execVinstrBudgetExceeded {st0 : State} {core : Nat} {s : State} (hk : Kept st0 s) {t : State} (e : execVinstrBudgetExceeded core s = .next t) : Kept st0 t := by
  unfold execVinstrBudgetExceeded at e
  injection e with e
  subst e
  with_reducible repeat' first
    | assumption
    | (dsimp only)
    | refine kept_fst ?_ (by assumption)
    | apply kept_vFault
    | apply kept_foldl
    | apply kept_foldl_fst
    | apply kept_getD
    | intro _
    | split
    | exact kept_pair _ (by assumption)
    | (unfold Kept; dsimp only; first | refine kept_parts ?_ | refine kept_parts_out ?_ | refine kept_parts_put ?_ | refine kept_parts_regs ?_ | refine kept_parts_filter ?_)
    | contradiction

end Sys2Proof.Machine
end

