-- ==== Sys2Proof/Laws/Memory.lean ====
section
/-!
SUPPORT. Sys2Proof/Laws/Memory.lean: what the operations on memory do to its bytes: the one write of a word, and the
operations that write none.
-/

open Sys2Proof Sys2Proof.Machine

namespace Sys2Proof.Laws

theorem putBytes_find (m : List Host.Cell) (a : Nat) (d : List Byte) (b : Nat) :
    Tbl.getD (putBytes m a d) b memDefault = if a ≤ b ∧ b < a + d.length then d.getD (b - a) 0 else Tbl.getD m b memDefault := by
  induction d generalizing m a with
  | nil => simp [putBytes]
  | cons x t ih =>
    rw [putBytes, ih]
    by_cases h : b = a
    · subst h
      rw [if_neg (by omega), if_pos (by simp)]; simp
    · rw [Tbl.getD_put_other _ _ _ _ h]
      simp only [List.length_cons]
      by_cases h2 : a + 1 ≤ b ∧ b < a + 1 + t.length
      · rw [if_pos h2, if_pos (by omega)]
        obtain ⟨k, hk⟩ : ∃ k, b - a = k + 1 := ⟨b - a - 1, by omega⟩
        rw [hk, List.getD_cons_succ]; congr 1; omega
      · rw [if_neg h2, if_neg (by omega)]

/-- The free value that stands at address x, as its number and index, if the spec leaves x undefined. -/
def junkVal (j : List (Nat × Nat × Nat × Nat)) (x : Nat) : Option (Nat × Nat) := (junkAt j x).map (fun e => (e.2.2.1, e.2.2.2 + (x - e.1)))

theorem junkVal_app (p q : List (Nat × Nat × Nat × Nat)) (x : Nat) : junkVal (p ++ q) x = (junkVal p x).or (junkVal q x) := by
  simp only [junkVal, junkAt, List.find?_append]
  cases List.find? _ p <;> simp

theorem junkVal_one (b m k o x : Nat) : junkVal [(b, m, k, o)] x = if b ≤ x ∧ x < b + m then some (k, o + (x - b)) else none := by
  simp only [junkVal, junkAt, List.find?_cons, List.find?_nil]
  by_cases h : b ≤ x ∧ x < b + m
  · simp [h]
  · rw [if_neg h]
    have : (decide (b ≤ x) && decide (x < b + m)) = false := by simpa using h
    simp [this]

theorem junkVal_nil (x : Nat) : junkVal [] x = none := rfl

theorem junkVal_cut (j : List (Nat × Nat × Nat × Nat)) (a n x : Nat) :
    junkVal (cutJunk j a n) x = if a ≤ x ∧ x < a + n then none else junkVal j x := by
  induction j with
  | nil => simp [junkVal, cutJunk, junkAt]
  | cons e t ih =>
    obtain ⟨b, m, k, o⟩ := e
    have hs : (b, m, k, o) :: t = [(b, m, k, o)] ++ t := rfl
    simp only [cutJunk, List.flatMap_cons] at ih ⊢
    rw [hs, junkVal_app, ih, junkVal_app, junkVal_app, junkVal_one]
    have h0 : (junkVal (if b < a ∧ b < a + n then [(b, min m (a - b), k, o)] else []) x).or
        (junkVal (if a + n < b + m then (let c := max b (a + n); [(c, b + m - c, k, o + (c - b))]) else []) x) =
        if a ≤ x ∧ x < a + n then none else if b ≤ x ∧ x < b + m then some (k, o + (x - b)) else none := by
      dsimp only
      split <;> split <;> simp only [junkVal_one, junkVal_nil, Option.none_or, Option.or_none]
      · have : o + (max b (a + n) - b) + (x - max b (a + n)) = if max b (a + n) ≤ x then o + (x - b) else o + (max b (a + n) - b) := by split <;> omega
        by_cases h1 : a ≤ x ∧ x < a + n
        · rw [if_pos h1, if_neg (by omega), if_neg (by omega)]; rfl
        · rw [if_neg h1]
          by_cases h2 : b ≤ x ∧ x < b + m
          · rw [if_pos h2]
            by_cases h3 : x < a
            · rw [if_pos (by omega)]; rfl
            · rw [if_neg (by omega), if_pos (by omega), this, if_pos (by omega)]; rfl
          · rw [if_neg h2, if_neg (by omega), if_neg (by omega)]; rfl
      · by_cases h1 : a ≤ x ∧ x < a + n
        · rw [if_pos h1, if_neg (by omega)]
        · rw [if_neg h1]
          by_cases h2 : b ≤ x ∧ x < b + m
          · rw [if_pos h2, if_pos (by omega)]
          · rw [if_neg h2, if_neg (by omega)]
      · by_cases h1 : a ≤ x ∧ x < a + n
        · rw [if_pos h1, if_neg (by omega)]
        · rw [if_neg h1]
          by_cases h2 : b ≤ x ∧ x < b + m
          · rw [if_pos h2, if_pos (by omega)]; congr 2; omega
          · rw [if_neg h2, if_neg (by omega)]
      · by_cases h1 : a ≤ x ∧ x < a + n
        · rw [if_pos h1]
        · rw [if_neg h1, if_neg (by omega)]
    rw [h0]
    by_cases h1 : a ≤ x ∧ x < a + n
    · simp [h1]
    · simp [h1]

theorem memByte_junkVal (s : State) (x : Nat) : memByte s x = match junkVal s.junk x with
    | none => Tbl.getD s.mem x memDefault
    | some (k, i) => Config.freeByte k i := by
  simp only [memByte, junkVal]
  rcases h : junkAt s.junk x with _ | ⟨b, m, k, o⟩ <;> simp

/-- After bytes d are put at a: the bytes of memory. -/
theorem memByte_put (s : State) (a : Nat) (d : List Byte) (x : Nat) :
    memByte { s with mem := putBytes s.mem a d, junk := cutJunk s.junk a d.length } x =
      if a ≤ x ∧ x < a + d.length then d.getD (x - a) 0 else memByte s x := by
  rw [memByte_junkVal, memByte_junkVal, junkVal_cut, putBytes_find]
  by_cases h : a ≤ x ∧ x < a + d.length <;> simp [h]

theorem memByte_eq {s t : State} (h : t.mem = s.mem) (k : t.junk = s.junk) (x : Nat) : memByte t x = memByte s x := by simp [memByte, h, k]

/-- The two states hold the same bytes. -/
structure SameMem (s t : State) : Prop where
  mem : t.mem = s.mem
  junk : t.junk = s.junk

theorem same_wr (s : State) (r : Reg) (i v : Nat) : SameMem s (wr s r i v) := ⟨rfl, rfl⟩

theorem SameMem.trans {s t u : State} (h : SameMem s t) (k : SameMem t u) : SameMem s u := ⟨k.1.trans h.1, k.2.trans h.2⟩

theorem same_cancel (s : State) (a n : Nat) : SameMem s (cancelResv s a n) := by
  unfold cancelResv
  split
  · exact ⟨rfl, rfl⟩
  · split
    · exact ⟨rfl, rfl⟩
    · split
      · split <;> exact ⟨rfl, rfl⟩
      · exact ⟨rfl, rfl⟩

theorem same_fire (s : State) (w : Nat) : SameMem s (fireInjection s w) := by
  unfold fireInjection
  split <;> exact ⟨rfl, rfl⟩

theorem same_inc (s : State) (r : Reg) (i n : Nat) : SameMem s (inc s r i n) := ⟨rfl, rfl⟩

theorem same_wrs (l : List (Reg × Nat × Nat)) (s : State) : SameMem s (wrs s l) := by
  induction l generalizing s with
  | nil => exact ⟨rfl, rfl⟩
  | cons e t ih => obtain ⟨r, i, v⟩ := e; rw [wrs]; exact (same_wr s r i v).trans (ih _)

theorem same_stone (s : State) (k : Nat) (v : List (Nat × Nat)) (f : Bool) : SameMem s (stoneWrite s k v f) := by
  unfold stoneWrite; split <;> exact ⟨rfl, rfl⟩

theorem same_msi (s : State) (v : Nat) : SameMem s (sendMsi s v) := by 
  unfold sendMsi; repeat' split
  all_goals exact ⟨rfl, rfl⟩

theorem same_rmsi (s : State) (v : Nat) : SameMem s (recordMsi s v) := by
  unfold recordMsi
  split
  · exact ⟨rfl, rfl⟩
  · dsimp only; split
    · exact same_msi s v
    · exact ⟨(same_msi s v).1, (same_msi s v).2⟩

theorem same_writeEvent (s : State) (b : List Byte) : SameMem s (writeEvent s b) := by
  unfold writeEvent
  dsimp only
  split <;> exact ⟨(same_rmsi _ _).1, (same_rmsi _ _).2⟩

theorem same_event (s : State) (a b c d e f : Nat) : SameMem s (postEvent s a b c d e f) := by
  unfold postEvent
  dsimp only
  generalize eventBytes s 11 0 0 (devId s) s.evqLost 0 = q
  generalize eventBytes _ a b c d e f = q2
  have h := same_writeEvent s q
  by_cases h1 : evqRoom s = true
  · rw [if_pos h1]
    by_cases h2 : s.evqLost = 0
    · simp only [if_pos h2]; rw [if_pos h1]; exact same_writeEvent _ _
    · simp only [if_neg h2]
      generalize writeEvent s q = t at h ⊢
      have h3 : SameMem s { t with evqLost := 0 } := ⟨h.1, h.2⟩
      generalize ({ t with evqLost := 0 } : State) = t2 at h3 ⊢
      split
      · exact h3.trans (same_writeEvent _ _)
      · exact ⟨h3.1, h3.2⟩
  · rw [if_neg h1]; exact ⟨rfl, rfl⟩

theorem same_ue (s : State) (w c : Nat) : SameMem s (recordUe s w c) := by
  unfold recordUe
  dsimp only
  have h1 := same_inc s (ueReg w) 0 1
  generalize inc s (ueReg w) = t at h1 ⊢
  have h2 := h1.trans (same_wrs [(.lastUeDa, 0, w), (.lastUeSource, 0, c)] t)
  generalize wrs t _ = t2 at h2 ⊢
  have h3 := h2.trans (same_stone t2 9 [(8, w + c * 2 ^ 40)] false)
  generalize stoneWrite t2 _ _ = t3 at h3 ⊢
  exact h3.trans (same_event _ _ _ _ _ _ _)

theorem same_drop (s : State) (a n : Nat) : SameMem s (dropPrefs s a n) := by
  unfold dropPrefs
  dsimp only
  split
  · exact ⟨rfl, rfl⟩
  · generalize s.prefs.filter _ = l
    clear * -
    induction l generalizing s with
    | nil => exact ⟨rfl, rfl⟩
    | cons e t ih =>
      rw [List.foldl_cons]
      have h := same_inc { s with prefs := Tbl.del s.prefs e.1 } .prefetchDiscardCnt (e.1 / 8) 1
      generalize inc _ _ _ _ = u at h ⊢
      exact SameMem.trans ⟨h.1, h.2⟩ (ih u)

/-- One word's write: nothing, or all of its bytes. -/
theorem memByte_writeWord (s : State) (w a : Nat) (d : List Byte) (x : Nat) :
    memByte (writeWord s w a d).1 x = if (writeWord s w a d).2 = true ∧ a ≤ x ∧ x < a + d.length then d.getD (x - a) 0 else memByte s x := by
  unfold writeWord
  dsimp only
  split
  · simp; exact memByte_eq (same_ue s w 8).1 (same_ue s w 8).2 x
  · split
    · simp; exact memByte_eq (same_ue s w 8).1 (same_ue s w 8).2 x
    · simp only [true_and]
      generalize (if (markOf s w).err = 0 then _ else if (markOf s w).err = 2 then _ else _ : Tbl WordMark) = mk
      have hc : SameMem s (if (markOf s w).err = 1 ∧ decide (d.length = wordBytes w) = false then correctWord s w else s) := by
        split <;> exact ⟨rfl, rfl⟩
      generalize (if (markOf s w).err = 1 ∧ decide (d.length = wordBytes w) = false then correctWord s w else s : State) = u at hc mk ⊢
      have hp := memByte_put u a d x
      rw [memByte_eq hc.1 hc.2 x] at hp
      rw [← hp]
      have hr : ∀ (t v : State), SameMem t v → memByte (fireInjection (cancelResv v a d.length) w) x = memByte t x := by
        intro t v h
        have h2 := (h.trans (same_cancel v a d.length)).trans (same_fire _ w)
        exact memByte_eq h2.1 h2.2 x
      apply hr
      split <;> exact ⟨rfl, rfl⟩

end Sys2Proof.Laws
end

