-- ==== Sys2Proof/Laws/State.lean ====
section
/-!
SUPPORT. Sys2Proof/Laws/State.lean: one lemma per field per update: an update of one part of the state leaves every other part as it was.
-/
namespace Sys2Proof.Machine

/-! ### wr changes the register file only -/

@[simp] theorem wr_pending (s : State) (r : Reg) (i v : Nat) : (wr s r i v).pending = s.pending := rfl
@[simp] theorem wr_out (s : State) (r : Reg) (i v : Nat) : (wr s r i v).out = s.out := rfl
@[simp] theorem wr_localNs (s : State) (r : Reg) (i v : Nat) : (wr s r i v).localNs = s.localNs := rfl
@[simp] theorem wr_freeCount (s : State) (r : Reg) (i v : Nat) : (wr s r i v).freeCount = s.freeCount := rfl
@[simp] theorem wr_variant (s : State) (r : Reg) (i v : Nat) : (wr s r i v).variant = s.variant := rfl
@[simp] theorem wr_stepping (s : State) (r : Reg) (i v : Nat) : (wr s r i v).stepping = s.stepping := rfl
@[simp] theorem wr_serial (s : State) (r : Reg) (i v : Nat) : (wr s r i v).serial = s.serial := rfl
@[simp] theorem wr_mem (s : State) (r : Reg) (i v : Nat) : (wr s r i v).mem = s.mem := rfl
@[simp] theorem wr_junk (s : State) (r : Reg) (i v : Nat) : (wr s r i v).junk = s.junk := rfl
@[simp] theorem wr_marks (s : State) (r : Reg) (i v : Nat) : (wr s r i v).marks = s.marks := rfl
@[simp] theorem wr_dirty (s : State) (r : Reg) (i v : Nat) : (wr s r i v).dirty = s.dirty := rfl
@[simp] theorem wr_bound (s : State) (r : Reg) (i v : Nat) : (wr s r i v).bound = s.bound := rfl
@[simp] theorem wr_leaving (s : State) (r : Reg) (i v : Nat) : (wr s r i v).leaving = s.leaving := rfl
@[simp] theorem wr_committed (s : State) (r : Reg) (i v : Nat) : (wr s r i v).committed = s.committed := rfl
@[simp] theorem wr_cores (s : State) (r : Reg) (i v : Nat) : (wr s r i v).cores = s.cores := rfl
@[simp] theorem wr_engHold (s : State) (r : Reg) (i v : Nat) : (wr s r i v).engHold = s.engHold := rfl
@[simp] theorem wr_resets (s : State) (r : Reg) (i v : Nat) : (wr s r i v).resets = s.resets := rfl
@[simp] theorem wr_signals (s : State) (r : Reg) (i v : Nat) : (wr s r i v).signals = s.signals := rfl
@[simp] theorem wr_blocks (s : State) (r : Reg) (i v : Nat) : (wr s r i v).blocks = s.blocks := rfl
@[simp] theorem wr_qfifo (s : State) (r : Reg) (i v : Nat) : (wr s r i v).qfifo = s.qfifo := rfl
@[simp] theorem wr_heldSamp (s : State) (r : Reg) (i v : Nat) : (wr s r i v).heldSamp = s.heldSamp := rfl
@[simp] theorem wr_heldRel (s : State) (r : Reg) (i v : Nat) : (wr s r i v).heldRel = s.heldRel := rfl
@[simp] theorem wr_samps (s : State) (r : Reg) (i v : Nat) : (wr s r i v).samps = s.samps := rfl
@[simp] theorem wr_sampStep (s : State) (r : Reg) (i v : Nat) : (wr s r i v).sampStep = s.sampStep := rfl
@[simp] theorem wr_sorts (s : State) (r : Reg) (i v : Nat) : (wr s r i v).sorts = s.sorts := rfl
@[simp] theorem wr_gathers (s : State) (r : Reg) (i v : Nat) : (wr s r i v).gathers = s.gathers := rfl
@[simp] theorem wr_scatters (s : State) (r : Reg) (i v : Nat) : (wr s r i v).scatters = s.scatters := rfl
@[simp] theorem wr_runCount (s : State) (r : Reg) (i v : Nat) : (wr s r i v).runCount = s.runCount := rfl
@[simp] theorem wr_homes (s : State) (r : Reg) (i v : Nat) : (wr s r i v).homes = s.homes := rfl
@[simp] theorem wr_heldRows (s : State) (r : Reg) (i v : Nat) : (wr s r i v).heldRows = s.heldRows := rfl
@[simp] theorem wr_heldWrites (s : State) (r : Reg) (i v : Nat) : (wr s r i v).heldWrites = s.heldWrites := rfl
@[simp] theorem wr_applies (s : State) (r : Reg) (i v : Nat) : (wr s r i v).applies = s.applies := rfl
@[simp] theorem wr_lostRows (s : State) (r : Reg) (i v : Nat) : (wr s r i v).lostRows = s.lostRows := rfl
@[simp] theorem wr_closes (s : State) (r : Reg) (i v : Nat) : (wr s r i v).closes = s.closes := rfl
@[simp] theorem wr_markers (s : State) (r : Reg) (i v : Nat) : (wr s r i v).markers = s.markers := rfl
@[simp] theorem wr_mig (s : State) (r : Reg) (i v : Nat) : (wr s r i v).mig = s.mig := rfl
@[simp] theorem wr_pairs (s : State) (r : Reg) (i v : Nat) : (wr s r i v).pairs = s.pairs := rfl
@[simp] theorem wr_refills (s : State) (r : Reg) (i v : Nat) : (wr s r i v).refills = s.refills := rfl
@[simp] theorem wr_soleCopies (s : State) (r : Reg) (i v : Nat) : (wr s r i v).soleCopies = s.soleCopies := rfl
@[simp] theorem wr_zests (s : State) (r : Reg) (i v : Nat) : (wr s r i v).zests = s.zests := rfl
@[simp] theorem wr_readSteps (s : State) (r : Reg) (i v : Nat) : (wr s r i v).readSteps = s.readSteps := rfl
@[simp] theorem wr_params (s : State) (r : Reg) (i v : Nat) : (wr s r i v).params = s.params := rfl
@[simp] theorem wr_applyRuns (s : State) (r : Reg) (i v : Nat) : (wr s r i v).applyRuns = s.applyRuns := rfl
@[simp] theorem wr_prefs (s : State) (r : Reg) (i v : Nat) : (wr s r i v).prefs = s.prefs := rfl
@[simp] theorem wr_heldRecs (s : State) (r : Reg) (i v : Nat) : (wr s r i v).heldRecs = s.heldRecs := rfl
@[simp] theorem wr_holdoff (s : State) (r : Reg) (i v : Nat) : (wr s r i v).holdoff = s.holdoff := rfl
@[simp] theorem wr_msixTable (s : State) (r : Reg) (i v : Nat) : (wr s r i v).msixTable = s.msixTable := rfl
@[simp] theorem wr_msixPend (s : State) (r : Reg) (i v : Nat) : (wr s r i v).msixPend = s.msixPend := rfl
@[simp] theorem wr_evqLost (s : State) (r : Reg) (i v : Nat) : (wr s r i v).evqLost = s.evqLost := rfl
@[simp] theorem wr_evqReport (s : State) (r : Reg) (i v : Nat) : (wr s r i v).evqReport = s.evqReport := rfl
@[simp] theorem wr_stoneQ (s : State) (r : Reg) (i v : Nat) : (wr s r i v).stoneQ = s.stoneQ := rfl
@[simp] theorem wr_stoneLost (s : State) (r : Reg) (i v : Nat) : (wr s r i v).stoneLost = s.stoneLost := rfl
@[simp] theorem wr_links (s : State) (r : Reg) (i v : Nat) : (wr s r i v).links = s.links := rfl
@[simp] theorem wr_flows (s : State) (r : Reg) (i v : Nat) : (wr s r i v).flows = s.flows := rfl
@[simp] theorem wr_lostStreams (s : State) (r : Reg) (i v : Nat) : (wr s r i v).lostStreams = s.lostStreams := rfl
@[simp] theorem wr_txWait (s : State) (r : Reg) (i v : Nat) : (wr s r i v).txWait = s.txWait := rfl
@[simp] theorem wr_tagWait (s : State) (r : Reg) (i v : Nat) : (wr s r i v).tagWait = s.tagWait := rfl
@[simp] theorem wr_tags (s : State) (r : Reg) (i v : Nat) : (wr s r i v).tags = s.tags := rfl
@[simp] theorem wr_peerOp (s : State) (r : Reg) (i v : Nat) : (wr s r i v).peerOp = s.peerOp := rfl
@[simp] theorem wr_heldProbes (s : State) (r : Reg) (i v : Nat) : (wr s r i v).heldProbes = s.heldProbes := rfl
@[simp] theorem wr_scrubPos (s : State) (r : Reg) (i v : Nat) : (wr s r i v).scrubPos = s.scrubPos := rfl
@[simp] theorem wr_scrubDone (s : State) (r : Reg) (i v : Nat) : (wr s r i v).scrubDone = s.scrubDone := rfl
@[simp] theorem wr_hdm (s : State) (r : Reg) (i v : Nat) : (wr s r i v).hdm = s.hdm := rfl
@[simp] theorem wr_hdmError (s : State) (r : Reg) (i v : Nat) : (wr s r i v).hdmError = s.hdmError := rfl
@[simp] theorem wr_cfg (s : State) (r : Reg) (i v : Nat) : (wr s r i v).cfg = s.cfg := rfl
@[simp] theorem wr_comp (s : State) (r : Reg) (i v : Nat) : (wr s r i v).comp = s.comp := rfl
@[simp] theorem wr_redDesc (s : State) (r : Reg) (i v : Nat) : (wr s r i v).redDesc = s.redDesc := rfl
@[simp] theorem wr_redPosts (s : State) (r : Reg) (i v : Nat) : (wr s r i v).redPosts = s.redPosts := rfl
@[simp] theorem wr_redSegs (s : State) (r : Reg) (i v : Nat) : (wr s r i v).redSegs = s.redSegs := rfl
@[simp] theorem wr_redSteps (s : State) (r : Reg) (i v : Nat) : (wr s r i v).redSteps = s.redSteps := rfl
@[simp] theorem wr_redChunks (s : State) (r : Reg) (i v : Nat) : (wr s r i v).redChunks = s.redChunks := rfl
@[simp] theorem wr_redNacks (s : State) (r : Reg) (i v : Nat) : (wr s r i v).redNacks = s.redNacks := rfl
@[simp] theorem wr_suspFull (s : State) (r : Reg) (i v : Nat) : (wr s r i v).suspFull = s.suspFull := rfl
@[simp] theorem wr_suspLast (s : State) (r : Reg) (i v : Nat) : (wr s r i v).suspLast = s.suspLast := rfl
@[simp] theorem wr_suspSent (s : State) (r : Reg) (i v : Nat) : (wr s r i v).suspSent = s.suspSent := rfl
@[simp] theorem wr_pwrGood (s : State) (r : Reg) (i v : Nat) : (wr s r i v).pwrGood = s.pwrGood := rfl
@[simp] theorem wr_perstN (s : State) (r : Reg) (i v : Nat) : (wr s r i v).perstN = s.perstN := rfl
@[simp] theorem wr_faultN (s : State) (r : Reg) (i v : Nat) : (wr s r i v).faultN = s.faultN := rfl
@[simp] theorem wr_trip (s : State) (r : Reg) (i v : Nat) : (wr s r i v).trip = s.trip := rfl
@[simp] theorem wr_tripLatch (s : State) (r : Reg) (i v : Nat) : (wr s r i v).tripLatch = s.tripLatch := rfl
@[simp] theorem wr_railsUp (s : State) (r : Reg) (i v : Nat) : (wr s r i v).railsUp = s.railsUp := rfl
@[simp] theorem wr_feedStrap (s : State) (r : Reg) (i v : Nat) : (wr s r i v).feedStrap = s.feedStrap := rfl
@[simp] theorem wr_strap (s : State) (r : Reg) (i v : Nat) : (wr s r i v).strap = s.strap := rfl
@[simp] theorem wr_fuses (s : State) (r : Reg) (i v : Nat) : (wr s r i v).fuses = s.fuses := rfl
@[simp] theorem wr_flash (s : State) (r : Reg) (i v : Nat) : (wr s r i v).flash = s.flash := rfl
@[simp] theorem wr_stone (s : State) (r : Reg) (i v : Nat) : (wr s r i v).stone = s.stone := rfl
@[simp] theorem wr_bootCount (s : State) (r : Reg) (i v : Nat) : (wr s r i v).bootCount = s.bootCount := rfl
@[simp] theorem wr_powered (s : State) (r : Reg) (i v : Nat) : (wr s r i v).powered = s.powered := rfl
@[simp] theorem wr_setDue (s : State) (r : Reg) (i v : Nat) : (wr s r i v).setDue = s.setDue := rfl
@[simp] theorem wr_setRecs (s : State) (r : Reg) (i v : Nat) : (wr s r i v).setRecs = s.setRecs := rfl
@[simp] theorem wr_setAge (s : State) (r : Reg) (i v : Nat) : (wr s r i v).setAge = s.setAge := rfl
@[simp] theorem wr_boot (s : State) (r : Reg) (i v : Nat) : (wr s r i v).boot = s.boot := rfl
@[simp] theorem wr_devReset (s : State) (r : Reg) (i v : Nat) : (wr s r i v).devReset = s.devReset := rfl
@[simp] theorem wr_resetRecs (s : State) (r : Reg) (i v : Nat) : (wr s r i v).resetRecs = s.resetRecs := rfl
@[simp] theorem wr_coreMap (s : State) (r : Reg) (i v : Nat) : (wr s r i v).coreMap = s.coreMap := rfl
@[simp] theorem wr_fwRounds (s : State) (r : Reg) (i v : Nat) : (wr s r i v).fwRounds = s.fwRounds := rfl
@[simp] theorem wr_kats (s : State) (r : Reg) (i v : Nat) : (wr s r i v).kats = s.kats := rfl
@[simp] theorem wr_meas (s : State) (r : Reg) (i v : Nat) : (wr s r i v).meas = s.meas := rfl
@[simp] theorem wr_measLog (s : State) (r : Reg) (i v : Nat) : (wr s r i v).measLog = s.measLog := rfl
@[simp] theorem wr_measDrops (s : State) (r : Reg) (i v : Nat) : (wr s r i v).measDrops = s.measDrops := rfl
@[simp] theorem wr_certChain (s : State) (r : Reg) (i v : Nat) : (wr s r i v).certChain = s.certChain := rfl
@[simp] theorem wr_load (s : State) (r : Reg) (i v : Nat) : (wr s r i v).load = s.load := rfl
@[simp] theorem wr_latches (s : State) (r : Reg) (i v : Nat) : (wr s r i v).latches = s.latches := rfl
@[simp] theorem wr_stoneBuf (s : State) (r : Reg) (i v : Nat) : (wr s r i v).stoneBuf = s.stoneBuf := rfl
@[simp] theorem wr_mbox (s : State) (r : Reg) (i v : Nat) : (wr s r i v).mbox = s.mbox := rfl
@[simp] theorem wr_sessions (s : State) (r : Reg) (i v : Nat) : (wr s r i v).sessions = s.sessions := rfl
@[simp] theorem wr_rejectNs (s : State) (r : Reg) (i v : Nat) : (wr s r i v).rejectNs = s.rejectNs := rfl
@[simp] theorem wr_spdm (s : State) (r : Reg) (i v : Nat) : (wr s r i v).spdm = s.spdm := rfl
@[simp] theorem wr_power (s : State) (r : Reg) (i v : Nat) : (wr s r i v).power = s.power := rfl
@[simp] theorem wr_side (s : State) (r : Reg) (i v : Nat) : (wr s r i v).side = s.side := rfl
@[simp] theorem wr_damson (s : State) (r : Reg) (i v : Nat) : (wr s r i v).damson = s.damson := rfl

/-! ### emit changes what has left the block only -/

@[simp] theorem emit_pending (s : State) (o : Output) : (emit s o).pending = s.pending := rfl
@[simp] theorem emit_localNs (s : State) (o : Output) : (emit s o).localNs = s.localNs := rfl
@[simp] theorem emit_freeCount (s : State) (o : Output) : (emit s o).freeCount = s.freeCount := rfl
@[simp] theorem emit_variant (s : State) (o : Output) : (emit s o).variant = s.variant := rfl
@[simp] theorem emit_stepping (s : State) (o : Output) : (emit s o).stepping = s.stepping := rfl
@[simp] theorem emit_serial (s : State) (o : Output) : (emit s o).serial = s.serial := rfl
@[simp] theorem emit_regs (s : State) (o : Output) : (emit s o).regs = s.regs := rfl
@[simp] theorem emit_mem (s : State) (o : Output) : (emit s o).mem = s.mem := rfl
@[simp] theorem emit_junk (s : State) (o : Output) : (emit s o).junk = s.junk := rfl
@[simp] theorem emit_marks (s : State) (o : Output) : (emit s o).marks = s.marks := rfl
@[simp] theorem emit_dirty (s : State) (o : Output) : (emit s o).dirty = s.dirty := rfl
@[simp] theorem emit_bound (s : State) (o : Output) : (emit s o).bound = s.bound := rfl
@[simp] theorem emit_leaving (s : State) (o : Output) : (emit s o).leaving = s.leaving := rfl
@[simp] theorem emit_committed (s : State) (o : Output) : (emit s o).committed = s.committed := rfl
@[simp] theorem emit_cores (s : State) (o : Output) : (emit s o).cores = s.cores := rfl
@[simp] theorem emit_engHold (s : State) (o : Output) : (emit s o).engHold = s.engHold := rfl
@[simp] theorem emit_resets (s : State) (o : Output) : (emit s o).resets = s.resets := rfl
@[simp] theorem emit_signals (s : State) (o : Output) : (emit s o).signals = s.signals := rfl
@[simp] theorem emit_blocks (s : State) (o : Output) : (emit s o).blocks = s.blocks := rfl
@[simp] theorem emit_qfifo (s : State) (o : Output) : (emit s o).qfifo = s.qfifo := rfl
@[simp] theorem emit_heldSamp (s : State) (o : Output) : (emit s o).heldSamp = s.heldSamp := rfl
@[simp] theorem emit_heldRel (s : State) (o : Output) : (emit s o).heldRel = s.heldRel := rfl
@[simp] theorem emit_samps (s : State) (o : Output) : (emit s o).samps = s.samps := rfl
@[simp] theorem emit_sampStep (s : State) (o : Output) : (emit s o).sampStep = s.sampStep := rfl
@[simp] theorem emit_sorts (s : State) (o : Output) : (emit s o).sorts = s.sorts := rfl
@[simp] theorem emit_gathers (s : State) (o : Output) : (emit s o).gathers = s.gathers := rfl
@[simp] theorem emit_scatters (s : State) (o : Output) : (emit s o).scatters = s.scatters := rfl
@[simp] theorem emit_runCount (s : State) (o : Output) : (emit s o).runCount = s.runCount := rfl
@[simp] theorem emit_homes (s : State) (o : Output) : (emit s o).homes = s.homes := rfl
@[simp] theorem emit_heldRows (s : State) (o : Output) : (emit s o).heldRows = s.heldRows := rfl
@[simp] theorem emit_heldWrites (s : State) (o : Output) : (emit s o).heldWrites = s.heldWrites := rfl
@[simp] theorem emit_applies (s : State) (o : Output) : (emit s o).applies = s.applies := rfl
@[simp] theorem emit_lostRows (s : State) (o : Output) : (emit s o).lostRows = s.lostRows := rfl
@[simp] theorem emit_closes (s : State) (o : Output) : (emit s o).closes = s.closes := rfl
@[simp] theorem emit_markers (s : State) (o : Output) : (emit s o).markers = s.markers := rfl
@[simp] theorem emit_mig (s : State) (o : Output) : (emit s o).mig = s.mig := rfl
@[simp] theorem emit_pairs (s : State) (o : Output) : (emit s o).pairs = s.pairs := rfl
@[simp] theorem emit_refills (s : State) (o : Output) : (emit s o).refills = s.refills := rfl
@[simp] theorem emit_soleCopies (s : State) (o : Output) : (emit s o).soleCopies = s.soleCopies := rfl
@[simp] theorem emit_zests (s : State) (o : Output) : (emit s o).zests = s.zests := rfl
@[simp] theorem emit_readSteps (s : State) (o : Output) : (emit s o).readSteps = s.readSteps := rfl
@[simp] theorem emit_params (s : State) (o : Output) : (emit s o).params = s.params := rfl
@[simp] theorem emit_applyRuns (s : State) (o : Output) : (emit s o).applyRuns = s.applyRuns := rfl
@[simp] theorem emit_prefs (s : State) (o : Output) : (emit s o).prefs = s.prefs := rfl
@[simp] theorem emit_heldRecs (s : State) (o : Output) : (emit s o).heldRecs = s.heldRecs := rfl
@[simp] theorem emit_holdoff (s : State) (o : Output) : (emit s o).holdoff = s.holdoff := rfl
@[simp] theorem emit_msixTable (s : State) (o : Output) : (emit s o).msixTable = s.msixTable := rfl
@[simp] theorem emit_msixPend (s : State) (o : Output) : (emit s o).msixPend = s.msixPend := rfl
@[simp] theorem emit_evqLost (s : State) (o : Output) : (emit s o).evqLost = s.evqLost := rfl
@[simp] theorem emit_evqReport (s : State) (o : Output) : (emit s o).evqReport = s.evqReport := rfl
@[simp] theorem emit_stoneQ (s : State) (o : Output) : (emit s o).stoneQ = s.stoneQ := rfl
@[simp] theorem emit_stoneLost (s : State) (o : Output) : (emit s o).stoneLost = s.stoneLost := rfl
@[simp] theorem emit_links (s : State) (o : Output) : (emit s o).links = s.links := rfl
@[simp] theorem emit_flows (s : State) (o : Output) : (emit s o).flows = s.flows := rfl
@[simp] theorem emit_lostStreams (s : State) (o : Output) : (emit s o).lostStreams = s.lostStreams := rfl
@[simp] theorem emit_txWait (s : State) (o : Output) : (emit s o).txWait = s.txWait := rfl
@[simp] theorem emit_tagWait (s : State) (o : Output) : (emit s o).tagWait = s.tagWait := rfl
@[simp] theorem emit_tags (s : State) (o : Output) : (emit s o).tags = s.tags := rfl
@[simp] theorem emit_peerOp (s : State) (o : Output) : (emit s o).peerOp = s.peerOp := rfl
@[simp] theorem emit_heldProbes (s : State) (o : Output) : (emit s o).heldProbes = s.heldProbes := rfl
@[simp] theorem emit_scrubPos (s : State) (o : Output) : (emit s o).scrubPos = s.scrubPos := rfl
@[simp] theorem emit_scrubDone (s : State) (o : Output) : (emit s o).scrubDone = s.scrubDone := rfl
@[simp] theorem emit_hdm (s : State) (o : Output) : (emit s o).hdm = s.hdm := rfl
@[simp] theorem emit_hdmError (s : State) (o : Output) : (emit s o).hdmError = s.hdmError := rfl
@[simp] theorem emit_cfg (s : State) (o : Output) : (emit s o).cfg = s.cfg := rfl
@[simp] theorem emit_comp (s : State) (o : Output) : (emit s o).comp = s.comp := rfl
@[simp] theorem emit_redDesc (s : State) (o : Output) : (emit s o).redDesc = s.redDesc := rfl
@[simp] theorem emit_redPosts (s : State) (o : Output) : (emit s o).redPosts = s.redPosts := rfl
@[simp] theorem emit_redSegs (s : State) (o : Output) : (emit s o).redSegs = s.redSegs := rfl
@[simp] theorem emit_redSteps (s : State) (o : Output) : (emit s o).redSteps = s.redSteps := rfl
@[simp] theorem emit_redChunks (s : State) (o : Output) : (emit s o).redChunks = s.redChunks := rfl
@[simp] theorem emit_redNacks (s : State) (o : Output) : (emit s o).redNacks = s.redNacks := rfl
@[simp] theorem emit_suspFull (s : State) (o : Output) : (emit s o).suspFull = s.suspFull := rfl
@[simp] theorem emit_suspLast (s : State) (o : Output) : (emit s o).suspLast = s.suspLast := rfl
@[simp] theorem emit_suspSent (s : State) (o : Output) : (emit s o).suspSent = s.suspSent := rfl
@[simp] theorem emit_pwrGood (s : State) (o : Output) : (emit s o).pwrGood = s.pwrGood := rfl
@[simp] theorem emit_perstN (s : State) (o : Output) : (emit s o).perstN = s.perstN := rfl
@[simp] theorem emit_faultN (s : State) (o : Output) : (emit s o).faultN = s.faultN := rfl
@[simp] theorem emit_trip (s : State) (o : Output) : (emit s o).trip = s.trip := rfl
@[simp] theorem emit_tripLatch (s : State) (o : Output) : (emit s o).tripLatch = s.tripLatch := rfl
@[simp] theorem emit_railsUp (s : State) (o : Output) : (emit s o).railsUp = s.railsUp := rfl
@[simp] theorem emit_feedStrap (s : State) (o : Output) : (emit s o).feedStrap = s.feedStrap := rfl
@[simp] theorem emit_strap (s : State) (o : Output) : (emit s o).strap = s.strap := rfl
@[simp] theorem emit_fuses (s : State) (o : Output) : (emit s o).fuses = s.fuses := rfl
@[simp] theorem emit_flash (s : State) (o : Output) : (emit s o).flash = s.flash := rfl
@[simp] theorem emit_stone (s : State) (o : Output) : (emit s o).stone = s.stone := rfl
@[simp] theorem emit_bootCount (s : State) (o : Output) : (emit s o).bootCount = s.bootCount := rfl
@[simp] theorem emit_powered (s : State) (o : Output) : (emit s o).powered = s.powered := rfl
@[simp] theorem emit_setDue (s : State) (o : Output) : (emit s o).setDue = s.setDue := rfl
@[simp] theorem emit_setRecs (s : State) (o : Output) : (emit s o).setRecs = s.setRecs := rfl
@[simp] theorem emit_setAge (s : State) (o : Output) : (emit s o).setAge = s.setAge := rfl
@[simp] theorem emit_boot (s : State) (o : Output) : (emit s o).boot = s.boot := rfl
@[simp] theorem emit_devReset (s : State) (o : Output) : (emit s o).devReset = s.devReset := rfl
@[simp] theorem emit_resetRecs (s : State) (o : Output) : (emit s o).resetRecs = s.resetRecs := rfl
@[simp] theorem emit_coreMap (s : State) (o : Output) : (emit s o).coreMap = s.coreMap := rfl
@[simp] theorem emit_fwRounds (s : State) (o : Output) : (emit s o).fwRounds = s.fwRounds := rfl
@[simp] theorem emit_kats (s : State) (o : Output) : (emit s o).kats = s.kats := rfl
@[simp] theorem emit_meas (s : State) (o : Output) : (emit s o).meas = s.meas := rfl
@[simp] theorem emit_measLog (s : State) (o : Output) : (emit s o).measLog = s.measLog := rfl
@[simp] theorem emit_measDrops (s : State) (o : Output) : (emit s o).measDrops = s.measDrops := rfl
@[simp] theorem emit_certChain (s : State) (o : Output) : (emit s o).certChain = s.certChain := rfl
@[simp] theorem emit_load (s : State) (o : Output) : (emit s o).load = s.load := rfl
@[simp] theorem emit_latches (s : State) (o : Output) : (emit s o).latches = s.latches := rfl
@[simp] theorem emit_stoneBuf (s : State) (o : Output) : (emit s o).stoneBuf = s.stoneBuf := rfl
@[simp] theorem emit_mbox (s : State) (o : Output) : (emit s o).mbox = s.mbox := rfl
@[simp] theorem emit_sessions (s : State) (o : Output) : (emit s o).sessions = s.sessions := rfl
@[simp] theorem emit_rejectNs (s : State) (o : Output) : (emit s o).rejectNs = s.rejectNs := rfl
@[simp] theorem emit_spdm (s : State) (o : Output) : (emit s o).spdm = s.spdm := rfl
@[simp] theorem emit_power (s : State) (o : Output) : (emit s o).power = s.power := rfl
@[simp] theorem emit_side (s : State) (o : Output) : (emit s o).side = s.side := rfl
@[simp] theorem emit_damson (s : State) (o : Output) : (emit s o).damson = s.damson := rfl
@[simp] theorem rd_emit (s : State) (o : Output) (rr : Reg) (ri : Nat) : rd (emit s o) rr ri = rd s rr ri := rfl

/-! ### setCore changes the cores only -/

@[simp] theorem setCore_pending (s : State) (l : Nat) (c : CoreSt) : (setCore s l c).pending = s.pending := rfl
@[simp] theorem setCore_out (s : State) (l : Nat) (c : CoreSt) : (setCore s l c).out = s.out := rfl
@[simp] theorem setCore_localNs (s : State) (l : Nat) (c : CoreSt) : (setCore s l c).localNs = s.localNs := rfl
@[simp] theorem setCore_freeCount (s : State) (l : Nat) (c : CoreSt) : (setCore s l c).freeCount = s.freeCount := rfl
@[simp] theorem setCore_variant (s : State) (l : Nat) (c : CoreSt) : (setCore s l c).variant = s.variant := rfl
@[simp] theorem setCore_stepping (s : State) (l : Nat) (c : CoreSt) : (setCore s l c).stepping = s.stepping := rfl
@[simp] theorem setCore_serial (s : State) (l : Nat) (c : CoreSt) : (setCore s l c).serial = s.serial := rfl
@[simp] theorem setCore_regs (s : State) (l : Nat) (c : CoreSt) : (setCore s l c).regs = s.regs := rfl
@[simp] theorem setCore_mem (s : State) (l : Nat) (c : CoreSt) : (setCore s l c).mem = s.mem := rfl
@[simp] theorem setCore_junk (s : State) (l : Nat) (c : CoreSt) : (setCore s l c).junk = s.junk := rfl
@[simp] theorem setCore_marks (s : State) (l : Nat) (c : CoreSt) : (setCore s l c).marks = s.marks := rfl
@[simp] theorem setCore_dirty (s : State) (l : Nat) (c : CoreSt) : (setCore s l c).dirty = s.dirty := rfl
@[simp] theorem setCore_bound (s : State) (l : Nat) (c : CoreSt) : (setCore s l c).bound = s.bound := rfl
@[simp] theorem setCore_leaving (s : State) (l : Nat) (c : CoreSt) : (setCore s l c).leaving = s.leaving := rfl
@[simp] theorem setCore_committed (s : State) (l : Nat) (c : CoreSt) : (setCore s l c).committed = s.committed := rfl
@[simp] theorem setCore_engHold (s : State) (l : Nat) (c : CoreSt) : (setCore s l c).engHold = s.engHold := rfl
@[simp] theorem setCore_resets (s : State) (l : Nat) (c : CoreSt) : (setCore s l c).resets = s.resets := rfl
@[simp] theorem setCore_signals (s : State) (l : Nat) (c : CoreSt) : (setCore s l c).signals = s.signals := rfl
@[simp] theorem setCore_blocks (s : State) (l : Nat) (c : CoreSt) : (setCore s l c).blocks = s.blocks := rfl
@[simp] theorem setCore_qfifo (s : State) (l : Nat) (c : CoreSt) : (setCore s l c).qfifo = s.qfifo := rfl
@[simp] theorem setCore_heldSamp (s : State) (l : Nat) (c : CoreSt) : (setCore s l c).heldSamp = s.heldSamp := rfl
@[simp] theorem setCore_heldRel (s : State) (l : Nat) (c : CoreSt) : (setCore s l c).heldRel = s.heldRel := rfl
@[simp] theorem setCore_samps (s : State) (l : Nat) (c : CoreSt) : (setCore s l c).samps = s.samps := rfl
@[simp] theorem setCore_sampStep (s : State) (l : Nat) (c : CoreSt) : (setCore s l c).sampStep = s.sampStep := rfl
@[simp] theorem setCore_sorts (s : State) (l : Nat) (c : CoreSt) : (setCore s l c).sorts = s.sorts := rfl
@[simp] theorem setCore_gathers (s : State) (l : Nat) (c : CoreSt) : (setCore s l c).gathers = s.gathers := rfl
@[simp] theorem setCore_scatters (s : State) (l : Nat) (c : CoreSt) : (setCore s l c).scatters = s.scatters := rfl
@[simp] theorem setCore_runCount (s : State) (l : Nat) (c : CoreSt) : (setCore s l c).runCount = s.runCount := rfl
@[simp] theorem setCore_homes (s : State) (l : Nat) (c : CoreSt) : (setCore s l c).homes = s.homes := rfl
@[simp] theorem setCore_heldRows (s : State) (l : Nat) (c : CoreSt) : (setCore s l c).heldRows = s.heldRows := rfl
@[simp] theorem setCore_heldWrites (s : State) (l : Nat) (c : CoreSt) : (setCore s l c).heldWrites = s.heldWrites := rfl
@[simp] theorem setCore_applies (s : State) (l : Nat) (c : CoreSt) : (setCore s l c).applies = s.applies := rfl
@[simp] theorem setCore_lostRows (s : State) (l : Nat) (c : CoreSt) : (setCore s l c).lostRows = s.lostRows := rfl
@[simp] theorem setCore_closes (s : State) (l : Nat) (c : CoreSt) : (setCore s l c).closes = s.closes := rfl
@[simp] theorem setCore_markers (s : State) (l : Nat) (c : CoreSt) : (setCore s l c).markers = s.markers := rfl
@[simp] theorem setCore_mig (s : State) (l : Nat) (c : CoreSt) : (setCore s l c).mig = s.mig := rfl
@[simp] theorem setCore_pairs (s : State) (l : Nat) (c : CoreSt) : (setCore s l c).pairs = s.pairs := rfl
@[simp] theorem setCore_refills (s : State) (l : Nat) (c : CoreSt) : (setCore s l c).refills = s.refills := rfl
@[simp] theorem setCore_soleCopies (s : State) (l : Nat) (c : CoreSt) : (setCore s l c).soleCopies = s.soleCopies := rfl
@[simp] theorem setCore_zests (s : State) (l : Nat) (c : CoreSt) : (setCore s l c).zests = s.zests := rfl
@[simp] theorem setCore_readSteps (s : State) (l : Nat) (c : CoreSt) : (setCore s l c).readSteps = s.readSteps := rfl
@[simp] theorem setCore_params (s : State) (l : Nat) (c : CoreSt) : (setCore s l c).params = s.params := rfl
@[simp] theorem setCore_applyRuns (s : State) (l : Nat) (c : CoreSt) : (setCore s l c).applyRuns = s.applyRuns := rfl
@[simp] theorem setCore_prefs (s : State) (l : Nat) (c : CoreSt) : (setCore s l c).prefs = s.prefs := rfl
@[simp] theorem setCore_heldRecs (s : State) (l : Nat) (c : CoreSt) : (setCore s l c).heldRecs = s.heldRecs := rfl
@[simp] theorem setCore_holdoff (s : State) (l : Nat) (c : CoreSt) : (setCore s l c).holdoff = s.holdoff := rfl
@[simp] theorem setCore_msixTable (s : State) (l : Nat) (c : CoreSt) : (setCore s l c).msixTable = s.msixTable := rfl
@[simp] theorem setCore_msixPend (s : State) (l : Nat) (c : CoreSt) : (setCore s l c).msixPend = s.msixPend := rfl
@[simp] theorem setCore_evqLost (s : State) (l : Nat) (c : CoreSt) : (setCore s l c).evqLost = s.evqLost := rfl
@[simp] theorem setCore_evqReport (s : State) (l : Nat) (c : CoreSt) : (setCore s l c).evqReport = s.evqReport := rfl
@[simp] theorem setCore_stoneQ (s : State) (l : Nat) (c : CoreSt) : (setCore s l c).stoneQ = s.stoneQ := rfl
@[simp] theorem setCore_stoneLost (s : State) (l : Nat) (c : CoreSt) : (setCore s l c).stoneLost = s.stoneLost := rfl
@[simp] theorem setCore_links (s : State) (l : Nat) (c : CoreSt) : (setCore s l c).links = s.links := rfl
@[simp] theorem setCore_flows (s : State) (l : Nat) (c : CoreSt) : (setCore s l c).flows = s.flows := rfl
@[simp] theorem setCore_lostStreams (s : State) (l : Nat) (c : CoreSt) : (setCore s l c).lostStreams = s.lostStreams := rfl
@[simp] theorem setCore_txWait (s : State) (l : Nat) (c : CoreSt) : (setCore s l c).txWait = s.txWait := rfl
@[simp] theorem setCore_tagWait (s : State) (l : Nat) (c : CoreSt) : (setCore s l c).tagWait = s.tagWait := rfl
@[simp] theorem setCore_tags (s : State) (l : Nat) (c : CoreSt) : (setCore s l c).tags = s.tags := rfl
@[simp] theorem setCore_peerOp (s : State) (l : Nat) (c : CoreSt) : (setCore s l c).peerOp = s.peerOp := rfl
@[simp] theorem setCore_heldProbes (s : State) (l : Nat) (c : CoreSt) : (setCore s l c).heldProbes = s.heldProbes := rfl
@[simp] theorem setCore_scrubPos (s : State) (l : Nat) (c : CoreSt) : (setCore s l c).scrubPos = s.scrubPos := rfl
@[simp] theorem setCore_scrubDone (s : State) (l : Nat) (c : CoreSt) : (setCore s l c).scrubDone = s.scrubDone := rfl
@[simp] theorem setCore_hdm (s : State) (l : Nat) (c : CoreSt) : (setCore s l c).hdm = s.hdm := rfl
@[simp] theorem setCore_hdmError (s : State) (l : Nat) (c : CoreSt) : (setCore s l c).hdmError = s.hdmError := rfl
@[simp] theorem setCore_cfg (s : State) (l : Nat) (c : CoreSt) : (setCore s l c).cfg = s.cfg := rfl
@[simp] theorem setCore_comp (s : State) (l : Nat) (c : CoreSt) : (setCore s l c).comp = s.comp := rfl
@[simp] theorem setCore_redDesc (s : State) (l : Nat) (c : CoreSt) : (setCore s l c).redDesc = s.redDesc := rfl
@[simp] theorem setCore_redPosts (s : State) (l : Nat) (c : CoreSt) : (setCore s l c).redPosts = s.redPosts := rfl
@[simp] theorem setCore_redSegs (s : State) (l : Nat) (c : CoreSt) : (setCore s l c).redSegs = s.redSegs := rfl
@[simp] theorem setCore_redSteps (s : State) (l : Nat) (c : CoreSt) : (setCore s l c).redSteps = s.redSteps := rfl
@[simp] theorem setCore_redChunks (s : State) (l : Nat) (c : CoreSt) : (setCore s l c).redChunks = s.redChunks := rfl
@[simp] theorem setCore_redNacks (s : State) (l : Nat) (c : CoreSt) : (setCore s l c).redNacks = s.redNacks := rfl
@[simp] theorem setCore_suspFull (s : State) (l : Nat) (c : CoreSt) : (setCore s l c).suspFull = s.suspFull := rfl
@[simp] theorem setCore_suspLast (s : State) (l : Nat) (c : CoreSt) : (setCore s l c).suspLast = s.suspLast := rfl
@[simp] theorem setCore_suspSent (s : State) (l : Nat) (c : CoreSt) : (setCore s l c).suspSent = s.suspSent := rfl
@[simp] theorem setCore_pwrGood (s : State) (l : Nat) (c : CoreSt) : (setCore s l c).pwrGood = s.pwrGood := rfl
@[simp] theorem setCore_perstN (s : State) (l : Nat) (c : CoreSt) : (setCore s l c).perstN = s.perstN := rfl
@[simp] theorem setCore_faultN (s : State) (l : Nat) (c : CoreSt) : (setCore s l c).faultN = s.faultN := rfl
@[simp] theorem setCore_trip (s : State) (l : Nat) (c : CoreSt) : (setCore s l c).trip = s.trip := rfl
@[simp] theorem setCore_tripLatch (s : State) (l : Nat) (c : CoreSt) : (setCore s l c).tripLatch = s.tripLatch := rfl
@[simp] theorem setCore_railsUp (s : State) (l : Nat) (c : CoreSt) : (setCore s l c).railsUp = s.railsUp := rfl
@[simp] theorem setCore_feedStrap (s : State) (l : Nat) (c : CoreSt) : (setCore s l c).feedStrap = s.feedStrap := rfl
@[simp] theorem setCore_strap (s : State) (l : Nat) (c : CoreSt) : (setCore s l c).strap = s.strap := rfl
@[simp] theorem setCore_fuses (s : State) (l : Nat) (c : CoreSt) : (setCore s l c).fuses = s.fuses := rfl
@[simp] theorem setCore_flash (s : State) (l : Nat) (c : CoreSt) : (setCore s l c).flash = s.flash := rfl
@[simp] theorem setCore_stone (s : State) (l : Nat) (c : CoreSt) : (setCore s l c).stone = s.stone := rfl
@[simp] theorem setCore_bootCount (s : State) (l : Nat) (c : CoreSt) : (setCore s l c).bootCount = s.bootCount := rfl
@[simp] theorem setCore_powered (s : State) (l : Nat) (c : CoreSt) : (setCore s l c).powered = s.powered := rfl
@[simp] theorem setCore_setDue (s : State) (l : Nat) (c : CoreSt) : (setCore s l c).setDue = s.setDue := rfl
@[simp] theorem setCore_setRecs (s : State) (l : Nat) (c : CoreSt) : (setCore s l c).setRecs = s.setRecs := rfl
@[simp] theorem setCore_setAge (s : State) (l : Nat) (c : CoreSt) : (setCore s l c).setAge = s.setAge := rfl
@[simp] theorem setCore_boot (s : State) (l : Nat) (c : CoreSt) : (setCore s l c).boot = s.boot := rfl
@[simp] theorem setCore_devReset (s : State) (l : Nat) (c : CoreSt) : (setCore s l c).devReset = s.devReset := rfl
@[simp] theorem setCore_resetRecs (s : State) (l : Nat) (c : CoreSt) : (setCore s l c).resetRecs = s.resetRecs := rfl
@[simp] theorem setCore_coreMap (s : State) (l : Nat) (c : CoreSt) : (setCore s l c).coreMap = s.coreMap := rfl
@[simp] theorem setCore_fwRounds (s : State) (l : Nat) (c : CoreSt) : (setCore s l c).fwRounds = s.fwRounds := rfl
@[simp] theorem setCore_kats (s : State) (l : Nat) (c : CoreSt) : (setCore s l c).kats = s.kats := rfl
@[simp] theorem setCore_meas (s : State) (l : Nat) (c : CoreSt) : (setCore s l c).meas = s.meas := rfl
@[simp] theorem setCore_measLog (s : State) (l : Nat) (c : CoreSt) : (setCore s l c).measLog = s.measLog := rfl
@[simp] theorem setCore_measDrops (s : State) (l : Nat) (c : CoreSt) : (setCore s l c).measDrops = s.measDrops := rfl
@[simp] theorem setCore_certChain (s : State) (l : Nat) (c : CoreSt) : (setCore s l c).certChain = s.certChain := rfl
@[simp] theorem setCore_load (s : State) (l : Nat) (c : CoreSt) : (setCore s l c).load = s.load := rfl
@[simp] theorem setCore_latches (s : State) (l : Nat) (c : CoreSt) : (setCore s l c).latches = s.latches := rfl
@[simp] theorem setCore_stoneBuf (s : State) (l : Nat) (c : CoreSt) : (setCore s l c).stoneBuf = s.stoneBuf := rfl
@[simp] theorem setCore_mbox (s : State) (l : Nat) (c : CoreSt) : (setCore s l c).mbox = s.mbox := rfl
@[simp] theorem setCore_sessions (s : State) (l : Nat) (c : CoreSt) : (setCore s l c).sessions = s.sessions := rfl
@[simp] theorem setCore_rejectNs (s : State) (l : Nat) (c : CoreSt) : (setCore s l c).rejectNs = s.rejectNs := rfl
@[simp] theorem setCore_spdm (s : State) (l : Nat) (c : CoreSt) : (setCore s l c).spdm = s.spdm := rfl
@[simp] theorem setCore_power (s : State) (l : Nat) (c : CoreSt) : (setCore s l c).power = s.power := rfl
@[simp] theorem setCore_side (s : State) (l : Nat) (c : CoreSt) : (setCore s l c).side = s.side := rfl
@[simp] theorem setCore_damson (s : State) (l : Nat) (c : CoreSt) : (setCore s l c).damson = s.damson := rfl
@[simp] theorem rd_setCore (s : State) (l : Nat) (c : CoreSt) (rr : Reg) (ri : Nat) : rd (setCore s l c) rr ri = rd s rr ri := rfl

/-! ### setFifo changes the entries taken in by the device queues only -/

@[simp] theorem setFifo_pending (s : State) (q : Nat) (l : List (List Byte)) : (setFifo s q l).pending = s.pending := rfl
@[simp] theorem setFifo_out (s : State) (q : Nat) (l : List (List Byte)) : (setFifo s q l).out = s.out := rfl
@[simp] theorem setFifo_localNs (s : State) (q : Nat) (l : List (List Byte)) : (setFifo s q l).localNs = s.localNs := rfl
@[simp] theorem setFifo_freeCount (s : State) (q : Nat) (l : List (List Byte)) : (setFifo s q l).freeCount = s.freeCount := rfl
@[simp] theorem setFifo_variant (s : State) (q : Nat) (l : List (List Byte)) : (setFifo s q l).variant = s.variant := rfl
@[simp] theorem setFifo_stepping (s : State) (q : Nat) (l : List (List Byte)) : (setFifo s q l).stepping = s.stepping := rfl
@[simp] theorem setFifo_serial (s : State) (q : Nat) (l : List (List Byte)) : (setFifo s q l).serial = s.serial := rfl
@[simp] theorem setFifo_regs (s : State) (q : Nat) (l : List (List Byte)) : (setFifo s q l).regs = s.regs := rfl
@[simp] theorem setFifo_mem (s : State) (q : Nat) (l : List (List Byte)) : (setFifo s q l).mem = s.mem := rfl
@[simp] theorem setFifo_junk (s : State) (q : Nat) (l : List (List Byte)) : (setFifo s q l).junk = s.junk := rfl
@[simp] theorem setFifo_marks (s : State) (q : Nat) (l : List (List Byte)) : (setFifo s q l).marks = s.marks := rfl
@[simp] theorem setFifo_dirty (s : State) (q : Nat) (l : List (List Byte)) : (setFifo s q l).dirty = s.dirty := rfl
@[simp] theorem setFifo_bound (s : State) (q : Nat) (l : List (List Byte)) : (setFifo s q l).bound = s.bound := rfl
@[simp] theorem setFifo_leaving (s : State) (q : Nat) (l : List (List Byte)) : (setFifo s q l).leaving = s.leaving := rfl
@[simp] theorem setFifo_committed (s : State) (q : Nat) (l : List (List Byte)) : (setFifo s q l).committed = s.committed := rfl
@[simp] theorem setFifo_cores (s : State) (q : Nat) (l : List (List Byte)) : (setFifo s q l).cores = s.cores := rfl
@[simp] theorem setFifo_engHold (s : State) (q : Nat) (l : List (List Byte)) : (setFifo s q l).engHold = s.engHold := rfl
@[simp] theorem setFifo_resets (s : State) (q : Nat) (l : List (List Byte)) : (setFifo s q l).resets = s.resets := rfl
@[simp] theorem setFifo_signals (s : State) (q : Nat) (l : List (List Byte)) : (setFifo s q l).signals = s.signals := rfl
@[simp] theorem setFifo_blocks (s : State) (q : Nat) (l : List (List Byte)) : (setFifo s q l).blocks = s.blocks := rfl
@[simp] theorem setFifo_heldSamp (s : State) (q : Nat) (l : List (List Byte)) : (setFifo s q l).heldSamp = s.heldSamp := rfl
@[simp] theorem setFifo_heldRel (s : State) (q : Nat) (l : List (List Byte)) : (setFifo s q l).heldRel = s.heldRel := rfl
@[simp] theorem setFifo_samps (s : State) (q : Nat) (l : List (List Byte)) : (setFifo s q l).samps = s.samps := rfl
@[simp] theorem setFifo_sampStep (s : State) (q : Nat) (l : List (List Byte)) : (setFifo s q l).sampStep = s.sampStep := rfl
@[simp] theorem setFifo_sorts (s : State) (q : Nat) (l : List (List Byte)) : (setFifo s q l).sorts = s.sorts := rfl
@[simp] theorem setFifo_gathers (s : State) (q : Nat) (l : List (List Byte)) : (setFifo s q l).gathers = s.gathers := rfl
@[simp] theorem setFifo_scatters (s : State) (q : Nat) (l : List (List Byte)) : (setFifo s q l).scatters = s.scatters := rfl
@[simp] theorem setFifo_runCount (s : State) (q : Nat) (l : List (List Byte)) : (setFifo s q l).runCount = s.runCount := rfl
@[simp] theorem setFifo_homes (s : State) (q : Nat) (l : List (List Byte)) : (setFifo s q l).homes = s.homes := rfl
@[simp] theorem setFifo_heldRows (s : State) (q : Nat) (l : List (List Byte)) : (setFifo s q l).heldRows = s.heldRows := rfl
@[simp] theorem setFifo_heldWrites (s : State) (q : Nat) (l : List (List Byte)) : (setFifo s q l).heldWrites = s.heldWrites := rfl
@[simp] theorem setFifo_applies (s : State) (q : Nat) (l : List (List Byte)) : (setFifo s q l).applies = s.applies := rfl
@[simp] theorem setFifo_lostRows (s : State) (q : Nat) (l : List (List Byte)) : (setFifo s q l).lostRows = s.lostRows := rfl
@[simp] theorem setFifo_closes (s : State) (q : Nat) (l : List (List Byte)) : (setFifo s q l).closes = s.closes := rfl
@[simp] theorem setFifo_markers (s : State) (q : Nat) (l : List (List Byte)) : (setFifo s q l).markers = s.markers := rfl
@[simp] theorem setFifo_mig (s : State) (q : Nat) (l : List (List Byte)) : (setFifo s q l).mig = s.mig := rfl
@[simp] theorem setFifo_pairs (s : State) (q : Nat) (l : List (List Byte)) : (setFifo s q l).pairs = s.pairs := rfl
@[simp] theorem setFifo_refills (s : State) (q : Nat) (l : List (List Byte)) : (setFifo s q l).refills = s.refills := rfl
@[simp] theorem setFifo_soleCopies (s : State) (q : Nat) (l : List (List Byte)) : (setFifo s q l).soleCopies = s.soleCopies := rfl
@[simp] theorem setFifo_zests (s : State) (q : Nat) (l : List (List Byte)) : (setFifo s q l).zests = s.zests := rfl
@[simp] theorem setFifo_readSteps (s : State) (q : Nat) (l : List (List Byte)) : (setFifo s q l).readSteps = s.readSteps := rfl
@[simp] theorem setFifo_params (s : State) (q : Nat) (l : List (List Byte)) : (setFifo s q l).params = s.params := rfl
@[simp] theorem setFifo_applyRuns (s : State) (q : Nat) (l : List (List Byte)) : (setFifo s q l).applyRuns = s.applyRuns := rfl
@[simp] theorem setFifo_prefs (s : State) (q : Nat) (l : List (List Byte)) : (setFifo s q l).prefs = s.prefs := rfl
@[simp] theorem setFifo_heldRecs (s : State) (q : Nat) (l : List (List Byte)) : (setFifo s q l).heldRecs = s.heldRecs := rfl
@[simp] theorem setFifo_holdoff (s : State) (q : Nat) (l : List (List Byte)) : (setFifo s q l).holdoff = s.holdoff := rfl
@[simp] theorem setFifo_msixTable (s : State) (q : Nat) (l : List (List Byte)) : (setFifo s q l).msixTable = s.msixTable := rfl
@[simp] theorem setFifo_msixPend (s : State) (q : Nat) (l : List (List Byte)) : (setFifo s q l).msixPend = s.msixPend := rfl
@[simp] theorem setFifo_evqLost (s : State) (q : Nat) (l : List (List Byte)) : (setFifo s q l).evqLost = s.evqLost := rfl
@[simp] theorem setFifo_evqReport (s : State) (q : Nat) (l : List (List Byte)) : (setFifo s q l).evqReport = s.evqReport := rfl
@[simp] theorem setFifo_stoneQ (s : State) (q : Nat) (l : List (List Byte)) : (setFifo s q l).stoneQ = s.stoneQ := rfl
@[simp] theorem setFifo_stoneLost (s : State) (q : Nat) (l : List (List Byte)) : (setFifo s q l).stoneLost = s.stoneLost := rfl
@[simp] theorem setFifo_links (s : State) (q : Nat) (l : List (List Byte)) : (setFifo s q l).links = s.links := rfl
@[simp] theorem setFifo_flows (s : State) (q : Nat) (l : List (List Byte)) : (setFifo s q l).flows = s.flows := rfl
@[simp] theorem setFifo_lostStreams (s : State) (q : Nat) (l : List (List Byte)) : (setFifo s q l).lostStreams = s.lostStreams := rfl
@[simp] theorem setFifo_txWait (s : State) (q : Nat) (l : List (List Byte)) : (setFifo s q l).txWait = s.txWait := rfl
@[simp] theorem setFifo_tagWait (s : State) (q : Nat) (l : List (List Byte)) : (setFifo s q l).tagWait = s.tagWait := rfl
@[simp] theorem setFifo_tags (s : State) (q : Nat) (l : List (List Byte)) : (setFifo s q l).tags = s.tags := rfl
@[simp] theorem setFifo_peerOp (s : State) (q : Nat) (l : List (List Byte)) : (setFifo s q l).peerOp = s.peerOp := rfl
@[simp] theorem setFifo_heldProbes (s : State) (q : Nat) (l : List (List Byte)) : (setFifo s q l).heldProbes = s.heldProbes := rfl
@[simp] theorem setFifo_scrubPos (s : State) (q : Nat) (l : List (List Byte)) : (setFifo s q l).scrubPos = s.scrubPos := rfl
@[simp] theorem setFifo_scrubDone (s : State) (q : Nat) (l : List (List Byte)) : (setFifo s q l).scrubDone = s.scrubDone := rfl
@[simp] theorem setFifo_hdm (s : State) (q : Nat) (l : List (List Byte)) : (setFifo s q l).hdm = s.hdm := rfl
@[simp] theorem setFifo_hdmError (s : State) (q : Nat) (l : List (List Byte)) : (setFifo s q l).hdmError = s.hdmError := rfl
@[simp] theorem setFifo_cfg (s : State) (q : Nat) (l : List (List Byte)) : (setFifo s q l).cfg = s.cfg := rfl
@[simp] theorem setFifo_comp (s : State) (q : Nat) (l : List (List Byte)) : (setFifo s q l).comp = s.comp := rfl
@[simp] theorem setFifo_redDesc (s : State) (q : Nat) (l : List (List Byte)) : (setFifo s q l).redDesc = s.redDesc := rfl
@[simp] theorem setFifo_redPosts (s : State) (q : Nat) (l : List (List Byte)) : (setFifo s q l).redPosts = s.redPosts := rfl
@[simp] theorem setFifo_redSegs (s : State) (q : Nat) (l : List (List Byte)) : (setFifo s q l).redSegs = s.redSegs := rfl
@[simp] theorem setFifo_redSteps (s : State) (q : Nat) (l : List (List Byte)) : (setFifo s q l).redSteps = s.redSteps := rfl
@[simp] theorem setFifo_redChunks (s : State) (q : Nat) (l : List (List Byte)) : (setFifo s q l).redChunks = s.redChunks := rfl
@[simp] theorem setFifo_redNacks (s : State) (q : Nat) (l : List (List Byte)) : (setFifo s q l).redNacks = s.redNacks := rfl
@[simp] theorem setFifo_suspFull (s : State) (q : Nat) (l : List (List Byte)) : (setFifo s q l).suspFull = s.suspFull := rfl
@[simp] theorem setFifo_suspLast (s : State) (q : Nat) (l : List (List Byte)) : (setFifo s q l).suspLast = s.suspLast := rfl
@[simp] theorem setFifo_suspSent (s : State) (q : Nat) (l : List (List Byte)) : (setFifo s q l).suspSent = s.suspSent := rfl
@[simp] theorem setFifo_pwrGood (s : State) (q : Nat) (l : List (List Byte)) : (setFifo s q l).pwrGood = s.pwrGood := rfl
@[simp] theorem setFifo_perstN (s : State) (q : Nat) (l : List (List Byte)) : (setFifo s q l).perstN = s.perstN := rfl
@[simp] theorem setFifo_faultN (s : State) (q : Nat) (l : List (List Byte)) : (setFifo s q l).faultN = s.faultN := rfl
@[simp] theorem setFifo_trip (s : State) (q : Nat) (l : List (List Byte)) : (setFifo s q l).trip = s.trip := rfl
@[simp] theorem setFifo_tripLatch (s : State) (q : Nat) (l : List (List Byte)) : (setFifo s q l).tripLatch = s.tripLatch := rfl
@[simp] theorem setFifo_railsUp (s : State) (q : Nat) (l : List (List Byte)) : (setFifo s q l).railsUp = s.railsUp := rfl
@[simp] theorem setFifo_feedStrap (s : State) (q : Nat) (l : List (List Byte)) : (setFifo s q l).feedStrap = s.feedStrap := rfl
@[simp] theorem setFifo_strap (s : State) (q : Nat) (l : List (List Byte)) : (setFifo s q l).strap = s.strap := rfl
@[simp] theorem setFifo_fuses (s : State) (q : Nat) (l : List (List Byte)) : (setFifo s q l).fuses = s.fuses := rfl
@[simp] theorem setFifo_flash (s : State) (q : Nat) (l : List (List Byte)) : (setFifo s q l).flash = s.flash := rfl
@[simp] theorem setFifo_stone (s : State) (q : Nat) (l : List (List Byte)) : (setFifo s q l).stone = s.stone := rfl
@[simp] theorem setFifo_bootCount (s : State) (q : Nat) (l : List (List Byte)) : (setFifo s q l).bootCount = s.bootCount := rfl
@[simp] theorem setFifo_powered (s : State) (q : Nat) (l : List (List Byte)) : (setFifo s q l).powered = s.powered := rfl
@[simp] theorem setFifo_setDue (s : State) (q : Nat) (l : List (List Byte)) : (setFifo s q l).setDue = s.setDue := rfl
@[simp] theorem setFifo_setRecs (s : State) (q : Nat) (l : List (List Byte)) : (setFifo s q l).setRecs = s.setRecs := rfl
@[simp] theorem setFifo_setAge (s : State) (q : Nat) (l : List (List Byte)) : (setFifo s q l).setAge = s.setAge := rfl
@[simp] theorem setFifo_boot (s : State) (q : Nat) (l : List (List Byte)) : (setFifo s q l).boot = s.boot := rfl
@[simp] theorem setFifo_devReset (s : State) (q : Nat) (l : List (List Byte)) : (setFifo s q l).devReset = s.devReset := rfl
@[simp] theorem setFifo_resetRecs (s : State) (q : Nat) (l : List (List Byte)) : (setFifo s q l).resetRecs = s.resetRecs := rfl
@[simp] theorem setFifo_coreMap (s : State) (q : Nat) (l : List (List Byte)) : (setFifo s q l).coreMap = s.coreMap := rfl
@[simp] theorem setFifo_fwRounds (s : State) (q : Nat) (l : List (List Byte)) : (setFifo s q l).fwRounds = s.fwRounds := rfl
@[simp] theorem setFifo_kats (s : State) (q : Nat) (l : List (List Byte)) : (setFifo s q l).kats = s.kats := rfl
@[simp] theorem setFifo_meas (s : State) (q : Nat) (l : List (List Byte)) : (setFifo s q l).meas = s.meas := rfl
@[simp] theorem setFifo_measLog (s : State) (q : Nat) (l : List (List Byte)) : (setFifo s q l).measLog = s.measLog := rfl
@[simp] theorem setFifo_measDrops (s : State) (q : Nat) (l : List (List Byte)) : (setFifo s q l).measDrops = s.measDrops := rfl
@[simp] theorem setFifo_certChain (s : State) (q : Nat) (l : List (List Byte)) : (setFifo s q l).certChain = s.certChain := rfl
@[simp] theorem setFifo_load (s : State) (q : Nat) (l : List (List Byte)) : (setFifo s q l).load = s.load := rfl
@[simp] theorem setFifo_latches (s : State) (q : Nat) (l : List (List Byte)) : (setFifo s q l).latches = s.latches := rfl
@[simp] theorem setFifo_stoneBuf (s : State) (q : Nat) (l : List (List Byte)) : (setFifo s q l).stoneBuf = s.stoneBuf := rfl
@[simp] theorem setFifo_mbox (s : State) (q : Nat) (l : List (List Byte)) : (setFifo s q l).mbox = s.mbox := rfl
@[simp] theorem setFifo_sessions (s : State) (q : Nat) (l : List (List Byte)) : (setFifo s q l).sessions = s.sessions := rfl
@[simp] theorem setFifo_rejectNs (s : State) (q : Nat) (l : List (List Byte)) : (setFifo s q l).rejectNs = s.rejectNs := rfl
@[simp] theorem setFifo_spdm (s : State) (q : Nat) (l : List (List Byte)) : (setFifo s q l).spdm = s.spdm := rfl
@[simp] theorem setFifo_power (s : State) (q : Nat) (l : List (List Byte)) : (setFifo s q l).power = s.power := rfl
@[simp] theorem setFifo_side (s : State) (q : Nat) (l : List (List Byte)) : (setFifo s q l).side = s.side := rfl
@[simp] theorem setFifo_damson (s : State) (q : Nat) (l : List (List Byte)) : (setFifo s q l).damson = s.damson := rfl
@[simp] theorem rd_setFifo (s : State) (q : Nat) (l : List (List Byte)) (rr : Reg) (ri : Nat) : rd (setFifo s q l) rr ri = rd s rr ri := rfl

/-! ### setFlow changes the flows only -/

@[simp] theorem setFlow_pending (s : State) (c : Nat) (f : Flow) : (setFlow s c f).pending = s.pending := rfl
@[simp] theorem setFlow_out (s : State) (c : Nat) (f : Flow) : (setFlow s c f).out = s.out := rfl
@[simp] theorem setFlow_localNs (s : State) (c : Nat) (f : Flow) : (setFlow s c f).localNs = s.localNs := rfl
@[simp] theorem setFlow_freeCount (s : State) (c : Nat) (f : Flow) : (setFlow s c f).freeCount = s.freeCount := rfl
@[simp] theorem setFlow_variant (s : State) (c : Nat) (f : Flow) : (setFlow s c f).variant = s.variant := rfl
@[simp] theorem setFlow_stepping (s : State) (c : Nat) (f : Flow) : (setFlow s c f).stepping = s.stepping := rfl
@[simp] theorem setFlow_serial (s : State) (c : Nat) (f : Flow) : (setFlow s c f).serial = s.serial := rfl
@[simp] theorem setFlow_regs (s : State) (c : Nat) (f : Flow) : (setFlow s c f).regs = s.regs := rfl
@[simp] theorem setFlow_mem (s : State) (c : Nat) (f : Flow) : (setFlow s c f).mem = s.mem := rfl
@[simp] theorem setFlow_junk (s : State) (c : Nat) (f : Flow) : (setFlow s c f).junk = s.junk := rfl
@[simp] theorem setFlow_marks (s : State) (c : Nat) (f : Flow) : (setFlow s c f).marks = s.marks := rfl
@[simp] theorem setFlow_dirty (s : State) (c : Nat) (f : Flow) : (setFlow s c f).dirty = s.dirty := rfl
@[simp] theorem setFlow_bound (s : State) (c : Nat) (f : Flow) : (setFlow s c f).bound = s.bound := rfl
@[simp] theorem setFlow_leaving (s : State) (c : Nat) (f : Flow) : (setFlow s c f).leaving = s.leaving := rfl
@[simp] theorem setFlow_committed (s : State) (c : Nat) (f : Flow) : (setFlow s c f).committed = s.committed := rfl
@[simp] theorem setFlow_cores (s : State) (c : Nat) (f : Flow) : (setFlow s c f).cores = s.cores := rfl
@[simp] theorem setFlow_engHold (s : State) (c : Nat) (f : Flow) : (setFlow s c f).engHold = s.engHold := rfl
@[simp] theorem setFlow_resets (s : State) (c : Nat) (f : Flow) : (setFlow s c f).resets = s.resets := rfl
@[simp] theorem setFlow_signals (s : State) (c : Nat) (f : Flow) : (setFlow s c f).signals = s.signals := rfl
@[simp] theorem setFlow_blocks (s : State) (c : Nat) (f : Flow) : (setFlow s c f).blocks = s.blocks := rfl
@[simp] theorem setFlow_qfifo (s : State) (c : Nat) (f : Flow) : (setFlow s c f).qfifo = s.qfifo := rfl
@[simp] theorem setFlow_heldSamp (s : State) (c : Nat) (f : Flow) : (setFlow s c f).heldSamp = s.heldSamp := rfl
@[simp] theorem setFlow_heldRel (s : State) (c : Nat) (f : Flow) : (setFlow s c f).heldRel = s.heldRel := rfl
@[simp] theorem setFlow_samps (s : State) (c : Nat) (f : Flow) : (setFlow s c f).samps = s.samps := rfl
@[simp] theorem setFlow_sampStep (s : State) (c : Nat) (f : Flow) : (setFlow s c f).sampStep = s.sampStep := rfl
@[simp] theorem setFlow_sorts (s : State) (c : Nat) (f : Flow) : (setFlow s c f).sorts = s.sorts := rfl
@[simp] theorem setFlow_gathers (s : State) (c : Nat) (f : Flow) : (setFlow s c f).gathers = s.gathers := rfl
@[simp] theorem setFlow_scatters (s : State) (c : Nat) (f : Flow) : (setFlow s c f).scatters = s.scatters := rfl
@[simp] theorem setFlow_runCount (s : State) (c : Nat) (f : Flow) : (setFlow s c f).runCount = s.runCount := rfl
@[simp] theorem setFlow_homes (s : State) (c : Nat) (f : Flow) : (setFlow s c f).homes = s.homes := rfl
@[simp] theorem setFlow_heldRows (s : State) (c : Nat) (f : Flow) : (setFlow s c f).heldRows = s.heldRows := rfl
@[simp] theorem setFlow_heldWrites (s : State) (c : Nat) (f : Flow) : (setFlow s c f).heldWrites = s.heldWrites := rfl
@[simp] theorem setFlow_applies (s : State) (c : Nat) (f : Flow) : (setFlow s c f).applies = s.applies := rfl
@[simp] theorem setFlow_lostRows (s : State) (c : Nat) (f : Flow) : (setFlow s c f).lostRows = s.lostRows := rfl
@[simp] theorem setFlow_closes (s : State) (c : Nat) (f : Flow) : (setFlow s c f).closes = s.closes := rfl
@[simp] theorem setFlow_markers (s : State) (c : Nat) (f : Flow) : (setFlow s c f).markers = s.markers := rfl
@[simp] theorem setFlow_mig (s : State) (c : Nat) (f : Flow) : (setFlow s c f).mig = s.mig := rfl
@[simp] theorem setFlow_pairs (s : State) (c : Nat) (f : Flow) : (setFlow s c f).pairs = s.pairs := rfl
@[simp] theorem setFlow_refills (s : State) (c : Nat) (f : Flow) : (setFlow s c f).refills = s.refills := rfl
@[simp] theorem setFlow_soleCopies (s : State) (c : Nat) (f : Flow) : (setFlow s c f).soleCopies = s.soleCopies := rfl
@[simp] theorem setFlow_zests (s : State) (c : Nat) (f : Flow) : (setFlow s c f).zests = s.zests := rfl
@[simp] theorem setFlow_readSteps (s : State) (c : Nat) (f : Flow) : (setFlow s c f).readSteps = s.readSteps := rfl
@[simp] theorem setFlow_params (s : State) (c : Nat) (f : Flow) : (setFlow s c f).params = s.params := rfl
@[simp] theorem setFlow_applyRuns (s : State) (c : Nat) (f : Flow) : (setFlow s c f).applyRuns = s.applyRuns := rfl
@[simp] theorem setFlow_prefs (s : State) (c : Nat) (f : Flow) : (setFlow s c f).prefs = s.prefs := rfl
@[simp] theorem setFlow_heldRecs (s : State) (c : Nat) (f : Flow) : (setFlow s c f).heldRecs = s.heldRecs := rfl
@[simp] theorem setFlow_holdoff (s : State) (c : Nat) (f : Flow) : (setFlow s c f).holdoff = s.holdoff := rfl
@[simp] theorem setFlow_msixTable (s : State) (c : Nat) (f : Flow) : (setFlow s c f).msixTable = s.msixTable := rfl
@[simp] theorem setFlow_msixPend (s : State) (c : Nat) (f : Flow) : (setFlow s c f).msixPend = s.msixPend := rfl
@[simp] theorem setFlow_evqLost (s : State) (c : Nat) (f : Flow) : (setFlow s c f).evqLost = s.evqLost := rfl
@[simp] theorem setFlow_evqReport (s : State) (c : Nat) (f : Flow) : (setFlow s c f).evqReport = s.evqReport := rfl
@[simp] theorem setFlow_stoneQ (s : State) (c : Nat) (f : Flow) : (setFlow s c f).stoneQ = s.stoneQ := rfl
@[simp] theorem setFlow_stoneLost (s : State) (c : Nat) (f : Flow) : (setFlow s c f).stoneLost = s.stoneLost := rfl
@[simp] theorem setFlow_links (s : State) (c : Nat) (f : Flow) : (setFlow s c f).links = s.links := rfl
@[simp] theorem setFlow_lostStreams (s : State) (c : Nat) (f : Flow) : (setFlow s c f).lostStreams = s.lostStreams := rfl
@[simp] theorem setFlow_txWait (s : State) (c : Nat) (f : Flow) : (setFlow s c f).txWait = s.txWait := rfl
@[simp] theorem setFlow_tagWait (s : State) (c : Nat) (f : Flow) : (setFlow s c f).tagWait = s.tagWait := rfl
@[simp] theorem setFlow_tags (s : State) (c : Nat) (f : Flow) : (setFlow s c f).tags = s.tags := rfl
@[simp] theorem setFlow_peerOp (s : State) (c : Nat) (f : Flow) : (setFlow s c f).peerOp = s.peerOp := rfl
@[simp] theorem setFlow_heldProbes (s : State) (c : Nat) (f : Flow) : (setFlow s c f).heldProbes = s.heldProbes := rfl
@[simp] theorem setFlow_scrubPos (s : State) (c : Nat) (f : Flow) : (setFlow s c f).scrubPos = s.scrubPos := rfl
@[simp] theorem setFlow_scrubDone (s : State) (c : Nat) (f : Flow) : (setFlow s c f).scrubDone = s.scrubDone := rfl
@[simp] theorem setFlow_hdm (s : State) (c : Nat) (f : Flow) : (setFlow s c f).hdm = s.hdm := rfl
@[simp] theorem setFlow_hdmError (s : State) (c : Nat) (f : Flow) : (setFlow s c f).hdmError = s.hdmError := rfl
@[simp] theorem setFlow_cfg (s : State) (c : Nat) (f : Flow) : (setFlow s c f).cfg = s.cfg := rfl
@[simp] theorem setFlow_comp (s : State) (c : Nat) (f : Flow) : (setFlow s c f).comp = s.comp := rfl
@[simp] theorem setFlow_redDesc (s : State) (c : Nat) (f : Flow) : (setFlow s c f).redDesc = s.redDesc := rfl
@[simp] theorem setFlow_redPosts (s : State) (c : Nat) (f : Flow) : (setFlow s c f).redPosts = s.redPosts := rfl
@[simp] theorem setFlow_redSegs (s : State) (c : Nat) (f : Flow) : (setFlow s c f).redSegs = s.redSegs := rfl
@[simp] theorem setFlow_redSteps (s : State) (c : Nat) (f : Flow) : (setFlow s c f).redSteps = s.redSteps := rfl
@[simp] theorem setFlow_redChunks (s : State) (c : Nat) (f : Flow) : (setFlow s c f).redChunks = s.redChunks := rfl
@[simp] theorem setFlow_redNacks (s : State) (c : Nat) (f : Flow) : (setFlow s c f).redNacks = s.redNacks := rfl
@[simp] theorem setFlow_suspFull (s : State) (c : Nat) (f : Flow) : (setFlow s c f).suspFull = s.suspFull := rfl
@[simp] theorem setFlow_suspLast (s : State) (c : Nat) (f : Flow) : (setFlow s c f).suspLast = s.suspLast := rfl
@[simp] theorem setFlow_suspSent (s : State) (c : Nat) (f : Flow) : (setFlow s c f).suspSent = s.suspSent := rfl
@[simp] theorem setFlow_pwrGood (s : State) (c : Nat) (f : Flow) : (setFlow s c f).pwrGood = s.pwrGood := rfl
@[simp] theorem setFlow_perstN (s : State) (c : Nat) (f : Flow) : (setFlow s c f).perstN = s.perstN := rfl
@[simp] theorem setFlow_faultN (s : State) (c : Nat) (f : Flow) : (setFlow s c f).faultN = s.faultN := rfl
@[simp] theorem setFlow_trip (s : State) (c : Nat) (f : Flow) : (setFlow s c f).trip = s.trip := rfl
@[simp] theorem setFlow_tripLatch (s : State) (c : Nat) (f : Flow) : (setFlow s c f).tripLatch = s.tripLatch := rfl
@[simp] theorem setFlow_railsUp (s : State) (c : Nat) (f : Flow) : (setFlow s c f).railsUp = s.railsUp := rfl
@[simp] theorem setFlow_feedStrap (s : State) (c : Nat) (f : Flow) : (setFlow s c f).feedStrap = s.feedStrap := rfl
@[simp] theorem setFlow_strap (s : State) (c : Nat) (f : Flow) : (setFlow s c f).strap = s.strap := rfl
@[simp] theorem setFlow_fuses (s : State) (c : Nat) (f : Flow) : (setFlow s c f).fuses = s.fuses := rfl
@[simp] theorem setFlow_flash (s : State) (c : Nat) (f : Flow) : (setFlow s c f).flash = s.flash := rfl
@[simp] theorem setFlow_stone (s : State) (c : Nat) (f : Flow) : (setFlow s c f).stone = s.stone := rfl
@[simp] theorem setFlow_bootCount (s : State) (c : Nat) (f : Flow) : (setFlow s c f).bootCount = s.bootCount := rfl
@[simp] theorem setFlow_powered (s : State) (c : Nat) (f : Flow) : (setFlow s c f).powered = s.powered := rfl
@[simp] theorem setFlow_setDue (s : State) (c : Nat) (f : Flow) : (setFlow s c f).setDue = s.setDue := rfl
@[simp] theorem setFlow_setRecs (s : State) (c : Nat) (f : Flow) : (setFlow s c f).setRecs = s.setRecs := rfl
@[simp] theorem setFlow_setAge (s : State) (c : Nat) (f : Flow) : (setFlow s c f).setAge = s.setAge := rfl
@[simp] theorem setFlow_boot (s : State) (c : Nat) (f : Flow) : (setFlow s c f).boot = s.boot := rfl
@[simp] theorem setFlow_devReset (s : State) (c : Nat) (f : Flow) : (setFlow s c f).devReset = s.devReset := rfl
@[simp] theorem setFlow_resetRecs (s : State) (c : Nat) (f : Flow) : (setFlow s c f).resetRecs = s.resetRecs := rfl
@[simp] theorem setFlow_coreMap (s : State) (c : Nat) (f : Flow) : (setFlow s c f).coreMap = s.coreMap := rfl
@[simp] theorem setFlow_fwRounds (s : State) (c : Nat) (f : Flow) : (setFlow s c f).fwRounds = s.fwRounds := rfl
@[simp] theorem setFlow_kats (s : State) (c : Nat) (f : Flow) : (setFlow s c f).kats = s.kats := rfl
@[simp] theorem setFlow_meas (s : State) (c : Nat) (f : Flow) : (setFlow s c f).meas = s.meas := rfl
@[simp] theorem setFlow_measLog (s : State) (c : Nat) (f : Flow) : (setFlow s c f).measLog = s.measLog := rfl
@[simp] theorem setFlow_measDrops (s : State) (c : Nat) (f : Flow) : (setFlow s c f).measDrops = s.measDrops := rfl
@[simp] theorem setFlow_certChain (s : State) (c : Nat) (f : Flow) : (setFlow s c f).certChain = s.certChain := rfl
@[simp] theorem setFlow_load (s : State) (c : Nat) (f : Flow) : (setFlow s c f).load = s.load := rfl
@[simp] theorem setFlow_latches (s : State) (c : Nat) (f : Flow) : (setFlow s c f).latches = s.latches := rfl
@[simp] theorem setFlow_stoneBuf (s : State) (c : Nat) (f : Flow) : (setFlow s c f).stoneBuf = s.stoneBuf := rfl
@[simp] theorem setFlow_mbox (s : State) (c : Nat) (f : Flow) : (setFlow s c f).mbox = s.mbox := rfl
@[simp] theorem setFlow_sessions (s : State) (c : Nat) (f : Flow) : (setFlow s c f).sessions = s.sessions := rfl
@[simp] theorem setFlow_rejectNs (s : State) (c : Nat) (f : Flow) : (setFlow s c f).rejectNs = s.rejectNs := rfl
@[simp] theorem setFlow_spdm (s : State) (c : Nat) (f : Flow) : (setFlow s c f).spdm = s.spdm := rfl
@[simp] theorem setFlow_power (s : State) (c : Nat) (f : Flow) : (setFlow s c f).power = s.power := rfl
@[simp] theorem setFlow_side (s : State) (c : Nat) (f : Flow) : (setFlow s c f).side = s.side := rfl
@[simp] theorem setFlow_damson (s : State) (c : Nat) (f : Flow) : (setFlow s c f).damson = s.damson := rfl
@[simp] theorem rd_setFlow (s : State) (c : Nat) (f : Flow) (rr : Reg) (ri : Nat) : rd (setFlow s c f) rr ri = rd s rr ri := rfl

/-! ### setLink changes the link layer only -/

@[simp] theorem setLink_pending (s : State) (p : Nat) (x : LinkSt) : (setLink s p x).pending = s.pending := rfl
@[simp] theorem setLink_out (s : State) (p : Nat) (x : LinkSt) : (setLink s p x).out = s.out := rfl
@[simp] theorem setLink_localNs (s : State) (p : Nat) (x : LinkSt) : (setLink s p x).localNs = s.localNs := rfl
@[simp] theorem setLink_freeCount (s : State) (p : Nat) (x : LinkSt) : (setLink s p x).freeCount = s.freeCount := rfl
@[simp] theorem setLink_variant (s : State) (p : Nat) (x : LinkSt) : (setLink s p x).variant = s.variant := rfl
@[simp] theorem setLink_stepping (s : State) (p : Nat) (x : LinkSt) : (setLink s p x).stepping = s.stepping := rfl
@[simp] theorem setLink_serial (s : State) (p : Nat) (x : LinkSt) : (setLink s p x).serial = s.serial := rfl
@[simp] theorem setLink_regs (s : State) (p : Nat) (x : LinkSt) : (setLink s p x).regs = s.regs := rfl
@[simp] theorem setLink_mem (s : State) (p : Nat) (x : LinkSt) : (setLink s p x).mem = s.mem := rfl
@[simp] theorem setLink_junk (s : State) (p : Nat) (x : LinkSt) : (setLink s p x).junk = s.junk := rfl
@[simp] theorem setLink_marks (s : State) (p : Nat) (x : LinkSt) : (setLink s p x).marks = s.marks := rfl
@[simp] theorem setLink_dirty (s : State) (p : Nat) (x : LinkSt) : (setLink s p x).dirty = s.dirty := rfl
@[simp] theorem setLink_bound (s : State) (p : Nat) (x : LinkSt) : (setLink s p x).bound = s.bound := rfl
@[simp] theorem setLink_leaving (s : State) (p : Nat) (x : LinkSt) : (setLink s p x).leaving = s.leaving := rfl
@[simp] theorem setLink_committed (s : State) (p : Nat) (x : LinkSt) : (setLink s p x).committed = s.committed := rfl
@[simp] theorem setLink_cores (s : State) (p : Nat) (x : LinkSt) : (setLink s p x).cores = s.cores := rfl
@[simp] theorem setLink_engHold (s : State) (p : Nat) (x : LinkSt) : (setLink s p x).engHold = s.engHold := rfl
@[simp] theorem setLink_resets (s : State) (p : Nat) (x : LinkSt) : (setLink s p x).resets = s.resets := rfl
@[simp] theorem setLink_signals (s : State) (p : Nat) (x : LinkSt) : (setLink s p x).signals = s.signals := rfl
@[simp] theorem setLink_blocks (s : State) (p : Nat) (x : LinkSt) : (setLink s p x).blocks = s.blocks := rfl
@[simp] theorem setLink_qfifo (s : State) (p : Nat) (x : LinkSt) : (setLink s p x).qfifo = s.qfifo := rfl
@[simp] theorem setLink_heldSamp (s : State) (p : Nat) (x : LinkSt) : (setLink s p x).heldSamp = s.heldSamp := rfl
@[simp] theorem setLink_heldRel (s : State) (p : Nat) (x : LinkSt) : (setLink s p x).heldRel = s.heldRel := rfl
@[simp] theorem setLink_samps (s : State) (p : Nat) (x : LinkSt) : (setLink s p x).samps = s.samps := rfl
@[simp] theorem setLink_sampStep (s : State) (p : Nat) (x : LinkSt) : (setLink s p x).sampStep = s.sampStep := rfl
@[simp] theorem setLink_sorts (s : State) (p : Nat) (x : LinkSt) : (setLink s p x).sorts = s.sorts := rfl
@[simp] theorem setLink_gathers (s : State) (p : Nat) (x : LinkSt) : (setLink s p x).gathers = s.gathers := rfl
@[simp] theorem setLink_scatters (s : State) (p : Nat) (x : LinkSt) : (setLink s p x).scatters = s.scatters := rfl
@[simp] theorem setLink_runCount (s : State) (p : Nat) (x : LinkSt) : (setLink s p x).runCount = s.runCount := rfl
@[simp] theorem setLink_homes (s : State) (p : Nat) (x : LinkSt) : (setLink s p x).homes = s.homes := rfl
@[simp] theorem setLink_heldRows (s : State) (p : Nat) (x : LinkSt) : (setLink s p x).heldRows = s.heldRows := rfl
@[simp] theorem setLink_heldWrites (s : State) (p : Nat) (x : LinkSt) : (setLink s p x).heldWrites = s.heldWrites := rfl
@[simp] theorem setLink_applies (s : State) (p : Nat) (x : LinkSt) : (setLink s p x).applies = s.applies := rfl
@[simp] theorem setLink_lostRows (s : State) (p : Nat) (x : LinkSt) : (setLink s p x).lostRows = s.lostRows := rfl
@[simp] theorem setLink_closes (s : State) (p : Nat) (x : LinkSt) : (setLink s p x).closes = s.closes := rfl
@[simp] theorem setLink_markers (s : State) (p : Nat) (x : LinkSt) : (setLink s p x).markers = s.markers := rfl
@[simp] theorem setLink_mig (s : State) (p : Nat) (x : LinkSt) : (setLink s p x).mig = s.mig := rfl
@[simp] theorem setLink_pairs (s : State) (p : Nat) (x : LinkSt) : (setLink s p x).pairs = s.pairs := rfl
@[simp] theorem setLink_refills (s : State) (p : Nat) (x : LinkSt) : (setLink s p x).refills = s.refills := rfl
@[simp] theorem setLink_soleCopies (s : State) (p : Nat) (x : LinkSt) : (setLink s p x).soleCopies = s.soleCopies := rfl
@[simp] theorem setLink_zests (s : State) (p : Nat) (x : LinkSt) : (setLink s p x).zests = s.zests := rfl
@[simp] theorem setLink_readSteps (s : State) (p : Nat) (x : LinkSt) : (setLink s p x).readSteps = s.readSteps := rfl
@[simp] theorem setLink_params (s : State) (p : Nat) (x : LinkSt) : (setLink s p x).params = s.params := rfl
@[simp] theorem setLink_applyRuns (s : State) (p : Nat) (x : LinkSt) : (setLink s p x).applyRuns = s.applyRuns := rfl
@[simp] theorem setLink_prefs (s : State) (p : Nat) (x : LinkSt) : (setLink s p x).prefs = s.prefs := rfl
@[simp] theorem setLink_heldRecs (s : State) (p : Nat) (x : LinkSt) : (setLink s p x).heldRecs = s.heldRecs := rfl
@[simp] theorem setLink_holdoff (s : State) (p : Nat) (x : LinkSt) : (setLink s p x).holdoff = s.holdoff := rfl
@[simp] theorem setLink_msixTable (s : State) (p : Nat) (x : LinkSt) : (setLink s p x).msixTable = s.msixTable := rfl
@[simp] theorem setLink_msixPend (s : State) (p : Nat) (x : LinkSt) : (setLink s p x).msixPend = s.msixPend := rfl
@[simp] theorem setLink_evqLost (s : State) (p : Nat) (x : LinkSt) : (setLink s p x).evqLost = s.evqLost := rfl
@[simp] theorem setLink_evqReport (s : State) (p : Nat) (x : LinkSt) : (setLink s p x).evqReport = s.evqReport := rfl
@[simp] theorem setLink_stoneQ (s : State) (p : Nat) (x : LinkSt) : (setLink s p x).stoneQ = s.stoneQ := rfl
@[simp] theorem setLink_stoneLost (s : State) (p : Nat) (x : LinkSt) : (setLink s p x).stoneLost = s.stoneLost := rfl
@[simp] theorem setLink_flows (s : State) (p : Nat) (x : LinkSt) : (setLink s p x).flows = s.flows := rfl
@[simp] theorem setLink_lostStreams (s : State) (p : Nat) (x : LinkSt) : (setLink s p x).lostStreams = s.lostStreams := rfl
@[simp] theorem setLink_txWait (s : State) (p : Nat) (x : LinkSt) : (setLink s p x).txWait = s.txWait := rfl
@[simp] theorem setLink_tagWait (s : State) (p : Nat) (x : LinkSt) : (setLink s p x).tagWait = s.tagWait := rfl
@[simp] theorem setLink_tags (s : State) (p : Nat) (x : LinkSt) : (setLink s p x).tags = s.tags := rfl
@[simp] theorem setLink_peerOp (s : State) (p : Nat) (x : LinkSt) : (setLink s p x).peerOp = s.peerOp := rfl
@[simp] theorem setLink_heldProbes (s : State) (p : Nat) (x : LinkSt) : (setLink s p x).heldProbes = s.heldProbes := rfl
@[simp] theorem setLink_scrubPos (s : State) (p : Nat) (x : LinkSt) : (setLink s p x).scrubPos = s.scrubPos := rfl
@[simp] theorem setLink_scrubDone (s : State) (p : Nat) (x : LinkSt) : (setLink s p x).scrubDone = s.scrubDone := rfl
@[simp] theorem setLink_hdm (s : State) (p : Nat) (x : LinkSt) : (setLink s p x).hdm = s.hdm := rfl
@[simp] theorem setLink_hdmError (s : State) (p : Nat) (x : LinkSt) : (setLink s p x).hdmError = s.hdmError := rfl
@[simp] theorem setLink_cfg (s : State) (p : Nat) (x : LinkSt) : (setLink s p x).cfg = s.cfg := rfl
@[simp] theorem setLink_comp (s : State) (p : Nat) (x : LinkSt) : (setLink s p x).comp = s.comp := rfl
@[simp] theorem setLink_redDesc (s : State) (p : Nat) (x : LinkSt) : (setLink s p x).redDesc = s.redDesc := rfl
@[simp] theorem setLink_redPosts (s : State) (p : Nat) (x : LinkSt) : (setLink s p x).redPosts = s.redPosts := rfl
@[simp] theorem setLink_redSegs (s : State) (p : Nat) (x : LinkSt) : (setLink s p x).redSegs = s.redSegs := rfl
@[simp] theorem setLink_redSteps (s : State) (p : Nat) (x : LinkSt) : (setLink s p x).redSteps = s.redSteps := rfl
@[simp] theorem setLink_redChunks (s : State) (p : Nat) (x : LinkSt) : (setLink s p x).redChunks = s.redChunks := rfl
@[simp] theorem setLink_redNacks (s : State) (p : Nat) (x : LinkSt) : (setLink s p x).redNacks = s.redNacks := rfl
@[simp] theorem setLink_suspFull (s : State) (p : Nat) (x : LinkSt) : (setLink s p x).suspFull = s.suspFull := rfl
@[simp] theorem setLink_suspLast (s : State) (p : Nat) (x : LinkSt) : (setLink s p x).suspLast = s.suspLast := rfl
@[simp] theorem setLink_suspSent (s : State) (p : Nat) (x : LinkSt) : (setLink s p x).suspSent = s.suspSent := rfl
@[simp] theorem setLink_pwrGood (s : State) (p : Nat) (x : LinkSt) : (setLink s p x).pwrGood = s.pwrGood := rfl
@[simp] theorem setLink_perstN (s : State) (p : Nat) (x : LinkSt) : (setLink s p x).perstN = s.perstN := rfl
@[simp] theorem setLink_faultN (s : State) (p : Nat) (x : LinkSt) : (setLink s p x).faultN = s.faultN := rfl
@[simp] theorem setLink_trip (s : State) (p : Nat) (x : LinkSt) : (setLink s p x).trip = s.trip := rfl
@[simp] theorem setLink_tripLatch (s : State) (p : Nat) (x : LinkSt) : (setLink s p x).tripLatch = s.tripLatch := rfl
@[simp] theorem setLink_railsUp (s : State) (p : Nat) (x : LinkSt) : (setLink s p x).railsUp = s.railsUp := rfl
@[simp] theorem setLink_feedStrap (s : State) (p : Nat) (x : LinkSt) : (setLink s p x).feedStrap = s.feedStrap := rfl
@[simp] theorem setLink_strap (s : State) (p : Nat) (x : LinkSt) : (setLink s p x).strap = s.strap := rfl
@[simp] theorem setLink_fuses (s : State) (p : Nat) (x : LinkSt) : (setLink s p x).fuses = s.fuses := rfl
@[simp] theorem setLink_flash (s : State) (p : Nat) (x : LinkSt) : (setLink s p x).flash = s.flash := rfl
@[simp] theorem setLink_stone (s : State) (p : Nat) (x : LinkSt) : (setLink s p x).stone = s.stone := rfl
@[simp] theorem setLink_bootCount (s : State) (p : Nat) (x : LinkSt) : (setLink s p x).bootCount = s.bootCount := rfl
@[simp] theorem setLink_powered (s : State) (p : Nat) (x : LinkSt) : (setLink s p x).powered = s.powered := rfl
@[simp] theorem setLink_setDue (s : State) (p : Nat) (x : LinkSt) : (setLink s p x).setDue = s.setDue := rfl
@[simp] theorem setLink_setRecs (s : State) (p : Nat) (x : LinkSt) : (setLink s p x).setRecs = s.setRecs := rfl
@[simp] theorem setLink_setAge (s : State) (p : Nat) (x : LinkSt) : (setLink s p x).setAge = s.setAge := rfl
@[simp] theorem setLink_boot (s : State) (p : Nat) (x : LinkSt) : (setLink s p x).boot = s.boot := rfl
@[simp] theorem setLink_devReset (s : State) (p : Nat) (x : LinkSt) : (setLink s p x).devReset = s.devReset := rfl
@[simp] theorem setLink_resetRecs (s : State) (p : Nat) (x : LinkSt) : (setLink s p x).resetRecs = s.resetRecs := rfl
@[simp] theorem setLink_coreMap (s : State) (p : Nat) (x : LinkSt) : (setLink s p x).coreMap = s.coreMap := rfl
@[simp] theorem setLink_fwRounds (s : State) (p : Nat) (x : LinkSt) : (setLink s p x).fwRounds = s.fwRounds := rfl
@[simp] theorem setLink_kats (s : State) (p : Nat) (x : LinkSt) : (setLink s p x).kats = s.kats := rfl
@[simp] theorem setLink_meas (s : State) (p : Nat) (x : LinkSt) : (setLink s p x).meas = s.meas := rfl
@[simp] theorem setLink_measLog (s : State) (p : Nat) (x : LinkSt) : (setLink s p x).measLog = s.measLog := rfl
@[simp] theorem setLink_measDrops (s : State) (p : Nat) (x : LinkSt) : (setLink s p x).measDrops = s.measDrops := rfl
@[simp] theorem setLink_certChain (s : State) (p : Nat) (x : LinkSt) : (setLink s p x).certChain = s.certChain := rfl
@[simp] theorem setLink_load (s : State) (p : Nat) (x : LinkSt) : (setLink s p x).load = s.load := rfl
@[simp] theorem setLink_latches (s : State) (p : Nat) (x : LinkSt) : (setLink s p x).latches = s.latches := rfl
@[simp] theorem setLink_stoneBuf (s : State) (p : Nat) (x : LinkSt) : (setLink s p x).stoneBuf = s.stoneBuf := rfl
@[simp] theorem setLink_mbox (s : State) (p : Nat) (x : LinkSt) : (setLink s p x).mbox = s.mbox := rfl
@[simp] theorem setLink_sessions (s : State) (p : Nat) (x : LinkSt) : (setLink s p x).sessions = s.sessions := rfl
@[simp] theorem setLink_rejectNs (s : State) (p : Nat) (x : LinkSt) : (setLink s p x).rejectNs = s.rejectNs := rfl
@[simp] theorem setLink_spdm (s : State) (p : Nat) (x : LinkSt) : (setLink s p x).spdm = s.spdm := rfl
@[simp] theorem setLink_power (s : State) (p : Nat) (x : LinkSt) : (setLink s p x).power = s.power := rfl
@[simp] theorem setLink_side (s : State) (p : Nat) (x : LinkSt) : (setLink s p x).side = s.side := rfl
@[simp] theorem setLink_damson (s : State) (p : Nat) (x : LinkSt) : (setLink s p x).damson = s.damson := rfl
@[simp] theorem rd_setLink (s : State) (p : Nat) (x : LinkSt) (rr : Reg) (ri : Nat) : rd (setLink s p x) rr ri = rd s rr ri := rfl

/-! ### setHome changes the tables held here only -/

@[simp] theorem setHome_pending (s : State) (i : Nat) (x : HomeSt) : (setHome s i x).pending = s.pending := rfl
@[simp] theorem setHome_out (s : State) (i : Nat) (x : HomeSt) : (setHome s i x).out = s.out := rfl
@[simp] theorem setHome_localNs (s : State) (i : Nat) (x : HomeSt) : (setHome s i x).localNs = s.localNs := rfl
@[simp] theorem setHome_freeCount (s : State) (i : Nat) (x : HomeSt) : (setHome s i x).freeCount = s.freeCount := rfl
@[simp] theorem setHome_variant (s : State) (i : Nat) (x : HomeSt) : (setHome s i x).variant = s.variant := rfl
@[simp] theorem setHome_stepping (s : State) (i : Nat) (x : HomeSt) : (setHome s i x).stepping = s.stepping := rfl
@[simp] theorem setHome_serial (s : State) (i : Nat) (x : HomeSt) : (setHome s i x).serial = s.serial := rfl
@[simp] theorem setHome_regs (s : State) (i : Nat) (x : HomeSt) : (setHome s i x).regs = s.regs := rfl
@[simp] theorem setHome_mem (s : State) (i : Nat) (x : HomeSt) : (setHome s i x).mem = s.mem := rfl
@[simp] theorem setHome_junk (s : State) (i : Nat) (x : HomeSt) : (setHome s i x).junk = s.junk := rfl
@[simp] theorem setHome_marks (s : State) (i : Nat) (x : HomeSt) : (setHome s i x).marks = s.marks := rfl
@[simp] theorem setHome_dirty (s : State) (i : Nat) (x : HomeSt) : (setHome s i x).dirty = s.dirty := rfl
@[simp] theorem setHome_bound (s : State) (i : Nat) (x : HomeSt) : (setHome s i x).bound = s.bound := rfl
@[simp] theorem setHome_leaving (s : State) (i : Nat) (x : HomeSt) : (setHome s i x).leaving = s.leaving := rfl
@[simp] theorem setHome_committed (s : State) (i : Nat) (x : HomeSt) : (setHome s i x).committed = s.committed := rfl
@[simp] theorem setHome_cores (s : State) (i : Nat) (x : HomeSt) : (setHome s i x).cores = s.cores := rfl
@[simp] theorem setHome_engHold (s : State) (i : Nat) (x : HomeSt) : (setHome s i x).engHold = s.engHold := rfl
@[simp] theorem setHome_resets (s : State) (i : Nat) (x : HomeSt) : (setHome s i x).resets = s.resets := rfl
@[simp] theorem setHome_signals (s : State) (i : Nat) (x : HomeSt) : (setHome s i x).signals = s.signals := rfl
@[simp] theorem setHome_blocks (s : State) (i : Nat) (x : HomeSt) : (setHome s i x).blocks = s.blocks := rfl
@[simp] theorem setHome_qfifo (s : State) (i : Nat) (x : HomeSt) : (setHome s i x).qfifo = s.qfifo := rfl
@[simp] theorem setHome_heldSamp (s : State) (i : Nat) (x : HomeSt) : (setHome s i x).heldSamp = s.heldSamp := rfl
@[simp] theorem setHome_heldRel (s : State) (i : Nat) (x : HomeSt) : (setHome s i x).heldRel = s.heldRel := rfl
@[simp] theorem setHome_samps (s : State) (i : Nat) (x : HomeSt) : (setHome s i x).samps = s.samps := rfl
@[simp] theorem setHome_sampStep (s : State) (i : Nat) (x : HomeSt) : (setHome s i x).sampStep = s.sampStep := rfl
@[simp] theorem setHome_sorts (s : State) (i : Nat) (x : HomeSt) : (setHome s i x).sorts = s.sorts := rfl
@[simp] theorem setHome_gathers (s : State) (i : Nat) (x : HomeSt) : (setHome s i x).gathers = s.gathers := rfl
@[simp] theorem setHome_scatters (s : State) (i : Nat) (x : HomeSt) : (setHome s i x).scatters = s.scatters := rfl
@[simp] theorem setHome_runCount (s : State) (i : Nat) (x : HomeSt) : (setHome s i x).runCount = s.runCount := rfl
@[simp] theorem setHome_heldRows (s : State) (i : Nat) (x : HomeSt) : (setHome s i x).heldRows = s.heldRows := rfl
@[simp] theorem setHome_heldWrites (s : State) (i : Nat) (x : HomeSt) : (setHome s i x).heldWrites = s.heldWrites := rfl
@[simp] theorem setHome_applies (s : State) (i : Nat) (x : HomeSt) : (setHome s i x).applies = s.applies := rfl
@[simp] theorem setHome_lostRows (s : State) (i : Nat) (x : HomeSt) : (setHome s i x).lostRows = s.lostRows := rfl
@[simp] theorem setHome_closes (s : State) (i : Nat) (x : HomeSt) : (setHome s i x).closes = s.closes := rfl
@[simp] theorem setHome_markers (s : State) (i : Nat) (x : HomeSt) : (setHome s i x).markers = s.markers := rfl
@[simp] theorem setHome_mig (s : State) (i : Nat) (x : HomeSt) : (setHome s i x).mig = s.mig := rfl
@[simp] theorem setHome_pairs (s : State) (i : Nat) (x : HomeSt) : (setHome s i x).pairs = s.pairs := rfl
@[simp] theorem setHome_refills (s : State) (i : Nat) (x : HomeSt) : (setHome s i x).refills = s.refills := rfl
@[simp] theorem setHome_soleCopies (s : State) (i : Nat) (x : HomeSt) : (setHome s i x).soleCopies = s.soleCopies := rfl
@[simp] theorem setHome_zests (s : State) (i : Nat) (x : HomeSt) : (setHome s i x).zests = s.zests := rfl
@[simp] theorem setHome_readSteps (s : State) (i : Nat) (x : HomeSt) : (setHome s i x).readSteps = s.readSteps := rfl
@[simp] theorem setHome_params (s : State) (i : Nat) (x : HomeSt) : (setHome s i x).params = s.params := rfl
@[simp] theorem setHome_applyRuns (s : State) (i : Nat) (x : HomeSt) : (setHome s i x).applyRuns = s.applyRuns := rfl
@[simp] theorem setHome_prefs (s : State) (i : Nat) (x : HomeSt) : (setHome s i x).prefs = s.prefs := rfl
@[simp] theorem setHome_heldRecs (s : State) (i : Nat) (x : HomeSt) : (setHome s i x).heldRecs = s.heldRecs := rfl
@[simp] theorem setHome_holdoff (s : State) (i : Nat) (x : HomeSt) : (setHome s i x).holdoff = s.holdoff := rfl
@[simp] theorem setHome_msixTable (s : State) (i : Nat) (x : HomeSt) : (setHome s i x).msixTable = s.msixTable := rfl
@[simp] theorem setHome_msixPend (s : State) (i : Nat) (x : HomeSt) : (setHome s i x).msixPend = s.msixPend := rfl
@[simp] theorem setHome_evqLost (s : State) (i : Nat) (x : HomeSt) : (setHome s i x).evqLost = s.evqLost := rfl
@[simp] theorem setHome_evqReport (s : State) (i : Nat) (x : HomeSt) : (setHome s i x).evqReport = s.evqReport := rfl
@[simp] theorem setHome_stoneQ (s : State) (i : Nat) (x : HomeSt) : (setHome s i x).stoneQ = s.stoneQ := rfl
@[simp] theorem setHome_stoneLost (s : State) (i : Nat) (x : HomeSt) : (setHome s i x).stoneLost = s.stoneLost := rfl
@[simp] theorem setHome_links (s : State) (i : Nat) (x : HomeSt) : (setHome s i x).links = s.links := rfl
@[simp] theorem setHome_flows (s : State) (i : Nat) (x : HomeSt) : (setHome s i x).flows = s.flows := rfl
@[simp] theorem setHome_lostStreams (s : State) (i : Nat) (x : HomeSt) : (setHome s i x).lostStreams = s.lostStreams := rfl
@[simp] theorem setHome_txWait (s : State) (i : Nat) (x : HomeSt) : (setHome s i x).txWait = s.txWait := rfl
@[simp] theorem setHome_tagWait (s : State) (i : Nat) (x : HomeSt) : (setHome s i x).tagWait = s.tagWait := rfl
@[simp] theorem setHome_tags (s : State) (i : Nat) (x : HomeSt) : (setHome s i x).tags = s.tags := rfl
@[simp] theorem setHome_peerOp (s : State) (i : Nat) (x : HomeSt) : (setHome s i x).peerOp = s.peerOp := rfl
@[simp] theorem setHome_heldProbes (s : State) (i : Nat) (x : HomeSt) : (setHome s i x).heldProbes = s.heldProbes := rfl
@[simp] theorem setHome_scrubPos (s : State) (i : Nat) (x : HomeSt) : (setHome s i x).scrubPos = s.scrubPos := rfl
@[simp] theorem setHome_scrubDone (s : State) (i : Nat) (x : HomeSt) : (setHome s i x).scrubDone = s.scrubDone := rfl
@[simp] theorem setHome_hdm (s : State) (i : Nat) (x : HomeSt) : (setHome s i x).hdm = s.hdm := rfl
@[simp] theorem setHome_hdmError (s : State) (i : Nat) (x : HomeSt) : (setHome s i x).hdmError = s.hdmError := rfl
@[simp] theorem setHome_cfg (s : State) (i : Nat) (x : HomeSt) : (setHome s i x).cfg = s.cfg := rfl
@[simp] theorem setHome_comp (s : State) (i : Nat) (x : HomeSt) : (setHome s i x).comp = s.comp := rfl
@[simp] theorem setHome_redDesc (s : State) (i : Nat) (x : HomeSt) : (setHome s i x).redDesc = s.redDesc := rfl
@[simp] theorem setHome_redPosts (s : State) (i : Nat) (x : HomeSt) : (setHome s i x).redPosts = s.redPosts := rfl
@[simp] theorem setHome_redSegs (s : State) (i : Nat) (x : HomeSt) : (setHome s i x).redSegs = s.redSegs := rfl
@[simp] theorem setHome_redSteps (s : State) (i : Nat) (x : HomeSt) : (setHome s i x).redSteps = s.redSteps := rfl
@[simp] theorem setHome_redChunks (s : State) (i : Nat) (x : HomeSt) : (setHome s i x).redChunks = s.redChunks := rfl
@[simp] theorem setHome_redNacks (s : State) (i : Nat) (x : HomeSt) : (setHome s i x).redNacks = s.redNacks := rfl
@[simp] theorem setHome_suspFull (s : State) (i : Nat) (x : HomeSt) : (setHome s i x).suspFull = s.suspFull := rfl
@[simp] theorem setHome_suspLast (s : State) (i : Nat) (x : HomeSt) : (setHome s i x).suspLast = s.suspLast := rfl
@[simp] theorem setHome_suspSent (s : State) (i : Nat) (x : HomeSt) : (setHome s i x).suspSent = s.suspSent := rfl
@[simp] theorem setHome_pwrGood (s : State) (i : Nat) (x : HomeSt) : (setHome s i x).pwrGood = s.pwrGood := rfl
@[simp] theorem setHome_perstN (s : State) (i : Nat) (x : HomeSt) : (setHome s i x).perstN = s.perstN := rfl
@[simp] theorem setHome_faultN (s : State) (i : Nat) (x : HomeSt) : (setHome s i x).faultN = s.faultN := rfl
@[simp] theorem setHome_trip (s : State) (i : Nat) (x : HomeSt) : (setHome s i x).trip = s.trip := rfl
@[simp] theorem setHome_tripLatch (s : State) (i : Nat) (x : HomeSt) : (setHome s i x).tripLatch = s.tripLatch := rfl
@[simp] theorem setHome_railsUp (s : State) (i : Nat) (x : HomeSt) : (setHome s i x).railsUp = s.railsUp := rfl
@[simp] theorem setHome_feedStrap (s : State) (i : Nat) (x : HomeSt) : (setHome s i x).feedStrap = s.feedStrap := rfl
@[simp] theorem setHome_strap (s : State) (i : Nat) (x : HomeSt) : (setHome s i x).strap = s.strap := rfl
@[simp] theorem setHome_fuses (s : State) (i : Nat) (x : HomeSt) : (setHome s i x).fuses = s.fuses := rfl
@[simp] theorem setHome_flash (s : State) (i : Nat) (x : HomeSt) : (setHome s i x).flash = s.flash := rfl
@[simp] theorem setHome_stone (s : State) (i : Nat) (x : HomeSt) : (setHome s i x).stone = s.stone := rfl
@[simp] theorem setHome_bootCount (s : State) (i : Nat) (x : HomeSt) : (setHome s i x).bootCount = s.bootCount := rfl
@[simp] theorem setHome_powered (s : State) (i : Nat) (x : HomeSt) : (setHome s i x).powered = s.powered := rfl
@[simp] theorem setHome_setDue (s : State) (i : Nat) (x : HomeSt) : (setHome s i x).setDue = s.setDue := rfl
@[simp] theorem setHome_setRecs (s : State) (i : Nat) (x : HomeSt) : (setHome s i x).setRecs = s.setRecs := rfl
@[simp] theorem setHome_setAge (s : State) (i : Nat) (x : HomeSt) : (setHome s i x).setAge = s.setAge := rfl
@[simp] theorem setHome_boot (s : State) (i : Nat) (x : HomeSt) : (setHome s i x).boot = s.boot := rfl
@[simp] theorem setHome_devReset (s : State) (i : Nat) (x : HomeSt) : (setHome s i x).devReset = s.devReset := rfl
@[simp] theorem setHome_resetRecs (s : State) (i : Nat) (x : HomeSt) : (setHome s i x).resetRecs = s.resetRecs := rfl
@[simp] theorem setHome_coreMap (s : State) (i : Nat) (x : HomeSt) : (setHome s i x).coreMap = s.coreMap := rfl
@[simp] theorem setHome_fwRounds (s : State) (i : Nat) (x : HomeSt) : (setHome s i x).fwRounds = s.fwRounds := rfl
@[simp] theorem setHome_kats (s : State) (i : Nat) (x : HomeSt) : (setHome s i x).kats = s.kats := rfl
@[simp] theorem setHome_meas (s : State) (i : Nat) (x : HomeSt) : (setHome s i x).meas = s.meas := rfl
@[simp] theorem setHome_measLog (s : State) (i : Nat) (x : HomeSt) : (setHome s i x).measLog = s.measLog := rfl
@[simp] theorem setHome_measDrops (s : State) (i : Nat) (x : HomeSt) : (setHome s i x).measDrops = s.measDrops := rfl
@[simp] theorem setHome_certChain (s : State) (i : Nat) (x : HomeSt) : (setHome s i x).certChain = s.certChain := rfl
@[simp] theorem setHome_load (s : State) (i : Nat) (x : HomeSt) : (setHome s i x).load = s.load := rfl
@[simp] theorem setHome_latches (s : State) (i : Nat) (x : HomeSt) : (setHome s i x).latches = s.latches := rfl
@[simp] theorem setHome_stoneBuf (s : State) (i : Nat) (x : HomeSt) : (setHome s i x).stoneBuf = s.stoneBuf := rfl
@[simp] theorem setHome_mbox (s : State) (i : Nat) (x : HomeSt) : (setHome s i x).mbox = s.mbox := rfl
@[simp] theorem setHome_sessions (s : State) (i : Nat) (x : HomeSt) : (setHome s i x).sessions = s.sessions := rfl
@[simp] theorem setHome_rejectNs (s : State) (i : Nat) (x : HomeSt) : (setHome s i x).rejectNs = s.rejectNs := rfl
@[simp] theorem setHome_spdm (s : State) (i : Nat) (x : HomeSt) : (setHome s i x).spdm = s.spdm := rfl
@[simp] theorem setHome_power (s : State) (i : Nat) (x : HomeSt) : (setHome s i x).power = s.power := rfl
@[simp] theorem setHome_side (s : State) (i : Nat) (x : HomeSt) : (setHome s i x).side = s.side := rfl
@[simp] theorem setHome_damson (s : State) (i : Nat) (x : HomeSt) : (setHome s i x).damson = s.damson := rfl
@[simp] theorem rd_setHome (s : State) (i : Nat) (x : HomeSt) (rr : Reg) (ri : Nat) : rd (setHome s i x) rr ri = rd s rr ri := rfl

/-! ### setPair changes the mirror state only -/

@[simp] theorem setPair_pending (s : State) (n : Nat) (p : PairSt) : (setPair s n p).pending = s.pending := rfl
@[simp] theorem setPair_out (s : State) (n : Nat) (p : PairSt) : (setPair s n p).out = s.out := rfl
@[simp] theorem setPair_localNs (s : State) (n : Nat) (p : PairSt) : (setPair s n p).localNs = s.localNs := rfl
@[simp] theorem setPair_freeCount (s : State) (n : Nat) (p : PairSt) : (setPair s n p).freeCount = s.freeCount := rfl
@[simp] theorem setPair_variant (s : State) (n : Nat) (p : PairSt) : (setPair s n p).variant = s.variant := rfl
@[simp] theorem setPair_stepping (s : State) (n : Nat) (p : PairSt) : (setPair s n p).stepping = s.stepping := rfl
@[simp] theorem setPair_serial (s : State) (n : Nat) (p : PairSt) : (setPair s n p).serial = s.serial := rfl
@[simp] theorem setPair_regs (s : State) (n : Nat) (p : PairSt) : (setPair s n p).regs = s.regs := rfl
@[simp] theorem setPair_mem (s : State) (n : Nat) (p : PairSt) : (setPair s n p).mem = s.mem := rfl
@[simp] theorem setPair_junk (s : State) (n : Nat) (p : PairSt) : (setPair s n p).junk = s.junk := rfl
@[simp] theorem setPair_marks (s : State) (n : Nat) (p : PairSt) : (setPair s n p).marks = s.marks := rfl
@[simp] theorem setPair_dirty (s : State) (n : Nat) (p : PairSt) : (setPair s n p).dirty = s.dirty := rfl
@[simp] theorem setPair_bound (s : State) (n : Nat) (p : PairSt) : (setPair s n p).bound = s.bound := rfl
@[simp] theorem setPair_leaving (s : State) (n : Nat) (p : PairSt) : (setPair s n p).leaving = s.leaving := rfl
@[simp] theorem setPair_committed (s : State) (n : Nat) (p : PairSt) : (setPair s n p).committed = s.committed := rfl
@[simp] theorem setPair_cores (s : State) (n : Nat) (p : PairSt) : (setPair s n p).cores = s.cores := rfl
@[simp] theorem setPair_engHold (s : State) (n : Nat) (p : PairSt) : (setPair s n p).engHold = s.engHold := rfl
@[simp] theorem setPair_resets (s : State) (n : Nat) (p : PairSt) : (setPair s n p).resets = s.resets := rfl
@[simp] theorem setPair_signals (s : State) (n : Nat) (p : PairSt) : (setPair s n p).signals = s.signals := rfl
@[simp] theorem setPair_blocks (s : State) (n : Nat) (p : PairSt) : (setPair s n p).blocks = s.blocks := rfl
@[simp] theorem setPair_qfifo (s : State) (n : Nat) (p : PairSt) : (setPair s n p).qfifo = s.qfifo := rfl
@[simp] theorem setPair_heldSamp (s : State) (n : Nat) (p : PairSt) : (setPair s n p).heldSamp = s.heldSamp := rfl
@[simp] theorem setPair_heldRel (s : State) (n : Nat) (p : PairSt) : (setPair s n p).heldRel = s.heldRel := rfl
@[simp] theorem setPair_samps (s : State) (n : Nat) (p : PairSt) : (setPair s n p).samps = s.samps := rfl
@[simp] theorem setPair_sampStep (s : State) (n : Nat) (p : PairSt) : (setPair s n p).sampStep = s.sampStep := rfl
@[simp] theorem setPair_sorts (s : State) (n : Nat) (p : PairSt) : (setPair s n p).sorts = s.sorts := rfl
@[simp] theorem setPair_gathers (s : State) (n : Nat) (p : PairSt) : (setPair s n p).gathers = s.gathers := rfl
@[simp] theorem setPair_scatters (s : State) (n : Nat) (p : PairSt) : (setPair s n p).scatters = s.scatters := rfl
@[simp] theorem setPair_runCount (s : State) (n : Nat) (p : PairSt) : (setPair s n p).runCount = s.runCount := rfl
@[simp] theorem setPair_homes (s : State) (n : Nat) (p : PairSt) : (setPair s n p).homes = s.homes := rfl
@[simp] theorem setPair_heldRows (s : State) (n : Nat) (p : PairSt) : (setPair s n p).heldRows = s.heldRows := rfl
@[simp] theorem setPair_heldWrites (s : State) (n : Nat) (p : PairSt) : (setPair s n p).heldWrites = s.heldWrites := rfl
@[simp] theorem setPair_applies (s : State) (n : Nat) (p : PairSt) : (setPair s n p).applies = s.applies := rfl
@[simp] theorem setPair_lostRows (s : State) (n : Nat) (p : PairSt) : (setPair s n p).lostRows = s.lostRows := rfl
@[simp] theorem setPair_closes (s : State) (n : Nat) (p : PairSt) : (setPair s n p).closes = s.closes := rfl
@[simp] theorem setPair_markers (s : State) (n : Nat) (p : PairSt) : (setPair s n p).markers = s.markers := rfl
@[simp] theorem setPair_mig (s : State) (n : Nat) (p : PairSt) : (setPair s n p).mig = s.mig := rfl
@[simp] theorem setPair_refills (s : State) (n : Nat) (p : PairSt) : (setPair s n p).refills = s.refills := rfl
@[simp] theorem setPair_soleCopies (s : State) (n : Nat) (p : PairSt) : (setPair s n p).soleCopies = s.soleCopies := rfl
@[simp] theorem setPair_zests (s : State) (n : Nat) (p : PairSt) : (setPair s n p).zests = s.zests := rfl
@[simp] theorem setPair_readSteps (s : State) (n : Nat) (p : PairSt) : (setPair s n p).readSteps = s.readSteps := rfl
@[simp] theorem setPair_params (s : State) (n : Nat) (p : PairSt) : (setPair s n p).params = s.params := rfl
@[simp] theorem setPair_applyRuns (s : State) (n : Nat) (p : PairSt) : (setPair s n p).applyRuns = s.applyRuns := rfl
@[simp] theorem setPair_prefs (s : State) (n : Nat) (p : PairSt) : (setPair s n p).prefs = s.prefs := rfl
@[simp] theorem setPair_heldRecs (s : State) (n : Nat) (p : PairSt) : (setPair s n p).heldRecs = s.heldRecs := rfl
@[simp] theorem setPair_holdoff (s : State) (n : Nat) (p : PairSt) : (setPair s n p).holdoff = s.holdoff := rfl
@[simp] theorem setPair_msixTable (s : State) (n : Nat) (p : PairSt) : (setPair s n p).msixTable = s.msixTable := rfl
@[simp] theorem setPair_msixPend (s : State) (n : Nat) (p : PairSt) : (setPair s n p).msixPend = s.msixPend := rfl
@[simp] theorem setPair_evqLost (s : State) (n : Nat) (p : PairSt) : (setPair s n p).evqLost = s.evqLost := rfl
@[simp] theorem setPair_evqReport (s : State) (n : Nat) (p : PairSt) : (setPair s n p).evqReport = s.evqReport := rfl
@[simp] theorem setPair_stoneQ (s : State) (n : Nat) (p : PairSt) : (setPair s n p).stoneQ = s.stoneQ := rfl
@[simp] theorem setPair_stoneLost (s : State) (n : Nat) (p : PairSt) : (setPair s n p).stoneLost = s.stoneLost := rfl
@[simp] theorem setPair_links (s : State) (n : Nat) (p : PairSt) : (setPair s n p).links = s.links := rfl
@[simp] theorem setPair_flows (s : State) (n : Nat) (p : PairSt) : (setPair s n p).flows = s.flows := rfl
@[simp] theorem setPair_lostStreams (s : State) (n : Nat) (p : PairSt) : (setPair s n p).lostStreams = s.lostStreams := rfl
@[simp] theorem setPair_txWait (s : State) (n : Nat) (p : PairSt) : (setPair s n p).txWait = s.txWait := rfl
@[simp] theorem setPair_tagWait (s : State) (n : Nat) (p : PairSt) : (setPair s n p).tagWait = s.tagWait := rfl
@[simp] theorem setPair_tags (s : State) (n : Nat) (p : PairSt) : (setPair s n p).tags = s.tags := rfl
@[simp] theorem setPair_peerOp (s : State) (n : Nat) (p : PairSt) : (setPair s n p).peerOp = s.peerOp := rfl
@[simp] theorem setPair_heldProbes (s : State) (n : Nat) (p : PairSt) : (setPair s n p).heldProbes = s.heldProbes := rfl
@[simp] theorem setPair_scrubPos (s : State) (n : Nat) (p : PairSt) : (setPair s n p).scrubPos = s.scrubPos := rfl
@[simp] theorem setPair_scrubDone (s : State) (n : Nat) (p : PairSt) : (setPair s n p).scrubDone = s.scrubDone := rfl
@[simp] theorem setPair_hdm (s : State) (n : Nat) (p : PairSt) : (setPair s n p).hdm = s.hdm := rfl
@[simp] theorem setPair_hdmError (s : State) (n : Nat) (p : PairSt) : (setPair s n p).hdmError = s.hdmError := rfl
@[simp] theorem setPair_cfg (s : State) (n : Nat) (p : PairSt) : (setPair s n p).cfg = s.cfg := rfl
@[simp] theorem setPair_comp (s : State) (n : Nat) (p : PairSt) : (setPair s n p).comp = s.comp := rfl
@[simp] theorem setPair_redDesc (s : State) (n : Nat) (p : PairSt) : (setPair s n p).redDesc = s.redDesc := rfl
@[simp] theorem setPair_redPosts (s : State) (n : Nat) (p : PairSt) : (setPair s n p).redPosts = s.redPosts := rfl
@[simp] theorem setPair_redSegs (s : State) (n : Nat) (p : PairSt) : (setPair s n p).redSegs = s.redSegs := rfl
@[simp] theorem setPair_redSteps (s : State) (n : Nat) (p : PairSt) : (setPair s n p).redSteps = s.redSteps := rfl
@[simp] theorem setPair_redChunks (s : State) (n : Nat) (p : PairSt) : (setPair s n p).redChunks = s.redChunks := rfl
@[simp] theorem setPair_redNacks (s : State) (n : Nat) (p : PairSt) : (setPair s n p).redNacks = s.redNacks := rfl
@[simp] theorem setPair_suspFull (s : State) (n : Nat) (p : PairSt) : (setPair s n p).suspFull = s.suspFull := rfl
@[simp] theorem setPair_suspLast (s : State) (n : Nat) (p : PairSt) : (setPair s n p).suspLast = s.suspLast := rfl
@[simp] theorem setPair_suspSent (s : State) (n : Nat) (p : PairSt) : (setPair s n p).suspSent = s.suspSent := rfl
@[simp] theorem setPair_pwrGood (s : State) (n : Nat) (p : PairSt) : (setPair s n p).pwrGood = s.pwrGood := rfl
@[simp] theorem setPair_perstN (s : State) (n : Nat) (p : PairSt) : (setPair s n p).perstN = s.perstN := rfl
@[simp] theorem setPair_faultN (s : State) (n : Nat) (p : PairSt) : (setPair s n p).faultN = s.faultN := rfl
@[simp] theorem setPair_trip (s : State) (n : Nat) (p : PairSt) : (setPair s n p).trip = s.trip := rfl
@[simp] theorem setPair_tripLatch (s : State) (n : Nat) (p : PairSt) : (setPair s n p).tripLatch = s.tripLatch := rfl
@[simp] theorem setPair_railsUp (s : State) (n : Nat) (p : PairSt) : (setPair s n p).railsUp = s.railsUp := rfl
@[simp] theorem setPair_feedStrap (s : State) (n : Nat) (p : PairSt) : (setPair s n p).feedStrap = s.feedStrap := rfl
@[simp] theorem setPair_strap (s : State) (n : Nat) (p : PairSt) : (setPair s n p).strap = s.strap := rfl
@[simp] theorem setPair_fuses (s : State) (n : Nat) (p : PairSt) : (setPair s n p).fuses = s.fuses := rfl
@[simp] theorem setPair_flash (s : State) (n : Nat) (p : PairSt) : (setPair s n p).flash = s.flash := rfl
@[simp] theorem setPair_stone (s : State) (n : Nat) (p : PairSt) : (setPair s n p).stone = s.stone := rfl
@[simp] theorem setPair_bootCount (s : State) (n : Nat) (p : PairSt) : (setPair s n p).bootCount = s.bootCount := rfl
@[simp] theorem setPair_powered (s : State) (n : Nat) (p : PairSt) : (setPair s n p).powered = s.powered := rfl
@[simp] theorem setPair_setDue (s : State) (n : Nat) (p : PairSt) : (setPair s n p).setDue = s.setDue := rfl
@[simp] theorem setPair_setRecs (s : State) (n : Nat) (p : PairSt) : (setPair s n p).setRecs = s.setRecs := rfl
@[simp] theorem setPair_setAge (s : State) (n : Nat) (p : PairSt) : (setPair s n p).setAge = s.setAge := rfl
@[simp] theorem setPair_boot (s : State) (n : Nat) (p : PairSt) : (setPair s n p).boot = s.boot := rfl
@[simp] theorem setPair_devReset (s : State) (n : Nat) (p : PairSt) : (setPair s n p).devReset = s.devReset := rfl
@[simp] theorem setPair_resetRecs (s : State) (n : Nat) (p : PairSt) : (setPair s n p).resetRecs = s.resetRecs := rfl
@[simp] theorem setPair_coreMap (s : State) (n : Nat) (p : PairSt) : (setPair s n p).coreMap = s.coreMap := rfl
@[simp] theorem setPair_fwRounds (s : State) (n : Nat) (p : PairSt) : (setPair s n p).fwRounds = s.fwRounds := rfl
@[simp] theorem setPair_kats (s : State) (n : Nat) (p : PairSt) : (setPair s n p).kats = s.kats := rfl
@[simp] theorem setPair_meas (s : State) (n : Nat) (p : PairSt) : (setPair s n p).meas = s.meas := rfl
@[simp] theorem setPair_measLog (s : State) (n : Nat) (p : PairSt) : (setPair s n p).measLog = s.measLog := rfl
@[simp] theorem setPair_measDrops (s : State) (n : Nat) (p : PairSt) : (setPair s n p).measDrops = s.measDrops := rfl
@[simp] theorem setPair_certChain (s : State) (n : Nat) (p : PairSt) : (setPair s n p).certChain = s.certChain := rfl
@[simp] theorem setPair_load (s : State) (n : Nat) (p : PairSt) : (setPair s n p).load = s.load := rfl
@[simp] theorem setPair_latches (s : State) (n : Nat) (p : PairSt) : (setPair s n p).latches = s.latches := rfl
@[simp] theorem setPair_stoneBuf (s : State) (n : Nat) (p : PairSt) : (setPair s n p).stoneBuf = s.stoneBuf := rfl
@[simp] theorem setPair_mbox (s : State) (n : Nat) (p : PairSt) : (setPair s n p).mbox = s.mbox := rfl
@[simp] theorem setPair_sessions (s : State) (n : Nat) (p : PairSt) : (setPair s n p).sessions = s.sessions := rfl
@[simp] theorem setPair_rejectNs (s : State) (n : Nat) (p : PairSt) : (setPair s n p).rejectNs = s.rejectNs := rfl
@[simp] theorem setPair_spdm (s : State) (n : Nat) (p : PairSt) : (setPair s n p).spdm = s.spdm := rfl
@[simp] theorem setPair_power (s : State) (n : Nat) (p : PairSt) : (setPair s n p).power = s.power := rfl
@[simp] theorem setPair_side (s : State) (n : Nat) (p : PairSt) : (setPair s n p).side = s.side := rfl
@[simp] theorem setPair_damson (s : State) (n : Nat) (p : PairSt) : (setPair s n p).damson = s.damson := rfl
@[simp] theorem rd_setPair (s : State) (n : Nat) (p : PairSt) (rr : Reg) (ri : Nat) : rd (setPair s n p) rr ri = rd s rr ri := rfl

/-! ### setPower changes the power state only -/

@[simp] theorem setPower_pending (s : State) (p : PowerSt) : (setPower s p).pending = s.pending := rfl
@[simp] theorem setPower_out (s : State) (p : PowerSt) : (setPower s p).out = s.out := rfl
@[simp] theorem setPower_localNs (s : State) (p : PowerSt) : (setPower s p).localNs = s.localNs := rfl
@[simp] theorem setPower_freeCount (s : State) (p : PowerSt) : (setPower s p).freeCount = s.freeCount := rfl
@[simp] theorem setPower_variant (s : State) (p : PowerSt) : (setPower s p).variant = s.variant := rfl
@[simp] theorem setPower_stepping (s : State) (p : PowerSt) : (setPower s p).stepping = s.stepping := rfl
@[simp] theorem setPower_serial (s : State) (p : PowerSt) : (setPower s p).serial = s.serial := rfl
@[simp] theorem setPower_regs (s : State) (p : PowerSt) : (setPower s p).regs = s.regs := rfl
@[simp] theorem setPower_mem (s : State) (p : PowerSt) : (setPower s p).mem = s.mem := rfl
@[simp] theorem setPower_junk (s : State) (p : PowerSt) : (setPower s p).junk = s.junk := rfl
@[simp] theorem setPower_marks (s : State) (p : PowerSt) : (setPower s p).marks = s.marks := rfl
@[simp] theorem setPower_dirty (s : State) (p : PowerSt) : (setPower s p).dirty = s.dirty := rfl
@[simp] theorem setPower_bound (s : State) (p : PowerSt) : (setPower s p).bound = s.bound := rfl
@[simp] theorem setPower_leaving (s : State) (p : PowerSt) : (setPower s p).leaving = s.leaving := rfl
@[simp] theorem setPower_committed (s : State) (p : PowerSt) : (setPower s p).committed = s.committed := rfl
@[simp] theorem setPower_cores (s : State) (p : PowerSt) : (setPower s p).cores = s.cores := rfl
@[simp] theorem setPower_engHold (s : State) (p : PowerSt) : (setPower s p).engHold = s.engHold := rfl
@[simp] theorem setPower_resets (s : State) (p : PowerSt) : (setPower s p).resets = s.resets := rfl
@[simp] theorem setPower_signals (s : State) (p : PowerSt) : (setPower s p).signals = s.signals := rfl
@[simp] theorem setPower_blocks (s : State) (p : PowerSt) : (setPower s p).blocks = s.blocks := rfl
@[simp] theorem setPower_qfifo (s : State) (p : PowerSt) : (setPower s p).qfifo = s.qfifo := rfl
@[simp] theorem setPower_heldSamp (s : State) (p : PowerSt) : (setPower s p).heldSamp = s.heldSamp := rfl
@[simp] theorem setPower_heldRel (s : State) (p : PowerSt) : (setPower s p).heldRel = s.heldRel := rfl
@[simp] theorem setPower_samps (s : State) (p : PowerSt) : (setPower s p).samps = s.samps := rfl
@[simp] theorem setPower_sampStep (s : State) (p : PowerSt) : (setPower s p).sampStep = s.sampStep := rfl
@[simp] theorem setPower_sorts (s : State) (p : PowerSt) : (setPower s p).sorts = s.sorts := rfl
@[simp] theorem setPower_gathers (s : State) (p : PowerSt) : (setPower s p).gathers = s.gathers := rfl
@[simp] theorem setPower_scatters (s : State) (p : PowerSt) : (setPower s p).scatters = s.scatters := rfl
@[simp] theorem setPower_runCount (s : State) (p : PowerSt) : (setPower s p).runCount = s.runCount := rfl
@[simp] theorem setPower_homes (s : State) (p : PowerSt) : (setPower s p).homes = s.homes := rfl
@[simp] theorem setPower_heldRows (s : State) (p : PowerSt) : (setPower s p).heldRows = s.heldRows := rfl
@[simp] theorem setPower_heldWrites (s : State) (p : PowerSt) : (setPower s p).heldWrites = s.heldWrites := rfl
@[simp] theorem setPower_applies (s : State) (p : PowerSt) : (setPower s p).applies = s.applies := rfl
@[simp] theorem setPower_lostRows (s : State) (p : PowerSt) : (setPower s p).lostRows = s.lostRows := rfl
@[simp] theorem setPower_closes (s : State) (p : PowerSt) : (setPower s p).closes = s.closes := rfl
@[simp] theorem setPower_markers (s : State) (p : PowerSt) : (setPower s p).markers = s.markers := rfl
@[simp] theorem setPower_mig (s : State) (p : PowerSt) : (setPower s p).mig = s.mig := rfl
@[simp] theorem setPower_pairs (s : State) (p : PowerSt) : (setPower s p).pairs = s.pairs := rfl
@[simp] theorem setPower_refills (s : State) (p : PowerSt) : (setPower s p).refills = s.refills := rfl
@[simp] theorem setPower_soleCopies (s : State) (p : PowerSt) : (setPower s p).soleCopies = s.soleCopies := rfl
@[simp] theorem setPower_zests (s : State) (p : PowerSt) : (setPower s p).zests = s.zests := rfl
@[simp] theorem setPower_readSteps (s : State) (p : PowerSt) : (setPower s p).readSteps = s.readSteps := rfl
@[simp] theorem setPower_params (s : State) (p : PowerSt) : (setPower s p).params = s.params := rfl
@[simp] theorem setPower_applyRuns (s : State) (p : PowerSt) : (setPower s p).applyRuns = s.applyRuns := rfl
@[simp] theorem setPower_prefs (s : State) (p : PowerSt) : (setPower s p).prefs = s.prefs := rfl
@[simp] theorem setPower_heldRecs (s : State) (p : PowerSt) : (setPower s p).heldRecs = s.heldRecs := rfl
@[simp] theorem setPower_holdoff (s : State) (p : PowerSt) : (setPower s p).holdoff = s.holdoff := rfl
@[simp] theorem setPower_msixTable (s : State) (p : PowerSt) : (setPower s p).msixTable = s.msixTable := rfl
@[simp] theorem setPower_msixPend (s : State) (p : PowerSt) : (setPower s p).msixPend = s.msixPend := rfl
@[simp] theorem setPower_evqLost (s : State) (p : PowerSt) : (setPower s p).evqLost = s.evqLost := rfl
@[simp] theorem setPower_evqReport (s : State) (p : PowerSt) : (setPower s p).evqReport = s.evqReport := rfl
@[simp] theorem setPower_stoneQ (s : State) (p : PowerSt) : (setPower s p).stoneQ = s.stoneQ := rfl
@[simp] theorem setPower_stoneLost (s : State) (p : PowerSt) : (setPower s p).stoneLost = s.stoneLost := rfl
@[simp] theorem setPower_links (s : State) (p : PowerSt) : (setPower s p).links = s.links := rfl
@[simp] theorem setPower_flows (s : State) (p : PowerSt) : (setPower s p).flows = s.flows := rfl
@[simp] theorem setPower_lostStreams (s : State) (p : PowerSt) : (setPower s p).lostStreams = s.lostStreams := rfl
@[simp] theorem setPower_txWait (s : State) (p : PowerSt) : (setPower s p).txWait = s.txWait := rfl
@[simp] theorem setPower_tagWait (s : State) (p : PowerSt) : (setPower s p).tagWait = s.tagWait := rfl
@[simp] theorem setPower_tags (s : State) (p : PowerSt) : (setPower s p).tags = s.tags := rfl
@[simp] theorem setPower_peerOp (s : State) (p : PowerSt) : (setPower s p).peerOp = s.peerOp := rfl
@[simp] theorem setPower_heldProbes (s : State) (p : PowerSt) : (setPower s p).heldProbes = s.heldProbes := rfl
@[simp] theorem setPower_scrubPos (s : State) (p : PowerSt) : (setPower s p).scrubPos = s.scrubPos := rfl
@[simp] theorem setPower_scrubDone (s : State) (p : PowerSt) : (setPower s p).scrubDone = s.scrubDone := rfl
@[simp] theorem setPower_hdm (s : State) (p : PowerSt) : (setPower s p).hdm = s.hdm := rfl
@[simp] theorem setPower_hdmError (s : State) (p : PowerSt) : (setPower s p).hdmError = s.hdmError := rfl
@[simp] theorem setPower_cfg (s : State) (p : PowerSt) : (setPower s p).cfg = s.cfg := rfl
@[simp] theorem setPower_comp (s : State) (p : PowerSt) : (setPower s p).comp = s.comp := rfl
@[simp] theorem setPower_redDesc (s : State) (p : PowerSt) : (setPower s p).redDesc = s.redDesc := rfl
@[simp] theorem setPower_redPosts (s : State) (p : PowerSt) : (setPower s p).redPosts = s.redPosts := rfl
@[simp] theorem setPower_redSegs (s : State) (p : PowerSt) : (setPower s p).redSegs = s.redSegs := rfl
@[simp] theorem setPower_redSteps (s : State) (p : PowerSt) : (setPower s p).redSteps = s.redSteps := rfl
@[simp] theorem setPower_redChunks (s : State) (p : PowerSt) : (setPower s p).redChunks = s.redChunks := rfl
@[simp] theorem setPower_redNacks (s : State) (p : PowerSt) : (setPower s p).redNacks = s.redNacks := rfl
@[simp] theorem setPower_suspFull (s : State) (p : PowerSt) : (setPower s p).suspFull = s.suspFull := rfl
@[simp] theorem setPower_suspLast (s : State) (p : PowerSt) : (setPower s p).suspLast = s.suspLast := rfl
@[simp] theorem setPower_suspSent (s : State) (p : PowerSt) : (setPower s p).suspSent = s.suspSent := rfl
@[simp] theorem setPower_pwrGood (s : State) (p : PowerSt) : (setPower s p).pwrGood = s.pwrGood := rfl
@[simp] theorem setPower_perstN (s : State) (p : PowerSt) : (setPower s p).perstN = s.perstN := rfl
@[simp] theorem setPower_faultN (s : State) (p : PowerSt) : (setPower s p).faultN = s.faultN := rfl
@[simp] theorem setPower_trip (s : State) (p : PowerSt) : (setPower s p).trip = s.trip := rfl
@[simp] theorem setPower_tripLatch (s : State) (p : PowerSt) : (setPower s p).tripLatch = s.tripLatch := rfl
@[simp] theorem setPower_railsUp (s : State) (p : PowerSt) : (setPower s p).railsUp = s.railsUp := rfl
@[simp] theorem setPower_feedStrap (s : State) (p : PowerSt) : (setPower s p).feedStrap = s.feedStrap := rfl
@[simp] theorem setPower_strap (s : State) (p : PowerSt) : (setPower s p).strap = s.strap := rfl
@[simp] theorem setPower_fuses (s : State) (p : PowerSt) : (setPower s p).fuses = s.fuses := rfl
@[simp] theorem setPower_flash (s : State) (p : PowerSt) : (setPower s p).flash = s.flash := rfl
@[simp] theorem setPower_stone (s : State) (p : PowerSt) : (setPower s p).stone = s.stone := rfl
@[simp] theorem setPower_bootCount (s : State) (p : PowerSt) : (setPower s p).bootCount = s.bootCount := rfl
@[simp] theorem setPower_powered (s : State) (p : PowerSt) : (setPower s p).powered = s.powered := rfl
@[simp] theorem setPower_setDue (s : State) (p : PowerSt) : (setPower s p).setDue = s.setDue := rfl
@[simp] theorem setPower_setRecs (s : State) (p : PowerSt) : (setPower s p).setRecs = s.setRecs := rfl
@[simp] theorem setPower_setAge (s : State) (p : PowerSt) : (setPower s p).setAge = s.setAge := rfl
@[simp] theorem setPower_boot (s : State) (p : PowerSt) : (setPower s p).boot = s.boot := rfl
@[simp] theorem setPower_devReset (s : State) (p : PowerSt) : (setPower s p).devReset = s.devReset := rfl
@[simp] theorem setPower_resetRecs (s : State) (p : PowerSt) : (setPower s p).resetRecs = s.resetRecs := rfl
@[simp] theorem setPower_coreMap (s : State) (p : PowerSt) : (setPower s p).coreMap = s.coreMap := rfl
@[simp] theorem setPower_fwRounds (s : State) (p : PowerSt) : (setPower s p).fwRounds = s.fwRounds := rfl
@[simp] theorem setPower_kats (s : State) (p : PowerSt) : (setPower s p).kats = s.kats := rfl
@[simp] theorem setPower_meas (s : State) (p : PowerSt) : (setPower s p).meas = s.meas := rfl
@[simp] theorem setPower_measLog (s : State) (p : PowerSt) : (setPower s p).measLog = s.measLog := rfl
@[simp] theorem setPower_measDrops (s : State) (p : PowerSt) : (setPower s p).measDrops = s.measDrops := rfl
@[simp] theorem setPower_certChain (s : State) (p : PowerSt) : (setPower s p).certChain = s.certChain := rfl
@[simp] theorem setPower_load (s : State) (p : PowerSt) : (setPower s p).load = s.load := rfl
@[simp] theorem setPower_latches (s : State) (p : PowerSt) : (setPower s p).latches = s.latches := rfl
@[simp] theorem setPower_stoneBuf (s : State) (p : PowerSt) : (setPower s p).stoneBuf = s.stoneBuf := rfl
@[simp] theorem setPower_mbox (s : State) (p : PowerSt) : (setPower s p).mbox = s.mbox := rfl
@[simp] theorem setPower_sessions (s : State) (p : PowerSt) : (setPower s p).sessions = s.sessions := rfl
@[simp] theorem setPower_rejectNs (s : State) (p : PowerSt) : (setPower s p).rejectNs = s.rejectNs := rfl
@[simp] theorem setPower_spdm (s : State) (p : PowerSt) : (setPower s p).spdm = s.spdm := rfl
@[simp] theorem setPower_side (s : State) (p : PowerSt) : (setPower s p).side = s.side := rfl
@[simp] theorem setPower_damson (s : State) (p : PowerSt) : (setPower s p).damson = s.damson := rfl
@[simp] theorem rd_setPower (s : State) (p : PowerSt) (rr : Reg) (ri : Nat) : rd (setPower s p) rr ri = rd s rr ri := rfl

/-! ### setSpdm changes the SPDM connections only -/

@[simp] theorem setSpdm_pending (s : State) (p : SpdmPath) (x : SpdmLink) : (setSpdm s p x).pending = s.pending := rfl
@[simp] theorem setSpdm_out (s : State) (p : SpdmPath) (x : SpdmLink) : (setSpdm s p x).out = s.out := rfl
@[simp] theorem setSpdm_localNs (s : State) (p : SpdmPath) (x : SpdmLink) : (setSpdm s p x).localNs = s.localNs := rfl
@[simp] theorem setSpdm_freeCount (s : State) (p : SpdmPath) (x : SpdmLink) : (setSpdm s p x).freeCount = s.freeCount := rfl
@[simp] theorem setSpdm_variant (s : State) (p : SpdmPath) (x : SpdmLink) : (setSpdm s p x).variant = s.variant := rfl
@[simp] theorem setSpdm_stepping (s : State) (p : SpdmPath) (x : SpdmLink) : (setSpdm s p x).stepping = s.stepping := rfl
@[simp] theorem setSpdm_serial (s : State) (p : SpdmPath) (x : SpdmLink) : (setSpdm s p x).serial = s.serial := rfl
@[simp] theorem setSpdm_regs (s : State) (p : SpdmPath) (x : SpdmLink) : (setSpdm s p x).regs = s.regs := rfl
@[simp] theorem setSpdm_mem (s : State) (p : SpdmPath) (x : SpdmLink) : (setSpdm s p x).mem = s.mem := rfl
@[simp] theorem setSpdm_junk (s : State) (p : SpdmPath) (x : SpdmLink) : (setSpdm s p x).junk = s.junk := rfl
@[simp] theorem setSpdm_marks (s : State) (p : SpdmPath) (x : SpdmLink) : (setSpdm s p x).marks = s.marks := rfl
@[simp] theorem setSpdm_dirty (s : State) (p : SpdmPath) (x : SpdmLink) : (setSpdm s p x).dirty = s.dirty := rfl
@[simp] theorem setSpdm_bound (s : State) (p : SpdmPath) (x : SpdmLink) : (setSpdm s p x).bound = s.bound := rfl
@[simp] theorem setSpdm_leaving (s : State) (p : SpdmPath) (x : SpdmLink) : (setSpdm s p x).leaving = s.leaving := rfl
@[simp] theorem setSpdm_committed (s : State) (p : SpdmPath) (x : SpdmLink) : (setSpdm s p x).committed = s.committed := rfl
@[simp] theorem setSpdm_cores (s : State) (p : SpdmPath) (x : SpdmLink) : (setSpdm s p x).cores = s.cores := rfl
@[simp] theorem setSpdm_engHold (s : State) (p : SpdmPath) (x : SpdmLink) : (setSpdm s p x).engHold = s.engHold := rfl
@[simp] theorem setSpdm_resets (s : State) (p : SpdmPath) (x : SpdmLink) : (setSpdm s p x).resets = s.resets := rfl
@[simp] theorem setSpdm_signals (s : State) (p : SpdmPath) (x : SpdmLink) : (setSpdm s p x).signals = s.signals := rfl
@[simp] theorem setSpdm_blocks (s : State) (p : SpdmPath) (x : SpdmLink) : (setSpdm s p x).blocks = s.blocks := rfl
@[simp] theorem setSpdm_qfifo (s : State) (p : SpdmPath) (x : SpdmLink) : (setSpdm s p x).qfifo = s.qfifo := rfl
@[simp] theorem setSpdm_heldSamp (s : State) (p : SpdmPath) (x : SpdmLink) : (setSpdm s p x).heldSamp = s.heldSamp := rfl
@[simp] theorem setSpdm_heldRel (s : State) (p : SpdmPath) (x : SpdmLink) : (setSpdm s p x).heldRel = s.heldRel := rfl
@[simp] theorem setSpdm_samps (s : State) (p : SpdmPath) (x : SpdmLink) : (setSpdm s p x).samps = s.samps := rfl
@[simp] theorem setSpdm_sampStep (s : State) (p : SpdmPath) (x : SpdmLink) : (setSpdm s p x).sampStep = s.sampStep := rfl
@[simp] theorem setSpdm_sorts (s : State) (p : SpdmPath) (x : SpdmLink) : (setSpdm s p x).sorts = s.sorts := rfl
@[simp] theorem setSpdm_gathers (s : State) (p : SpdmPath) (x : SpdmLink) : (setSpdm s p x).gathers = s.gathers := rfl
@[simp] theorem setSpdm_scatters (s : State) (p : SpdmPath) (x : SpdmLink) : (setSpdm s p x).scatters = s.scatters := rfl
@[simp] theorem setSpdm_runCount (s : State) (p : SpdmPath) (x : SpdmLink) : (setSpdm s p x).runCount = s.runCount := rfl
@[simp] theorem setSpdm_homes (s : State) (p : SpdmPath) (x : SpdmLink) : (setSpdm s p x).homes = s.homes := rfl
@[simp] theorem setSpdm_heldRows (s : State) (p : SpdmPath) (x : SpdmLink) : (setSpdm s p x).heldRows = s.heldRows := rfl
@[simp] theorem setSpdm_heldWrites (s : State) (p : SpdmPath) (x : SpdmLink) : (setSpdm s p x).heldWrites = s.heldWrites := rfl
@[simp] theorem setSpdm_applies (s : State) (p : SpdmPath) (x : SpdmLink) : (setSpdm s p x).applies = s.applies := rfl
@[simp] theorem setSpdm_lostRows (s : State) (p : SpdmPath) (x : SpdmLink) : (setSpdm s p x).lostRows = s.lostRows := rfl
@[simp] theorem setSpdm_closes (s : State) (p : SpdmPath) (x : SpdmLink) : (setSpdm s p x).closes = s.closes := rfl
@[simp] theorem setSpdm_markers (s : State) (p : SpdmPath) (x : SpdmLink) : (setSpdm s p x).markers = s.markers := rfl
@[simp] theorem setSpdm_mig (s : State) (p : SpdmPath) (x : SpdmLink) : (setSpdm s p x).mig = s.mig := rfl
@[simp] theorem setSpdm_pairs (s : State) (p : SpdmPath) (x : SpdmLink) : (setSpdm s p x).pairs = s.pairs := rfl
@[simp] theorem setSpdm_refills (s : State) (p : SpdmPath) (x : SpdmLink) : (setSpdm s p x).refills = s.refills := rfl
@[simp] theorem setSpdm_soleCopies (s : State) (p : SpdmPath) (x : SpdmLink) : (setSpdm s p x).soleCopies = s.soleCopies := rfl
@[simp] theorem setSpdm_zests (s : State) (p : SpdmPath) (x : SpdmLink) : (setSpdm s p x).zests = s.zests := rfl
@[simp] theorem setSpdm_readSteps (s : State) (p : SpdmPath) (x : SpdmLink) : (setSpdm s p x).readSteps = s.readSteps := rfl
@[simp] theorem setSpdm_params (s : State) (p : SpdmPath) (x : SpdmLink) : (setSpdm s p x).params = s.params := rfl
@[simp] theorem setSpdm_applyRuns (s : State) (p : SpdmPath) (x : SpdmLink) : (setSpdm s p x).applyRuns = s.applyRuns := rfl
@[simp] theorem setSpdm_prefs (s : State) (p : SpdmPath) (x : SpdmLink) : (setSpdm s p x).prefs = s.prefs := rfl
@[simp] theorem setSpdm_heldRecs (s : State) (p : SpdmPath) (x : SpdmLink) : (setSpdm s p x).heldRecs = s.heldRecs := rfl
@[simp] theorem setSpdm_holdoff (s : State) (p : SpdmPath) (x : SpdmLink) : (setSpdm s p x).holdoff = s.holdoff := rfl
@[simp] theorem setSpdm_msixTable (s : State) (p : SpdmPath) (x : SpdmLink) : (setSpdm s p x).msixTable = s.msixTable := rfl
@[simp] theorem setSpdm_msixPend (s : State) (p : SpdmPath) (x : SpdmLink) : (setSpdm s p x).msixPend = s.msixPend := rfl
@[simp] theorem setSpdm_evqLost (s : State) (p : SpdmPath) (x : SpdmLink) : (setSpdm s p x).evqLost = s.evqLost := rfl
@[simp] theorem setSpdm_evqReport (s : State) (p : SpdmPath) (x : SpdmLink) : (setSpdm s p x).evqReport = s.evqReport := rfl
@[simp] theorem setSpdm_stoneQ (s : State) (p : SpdmPath) (x : SpdmLink) : (setSpdm s p x).stoneQ = s.stoneQ := rfl
@[simp] theorem setSpdm_stoneLost (s : State) (p : SpdmPath) (x : SpdmLink) : (setSpdm s p x).stoneLost = s.stoneLost := rfl
@[simp] theorem setSpdm_links (s : State) (p : SpdmPath) (x : SpdmLink) : (setSpdm s p x).links = s.links := rfl
@[simp] theorem setSpdm_flows (s : State) (p : SpdmPath) (x : SpdmLink) : (setSpdm s p x).flows = s.flows := rfl
@[simp] theorem setSpdm_lostStreams (s : State) (p : SpdmPath) (x : SpdmLink) : (setSpdm s p x).lostStreams = s.lostStreams := rfl
@[simp] theorem setSpdm_txWait (s : State) (p : SpdmPath) (x : SpdmLink) : (setSpdm s p x).txWait = s.txWait := rfl
@[simp] theorem setSpdm_tagWait (s : State) (p : SpdmPath) (x : SpdmLink) : (setSpdm s p x).tagWait = s.tagWait := rfl
@[simp] theorem setSpdm_tags (s : State) (p : SpdmPath) (x : SpdmLink) : (setSpdm s p x).tags = s.tags := rfl
@[simp] theorem setSpdm_peerOp (s : State) (p : SpdmPath) (x : SpdmLink) : (setSpdm s p x).peerOp = s.peerOp := rfl
@[simp] theorem setSpdm_heldProbes (s : State) (p : SpdmPath) (x : SpdmLink) : (setSpdm s p x).heldProbes = s.heldProbes := rfl
@[simp] theorem setSpdm_scrubPos (s : State) (p : SpdmPath) (x : SpdmLink) : (setSpdm s p x).scrubPos = s.scrubPos := rfl
@[simp] theorem setSpdm_scrubDone (s : State) (p : SpdmPath) (x : SpdmLink) : (setSpdm s p x).scrubDone = s.scrubDone := rfl
@[simp] theorem setSpdm_hdm (s : State) (p : SpdmPath) (x : SpdmLink) : (setSpdm s p x).hdm = s.hdm := rfl
@[simp] theorem setSpdm_hdmError (s : State) (p : SpdmPath) (x : SpdmLink) : (setSpdm s p x).hdmError = s.hdmError := rfl
@[simp] theorem setSpdm_cfg (s : State) (p : SpdmPath) (x : SpdmLink) : (setSpdm s p x).cfg = s.cfg := rfl
@[simp] theorem setSpdm_comp (s : State) (p : SpdmPath) (x : SpdmLink) : (setSpdm s p x).comp = s.comp := rfl
@[simp] theorem setSpdm_redDesc (s : State) (p : SpdmPath) (x : SpdmLink) : (setSpdm s p x).redDesc = s.redDesc := rfl
@[simp] theorem setSpdm_redPosts (s : State) (p : SpdmPath) (x : SpdmLink) : (setSpdm s p x).redPosts = s.redPosts := rfl
@[simp] theorem setSpdm_redSegs (s : State) (p : SpdmPath) (x : SpdmLink) : (setSpdm s p x).redSegs = s.redSegs := rfl
@[simp] theorem setSpdm_redSteps (s : State) (p : SpdmPath) (x : SpdmLink) : (setSpdm s p x).redSteps = s.redSteps := rfl
@[simp] theorem setSpdm_redChunks (s : State) (p : SpdmPath) (x : SpdmLink) : (setSpdm s p x).redChunks = s.redChunks := rfl
@[simp] theorem setSpdm_redNacks (s : State) (p : SpdmPath) (x : SpdmLink) : (setSpdm s p x).redNacks = s.redNacks := rfl
@[simp] theorem setSpdm_suspFull (s : State) (p : SpdmPath) (x : SpdmLink) : (setSpdm s p x).suspFull = s.suspFull := rfl
@[simp] theorem setSpdm_suspLast (s : State) (p : SpdmPath) (x : SpdmLink) : (setSpdm s p x).suspLast = s.suspLast := rfl
@[simp] theorem setSpdm_suspSent (s : State) (p : SpdmPath) (x : SpdmLink) : (setSpdm s p x).suspSent = s.suspSent := rfl
@[simp] theorem setSpdm_pwrGood (s : State) (p : SpdmPath) (x : SpdmLink) : (setSpdm s p x).pwrGood = s.pwrGood := rfl
@[simp] theorem setSpdm_perstN (s : State) (p : SpdmPath) (x : SpdmLink) : (setSpdm s p x).perstN = s.perstN := rfl
@[simp] theorem setSpdm_faultN (s : State) (p : SpdmPath) (x : SpdmLink) : (setSpdm s p x).faultN = s.faultN := rfl
@[simp] theorem setSpdm_trip (s : State) (p : SpdmPath) (x : SpdmLink) : (setSpdm s p x).trip = s.trip := rfl
@[simp] theorem setSpdm_tripLatch (s : State) (p : SpdmPath) (x : SpdmLink) : (setSpdm s p x).tripLatch = s.tripLatch := rfl
@[simp] theorem setSpdm_railsUp (s : State) (p : SpdmPath) (x : SpdmLink) : (setSpdm s p x).railsUp = s.railsUp := rfl
@[simp] theorem setSpdm_feedStrap (s : State) (p : SpdmPath) (x : SpdmLink) : (setSpdm s p x).feedStrap = s.feedStrap := rfl
@[simp] theorem setSpdm_strap (s : State) (p : SpdmPath) (x : SpdmLink) : (setSpdm s p x).strap = s.strap := rfl
@[simp] theorem setSpdm_fuses (s : State) (p : SpdmPath) (x : SpdmLink) : (setSpdm s p x).fuses = s.fuses := rfl
@[simp] theorem setSpdm_flash (s : State) (p : SpdmPath) (x : SpdmLink) : (setSpdm s p x).flash = s.flash := rfl
@[simp] theorem setSpdm_stone (s : State) (p : SpdmPath) (x : SpdmLink) : (setSpdm s p x).stone = s.stone := rfl
@[simp] theorem setSpdm_bootCount (s : State) (p : SpdmPath) (x : SpdmLink) : (setSpdm s p x).bootCount = s.bootCount := rfl
@[simp] theorem setSpdm_powered (s : State) (p : SpdmPath) (x : SpdmLink) : (setSpdm s p x).powered = s.powered := rfl
@[simp] theorem setSpdm_setDue (s : State) (p : SpdmPath) (x : SpdmLink) : (setSpdm s p x).setDue = s.setDue := rfl
@[simp] theorem setSpdm_setRecs (s : State) (p : SpdmPath) (x : SpdmLink) : (setSpdm s p x).setRecs = s.setRecs := rfl
@[simp] theorem setSpdm_setAge (s : State) (p : SpdmPath) (x : SpdmLink) : (setSpdm s p x).setAge = s.setAge := rfl
@[simp] theorem setSpdm_boot (s : State) (p : SpdmPath) (x : SpdmLink) : (setSpdm s p x).boot = s.boot := rfl
@[simp] theorem setSpdm_devReset (s : State) (p : SpdmPath) (x : SpdmLink) : (setSpdm s p x).devReset = s.devReset := rfl
@[simp] theorem setSpdm_resetRecs (s : State) (p : SpdmPath) (x : SpdmLink) : (setSpdm s p x).resetRecs = s.resetRecs := rfl
@[simp] theorem setSpdm_coreMap (s : State) (p : SpdmPath) (x : SpdmLink) : (setSpdm s p x).coreMap = s.coreMap := rfl
@[simp] theorem setSpdm_fwRounds (s : State) (p : SpdmPath) (x : SpdmLink) : (setSpdm s p x).fwRounds = s.fwRounds := rfl
@[simp] theorem setSpdm_kats (s : State) (p : SpdmPath) (x : SpdmLink) : (setSpdm s p x).kats = s.kats := rfl
@[simp] theorem setSpdm_meas (s : State) (p : SpdmPath) (x : SpdmLink) : (setSpdm s p x).meas = s.meas := rfl
@[simp] theorem setSpdm_measLog (s : State) (p : SpdmPath) (x : SpdmLink) : (setSpdm s p x).measLog = s.measLog := rfl
@[simp] theorem setSpdm_measDrops (s : State) (p : SpdmPath) (x : SpdmLink) : (setSpdm s p x).measDrops = s.measDrops := rfl
@[simp] theorem setSpdm_certChain (s : State) (p : SpdmPath) (x : SpdmLink) : (setSpdm s p x).certChain = s.certChain := rfl
@[simp] theorem setSpdm_load (s : State) (p : SpdmPath) (x : SpdmLink) : (setSpdm s p x).load = s.load := rfl
@[simp] theorem setSpdm_latches (s : State) (p : SpdmPath) (x : SpdmLink) : (setSpdm s p x).latches = s.latches := rfl
@[simp] theorem setSpdm_stoneBuf (s : State) (p : SpdmPath) (x : SpdmLink) : (setSpdm s p x).stoneBuf = s.stoneBuf := rfl
@[simp] theorem setSpdm_mbox (s : State) (p : SpdmPath) (x : SpdmLink) : (setSpdm s p x).mbox = s.mbox := rfl
@[simp] theorem setSpdm_sessions (s : State) (p : SpdmPath) (x : SpdmLink) : (setSpdm s p x).sessions = s.sessions := rfl
@[simp] theorem setSpdm_rejectNs (s : State) (p : SpdmPath) (x : SpdmLink) : (setSpdm s p x).rejectNs = s.rejectNs := rfl
@[simp] theorem setSpdm_power (s : State) (p : SpdmPath) (x : SpdmLink) : (setSpdm s p x).power = s.power := rfl
@[simp] theorem setSpdm_side (s : State) (p : SpdmPath) (x : SpdmLink) : (setSpdm s p x).side = s.side := rfl
@[simp] theorem setSpdm_damson (s : State) (p : SpdmPath) (x : SpdmLink) : (setSpdm s p x).damson = s.damson := rfl
@[simp] theorem rd_setSpdm (s : State) (p : SpdmPath) (x : SpdmLink) (rr : Reg) (ri : Nat) : rd (setSpdm s p x) rr ri = rd s rr ri := rfl

/-- emit appends. -/
@[simp] theorem emit_out (s : State) (o : Output) : (emit s o).out = s.out ++ [o] := rfl

end Sys2Proof.Machine
end

