-- ==== Sys2Proof/WellFormed.lean ====
section
/-!
DEFINITION. Sys2Proof/WellFormed.lean: the operands a command can carry. Numbers of cores, queues, ports and the like lie in the ranges that the spec gives
them, packet header fields in the widths of Table 11.4, register accesses in CSR space; an index into a list of what waits may be any number.
-/
namespace Sys2Proof

/-- The header fields of Table 11.4 fit their widths. -/
def pktWf (p : Pkt) : Bool :=
  decide (p.ptype < 256) && decide (p.vc < 4) && decide (p.detourDim < 4) && decide (p.len < 8192) && decide (p.dst < 65536) && decide (p.src < 65536) &&
  decide (p.job < 4096) && decide (p.ctx < 8192) && decide (p.tag < 16384) && decide (p.status < 256) && decide (p.epoch < 256) &&
  decide (p.step < 2 ^ 32) && decide (p.psn < 2 ^ 24) && decide (p.hops < 256) && decide (p.addr < 2 ^ 40) && decide (p.aux < 2 ^ 24)

/-- A flit's trailer fits Table 11.2. -/
def flitWf (f : Flit) : Bool := f.data.length == 2048 && f.trailer.length == 8

/-- A scalar unit's number is a logical core's. -/
def readerWf : Reader → Bool
  | .host => true
  | .pip => true
  | .core l => decide (l < 512)

/-- A management command's source and tag fit a packet's, its session is one of 16, its parameters at most 4,096 bytes. -/
def mgmtWf (r : MgmtReq) : Bool :=
  decide (r.params.length ≤ 4096) && decide (r.seq < 2 ^ 64) && (r.session.map (fun n => decide (n < 16))).getD true &&
  (match r.route with
   | .mailbox => true
   | .sideband => true
   | .packet src tag => decide (src < 65536) && decide (tag < 16384))

/-- An SPDM request's path and session, its parameters of one byte, and a key of X and Y where there is one. -/
def spdmWf (r : SpdmReq) : Bool :=
  decide (r.param1 < 256) && decide (r.param2 < 256) && decide (r.seq < 2 ^ 64) && (r.session.map (fun n => decide (n < 16))).getD true &&
  (r.key.length == 0 || r.key.length == 96) &&
  (match r.path with
   | .packet src tag => decide (src < 65536) && decide (tag < 16384)
   | _ => true)

/-- A sideband message's instance number has 5 bits. -/
def sbWf (r : SbReq) : Bool := decide (r.inst < 32)

/-- A host access to the HDM window or BAR2 lies within one 64-byte line. -/
def lineWf (addr len : Nat) : Bool := decide (1 ≤ len) && decide (addr % 64 + len ≤ 64) && decide (addr + len ≤ 2 ^ 64)

/-- A ring entry has at most 64 bytes. -/
def ringDataWf : RingData → Bool
  | .entry d => decide (d.length ≤ 64)
  | .poison => true
  | .error => true

/-- A ring's number is a queue's. -/
def hostReadWf : HostReqId → Bool
  | .ring q => decide (q < 32768)
  | .source => true

/-- The identity and lanes a port trains to. -/
def trainWf : TrainResult → Bool
  | .linked id lanes => decide (lanes < 16) && decide (id.dev < 65536) && decide (id.port < 16) && decide (id.serial < 2 ^ 64) && decide (id.dims < 65536)
  | _ => true

/-- Trims of four dies; failed stacks of twelve. -/
def stageWf : StageResult → Bool
  | .trimmed t => t.length == 4 && t.all (fun x => decide (x ≤ 30))
  | .stacks m => decide (m < 4096)
  | _ => true

/-- A unit of the known-answer run. -/
def katUnitWf : KatUnit → Bool
  | .engine phys e => decide (phys < 544) && decide (e < 5)
  | .unit c u => decide (c < 32) && decide (u < 4)
  | .adder n => decide (n < 4)

/-- A fitting: a variant of Table 0.1, an LC pattern of Table 16.6, hashes of 48 bytes. -/
def fittingWf (f : Fitting) : Bool :=
  decide (1 ≤ f.variant ∧ f.variant ≤ 3) && decide (f.stepping < 256) && decide (f.serial < 2 ^ 64) && [0, 1, 3, 7, 15].contains f.lc &&
  f.uds.length == 48 && f.fwKey.length == 48 && f.mfgKey.length == 48 && f.damsonKey.length == 48

/-- An I/O die has a number below four. -/
def clockWf : RefClk → Bool
  | .fabric d => decide (d < 4)
  | _ => true

/-- The operands of a command are in range. -/
def Instr.wf : Instr → Bool
  | .qimgStart vec => decide (vec < 2048)
  | .qimgVerifyOnly vec => decide (vec < 2048)
  | .loadVerifyPassEnd _ => true
  | .loadFeedQueryTimeout => true
  | .loadApplyPassEnd _ => true
  | .scalarInstruction core => decide (core < 512)
  | .ecall core => decide (core < 512)
  | .progDoneSet core => decide (core < 512)
  | .tdIssue core => decide (core < 512)
  | .tdFence core => decide (core < 512)
  | .tdResume core => decide (core < 512)
  | .tdStat core => decide (core < 512)
  | .tkRead core => decide (core < 512)
  | .tkSet core => decide (core < 512)
  | .tkAdd core => decide (core < 512)
  | .tkWait core => decide (core < 512)
  | .tkWaitTimeout core => decide (core < 512)
  | .nsRead core => decide (core < 512)
  | .copy core ctx => decide (core < 512) && decide (ctx < 2)
  | .gather core ctx => decide (core < 512) && decide (ctx < 2)
  | .scatterAdd core ctx => decide (core < 512) && decide (ctx < 2)
  | .matmul core ctx => decide (core < 512) && decide (ctx < 2)
  | .vector core ctx => decide (core < 512) && decide (ctx < 2)
  | .sync core ctx => decide (core < 512) && decide (ctx < 2)
  | .tileWaitTimeout core ctx => decide (core < 512) && decide (ctx < 2)
  | .paramHoldTimeout core ctx => decide (core < 512) && decide (ctx < 2)
  | .probeHoldRelease _ => true
  | .remoteExchangeTimeout tag => decide (tag < 16384)
  | .matmulBlock core ctx seq => decide (core < 512) && decide (ctx < 2) && decide (seq < 2 ^ 32)
  | .shadowDone core ctx seq => decide (core < 512) && decide (ctx < 2) && decide (seq < 2 ^ 32)
  | .sparseFallback core ctx seq => decide (core < 512) && decide (ctx < 2) && decide (seq < 2 ^ 32)
  | .tileComplete core ctx seq => decide (core < 512) && decide (ctx < 2) && decide (seq < 2 ^ 32)
  | .tokenSignalApply _ => true
  | .c0Resume core => decide (core < 512)
  | .c0Flush core => decide (core < 512)
  | .c1Resume core => decide (core < 512)
  | .c1Flush core => decide (core < 512)
  | .c0CringTailWrite core tail => decide (core < 512) && decide (tail < 2 ^ 16)
  | .c0CringConfigWrite core base log2 => decide (core < 512) && decide (base < 2 ^ 21) && decide (log2 < 16)
  | .predClear core => decide (core < 512)
  | .nop core => decide (core < 512)
  | .endProg core => decide (core < 512)
  | .sli core => decide (core < 512)
  | .saddi core => decide (core < 512)
  | .sadd core => decide (core < 512)
  | .smul core => decide (core < 512)
  | .sshli core => decide (core < 512)
  | .sshri core => decide (core < 512)
  | .sbnz core => decide (core < 512)
  | .sblt core => decide (core < 512)
  | .sld core => decide (core < 512)
  | .scnt core => decide (core < 512)
  | .svext core => decide (core < 512)
  | .pwhile core => decide (core < 512)
  | .pand core => decide (core < 512)
  | .por core => decide (core < 512)
  | .pxor core => decide (core < 512)
  | .pnot core => decide (core < 512)
  | .vcmp core => decide (core < 512)
  | .vadd core => decide (core < 512)
  | .vsub core => decide (core < 512)
  | .vmul core => decide (core < 512)
  | .vfma core => decide (core < 512)
  | .vfnma core => decide (core < 512)
  | .vdiv core => decide (core < 512)
  | .vsqrt core => decide (core < 512)
  | .vmin core => decide (core < 512)
  | .vmax core => decide (core < 512)
  | .vabs core => decide (core < 512)
  | .vneg core => decide (core < 512)
  | .vfmawl core => decide (core < 512)
  | .vfmawh core => decide (core < 512)
  | .vdot4 core => decide (core < 512)
  | .vmov core => decide (core < 512)
  | .vsel core => decide (core < 512)
  | .vperm core => decide (core < 512)
  | .vdups core => decide (core < 512)
  | .viota core => decide (core < 512)
  | .viadd core => decide (core < 512)
  | .visub core => decide (core < 512)
  | .vimul core => decide (core < 512)
  | .viand core => decide (core < 512)
  | .vior core => decide (core < 512)
  | .vixor core => decide (core < 512)
  | .vishl core => decide (core < 512)
  | .vishr core => decide (core < 512)
  | .vcvt core => decide (core < 512)
  | .vcvtfi core => decide (core < 512)
  | .vcvtif core => decide (core < 512)
  | .vrsum core => decide (core < 512)
  | .vrssq core => decide (core < 512)
  | .vrmv core => decide (core < 512)
  | .vmvmerge core => decide (core < 512)
  | .vsegsum core => decide (core < 512)
  | .vrmaxi core => decide (core < 512)
  | .vrmini core => decide (core < 512)
  | .vsmrow core => decide (core < 512)
  | .vsmexp core => decide (core < 512)
  | .vsmsum core => decide (core < 512)
  | .vexp2 core => decide (core < 512)
  | .vlog2 core => decide (core < 512)
  | .vrcp core => decide (core < 512)
  | .vrsqrt core => decide (core < 512)
  | .vtanh core => decide (core < 512)
  | .verf core => decide (core < 512)
  | .vld core => decide (core < 512)
  | .vst core => decide (core < 512)
  | .vldb core => decide (core < 512)
  | .vgather core => decide (core < 512)
  | .vscatter core => decide (core < 512)
  | .vscatadd core => decide (core < 512)
  | .vstc core => decide (core < 512)
  | .pld core => decide (core < 512)
  | .pst core => decide (core < 512)
  | .vinstrBudgetExceeded core => decide (core < 512)
  | .sample queue => decide (queue < 32768)
  | .heldSampleAccept queue => decide (queue < 32768)
  | .sampleCommit cluster block => decide (cluster < 32) && decide (block < 2 ^ 40)
  | .release queue => decide (queue < 32768)
  | .drawReq pkt => pktWf pkt
  | .remoteDrawTimeout tag => decide (tag < 16384)
  | .qentryBadOp queue => decide (queue < 32768)
  | .sort queue => decide (queue < 32768)
  | .sortComplete cluster => decide (cluster < 32)
  | .fetch queue => decide (queue < 32768)
  | .fetchComplete _ => true
  | .rowReq pkt => pktWf pkt
  | .peerRowTimeout tag => decide (tag < 16384)
  | .contrib pkt => pktWf pkt
  | .updateHoldTimeout _ => true
  | .updateStepClose table step => decide (table < 65536) && decide (step < 2 ^ 32)
  | .updateCloseTimeout table => decide (table < 65536)
  | .migStart vec => decide (vec < 2048)
  | .migDrainDone => true
  | .migCopyDone => true
  | .migFenceHoldTimeout _ => true
  | .paramPrefetch core => decide (core < 512)
  | .apply doorbell => decide (doorbell < 2 ^ 32)
  | .openRegions doorbell => decide (doorbell < 2 ^ 32)
  | .closeRegions doorbell => decide (doorbell < 2 ^ 32)
  | .closeReadersDone job => decide (job < 4096)
  | .applySliceStart core job => decide (core < 512) && decide (job < 4096)
  | .applySliceCommit core => decide (core < 512)
  | .patrolScrub unit => decide (unit < 576)
  | .stackLost stack => decide (stack < 12)
  | .wipeDone bad => bad.all (fun a => decide (a < 2 ^ 40))
  | .hdmRead addr len _ => lineWf addr len
  | .hdmWrite addr data enables _ _ => lineWf addr data.length && (enables.length == data.length)
  | .injectArm word => decide (word < 2 ^ 32)
  | .trainingAttempt port => decide (port < 16)
  | .trainingEnd port result => decide (port < 16) && trainWf result
  | .downPortRetry port => decide (port < 16)
  | .linkLoss port _ => decide (port < 16)
  | .portRecordTimer port => decide (port < 16)
  | .flitReceive port flit => decide (port < 16) && flitWf flit
  | .flitAckTimeout port => decide (port < 16)
  | .flitAckTimer port => decide (port < 16)
  | .creditReturnTimer port => decide (port < 16)
  | .linkCtrl port pkt => decide (port < 16) && pktWf pkt
  | .ident port pkt => decide (port < 16) && pktWf pkt
  | .packetTransit port pkt path => decide (port < 16) && pktWf pkt && decide (path < 3)
  | .write pkt => pktWf pkt
  | .read pkt => pktWf pkt
  | .probe pkt => pktWf pkt
  | .token pkt => pktWf pkt
  | .qpost pkt => pktWf pkt
  | .resp pkt => pktWf pkt
  | .ctxAck pkt => pktWf pkt
  | .ctxRetxTimeout pctx => decide (pctx < 8192)
  | .peerOpen vec => decide (vec < 2048)
  | .peerClose vec => decide (vec < 2048)
  | .ctxOpen pkt => pktWf pkt
  | .ctxOpenAck pkt => pktWf pkt
  | .ctxOpenResendTimeout pctx => decide (pctx < 8192)
  | .peerCloseDrainDone pctx => decide (pctx < 8192)
  | .peerCloseTimeout pctx => decide (pctx < 8192)
  | .ctxClose pkt => pktWf pkt
  | .tagQuarantineEnd tag => decide (tag < 16384)
  | .mboxStart vec => decide (vec < 2048)
  | .mboxTimeout => true
  | .mgmtResponse pkt => pktWf pkt
  | .mgmtSessionIdleTimeout session => decide (session < 16)
  | .identify req => mgmtWf req
  | .feedQuery req => mgmtWf req
  | .spdm req => mgmtWf req
  | .portReport req => mgmtWf req
  | .setTorus req => mgmtWf req
  | .setId req => mgmtWf req
  | .imageLoad req => mgmtWf req
  | .reset req => mgmtWf req
  | .portCtrlRetrain req => mgmtWf req
  | .portCtrlDisable req => mgmtWf req
  | .portCtrlEnable req => mgmtWf req
  | .imageRead req => mgmtWf req
  | .redPost core => decide (core < 512)
  | .redLeafRead cluster => decide (cluster < 32)
  | .red pkt => pktWf pkt
  | .fail pkt => pktWf pkt
  | .nack pkt => pktWf pkt
  | .marker pkt => pktWf pkt
  | .backupTimeout _ => true
  | .redWaitTimeout _ _ => true
  | .epochSwStart word => decide (word < 2 ^ 32)
  | .suspect pkt => pktWf pkt
  | .suspectEntryTimer entry => decide (entry < 256)
  | .suspectEntryExpiry entry => decide (entry < 256)
  | .susValidClear entry => decide (entry < 256)
  | .queueEnable queue => decide (queue < 32768)
  | .queueDisable queue => decide (queue < 32768)
  | .submissionDoorbell queue value => decide (queue < 32768) && decide (value < 2 ^ 32)
  | .completionDoorbell queue value => decide (queue < 32768) && decide (value < 2 ^ 32)
  | .ringFetch queue entry => decide (queue < 32768) && ringDataWf entry
  | .intHoldoffExpiry vec => decide (vec < 2048)
  | .evqEnable word => decide (word < 2 ^ 32)
  | .evqHeadWrite value => decide (value < 2 ^ 15)
  | .hdmDecoderCommit decoder base size ways skip _ => decide (decoder < 2) && decide (base < 2 ^ 64) && decide (size < 2 ^ 64) && decide (ways < 16) && decide (skip < 2 ^ 64)
  | .doeRequest inst _ => decide (inst < 2)
  | .doeAbort inst => decide (inst < 2)
  | .cxlLinkUp _ width speed => (width == 4 || width == 8 || width == 16) && decide (speed < 16)
  | .dlActiveLoss => true
  | .perstNFall => true
  | .perstNRise => true
  | .completionTimeout target => hostReadWf target
  | .cut slot => decide (slot < 64)
  | .frameBegin pkt => pktWf pkt
  | .frameEnd pkt => pktWf pkt
  | .frameAck pkt => pktWf pkt
  | .heartbeat pkt => pktWf pkt
  | .heartbeatTimer slot => decide (slot < 64)
  | .partnerSilenceTimeout slot => decide (slot < 64)
  | .rebind slot => decide (slot < 64)
  | .refillStart slot => decide (slot < 64)
  | .refillReq pkt => pktWf pkt
  | .refillGrant pkt => pktWf pkt
  | .refillComplete pkt => pktWf pkt
  | .refillDone pkt => pktWf pkt
  | .ckptAck slot step => decide (slot < 64) && decide (step < 2 ^ 32)
  | .replayArm slot => decide (slot < 64)
  | .zestReport pkt => pktWf pkt
  | .zestVerdict pkt => pktWf pkt
  | .zestHoldTimeout slot => decide (slot < 64)
  | .damsonLoad vec _ => decide (vec < 2048)
  | .damsonPattern core _ => decide (core < 512)
  | .powerOn feed smb fit => decide (feed < 16) && decide (smb < 256) && ((fit.map fittingWf).getD true)
  | .bringupStageDone result => stageWf result
  | .fwChunkReport phys missing _ => decide (phys < 544) && decide (missing < 2 ^ 16)
  | .fwReportTimeout phys => decide (phys < 544)
  | .katDone unit crc => katUnitWf unit && decide (crc < 2 ^ 32)
  | .katTimeout phys => decide (phys < 544)
  | .coreReset target reason => decide (target < 512) && decide (reason < 256)
  | .clusterReset target reason => decide (target < 32) && decide (reason < 256)
  | .partitionReset target reason => decide (target < 2 ^ 32) && decide (reason < 256)
  | .deviceWarmReset reason => decide (reason < 256)
  | .deviceColdReset reason => decide (reason < 256)
  | .quiesceDone => true
  | .quiesceTimeout => true
  | .forceAckTimeout block => decide (block < 640)
  | .boundaryDrainDone => true
  | .sysRstNInput => true
  | .sysRstNStretchEnd => true
  | .pipWatchdog => true
  | .thermTrip => true
  | .pwrGoodFall => true
  | .fwStageStart vec _ => decide (vec < 2048)
  | .recoveryWrite req => mgmtWf req
  | .recoveryCommit req => mgmtWf req
  | .stoneInfo req => mgmtWf req
  | .stoneRead req => mgmtWf req
  | .stoneRdIndexWrite index => decide (index < 65536)
  | .stoneRecordWrite => true
  | .keyEnroll req => spdmWf req
  | .keyRevoke req => spdmWf req
  | .setSigRequired req => spdmWf req
  | .raiseMinSvn req => spdmWf req
  | .lcTransition req => spdmWf req
  | .getSealedDevid req => spdmWf req
  | .getVersion req => spdmWf req
  | .getCapabilities req => spdmWf req
  | .negotiateAlgorithms req => spdmWf req
  | .getDigests req => spdmWf req
  | .getCertificate req => spdmWf req
  | .challenge req => spdmWf req
  | .getMeasurements req => spdmWf req
  | .keyExchange req => spdmWf req
  | .finish req => spdmWf req
  | .heartbeatSpdm req => spdmWf req
  | .keyUpdate req => spdmWf req
  | .endSession req => spdmWf req
  | .chunkSend req => spdmWf req
  | .chunkGet req => spdmWf req
  | .setEndpointId req => sbWf req
  | .getEndpointId req => sbWf req
  | .getMctpVersionSupport req => sbWf req
  | .getMessageTypeSupport req => sbWf req
  | .getVendorDefinedMessageSupport req => sbWf req
  | .gettid req => sbWf req
  | .settid req => sbWf req
  | .getpldmversion req => sbWf req
  | .getpldmtypes req => sbWf req
  | .getpldmcommands req => sbWf req
  | .getpdrrepositoryinfo req => sbWf req
  | .getpdr req => sbWf req
  | .getsensorreading req => sbWf req
  | .getstatesensorreadings req => sbWf req
  | .seteventreceiver req => sbWf req
  | .eventmessagesupported req => sbWf req
  | .eventmessagebuffersize req => sbWf req
  | .pollforplatformeventmessage req => sbWf req
  | .sensorSample sensor reading => decide (sensor < 256) && decide (reading < 2 ^ 32)
  | .opReq value => decide (value < 4)
  | .powerLimit value => decide (value < 2 ^ 16)
  | .opMoveStep _ => true
  | .paceMonitorRead slack _ => (slack.length == 4)
  | .powerWindowEnd watts => decide (watts < 2 ^ 16)
  | .railFaultAlert rail => decide (rail < 32)
  | .refclkLoss clock => clockWf clock
  | .rcRead reader offset width => readerWf reader && decide (offset < 0x4000000) && [8, 16, 32, 64].contains width
  | .csrHalfRead reader offset => readerWf reader && decide (offset < 0x4000000)
  | .csrWrite reader offset width value => readerWf reader && decide (offset < 0x4000000) && [8, 16, 32, 64].contains width && decide (value < 2 ^ width)
  | .ctxAckTimer pctx => decide (pctx < 8192)
  | .imageReadTimeout tag => decide (tag < 16384)
  | .rebindFeedQueryTimeout slot => decide (slot < 64)
  | .computeDieLost die => decide (die < 4)

end Sys2Proof
end

