-- ==== Sys2Proof/Tests/Slice0.lean ====
section
/-!
SUPPORT. Sys2Proof/Tests/Slice0.lean: states that meet the hypotheses of the statements, ill-formed commands that WellFormed refuses, and known answers
from the spec's examples and from the published check values of its functions.
-/
open Sys2Proof Sys2Proof.Machine


theorem test_wit_empty_queue : State.reset.pending = [] := rfl

theorem test_wit_register_other : ¬ ((Reg.satCnt : Reg) = Reg.satCnt ∧ (1 : Nat) = 0) ∧ rd State.reset .absorbCnt 0 ≤ regMax .absorbCnt := by decide


theorem test_wit_load_starts : rd (wrs (wr State.reset .bringupState 0 1) [(.qimgVerifyOnly, 0, 1), (.qimgVector, 0, 5)]) .qimgBusy ≠ 1 ∧
    ready (wrs (wr State.reset .bringupState 0 1) [(.qimgVerifyOnly, 0, 1), (.qimgVector, 0, 5)]) = true ∧
    rd (wrs (wr State.reset .qimgBusy 0 1) [(.qimgVerifyOnly, 0, 0), (.qimgVector, 0, 5)]) .qimgBusy = 1 ∧
    ready (wrs State.reset [(.qimgVerifyOnly, 0, 0), (.qimgVector, 0, 2047)]) = false := by decide

theorem test_wit_load_passes :
    (verifyImage (loadEnv State.reset) (([] : List Byte).take 0) 0).isSome = true ∧
    lowestOff ([((0x1000 : Nat), 3, 7)].map (fun a => some a.1)) = some 0x1000 ∧
    Nat.land 3 (loadTargets ⟨.host, 16, false, 2, zeros 10 ++ [1, 0] ++ toLE 4 2, [], [], [], none, 3⟩) ≠ 0 := by decide

/-- A core whose scalar unit is live in machine mode at its reset pc, with one word there. -/
def tHart (w : Nat) (x : Tbl (BitVec 64)) (user : Bool) : State :=
  let s := wr State.reset .present 0 1
  let s := setCore s 0 { CoreSt.init with hart := { Hart.init with live := true, x := x, user := user, pc := if user then 0x20000 else 0 } }
  { s with mem := putBytes [] (coreBase 0 + if user then 0x20000 else 0) (toLE 4 w) }

theorem test_wit_running : running (tHart 0x00000013 [] false) 0 = true := by decide
/-- lui x1, 0x12345: imm 0x12345, rd 1, opcode 0x37. -/
theorem test_wit_lui : fetchAt (tHart 0x123450B7 [] false) 0 = .op (.lui 1 0x12345000) 4 := by decide
/-- addi x1, x0, -1: imm 0xFFF, rs1 0, funct3 0, rd 1, opcode 0x13. -/
theorem test_wit_addi : fetchAt (tHart 0xFFF00093 [] false) 0 = .op (.opImm false 0 0 1 0 (-1)) 4 := by decide
theorem test_wit_auipc : fetchAt (tHart 0x00001097 [] false) 0 = .op (.auipc 1 0x1000) 4 := by decide
theorem test_wit_jal : fetchAt (tHart 0x008000EF [] false) 0 = .op (.jal 1 8) 4 := by decide
theorem test_wit_jalr : fetchAt (tHart 0x00010067 [] false) 0 = .op (.jalr 0 2 0) 4 := by decide
theorem test_wit_beq : fetchAt (tHart 0x00208463 [] false) 0 = .op (.branch 0 1 2 8) 4 := by decide
theorem test_wit_add : fetchAt (tHart 0x002081B3 [] false) 0 = .op (.opReg false 0 0 3 1 2) 4 := by decide
theorem test_wit_ld : fetchAt (tHart 0x00003083 [] false) 0 = .op (.load 3 1 0 0) 4 ∧
    scalarRead (fetched (tHart 0x00003083 [] false) 0 4) 0 0 8 = (tHart 0x00003083 [] false, .ok 0x3083) ∧
    (scalarRead (fetched (tHart 0x00003083 [] false) 0 4) 0 0x180000 8).2 = .error .fault := by decide
theorem test_wit_sd : fetchAt (tHart 0x00113023 [(2, 0xC000)] false) 0 = .op (.store 3 2 1 0) 4 ∧
    effAddr (hartOf (fetched (tHart 0x00113023 [(2, 0xC000)] false) 0 4) 0) 2 0 = 0xC000 ∧ storeArea false 0xC000 8 = true ∧
    storeArea false 0xBFF8 8 = false ∧ storeArea true 0x1FFFF 8 = false ∧ regArea 0x1FFFF 8 = false := by decide
theorem test_wit_fence : fetchAt (tHart 0x0000000F [] false) 0 = .op .fence 4 := by decide
theorem test_wit_ebreak : fetchAt (tHart 0x00100073 [] false) 0 = .op .ebreak 4 := by decide
theorem test_wit_illegal : fetchAt (tHart 0x00000000 [] false) 0 = .op .illegal 2 := by decide
theorem test_wit_mret : fetchAt (tHart 0x30200073 [] false) 0 = .op .mret 4 := by decide

theorem test_wit_trap : (hartOf (tHart 0 [] false) 0).user = false ∧ (hartOf (tHart 0 [] true) 0).user = true ∧ (5 : Nat) < 2 ^ 64 := by decide

/-- The dispatch operations by Table 3.2: funct7 0, rs2 3, rs1 2, funct3, rd 1, custom-0 or custom-1. -/
def tDisp (f3 op : Nat) : Nat := 3 * 2 ^ 20 + 2 * 2 ^ 15 + f3 * 2 ^ 12 + 1 * 2 ^ 7 + op
theorem test_wit_dispatch : [(0, 0x0B), (1, 0x0B), (2, 0x0B), (3, 0x0B), (0, 0x2B), (1, 0x2B), (2, 0x2B), (3, 0x2B), (4, 0x2B)].map
    (fun e => decodeRv (tDisp e.1 e.2)) =
    [.tdIssue 1 2, .tdFence 1, .tdResume 2, .tdStat 1, .tkRead 1 2, .tkSet 2 3, .tkAdd 2 3, .tkWait 1 2 3, .nsRead 1] := by decide
theorem test_wit_td_issue : running (tHart (tDisp 0 0x0B) [(2, 0x20000)] true) 0 = true ∧
    fetchAt (tHart (tDisp 0 0x0B) [(2, 0x20000)] true) 0 = .op (.tdIssue 1 2) 4 ∧
    (coreSt (tHart (tDisp 0 0x0B) [(2, 0x20000)] true) 0).c0.queue.length < 64 := by decide
theorem test_wit_ecall : fetchAt (tHart 0x00000073 [] true) 0 = .op .ecall 4 ∧ running (tHart 0x00000073 [] true) 0 = true ∧
    (hartOf (fetched (tHart 0x00000073 [] true) 0 4) 0).user = true ∧ getX (hartOf (fetched (tHart 0x00000073 [(17, 1)] true) 0 4) 0) 17 ≠ 0 := by decide
theorem test_wit_td_fence : ctx0Empty (fetched (tHart (tDisp 1 0x0B) [] true) 0 4) 0 = true := by decide

theorem test_wit_tk_wait : (hartOf (setHart State.reset 3 { Hart.init with tkWait := some (5, 47, 9), ended := true }) 3).tkWait = some (5, 47, 9) ∧
    ctx0Empty (setHart State.reset 3 { Hart.init with ended := true }) 3 = true := by decide


/-- Core 0 of job 1 in a RUNNING partition with one tile of LEN n in context 0 or 1. -/
def tTile (op k n : Nat) : State :=
  let s := wrs State.reset [(.present, 0, 1), (.qimgPartState, 0, 2)]
  let s := { s with bound := { Bound.empty with cores := [⟨0, 0, 0, 1, some 1, 0xFFFF⟩] } }
  let q := mkQTile 7 (toLE 1 op ++ zeros 0x27 ++ toLE 4 n ++ zeros 20)
  setCore s 0 (CoreSt.init.setCtx k { Ctx.init with queue := [q] })

theorem test_wit_tile_go : [1, 2, 3, 4, 5, 6].map (fun op => startVerdict (tTile op 0 64) 0 0 op) = [.go, .go, .go, .go, .go, .go] ∧
    startVerdict (tTile 6 1 64) 0 1 6 = .go ∧ ctxJob (tTile 6 1 64) 0 1 = some 1 ∧ ctx0First (tTile 6 1 64) 0 31 = false ∧
    (headTile (tTile 6 0 64) 0 0).isSome = true ∧ scatterBusy (tTile 3 0 64) 0 0 = false ∧
    unitWaits (tTile 2 0 64) (.gather 0) = false ∧ unitWaits (tTile 3 0 64) (.sorter 0) = false := by decide

theorem test_wit_tile_held : startVerdict (tTile 6 0 0) 0 0 opSync = .go ∧ startVerdict (tTile 6 0 64) 0 0 opCopy = .notDue ∧
    startVerdict (setCore (tTile 1 0 64) 0 { coreSt (tTile 1 0 64) 0 with c1 := { Ctx.init with flight := [mkFTile (mkQTile 0 []) 0 [(0, 64, true)] .busy false] } }) 0 0 opCopy = .heldHazard ∧
    startVerdict { tTile 1 0 64 with blocks := [⟨0, 0, 64, 1, 1, 0, true⟩] } 0 0 opCopy = .ends .permission none := by decide

theorem test_wit_tile_wait : tileWaitOk (tTile 6 0 0) 0 (toLE 1 6 ++ zeros 7 ++ toLE 1 0x40 ++ zeros 3 ++ toLE 4 5 ++ zeros 48) = false ∧
    (probeVerdict State.reset ({ ptype := ptProbe, addr := 0x40 } : Pkt)).isSome = true := by decide

theorem test_wit_tile_done : (flightTile (setCore State.reset 0 { CoreSt.init with c0 := { Ctx.init with flight := [mkFTile (mkQTile 3 []) 0 [] (.done .ok 0) false] } }) 0 0 3).isSome = true ∧
    resetting (wr (tTile 6 0 0) .logicalCoreCount 0 480) 0 = false ∧ corePresent (wr (tTile 6 0 0) .logicalCoreCount 0 480) 0 = true ∧
    ctrOwned (wr (tTile 6 0 0) .logicalCoreCount 0 480) 0 47 1 = true ∧ ctrOwned (wr (tTile 6 0 0) .logicalCoreCount 0 480) 0 47 2 = false ∧
    corePresent (tTile 6 0 0) 1 = false := by decide

theorem test_wit_token : waitOk 0 0xFFFFFFFF = true ∧ waitOk 0x7FFFFFFF 0 = true ∧ waitOk 0x80000000 0 = false ∧ ¬ ((0 : Nat) = 0 ∧ (63 : Nat) = 62) := by decide

/-- A MATMUL in flight on core 0. -/
def tMat (m : MatRun) : State :=
  setCore (tTile 4 0 64) 0 { CoreSt.init with c0 := { Ctx.init with flight := [mkFTile (mkQTile 7 []) 8 [] .busy false] }, mats := [m] }
theorem test_wit_mat : (matOf (tMat ⟨0, 7, false, 0, [3], [5], 0, 0, false, false, 0, 0, []⟩) 0 0 7).isSome = true ∧
    (flightTile (tMat ⟨0, 7, false, 0, [3], [5], 0, 0, false, false, 0, 0, []⟩) 0 0 7).isSome = true ∧
    ctxJob (tMat ⟨0, 7, false, 0, [3], [5], 0, 0, false, false, 0, 0, []⟩) 0 0 = some 1 ∧
    ((coreSt (tMat ⟨0, 7, false, 0, [3], [5], 0, 0, false, false, 0, 0, []⟩) 0).veng.job == some (0, 7) && (coreSt (tMat ⟨0, 7, false, 0, [3], [5], 0, 0, false, false, 0, 0, []⟩) 0).veng.run) = false := by decide

theorem test_wit_cring : (coreSt State.reset 511).c0.queue = [] ∧ (coreSt State.reset 511).c0.flight = [] ∧ (0x20000 : Nat) % 16 = 0 ∧ 0x20000 + 16 * 2 ^ 12 ≤ (0x180000 : Nat) ∧
    ¬ (0x20000 = rd State.reset .c0CringBase 511 ∧ 12 = rd State.reset .c0CringLog2 511) := by decide


theorem vrun_aux {c : Nat → Instr} {opc : Nat} {ok : Nat → Bool} {f : State → VEng → Nat → VRes} (hk : vKnown opc = true)
    (hc : ∀ l s, exec (c l) s = vInstr opc ok f l s) : vRuns c opc ok f := by
  rintro s u l k seq w ⟨h1, h2, h3, h4, b, h5, h6⟩ hw
  have e : vstep s l opc (vChecked ok f) = 
      (let r := vChecked ok f u (vAfter s l) w
       match r.fault with
       | some st => vFault (vCountUp r.s l k seq r.sat r.nan) l k seq st (coreSt s l).veng.pc opc
       | none => setVeng (vCountUp r.s l k seq r.sat r.nan) l r.e) := by
    unfold vstep vAfter
    simp only [h1]
    rw [if_neg (by simp [h2]; omega), if_neg (by omega), h5]
    simp only [h6, hw, hk]
    rw [if_neg (by simp), if_neg (by simp)]
    all_goals (cases (vChecked ok f u _ w).fault <;> rfl)
  have z : vCountUp u l k seq 0 0 = u := by
    unfold vCountUp countSat
    cases flightTile u l k seq <;> rfl
  dsimp only
  refine ⟨?_, ?_, ?_⟩
  · intro h7 h8
    rw [hc, vInstr, e]
    simp only [vChecked, h7, if_true, h8]
  · intro st h7 h8
    rw [hc, vInstr, e]
    simp only [vChecked, h7, if_true, h8]
  · intro h7
    rw [hc, vInstr, e]
    simp only [vChecked, h7, Bool.false_eq_true, if_false, VRes.bad, z]

/-- Core 0's vector engine before the word w, its window A of n bytes at the core's store. -/
def tVec (w n cnt : Nat) : State :=
  let s := setCore State.reset 0 { CoreSt.init with veng := { VEng.idle with job := some (0, 5), run := true, winA := (coreBase 0, n), budget := 1, count := cnt } }
  { s with mem := putBytes [] (coreBase 0) (toLE 8 w) }
/-- What reading that word leaves. -/
def tVecRead (w : Nat) : State × Except Nat (List Byte) := readMem (tVec w 8 65535) (coreBase 0) 8

theorem test_wit_VectorScalarOps : [((fun w => sqOk w true false false false (true)) 2),
    ((fun w => sqOk w true true false false (true)) 3),
    ((fun w => sqOk w true true true false (sqImm w == 0)) 4),
    ((fun w => sqOk w true true true false (sqImm w == 0)) 5),
    ((fun w => sqOk w true true false false (bits (sqImm w) 31 6 == 0)) 6),
    ((fun w => sqOk w true true false false (bits (sqImm w) 31 6 == 0)) 7),
    ((fun w => sqOk w false true false false (true)) 8),
    ((fun w => sqOk w false true true false (true)) 9),
    ((fun w => sqOk w true true false true (true)) 10),
    ((fun w => sqOk w true true false false (sqS1 w < 8 && sqImm w ≤ 1)) 11),
    ((fun w => sqOk w true false false false (!bit (sqImm w) 7 && bits (sqImm w) 31 13 == 0)) 12),
    ((fun w => sqOk w false false false false (sqImm w == 0)) 0)].all (fun b => b) = true := by decide

/-- Reading the word leaves a state, and the engine stands before the word. -/
theorem test_wit_vector_due : (coreSt (tVec 0x02 8 65535) 0).veng.job = some (0, 5) ∧ (coreSt (tVec 0x02 8 65535) 0).veng.count < 1 * 65536 ∧
    (match (tVecRead 0x0000123400000102).2 with | .ok b => leNat b | .error _ => 0) = 0x0000123400000102 := by decide

theorem test_wit_VectorPredicateAndIntegerOps : [((fun w => vvOk w fmtAny false 2 0 0 0 [0] true (vImm w == 0)) 16),
    ((fun w => vvOk w [0] false 2 2 2 0 [0] false (vImm w == 0)) 17),
    ((fun w => vvOk w [0] false 2 2 2 0 [0] false (vImm w == 0)) 18),
    ((fun w => vvOk w [0] false 2 2 2 0 [0] false (vImm w == 0)) 19),
    ((fun w => vvOk w [0] false 2 2 0 0 [0] false (vImm w == 0)) 20),
    ((fun w => vvOk w [0, 1, 2, 3] true 2 1 1 0 [0] false (if vFmt w = 0 then vImm w ≤ 3 else vImm w ≤ 4)) 21),
    ((fun w => vvOk w fmtAny true 1 1 0 0 [0] false (vImm w == 0)) 48),
    ((fun w => vvOk w fmtAny true 1 1 1 0 [0] false (vImm w == 0)) 49),
    ((fun w => vvOk w [0] true 1 1 1 0 [0] false (vImm w == 0)) 50),
    ((fun w => vvOk w [0] true 1 0 0 0 [0] true (vImm w == 0)) 51),
    ((fun w => vvOk w [0] true 1 0 0 0 [0] true (vImm w == 0)) 52),
    ((fun w => vvOk w [0] true 1 1 1 0 [0] false (vImm w == 0)) 56),
    ((fun w => vvOk w [0] true 1 1 1 0 [0] false (vImm w == 0)) 57),
    ((fun w => vvOk w [0] true 1 1 1 0 [0] false (vImm w == 0)) 58),
    ((fun w => vvOk w [0] true 1 1 1 0 [0] false (vImm w == 0)) 59),
    ((fun w => vvOk w [0] true 1 1 1 0 [0] false (vImm w == 0)) 60),
    ((fun w => vvOk w [0] true 1 1 1 0 [0] false (vImm w == 0)) 61),
    ((fun w => vvOk w [0] true 1 1 1 0 [0] false (vImm w == 0)) 62),
    ((fun w => vvOk w [0] true 1 1 1 0 [0] false (vImm w == 0)) 63)].all (fun b => b) = true := by decide

theorem test_wit_VectorFloatOps : [((fun w => vvOk w [1, 2, 3] true 1 1 1 0 [0, 1] false (vImm w == 0)) 288),
    ((fun w => vvOk w [1, 2, 3] true 1 1 1 0 [0, 1] false (vImm w == 0)) 289),
    ((fun w => vvOk w [1, 2, 3] true 1 1 1 0 [0, 1] false (vImm w == 0)) 290),
    ((fun w => vvOk w [1, 2, 3] true 1 1 1 1 [0, 1] false (vImm w == 0)) 291),
    ((fun w => vvOk w [1, 2, 3] true 1 1 1 1 [0, 1] false (vImm w == 0)) 292),
    ((fun w => vvOk w [1, 2, 3] true 1 1 1 0 [0, 1] false (vImm w == 0)) 293),
    ((fun w => vvOk w [1, 2, 3] true 1 1 0 0 [0, 1] false (vImm w == 0)) 294),
    ((fun w => vvOk w [1, 2, 3] true 1 1 1 0 [0] false (vImm w == 0)) 295),
    ((fun w => vvOk w [1, 2, 3] true 1 1 1 0 [0] false (vImm w == 0)) 296),
    ((fun w => vvOk w [1, 2, 3] true 1 1 0 0 [0] false (vImm w == 0)) 297),
    ((fun w => vvOk w [1, 2, 3] true 1 1 0 0 [0] false (vImm w == 0)) 298),
    ((fun w => vvOk w [1, 2] true 1 1 1 1 [0, 1] false (vImm w == 0)) 299),
    ((fun w => vvOk w [1, 2] true 1 1 1 1 [0, 1] false (vImm w == 0)) 300),
    ((fun w => vvOk w [4] true 1 1 1 1 [0, 1] false (vImm w == 0)) 1069),
    ((fun w => vvOk w [1, 2, 3, 4] true 1 1 0 0 [0, 1] false (cvtOk w)) 844424930132288),
    ((fun w => vvOk w [3] true 1 1 0 0 [0, 2] false (vImm w == 0)) 833),
    ((fun w => vvOk w [3] true 1 1 0 0 [0, 1] false (vImm w == 0)) 834),
    ((fun w => vvOk w [1, 2, 3] true 1 1 0 0 (if vFmt w = 3 then [0] else [0, 1]) false (vImm w == 0)) 352),
    ((fun w => vvOk w [1, 2, 3] true 1 1 0 0 (if vFmt w = 3 then [0] else [0, 1]) false (vImm w == 0)) 353),
    ((fun w => vvOk w [1, 2, 3] true 1 1 0 0 (if vFmt w = 3 then [0] else [0, 1]) false (vImm w == 0)) 354),
    ((fun w => vvOk w [1, 2, 3] true 1 1 0 0 (if vFmt w = 3 then [0] else [0, 1]) false (vImm w == 0)) 355),
    ((fun w => vvOk w [1, 2, 3] true 1 1 0 0 (if vFmt w = 3 then [0] else [0, 1]) false (vImm w == 0)) 356),
    ((fun w => vvOk w [1, 2, 3] true 1 1 0 0 (if vFmt w = 3 then [0] else [0, 1]) false (vImm w == 0)) 357)].all (fun b => b) = true := by decide

theorem test_wit_VectorReductions : [((fun w => vvOk w [3] true 1 1 0 0 [0, 1] false (immG w)) 281474976711504),
    ((fun w => vvOk w [3] true 1 1 0 0 [0, 1] false (immG w)) 281474976711505),
    ((fun w => vvOk w [3] true 4 1 0 0 [0] false (immG w)) 281474976711506),
    ((fun w => vvOk w [3] true 4 4 4 0 [0] false (vImm w == 0)) 851),
    ((fun w => vvOk w [3] true 1 1 0 0 [0, 1] false (vImm w ≤ 15)) 852),
    ((fun w => vvOk w [3] true 3 1 0 0 [0] false (immG w)) 281474976711510),
    ((fun w => vvOk w [3] true 3 1 0 0 [0] false (immG w)) 281474976711511),
    ((fun w => vvOk w [3] true 1 1 1 0 [0] false (immG w)) 281474976711512),
    ((fun w => vvOk w [3] true 1 1 1 0 [0] false (vImm w ≤ 7)) 857),
    ((fun w => vvOk w [3] true 1 1 1 1 [0, 1] false (immG w)) 281474976711514)].all (fun b => b) = true := by decide

theorem test_wit_VectorMemoryOps : [((fun w => vmOk w fmtAny 1 false [0]) 128),
    ((fun w => vmOk w fmtAny 1 false [0]) 134217857),
    ((fun w => vmOk w fmtAny 1 false [0]) 130),
    ((fun w => vmOk w [0, 3] 1 true [0]) 131),
    ((fun w => vmOk w [0, 3] 1 true [0]) 134217860),
    ((fun w => vmOk w [3] 1 true [0, 1]) 134218629),
    ((fun w => vmOk w fmtAny 1 false [0]) 134217862),
    ((fun w => vmOk w fmtAny 2 false [0]) 135),
    ((fun w => vmOk w fmtAny 2 false [0]) 134217864)].all (fun b => b) = true := by decide

theorem test_wit_lanes : ((4 : Nat) = 1 ∨ (4 : Nat) = 2 ∨ (4 : Nat) = 4) ∧ (127 : Nat) < 512 / 4 ∧ (31 : Nat) ≠ 0 := by decide

theorem test_wit_vector_ends : vOpc 1 = 1 ∧ sqOk 1 false false false false (sqImm 1 == 0) = true ∧ vKnown 0x0D = false ∧
    (coreSt (tVec 1 0 0) 0).veng.winA.2 < (coreSt (tVec 1 0 0) 0).veng.pc + 8 ∧
    (coreSt (tVec 1 8 65536) 0).veng.budget * 65536 ≤ (coreSt (tVec 1 8 65536) 0).veng.count := by decide


/-- Job 1 in a RUNNING partition: a unit's queue 9 of cluster 2 with entry d, a completion queue 0, core 0, a table region and a region in the
cluster's gather buffer, a sampling program of cluster 2. -/
def tWorld (d : List Byte) : State :=
  let s := wrs State.reset [(.qimgPartState, 0, 2), (.jobSlotValid, 0, 1), (.jobSlotJobId, 0, 1), (.logicalCoreCount, 0, 480), (.present, 0, 1)]
  { s with
    bound := { Bound.empty with
      queues := [⟨0, 0, 9, 1, 5, 6, 2⟩, ⟨0, 0, 0, 1, 2, 4, 0⟩], cores := [⟨0, 0, 0, 1, none, 0xFFFF⟩]
      regions := [⟨0, 0, 7, 1, 2, false, false, false, false, false, 0, 0x10000, 5⟩, ⟨0, 0, 8, 1, 0, false, false, false, false, false, gbufBase 2, 0x10000, 6⟩]
      samps := [⟨0, 0, 0, 1, 4, 7, 1, 1, 1, [1], [0]⟩] }
    qfifo := [(9, [d])] }
/-- A SAMPLE of Table 5.5 with n bytes of seeds. -/
def tSample (n : Nat) : List Byte := toLE 1 0x10 ++ zeros 11 ++ toLE 4 n ++ zeros 8 ++ toLE 5 (gbufBase 2) ++ zeros 3 ++ toLE 4 0x1000 ++ zeros 28
/-- A SORT of Table 6.2 with n inputs. -/
def tSort (n : Nat) : List Byte :=
  toLE 1 0x20 ++ zeros 1 ++ toLE 2 7 ++ zeros 8 ++ toLE 4 n ++ zeros 8 ++ toLE 5 0x1000 ++ zeros 3 ++ toLE 4 0x1000 ++ toLE 4 0x100 ++ toLE 5 0x4000 ++ zeros 19

/-- A cluster unit's queue 9 of cluster 2 and job 1 with one entry of operation op. -/
def tUnit (op : Nat) (rest : List Byte) : State :=
  let s := wrs State.reset [(.qimgPartState, 0, 2), (.jobSlotValid, 0, 1), (.jobSlotJobId, 0, 1)]
  { s with bound := { Bound.empty with queues := [⟨0, 0, 9, 1, 5, 6, 2⟩], jobs := [] }, qfifo := [(9, [toLE 1 op ++ rest])] }
theorem test_wit_unit_queue : (frontEntry (tUnit 0x10 (zeros 63)) 9).map (fun x => (x.1, x.2.1)) = some (2, 1) ∧ (frontEntry (tUnit 0x11 (zeros 63)) 9).isSome = true ∧
    [0x10, 0x11, 0x20, 0x21].contains (fld (toLE 1 0x12 ++ zeros 63) 0 1) = false ∧ sampCheck (tUnit 0x10 (zeros 63)) 2 1 (toLE 1 0x10 ++ zeros 63) = .permission ∧
    sampHeld (tUnit 0x10 (zeros 63)) 2 1 (zeros 64) = false ∧ clusterResetting (tUnit 0x10 (zeros 63)) 2 = false := by decide
theorem test_wit_sample : sampCheck (tWorld (tSample 8)) 2 1 (tSample 8) = .ok ∧ sampCheck (tWorld (tSample 0)) 2 1 (tSample 0) = .ok ∧
    sampHeld (tWorld (tSample 8)) 2 1 (tSample 8) = false ∧ sSeedBytes (tSample 8) ≠ 0 ∧
    sampHeld { tWorld (toLE 1 0x10 ++ zeros 7 ++ toLE 4 2 ++ zeros 52) with blocks := [⟨2, 0x40, 64, 1, 0, 0, true⟩] } 2 1 (toLE 1 0x10 ++ zeros 7 ++ toLE 4 2 ++ zeros 52) = true := by decide
/-- A sampling run that has drawn every hop. -/
theorem test_wit_samp_run : (sampOf { State.reset with samps := [⟨2, 0x40, zeros 64, 1, [], 1, [], [], [], [], 0, none, true⟩] } 2 0x40).isSome = true ∧
    sBlockBytes (zeros 64) < 128 ∧ (popFifo State.reset 9).sorts = [] := by decide
/-- A context that is up, for peers' requests. -/
theorem test_wit_take : (takeRequest (wrs { State.reset with bound := { Bound.empty with jobs := [] } }
    [(.ctxState, 5, 2), (.ctxJobId, 5, 1), (.ctxRemoteDevice, 5, 8)]) ({ ptype := ptDrawReq, ctx := 5, job := 1, src := 8 } : Pkt)).2 = true := by decide

theorem test_wit_sort : sortCheck (popFifo (tUnit 0x20 (zeros 63)) 9) 2 1 (toLE 1 0x20 ++ zeros 63)
      (sortHdr (popFifo (tUnit 0x20 (zeros 63)) 9) 2 1 (toLE 1 0x20 ++ zeros 63)).2 ≠ .ok ∧ (tUnit 0x20 (zeros 63)).sorts = [] ∧
    ((sortRuns (toLE 1 0x20 ++ zeros 63) 1).run (tUnit 0x20 (zeros 63))).2 = tUnit 0x20 (zeros 63) := by decide
theorem test_wit_sort_ok : sortCheck (tWorld (tSort 1)) 2 1 (tSort 1) (sortHdr (tWorld (tSort 1)) 2 1 (tSort 1)).2 = .ok ∧
    sortCheck (tWorld (tSort 0)) 2 1 (tSort 0) (sortHdr (tWorld (tSort 0)) 2 1 (tSort 0)).2 = .ok ∧ unitWaits (tWorld (tSort 1)) (.sorter 2) = false ∧ fMode (tSort 0) = 0 ∧
    sSrcCount (tSort 0) = 0 ∧ sSrcCount (tSort 1) ≠ 0 := by decide
theorem test_wit_fetch : (match ((fetchCheck 2 1 (toLE 1 0x21 ++ zeros 63)).go (popFifo (tUnit 0x21 (zeros 63)) 9)).2 with
    | .error st => st
    | .ok _ => .ok) = .permission := by decide
/-- A table header of Table 6.4 with no rows. -/
def tTableHdr : List Byte := toLE 4 0x4C424154 ++ toLE 2 1 ++ toLE 2 32 ++ zeros 20 ++ toLE 4 32 ++ toLE 8 0x80 ++ zeros 4 ++ toLE 4 1 ++ toLE 8 0x80 ++ zeros 72
/-- A unique list of Table 6.3 with no entries. -/
def tEmptyList : List Byte := toLE 4 0x4C514E55 ++ zeros 2 ++ toLE 2 7 ++ toLE 4 0 ++ toLE 2 1 ++ zeros 10 ++ toLE 4 64 ++ zeros 36
/-- A FETCH of the list at 0x1000 into core 0's store. -/
def tFetch : List Byte := toLE 1 0x21 ++ zeros 1 ++ toLE 2 7 ++ zeros 12 ++ toLE 5 0x1000 ++ zeros 3 ++ toLE 5 0x8000020000 ++ zeros 35
/-- The world in which that FETCH passes its checks. -/
def tFetchWorld : State :=
  let s := tWorld tFetch
  let s := { s with bound := { s.bound with regions := s.bound.regions ++ [⟨0, 0, 9, 1, 5, false, false, false, false, false, 0x8000020000, 0x1000, 8⟩] } }
  (writeMem (writeMem s 0 tTableHdr).1 0x1000 tEmptyList).1
theorem test_wit_fetch_ok : (match (fetchCheck 2 1 tFetch).go (popFifo tFetchWorld 9) with
    | (_, .error _) => none
    | (t, .ok (x, _)) => some (x.u, (fetchEntries t tFetch x).2)) = some (0, none) ∧ fMode tFetch = 0 := by decide +kernel
/-- A gather run of a FETCH that has its status, and one that has none yet. -/
theorem test_wit_fetch_done :
    (gatherOf { State.reset with gathers := [⟨3, .fetch 1 (zeros 64), 2, 1, 0, 7, 4, 0, 1, 1, 0, none, none, none, false, some (.ok, 0), []⟩] } 3).map (·.result) =
      some (some (.ok, 0)) ∧
    (gatherOf { State.reset with gathers := [⟨3, .fetch 1 (zeros 64), 2, 1, 0, 7, 4, 0, 1, 0, 0, none, none, none, false, none, []⟩] } 3).map (·.result) = some none ∧
    unitWaits State.reset (.gather 2) = false := by decide
theorem test_wit_rows : (match ((serveRows ({ ptype := ptRowReq, job := 1 } : Pkt)).go State.reset).2 with
    | .error st => st
    | .ok _ => .ok) = .permission := by decide


theorem test_wit_home : stepRule (setHome (tWorld []) 7 ⟨4, [], [], [], none⟩)
      ⟨⟨0, 0, 7, 1, 3, true, false, false, false, false, 0, 0x10000, 5⟩, .f32, 1, false, 32, 0, 8, 0, 64, 0, 0, 1, 0, 0, 0, 0, 0, 5, 0, 0, 0, 0, 0⟩ 5 = .now ∧
    (regionById (tWorld []) 7).isSome = true ∧ ((5 : Nat) : Int) = (4 : Int) + 1 ∧ fld (zeros 16) 0xD 3 = 0 ∧
    hdrDiffers ⟨⟨0, 0, 7, 1, 3, true, false, false, false, false, 0, 0x10000, 5⟩, .f32, 1, false, 32, 0, 8, 0, 64, 0, 0, 1, 0, 0, 0, 0, 0, 5, 0, 0, 0, 0, 0⟩
      (hdrMark ⟨⟨0, 0, 7, 1, 3, true, false, false, false, false, 0, 0x10000, 5⟩, .f32, 1, false, 32, 0, 8, 0, 64, 0, 0, 1, 0, 0, 0, 0, 0, 5, 0, 0, 0, 0, 0⟩) = false := by decide

/-- A RUNNING job 1 whose table of 8 rows and 8 spare slots of 64 bytes is region 7, its header written, and the registers of a migration of rows 2 and 3
to spare slot 9 of the device itself. -/
def tMigWorld : State :=
  let s := tWorld []
  let s := { s with bound := { s.bound with jobs := [⟨0, 0, 1, false, false, false, 0, 0xFFFF, 0, 0, 0, 1⟩] } }
  let hdr := toLE 4 0x4C424154 ++ toLE 2 1 ++ toLE 2 32 ++ zeros 8 ++ toLE 8 8 ++ toLE 4 8 ++ toLE 4 32 ++ toLE 8 0x80 ++ zeros 4 ++ toLE 4 1 ++ toLE 8 0x1000 ++ zeros 72
  wrs (writeMem s 0 hdr).1 [(.migJob, 0, 1), (.migTensorId, 0, 5), (.migFirstRow, 0, 2), (.migCount, 0, 2), (.migDestSlot, 0, 9)]
/-- Its table. -/
def tMigRegion : Region := ⟨0, 0, 7, 1, 2, false, false, false, false, false, 0, 0x10000, 5⟩
theorem test_wit_mig_start : (tMigWorld.bound.regions.find? (fun r => r.job == 1 && r.tensor == 5 && (r.role == 2 || r.role == 3) && partRunning tMigWorld r.part)) =
      some tMigRegion ∧ tMigWorld.mig = none ∧ jobRunning tMigWorld 1 = true ∧ rd tMigWorld .migDestDevice = devId tMigWorld ∧
    overlapsRedirect tMigWorld 1 5 2 2 = false ∧
    (match (readTable tMigRegion).go tMigWorld with
      | (t, .ok h) => decide (h.first ≤ 2 ∧ 2 + 2 ≤ h.first + h.rows ∧ rd t .redirectUsed ≠ 256) && destFits (migAsked t 7) h.rows h.spare && t.mig.isNone
      | _ => false) = true := by decide +kernel
/-- The same migration fenced, and copied. -/
def tMig (ph : MigPhase) : State := { tMigWorld with mig := some ⟨1, 7, 5, 2, 2, 0, 9, ph⟩ }
theorem test_wit_mig_drain : migTracked (tMig .fenced) ⟨1, 7, 5, 2, 2, 0, 9, .fenced⟩ = false ∧
    (match migTable (tMig .fenced) ⟨1, 7, 5, 2, 2, 0, 9, .fenced⟩ with
      | (t, some (r, h)) => decide (devId t = 0) && (List.range 2).any (fun i => cutHolds t r (migTag t 1) (h.slotAddr (9 + i)) h.slotBytes) == false
      | _ => false) = true ∧
    (List.range 256).find? (fun k => rd (tMig (.ended .ok)) .redirectValid k == 0) = some 0 := by decide +kernel
theorem test_wit_mig : (wr State.reset .migVector 0 2047).mig = none ∧
    ((tWorld []).bound.regions.find? (fun r => r.job == 1 && r.tensor == 5 && (r.role == 2 || r.role == 3) && partRunning (tWorld []) r.part)).isSome = true ∧
    rd State.reset .redirectValid 0 = 0 ∧ (∀ m : Mig, m.region = 7 → migTracked State.reset m = false) := by
  refine ⟨by decide, by decide, by decide, ?_⟩
  intro m _; rfl

theorem test_wit_apply : bits 0xF001 15 12 ≠ 0 ∧ bits 0x70001 15 12 = 0 ∧ jobRunning State.reset 1 = false ∧ paramReaders State.reset 1 = false := by decide
/-- Job 1 of the world above with a descriptor of role 7 in region 9, of the given mode, step 4, completion queue 0 and no layers, and its read step. -/
def tDoorbell (mode : Nat) (cur : Option Nat) : State :=
  let s := tMigWorld
  let s := { s with bound := { s.bound with regions := [⟨0, 0, 9, 1, 7, false, false, false, false, false, 0x20000, 0x1000, 6⟩] }
                    readSteps := match cur with
                      | some r => [(1, r)]
                      | none => [] }
  (writeMem s 0x20000 (toLE 4 0x41544C44 ++ toLE 2 1 ++ toLE 2 mode ++ toLE 4 4 ++ toLE 2 0 ++ toLE 2 7 ++ toLE 2 0 ++ zeros 46)).1
theorem test_wit_doorbell : [(0, some 4), (1, none), (2, some 4)].map (fun e =>
      let s := tDoorbell e.1 e.2
      let r := readMem s 0x20000 64
      match r.2 with
      | .ok h => (jobRunning s 1 && s.bound.cores.any (fun c => c.job == 1 && partRunning s c.part) && cqBound r.1 0 1 2 &&
          (applyCheck r.1 1 ⟨0, 0, 9, 1, 7, false, false, false, false, false, 0x20000, 0x1000, 6⟩ h []).1 == .ok, fbits h 6 2 1 0)
      | .error _ => (false, 3)) = [(true, 0), (true, 1), (true, 2)] := by decide +kernel
/-- A run of an APPLY of job 1 over one layer of two weights in region 7, its deltas in region 9. -/
def tApplyRun : ApplyRun := ⟨0, 9, 4, 7, 0, [⟨7, 0, 1, 0, 2, 0x60⟩], [0], [], [], [(7, 1)], 0, none, [], []⟩
/-- The state in which its slice can start, and that in which it has. -/
def tSlice (on : Bool) : State :=
  { tDoorbell 0 (some 4) with
    bound := { (tDoorbell 0 (some 4)).bound with regions :=
      [⟨0, 0, 7, 1, 4, true, false, false, false, false, 0x40000, 0x1000, 5⟩, ⟨0, 0, 9, 1, 7, false, false, false, false, false, 0x20000, 0x1000, 6⟩] }
    applyRuns := [(1, if on then { tApplyRun with started := [(0, 1)], active := [(0, 0)] } else tApplyRun)] }
theorem test_wit_slice : nextSlice tApplyRun 0 = some (0, 0) ∧ (sliceAt tApplyRun.layers 0 0).isSome = true ∧
    Nat.land (enginesBusy (coreSt (tSlice false) 0) ||| Tbl.getD (tSlice false).engHold 0 0) 6 = 0 ∧ resetting (tSlice false) 0 = false ∧
    unitWaits (tSlice false) .apply = false ∧ (allFlight (coreSt (tSlice false) 0)) = [] ∧
    ((regionById (tSlice false) 7).map (fun p => cutHolds (tSlice false) p 4 0x40000 4)).getD false = false ∧
    (sliceOn (tSlice true) 0).map (fun q => (q.1, q.2.2)) = some (1, 0, 0) ∧
    (match readMem (tSlice true) 0x40000 4 with
      | (t, .ok _) => match readMem t 0x20060 4 with
        | (_, .ok _) => true
        | _ => false
      | _ => false) = true := by decide +kernel
theorem test_wit_prefetch_none : (coreSt State.reset 0).c0.queue.length ≤ 1 := by decide
/-- Core 0 of job 1 with a SYNC that waits and a MATMUL of one block behind it, whose B lies in the parameter region 7. -/
def tPrefetch : State :=
  let s := tSlice false
  let a := mkQTile 1 (toLE 1 6 ++ toLE 1 1 ++ zeros 6 ++ toLE 1 0x40 ++ zeros 3 ++ toLE 4 5 ++ zeros 48)
  let b := mkQTile 2 (toLE 1 4 ++ zeros 23 ++ toLE 8 0x40000 ++ zeros 8 ++ toLE 4 64 ++ zeros 20)
  let s := { s with bound := { s.bound with pipes := [⟨0, 0, 1, 1, 1, true, 1⟩], chains := [⟨0, 0, 0, 0, false, 8, 0x30000, 0x1000⟩] } }
  setCore s 0 { CoreSt.init with c0 := { Ctx.init with queue := [a, b] } }
theorem test_wit_prefetch : (match (coreSt tPrefetch 0).c0.queue with
    | a :: b :: _ => decide (ctxJob tPrefetch 0 0 = some 1) && (chainOf tPrefetch 0 (dChain b.desc)).isSome && tPrefetch.bound.pipes.any (fun p => p.job == 1 && p.prefetch) &&
        !tileWaitOk tPrefetch 0 a.desc && dOp b.desc == opMatmul && dLen b.desc != 0 && dOp a.desc == opSync &&
        ((regionOf tPrefetch 1 (aAddr (dSrcB b.desc))).map (fun r => r.role == 4)).getD false && !inCore 0 (aAddr (dSrcB b.desc)) &&
        (readRuns (cutRuns 0x1000 (firstBlockB tPrefetch b.desc)) (inc tPrefetch .prefetchIssuedCnt 0)).2.isSome &&
        (Tbl.find tPrefetch.prefs (dChain b.desc)).isNone && paramVerdicts { tPrefetch with params := [(7, .opened 0)] } (dStep b.desc)
          (readRanges b.desc (tileRanges tPrefetch 1 b.desc .none)) == []
    | _ => false) = true := by decide +kernel


/-- A machine whose core memory's word at 0x8000000000 holds an uncorrectable error. -/
def tBadWord : State := { State.reset with marks := [(0x8000000000, ⟨2, false⟩)] }

theorem test_wit_mem : writeMem tBadWord 0x8000000008 [1, 2, 3] = ({ tBadWord with mem := [(0x8000000008, 1), (0x8000000009, 2), (0x800000000A, 3)] }, none) ∧
    (markOf tBadWord 0x8000000000).err = 2 ∧ [1, 2, 3].length ≠ wordBytes 0x8000000000 := by decide

theorem test_wit_memcmd : scrubUnit State.reset 20 = true ∧ scrubWords 20 = 6291456 ∧ 3 < stackCount State.reset ∧
    bit (rd State.reset .stackFailMask) 3 = false ∧ modeNormal (wr State.reset .deviceVmode 0 1) = false ∧
    injectable State.reset 0 = true ∧ hostServed State.reset 0 64 = false ∧ hostPath (wr (wr State.reset .linkWidth 0 1) .cxlMode 0 1) false = true ∧
    hostAddr State.reset 0 true = some 0 ∧ hdmLocked State.reset 0 = false ∧ 0 + 2 ^ 28 ≤ hbmBytes State.reset := by decide

theorem test_wit_poison : hostPath (wr (wr State.reset .linkWidth 0 1) .cxlMode 0 1) false = true ∧ hostPath (wr State.reset .linkWidth 0 1) true = true ∧
    hostAddr { State.reset with hdm := [(0, (2 ^ 30, 2 ^ 28, 0, false))] } (2 ^ 30 + 64) false = some 64 := by decide


/-- Port 3 in training, an attempt under way, on a machine whose fabric is on. -/
def tPort (k : Nat) : State :=
  setLink (wrs State.reset [(.bringupStage, 0, 6), (.portState, 3, k)]) 3 { LinkSt.init with attempts := 2, trying := true }

theorem test_wit_port : fabricOn (tPort 1) = true ∧ portPresent (tPort 1) 3 = true ∧ (linkOf State.reset 3).trying = false ∧ rd (tPort 1) .portState 3 = psTraining ∧
    (linkOf (tPort 1) 3).trying = true ∧ portTrained (tPort 2) 3 = true ∧
    miscabled (tPort 1) 3 (identBytes ⟨5, 1, false, false, 2, 0, 0⟩) = false ∧ (linkOf State.reset 3).changes = 0 ∧ (activeLanes 0xB).2 = 3 := by decide

/-- A flit with no packets and sequence number n: its trailer with FIRST_HDR 0x7F, and the CRC over all of it. -/
def tFlit (n : Nat) (data : List Byte) : Flit :=
  let h := toLE 4 (n + 0x7F * 2 ^ 23)
  { data := data, trailer := h ++ toLE 4 (crc32c (data ++ h)) }
theorem test_wit_flit : portTrained (tPort 2) 3 = true ∧ portUp (tPort 2) 3 = true ∧ (linkOf (tPort 2) 3).resync = false ∧ (linkOf (tPort 2) 3).rxNext = 0 ∧
    flitCrcOk (tFlit 0 [1, 2, 3]) = true ∧ flitIdle (tFlit 0 []) = false ∧ flitSeq (tFlit 1023 []) = 1023 ∧
    ingressFault ({ ptype := 0x0F } : Pkt) = some (.rxBadhdrCnt, false) ∧ ingressFault ({ ptype := ptWrite, len := 4097 } : Pkt) = some (.rxBadlenCnt, true) ∧
    ingressFault ({ ptype := ptRead } : Pkt) = none ∧ spoilt ({ ptype := ptRead } : Pkt) ≠ none := by decide +kernel


/-- Context 5 in a state, for job 2 with device 9, on a machine whose routes are valid. -/
def tCtx (k : Nat) : State := wrs State.reset [(.ctxState, 5, k), (.ctxJobId, 5, 2), (.ctxRemoteDevice, 5, 9)]

theorem test_wit_peer : takeRequest (tCtx ctxOpen) { ptype := ptRead, ctx := 5, job := 2, src := 9 } =
      rxSeq (tCtx ctxOpen) 5 { ptype := ptRead, ctx := 5, job := 2, src := 9 } ∧ ctxMatches (tCtx ctxOpen) { ptype := ptRead, ctx := 5, job := 2, src := 9 } = true ∧
    psnAhead 0 (flowOf (tCtx ctxOpen) 5).rxNext = 0 ∧ inReset (tCtx ctxOpen) 0 = false ∧ rangeStatus (tCtx ctxOpen) 2 0 8 = .permission ∧
    inPostWindow 0 = false ∧ probeVerdict (tCtx ctxOpen) { ptype := ptProbe, ctx := 5, job := 2, src := 9, payload := zeros 8 } = some (.permission, zeros 16) := by decide

theorem test_wit_seq : psnAhead 5 5 = 0 ∧ 2 ^ 23 ≤ psnAhead 4 5 ∧ psnAhead 6 5 = 1 ∧ psnAhead 0 (2 ^ 24 - 1) = 1 ∧ flowOpen (tCtx ctxOpen) 5 = true ∧ isStream 5 = false ∧
    psnCovered 5 6 = true ∧ psnCovered 6 6 = false ∧ (setFlow (tCtx ctxOpen) 5 { Flow.init with misses := 7, unacked := [{ ptype := ptRead }] }).tags = [] := by decide

theorem test_wit_ctx : rd (wrs State.reset [(.peerOp, 0, 1), (.peerVector, 0, 3)]) .peerBusy = 0 ∧ peerCheck State.reset 1 2 0 9 = .permission ∧
    ctxMatches (tCtx ctxOpen) { ptype := ptCtxClose, ctx := 5, job := 2, src := 9 } = true ∧ ctxDrained (tCtx ctxClosing) 5 = true ∧
    rd (tCtx ctxOpening) .ctxJobId 5 = 2 ∧ (reqsOn (tCtx ctxOpen) 5).length = 0 := by decide


/-- A machine after bring-up whose Pip runs. -/
def tReady : State := { wrs State.reset [(.bringupStage, 0, 10), (.bringupState, 0, 1), (.idValid, 0, 1), (.torusValid, 0, 1)] with pwrGood := true, powered := true, boot := { State.reset.boot with coreFw := [1] } }
/-- The same in ROM recovery. -/
def tRom : State := { wr State.reset .romRecovery 0 1 with pwrGood := true, powered := true }

theorem test_wit_mgmt : mgmtDue tReady ⟨.sideband, none, [9, 0], 0⟩ 0x11 = some ⟨.sideband, none, [9, 0], 0⟩ ∧ mgmtAnswers tReady ⟨.sideband, none, [], 0⟩ 1 = true ∧
    pathOk tReady ⟨.sideband, none, [], 0⟩ .localOnly = true ∧ classOk tReady ⟨.sideband, none, [], 0⟩ .localOnly = true ∧ anyActive tReady = false ∧
    localRoute ⟨.packet 3 1, none, [9, 0], 0⟩ = false ∧ portPresent tReady 0 = true ∧
    classOk { tReady with sessions := [(4, ⟨.sideband, [], [], false, 0⟩)] } ⟨.sideband, some 4, [], 0⟩ .privileged = true ∧ rd tReady .qimgBusy ≠ 1 ∧ ready tReady = true := by decide

theorem test_wit_mbox : rd tReady .mboxBusy = 0 ∧ 0x11 ∈ mailboxCmds ∧ 0x40 ∉ mailboxCmds ∧
    mgmtDue tRom ⟨.sideband, none, [0, 0, 0, 0, 7], 0⟩ 0x82 = some ⟨.sideband, none, [0, 0, 0, 0, 7], 0⟩ ∧ mgmtAnswers tRom ⟨.sideband, none, [], 0⟩ 0x82 = true ∧
    pathOk tRom ⟨.sideband, none, [], 0⟩ .recovery = true ∧ classOk tRom ⟨.sideband, none, [], 0⟩ .recovery = true ∧ 0 + (5 - 4) ≤ slotBytes ∧
    slotBytes < fld [0xFF, 0xFF, 0xFF, 0xFF, 1] 0 4 + (5 - 4) ∧ classOk tRom ⟨.sideband, none, [], 0⟩ .stone = true := by decide


theorem test_wit_red : redFifoUsed State.reset 3 < 16 ∧ resetting State.reset 3 = false ∧ slotOf State.reset 1 = none ∧ modeNormal (wr State.reset .deviceVmode 0 0) = true ∧
    redFifoUsed { State.reset with redPosts := [(0, List.replicate 16 ⟨⟨1, 0, 0, 0⟩, 3, [], 0⟩)] } 3 = 16 ∧ redOutstanding State.reset 0 = false ∧
    slotOf (wrs State.reset [(.jobSlotValid, 0, 1), (.jobSlotJobId, 0, 5)]) 5 = some 0 := by decide

theorem test_wit_stream : flowOpen (wrs State.reset [(.jobSlotValid, 0, 1), (.jobSlotJobId, 0, 5)]) (streamId 7 5 0) = true ∧
    (slotOf (wrs State.reset [(.jobSlotValid, 0, 1), (.jobSlotJobId, 0, 5)]) 5).isSome = true ∧
    (rxSeq (wrs State.reset [(.jobSlotValid, 0, 1), (.jobSlotJobId, 0, 5)]) (streamId 7 5 0) { ptype := ptRed, src := 7, job := 5 }).2 = true ∧
    (match fenceOf (wrs State.reset [(.jobSlotValid, 0, 1), (.jobSlotJobId, 0, 5)]) 5 0 with | .current => true | _ => false) = true ∧
    (match fenceOf (wrs State.reset [(.jobSlotValid, 0, 1), (.jobSlotJobId, 0, 5)]) 5 1 with | .ahead => true | _ => false) = true ∧
    (match fenceOf (wrs State.reset [(.jobSlotValid, 0, 1), (.jobSlotJobId, 0, 5)]) 5 255 with | .stale => true | _ => false) = true := by decide

theorem test_wit_susp : rd (wrs State.reset [(.susValid, 9, 1), (.susDevice, 9, 4)]) .susValid 9 = 1 ∧ rd (wr State.reset .susValid 9 1) .susEvented 9 = 0 ∧
    rd (wrs State.reset [(.susValid, 9, 1), (.susEvented, 9, 1)]) .susEvented 9 = 1 ∧ rd State.reset .susValid 0 = 0 := by decide


/-- Queue 3 of KIND k for job 1 in a running partition, enabled with 2^6 entries. -/
def tQueue (k : Nat) : State :=
  { wrs State.reset [(.qEnable, 3, 1), (.qDepthLog2, 3, 6), (.qHostIndex, 3, 2), (.qimgPartState, 0, 2)] with
    bound := { State.reset.bound with queues := [⟨0, 0, 3, 1, k, 6, 0⟩] } }

theorem test_wit_queue : (liveQueue (tQueue 2) 3).isSome = true ∧ (fetchDue (tQueue 5) 3).isSome = true ∧ rd (tQueue 5) .qEnable 3 ≠ 0 ∧ 63 < queueDepth (tQueue 5) 3 ∧
    queueDepth (tQueue 5) 3 ≤ 64 ∧ (liveQueue (wr (tQueue 5) .qEnable 3 0) 3).isSome = true ∧ rd (wr (tQueue 5) .qEnable 3 0) .qRingAddr 3 % 4096 = 0 ∧
    rd (wr (tQueue 5) .qRingAddr 3 64) .qRingAddr 3 % 4096 ≠ 0 ∧ neverFetched (tQueue 5) ⟨0, 0, 3, 1, 5, 6, 0⟩ = false ∧ liveQueue State.reset 3 = none := by decide

theorem test_wit_link : Tbl.find [(3, true)] 3 = some true ∧ rd State.reset .evqEnable = 0 ∧ 6 ≤ bits 0x61 7 4 ∧ rd State.reset .evqAddr % 4096 = 0 ∧
    (wrs tReady [(.bringupStage, 0, 10)]).pwrGood = true ∧ tReady.perstN = true ∧ tReady.devReset = none ∧ 6 ≤ rd tReady .bringupStage ∧ pipRuns tReady = true ∧
    (doeTypes 0).contains (1, 0) = true ∧ (doeTypes 0).contains (1, 2) = true ∧ rateOk true 3 = true ∧ (doeTypes 1).contains (0x1E98, 2) = true ∧ 0 < 2 ^ rd State.reset .evqLog2 := by decide


/-- Job 4 in slot 2, of a pair with device 6 in state k. -/
def tPair (k : Nat) : State :=
  wrs State.reset [(.jobSlotValid, 2, 1), (.jobSlotJobId, 2, 4), (.pairState, 2, k), (.pairPartner, 2, 6)]

theorem test_wit_pair : partnerSlot (tPair 3) { ptype := ptWrite, src := 6, job := 4 } = some 2 ∧ rd (tPair 3) .pairState 2 ≠ 4 ∧ (pairOf (tPair 3) 2).rx = none ∧
    recordOk { ptype := ptWrite, src := 6, job := 4, addr := recoveryWindow, payload := [9, 0, 4, 0] ++ zeros 28 } 9 = true ∧
    recordOk { ptype := ptWrite, src := 6, job := 4, addr := recoveryWindow, payload := [9, 0, 5, 0] ++ zeros 28 } 9 = false ∧
    takeRecord State.reset { ptype := ptWrite, src := devId State.reset } = (State.reset, true) ∧
    (pairOf (setPair (tPair 3) 2 { PairSt.init with next := some 7 }) 2).next = some 7 := by decide

theorem test_wit_refill : slotJob State.reset 2 = none ∧ rd (tPair 4) .pairState 2 = 4 ∧ rd (tPair 4) .refillQueued 2 ≠ 1 ∧ slotOf (tPair 4) 4 = some 2 ∧
    rd (wr (tPair 4) .ckptUnacked 2 1) .ckptUnacked 2 = 1 ∧
    recordOk { ptype := ptWrite, src := 6, job := 4, addr := recoveryWindow, payload := [3, 0, 4, 0] ++ zeros 28 } 3 = true ∧
    recordOk { ptype := ptWrite, src := 6, job := 4, addr := recoveryWindow, payload := [1, 0, 4, 0] ++ zeros 28 } 1 = true ∧
    (pairOf (setPair (tPair 4) 2 { PairSt.init with feedQuery := true }) 2).feedQuery = true ∧
    (pairOf (setPair (tPair 4) 2 { PairSt.init with zestHeld := true, zestDue := [3, 4] }) 2).zestDue = [3, 4] := by decide


theorem test_wit_reset : resetStatus (wr tReady .present 0 1) 0 600 ≠ .ok ∧ resetStatus tReady 1 3 = .ok ∧ covering tReady ⟨1, 3, 8, 1, 0, 0⟩ = none ∧ tReady.pwrGood = true ∧
    tReady.devReset = none ∧ tReady.perstN = true ∧ tReady.trip = false ∧ resetStatus tReady 3 0 = .ok ∧ resetStatus tReady 2 0 = .indexRange := by decide

theorem test_wit_boot : waitingOp { tReady with resets := [⟨1, 3, 8, 1, 0, 0⟩] } true = some ⟨1, 3, 8, 1, 0, 0⟩ ∧ State.reset.pwrGood = false ∧
    State.reset.strap / 16 % 16 = 0 ∧ Tbl.find [(20, 3)] 20 = some 3 ∧ (opClusters tReady ⟨1, 3, 8, 3, 0, 0⟩).contains ((512 + 4 * 3 - 512) / 4) = true ∧
    rd (wr State.reset .bringupStage 0 10) .logicalCoreCount = 0 := by decide


/-- A machine after bring-up, in PRODUCTION, its SPDM connection on the sideband set up, with session 0 of customer key 0. -/
def tSpdm : State :=
  { tReady with
    fuses := { tReady.fuses with lc := 3, cust := [(0, [7])], programmed := 1 }
    spdm := [(spdmKey .sideband, { SpdmLink.init with level := 3, size := 64 })]
    sessions := [(0, ⟨.sideband, [7], [], false, 0⟩)]
    certChain := some [1, 2, 3] }
/-- A request on the sideband in session 0. -/
def tReq (body : List Byte) : SpdmReq := ⟨.sideband, some 0, 0, 0, body, [], [], true, 0⟩
/-- A machine whose Damson pack runs, with one pattern, and core 0 live. -/
def tDamson : State :=
  { wrs tReady [(.damsonActive, 0, 1)] with
    bound := { tReady.bound with damsonFraction := 1, bgFraction := 1 }
    cores := [(0, { CoreSt.init with hart := { Hart.init with live := true } })]
    damson := { DamsonSt.init with pack := [] } }

theorem test_wit_fw : rd tReady .fwStageBusy ≠ 1 ∧ pipRuns tReady = true ∧ stageCheck tReady none ≠ .ok ∧ packCheck tReady none = .permission ∧ rd tReady .damsonBusy ≠ 1 ∧
    { State.reset.boot with stone := true }.stone = true ∧ State.reset.stoneLost = 0 ∧ State.reset.setRecs = [] ∧ State.reset.setDue = [] := by decide
theorem test_wit_damson : damsonRuns tDamson 0 = true := by decide

theorem test_wit_keys : spdmServes tSpdm (tReq []) 0xFE = true ∧ spdmGate tSpdm (tReq []) 3 = none ∧ custSession tSpdm (tReq []) = true ∧ lcState tSpdm = 2 ∧
    bit tSpdm.fuses.programmed 1 = false ∧ (custSlots tSpdm).isEmpty = false ∧ lcAllowed tSpdm (tReq [3]) 3 = true ∧ lcAllowed tSpdm (tReq [1]) 1 = false ∧
    custSession tSpdm ⟨.sideband, none, 0, 0, [], [], [], true, 0⟩ = false ∧ mfgSession tSpdm (tReq []) = false ∧ fld [9] 0 1 = 9 := by decide

theorem test_wit_spdm : spdmServes tSpdm (tReq []) 0x81 = true ∧ spdmGate tSpdm (tReq []) 3 = none ∧ (sessionOf tSpdm (tReq [])).isSome = true ∧ tSpdm.certChain = some [1, 2, 3] ∧
    (List.range 16).find? (fun n => !(sessionsUsed tSpdm).contains n) = some 1 ∧ spdmGate tReady ⟨.sideband, none, 0, 0, [], [], [], true, 0⟩ 3 = some (spdmError 4) ∧
    spdmGate { tReady with spdm := [(spdmKey .sideband, { SpdmLink.init with level := 1 })] } ⟨.sideband, none, 0, 0, [], [], [], true, 0⟩ 1 = none ∧
    spdmGate { tReady with spdm := [(spdmKey .sideband, { SpdmLink.init with level := 2 })] } ⟨.sideband, none, 0, 0, [], [], [], true, 0⟩ 2 = none := by decide


theorem test_wit_side : sideServes tSpdm = true ∧ sideServes State.reset = false ∧ pldmVer 2 = some [0x00, 0xF0, 0xF2, 0xF1] ∧ sensorPresent tSpdm 0x80 = true ∧
    stateSensor 0x80 = false ∧ stateSensor 0x91 = true ∧ sensorPresent tSpdm 0x91 = true ∧ sensorPresent tSpdm 0x96 = false ∧ (pdrBytes tSpdm 0).isNone = true ∧
    tSpdm.side.events = [] := by decide


theorem test_wit_limit : floorOf State.reset ≤ 1300 ∧ 1300 ≤ tdpOf State.reset ∧ floorOf State.reset ≤ 1800 ∧ tdpOf State.reset < 1801 ∧ 1299 < floorOf State.reset ∧
    State.reset.pwrGood = false ∧ tReady.pwrGood = true ∧ tReady.devReset = none := by decide

/-- A device past bring-up with its rails up. -/
def tSupplies : State := wrs { tReady with railsUp := true, perstN := true } [(.bringupStage, 0, 10), (.linkWidth, 0, 16), (.sensorWarn, 8, 380)]
theorem test_wit_supplies : pipRuns { tSupplies with boot := { tSupplies.boot with coreFw := [0] } } = true ∧ sensorPresent tSupplies 8 = true ∧ sensorPresent tSupplies 0x96 = false ∧
    anyAtLeast (wr tSupplies .sensor 8 400) 400 95 = true ∧ rd tSupplies .thermalThrottle = 0 ∧ stateSensor 8 = false ∧ 380 ≠ noReading ∧ rd tSupplies .sensorWarn 8 ≠ 0 ∧
    warned tSupplies 8 = false ∧ signed 32 (rd tSupplies .sensorWarn 8) ≤ signed 32 380 ∧ rd tSupplies .sensorWarn 9 = 0 ∧ warned tSupplies 9 = false := by decide
theorem test_wit_supplies_points : rd tSupplies .opChanging = 0 ∧ rd (wr tSupplies .opChanging 0 1) .opChanging = 1 ∧ tSupplies.power.cap = 3 ∧ tSupplies.railsUp = true ∧
    rd tSupplies .powerLimit < 1801 ∧ railPresent tSupplies 3 = true ∧ railPresent tSupplies 32 = false ∧ 4 < rd tSupplies .bringupStage ∧ tSupplies.perstN = true ∧
    rd tSupplies .linkWidth ≠ 0 ∧ rd tSupplies .stackFailMask % 2 ^ stackCount tSupplies ≠ 2 ^ stackCount tSupplies - 1 ∧
    (wr tSupplies .opChanging 0 1).power.mv = pointMv (rd tSupplies .opEffective) ∧ tSupplies.power.mv ≠ pointMv (rd (wr tSupplies .opEffective 0 1) .opEffective) ∧
    rd State.reset .bringupStage ≤ 4 := by decide


/-- A device with a host link. -/
def tLinked : State := wrs { tReady with resets := [] } [(.linkWidth, 0, 16)]
theorem test_wit_csr_reads : hostLinked tLinked = true ∧ csrAligned 0x10 32 = true ∧ csrAligned 0x12 32 = false ∧ hostLinked State.reset = false ∧
    tLinked.pwrGood = true ∧ tLinked.devReset = none ∧ Tbl.find tLinked.latches 0 = none := by decide

theorem test_wit_csr_writes : hostLinked tLinked = true ∧ csrAligned 0x10 64 = true ∧ csrAligned 0x14 64 = false := by decide
theorem test_wit_csr_plain : plainWord 0x19048 .replayStep 0 := ⟨by decide, by decide +kernel, rfl, rfl, rfl, fun _ _ _ => rfl⟩
theorem test_wit_csr_fields : (∀ x ∈ fieldsAt 0x200284, x.1.info.acc = .ro) ∧ (∀ x ∈ fieldsAt 0x200280, x.1.info.acc = .rc) ∧ bufAt 0x200280 = none := by decide +kernel
theorem test_wit_csr_absent : accessAbsent tLinked 0x3600000 32 = true ∧ accessAbsent tLinked 0x19048 32 = false ∧ crossing 0x7008 = true ∧ (∀ x ∈ fieldsAt 0x7008, x.1.info.acc = .ro) ∧
    accessAbsent tLinked 0x7008 32 = false ∧ accessAbsent tLinked 0x700c 32 = false := by decide +kernel


/-! ### Well-formed commands -/

/-- Smallest well-formed operands. -/
def tPkt : Pkt := { ptype := 0 }
def tMgmt : MgmtReq := ⟨.mailbox, none, [], 0⟩
def tSpdmReq : SpdmReq := ⟨.doe, none, 0, 0, [], [], [], false, 0⟩
def tEmptyFlit : Flit := { data := zeros 2048, trailer := zeros 8 }
def tFitting : Fitting := ⟨1, 0, 0, zeros 48, 0, zeros 48, zeros 48, zeros 48, []⟩

theorem test_wellformed_a : List.all (α := Instr)
   [.qimgStart 0, .qimgVerifyOnly 0, .loadVerifyPassEnd none, .loadFeedQueryTimeout, .loadApplyPassEnd none, .scalarInstruction 0, .ecall 0,
    .progDoneSet 0, .tdIssue 0, .tdFence 0, .tdResume 0, .tdStat 0, .tkRead 0, .tkSet 0, .tkAdd 0, .tkWait 0, .tkWaitTimeout 0, .nsRead 0,
    .copy 0 0, .gather 0 0, .scatterAdd 0 0, .matmul 0 0, .vector 0 0, .sync 0 0, .tileWaitTimeout 0 0, .paramHoldTimeout 0 0,
    .probeHoldRelease 0, .remoteExchangeTimeout 0, .matmulBlock 0 0 0, .shadowDone 0 0 0, .sparseFallback 0 0 0, .tileComplete 0 0 0,
    .tokenSignalApply 0, .c0Resume 0, .c0Flush 0, .c1Resume 0, .c1Flush 0, .c0CringTailWrite 0 0, .c0CringConfigWrite 0 0 0, .predClear 0, .nop 0,
    .endProg 0, .sli 0, .saddi 0, .sadd 0, .smul 0, .sshli 0, .sshri 0, .sbnz 0, .sblt 0, .sld 0, .scnt 0, .svext 0, .pwhile 0, .pand 0, .por 0,
    .pxor 0, .pnot 0, .vcmp 0, .vadd 0, .vsub 0, .vmul 0, .vfma 0, .vfnma 0, .vdiv 0, .vsqrt 0, .vmin 0, .vmax 0, .vabs 0, .vneg 0, .vfmawl 0,
    .vfmawh 0, .vdot4 0, .vmov 0, .vsel 0, .vperm 0, .vdups 0, .viota 0, .viadd 0, .visub 0, .vimul 0] Instr.wf = true := by decide +kernel

theorem test_wellformed_b : List.all (α := Instr)
   [.viand 0, .vior 0, .vixor 0, .vishl 0, .vishr 0, .vcvt 0, .vcvtfi 0, .vcvtif 0, .vrsum 0, .vrssq 0, .vrmv 0, .vmvmerge 0, .vsegsum 0,
    .vrmaxi 0, .vrmini 0, .vsmrow 0, .vsmexp 0, .vsmsum 0, .vexp2 0, .vlog2 0, .vrcp 0, .vrsqrt 0, .vtanh 0, .verf 0, .vld 0, .vst 0, .vldb 0,
    .vgather 0, .vscatter 0, .vscatadd 0, .vstc 0, .pld 0, .pst 0, .vinstrBudgetExceeded 0, .sample 0, .heldSampleAccept 0, .sampleCommit 0 0,
    .release 0, .drawReq tPkt, .remoteDrawTimeout 0, .qentryBadOp 0, .sort 0, .sortComplete 0, .fetch 0, .fetchComplete 0, .rowReq tPkt,
    .peerRowTimeout 0, .contrib tPkt, .updateHoldTimeout 0, .updateStepClose 0 0, .updateCloseTimeout 0, .migStart 0, .migDrainDone, .migCopyDone,
    .migFenceHoldTimeout 0, .paramPrefetch 0, .apply 0, .openRegions 0, .closeRegions 0, .closeReadersDone 0, .applySliceStart 0 0,
    .applySliceCommit 0, .patrolScrub 0, .stackLost 0, .wipeDone [], .hdmRead 64 8 false, .hdmWrite 0 [0] [true] false false, .injectArm 0,
    .trainingAttempt 0, .trainingEnd 0 .noLanes, .downPortRetry 0, .linkLoss 0 .signal, .portRecordTimer 0, .flitReceive 0 tEmptyFlit,
    .flitAckTimeout 0, .flitAckTimer 0, .creditReturnTimer 0, .linkCtrl 0 tPkt, .ident 0 tPkt, .packetTransit 0 tPkt 0, .write tPkt] Instr.wf = true := by decide +kernel

theorem test_wellformed_c : List.all (α := Instr)
   [.read tPkt, .probe tPkt, .token tPkt, .qpost tPkt, .resp tPkt, .ctxAck tPkt, .ctxRetxTimeout 0, .peerOpen 0, .peerClose 0, .ctxOpen tPkt,
    .ctxOpenAck tPkt, .ctxOpenResendTimeout 0, .peerCloseDrainDone 0, .peerCloseTimeout 0, .ctxClose tPkt, .tagQuarantineEnd 0, .mboxStart 0,
    .mboxTimeout, .mgmtResponse tPkt, .mgmtSessionIdleTimeout 0, .identify tMgmt, .feedQuery tMgmt, .spdm tMgmt, .portReport tMgmt,
    .setTorus tMgmt, .setId tMgmt, .imageLoad tMgmt, .reset tMgmt, .portCtrlRetrain tMgmt, .portCtrlDisable tMgmt, .portCtrlEnable tMgmt,
    .imageRead tMgmt, .redPost 0, .redLeafRead 0, .red tPkt, .fail tPkt, .nack tPkt, .marker tPkt, .backupTimeout 0, .redWaitTimeout 0 false,
    .epochSwStart 0, .suspect tPkt, .suspectEntryTimer 0, .suspectEntryExpiry 0, .susValidClear 0, .queueEnable 0, .queueDisable 0,
    .submissionDoorbell 0 0, .completionDoorbell 0 0, .ringFetch 0 .error, .intHoldoffExpiry 0, .evqEnable 0, .evqHeadWrite 0,
    .hdmDecoderCommit 0 0 0 0 0 false, .doeRequest 0 [], .doeAbort 0, .cxlLinkUp false 16 0, .dlActiveLoss, .perstNFall, .perstNRise,
    .completionTimeout .source, .cut 0, .frameBegin tPkt, .frameEnd tPkt, .frameAck tPkt, .heartbeat tPkt, .heartbeatTimer 0,
    .partnerSilenceTimeout 0, .rebind 0, .refillStart 0, .refillReq tPkt, .refillGrant tPkt, .refillComplete tPkt, .refillDone tPkt, .ckptAck 0 0,
    .replayArm 0, .zestReport tPkt, .zestVerdict tPkt, .zestHoldTimeout 0, .damsonLoad 0 none, .damsonPattern 0 none] Instr.wf = true := by decide +kernel

theorem test_wellformed_d : List.all (α := Instr)
   [.powerOn 0 0 none, .bringupStageDone .passed, .fwChunkReport 0 0 false, .fwReportTimeout 0, .katDone (.adder 0) 0, .katTimeout 0,
    .coreReset 0 0, .clusterReset 0 0, .partitionReset 0 0, .deviceWarmReset 0, .deviceColdReset 0, .quiesceDone, .quiesceTimeout,
    .forceAckTimeout 0, .boundaryDrainDone, .sysRstNInput, .sysRstNStretchEnd, .pipWatchdog, .thermTrip, .pwrGoodFall, .fwStageStart 0 none,
    .recoveryWrite tMgmt, .recoveryCommit tMgmt, .stoneInfo tMgmt, .stoneRead tMgmt, .stoneRdIndexWrite 0, .stoneRecordWrite, .keyEnroll tSpdmReq,
    .keyRevoke tSpdmReq, .setSigRequired tSpdmReq, .raiseMinSvn tSpdmReq, .lcTransition tSpdmReq, .getSealedDevid tSpdmReq, .getVersion tSpdmReq,
    .getCapabilities tSpdmReq, .negotiateAlgorithms tSpdmReq, .getDigests tSpdmReq, .getCertificate tSpdmReq, .challenge tSpdmReq,
    .getMeasurements tSpdmReq, .keyExchange tSpdmReq, .finish tSpdmReq, .heartbeatSpdm tSpdmReq, .keyUpdate tSpdmReq, .endSession tSpdmReq,
    .chunkSend tSpdmReq, .chunkGet tSpdmReq, .setEndpointId ⟨0, []⟩, .getEndpointId ⟨0, []⟩, .getMctpVersionSupport ⟨0, []⟩,
    .getMessageTypeSupport ⟨0, []⟩, .getVendorDefinedMessageSupport ⟨0, []⟩, .gettid ⟨0, []⟩, .settid ⟨0, []⟩, .getpldmversion ⟨0, []⟩,
    .getpldmtypes ⟨0, []⟩, .getpldmcommands ⟨0, []⟩, .getpdrrepositoryinfo ⟨0, []⟩, .getpdr ⟨0, []⟩, .getsensorreading ⟨0, []⟩,
    .getstatesensorreadings ⟨0, []⟩, .seteventreceiver ⟨0, []⟩, .eventmessagesupported ⟨0, []⟩, .eventmessagebuffersize ⟨0, []⟩,
    .pollforplatformeventmessage ⟨0, []⟩, .sensorSample 0 0, .opReq 0, .powerLimit 0, .opMoveStep false, .paceMonitorRead [0, 0, 0, 0] false,
    .powerWindowEnd 0, .railFaultAlert 0, .refclkLoss .cxl, .rcRead .host 0 32, .csrHalfRead .host 0, .csrWrite .host 0 32 0, .ctxAckTimer 0,
    .imageReadTimeout 0, .rebindFeedQueryTimeout 0, .computeDieLost 0] Instr.wf = true := by decide +kernel

theorem test_illformed_a : List.all (α := Instr)
   [.qimgStart 2048, .qimgVerifyOnly 2048, .scalarInstruction 512, .ecall 512, .progDoneSet 512, .tdIssue 512, .tdFence 512, .tdResume 512,
    .tdStat 512, .tkRead 512, .tkSet 512, .tkAdd 512, .tkWait 512, .tkWaitTimeout 512, .nsRead 512, .copy 512 0, .copy 0 2, .gather 512 0,
    .gather 0 2, .scatterAdd 512 0, .scatterAdd 0 2, .matmul 512 0, .matmul 0 2, .vector 512 0, .vector 0 2, .sync 512 0, .sync 0 2,
    .tileWaitTimeout 512 0, .tileWaitTimeout 0 2, .paramHoldTimeout 512 0, .paramHoldTimeout 0 2, .remoteExchangeTimeout 16384,
    .matmulBlock 512 0 0, .matmulBlock 0 2 0, .matmulBlock 0 0 (2 ^ 32), .shadowDone 512 0 0, .shadowDone 0 2 0, .shadowDone 0 0 (2 ^ 32),
    .sparseFallback 512 0 0, .sparseFallback 0 2 0, .sparseFallback 0 0 (2 ^ 32), .tileComplete 512 0 0, .tileComplete 0 2 0,
    .tileComplete 0 0 (2 ^ 32), .c0Resume 512, .c0Flush 512, .c1Resume 512, .c1Flush 512, .c0CringTailWrite 512 0, .c0CringTailWrite 0 (2 ^ 16),
    .c0CringConfigWrite 512 0 0, .c0CringConfigWrite 0 (2 ^ 21) 0, .c0CringConfigWrite 0 0 16, .predClear 512, .nop 512, .endProg 512, .sli 512,
    .saddi 512, .sadd 512, .smul 512] (fun i => !i.wf) = true := by decide +kernel

theorem test_illformed_b : List.all (α := Instr)
   [.sshli 512, .sshri 512, .sbnz 512, .sblt 512, .sld 512, .scnt 512, .svext 512, .pwhile 512, .pand 512, .por 512, .pxor 512, .pnot 512,
    .vcmp 512, .vadd 512, .vsub 512, .vmul 512, .vfma 512, .vfnma 512, .vdiv 512, .vsqrt 512, .vmin 512, .vmax 512, .vabs 512, .vneg 512,
    .vfmawl 512, .vfmawh 512, .vdot4 512, .vmov 512, .vsel 512, .vperm 512, .vdups 512, .viota 512, .viadd 512, .visub 512, .vimul 512,
    .viand 512, .vior 512, .vixor 512, .vishl 512, .vishr 512, .vcvt 512, .vcvtfi 512, .vcvtif 512, .vrsum 512, .vrssq 512, .vrmv 512,
    .vmvmerge 512, .vsegsum 512, .vrmaxi 512, .vrmini 512, .vsmrow 512, .vsmexp 512, .vsmsum 512, .vexp2 512, .vlog2 512, .vrcp 512, .vrsqrt 512,
    .vtanh 512, .verf 512, .vld 512] (fun i => !i.wf) = true := by decide +kernel

theorem test_illformed_c : List.all (α := Instr)
   [.vst 512, .vldb 512, .vgather 512, .vscatter 512, .vscatadd 512, .vstc 512, .pld 512, .pst 512, .vinstrBudgetExceeded 512, .sample 32768,
    .heldSampleAccept 32768, .sampleCommit 32 0, .sampleCommit 0 (2 ^ 40), .release 32768, .drawReq { tPkt with vc := 4 },
    .remoteDrawTimeout 16384, .qentryBadOp 32768, .sort 32768, .sortComplete 32, .fetch 32768, .rowReq { tPkt with vc := 4 },
    .peerRowTimeout 16384, .contrib { tPkt with vc := 4 }, .updateStepClose 65536 0, .updateStepClose 0 (2 ^ 32), .updateCloseTimeout 65536,
    .migStart 2048, .paramPrefetch 512, .apply (2 ^ 32), .openRegions (2 ^ 32), .closeRegions (2 ^ 32), .closeReadersDone 4096,
    .applySliceStart 512 0, .applySliceStart 0 4096, .applySliceCommit 512, .patrolScrub 576, .stackLost 12, .wipeDone [2 ^ 40],
    .hdmRead 60 8 false, .hdmRead 64 0 false, .hdmWrite 64 [0] [] false false, .hdmWrite 64 [] [] false false, .injectArm (2 ^ 32),
    .trainingAttempt 16, .trainingEnd 16 .noLanes, .trainingEnd 0 (.linked ⟨0, 0, true, true, 0, 1, 0⟩ 16), .downPortRetry 16,
    .linkLoss 16 .signal, .portRecordTimer 16, .flitReceive 16 tEmptyFlit, .flitReceive 0 { tEmptyFlit with trailer := [] }, .flitAckTimeout 16,
    .flitAckTimer 16, .creditReturnTimer 16, .linkCtrl 16 tPkt, .linkCtrl 0 { tPkt with vc := 4 }, .ident 16 tPkt, .ident 0 { tPkt with vc := 4 },
    .packetTransit 16 tPkt 0, .packetTransit 0 tPkt 3] (fun i => !i.wf) = true := by decide +kernel

theorem test_illformed_d : List.all (α := Instr)
   [.packetTransit 0 { tPkt with vc := 4 } 0, .write { tPkt with vc := 4 }, .read { tPkt with vc := 4 }, .probe { tPkt with vc := 4 },
    .token { tPkt with vc := 4 }, .qpost { tPkt with vc := 4 }, .resp { tPkt with vc := 4 }, .ctxAck { tPkt with vc := 4 }, .ctxRetxTimeout 8192,
    .peerOpen 2048, .peerClose 2048, .ctxOpen { tPkt with vc := 4 }, .ctxOpenAck { tPkt with vc := 4 }, .ctxOpenResendTimeout 8192,
    .peerCloseDrainDone 8192, .peerCloseTimeout 8192, .ctxClose { tPkt with vc := 4 }, .tagQuarantineEnd 16384, .mboxStart 2048,
    .mgmtResponse { tPkt with vc := 4 }, .mgmtSessionIdleTimeout 16, .identify { tMgmt with session := some 16 },
    .feedQuery { tMgmt with session := some 16 }, .spdm { tMgmt with session := some 16 }, .portReport { tMgmt with session := some 16 },
    .setTorus { tMgmt with session := some 16 }, .setId { tMgmt with session := some 16 }, .imageLoad { tMgmt with session := some 16 },
    .reset { tMgmt with session := some 16 }, .portCtrlRetrain { tMgmt with session := some 16 },
    .portCtrlDisable { tMgmt with session := some 16 }, .portCtrlEnable { tMgmt with session := some 16 },
    .imageRead { tMgmt with session := some 16 }, .redPost 512, .redLeafRead 32, .red { tPkt with vc := 4 }, .fail { tPkt with vc := 4 },
    .nack { tPkt with vc := 4 }, .marker { tPkt with vc := 4 }, .epochSwStart (2 ^ 32), .suspect { tPkt with vc := 4 }, .suspectEntryTimer 256,
    .suspectEntryExpiry 256, .susValidClear 256, .queueEnable 32768, .queueDisable 32768, .submissionDoorbell 32768 0,
    .submissionDoorbell 0 (2 ^ 32), .completionDoorbell 32768 0, .completionDoorbell 0 (2 ^ 32), .ringFetch 32768 .error,
    .ringFetch 0 (.entry (zeros 65)), .intHoldoffExpiry 2048, .evqEnable (2 ^ 32), .evqHeadWrite (2 ^ 15), .hdmDecoderCommit 2 0 0 0 0 false,
    .hdmDecoderCommit 0 (2 ^ 64) 0 0 0 false, .hdmDecoderCommit 0 0 (2 ^ 64) 0 0 false, .hdmDecoderCommit 0 0 0 16 0 false,
    .hdmDecoderCommit 0 0 0 0 (2 ^ 64) false] (fun i => !i.wf) = true := by decide +kernel

theorem test_illformed_e : List.all (α := Instr)
   [.doeRequest 2 [], .doeAbort 2, .cxlLinkUp false 16 16, .cxlLinkUp false 2 0, .completionTimeout (.ring 32768), .cut 64,
    .frameBegin { tPkt with vc := 4 }, .frameEnd { tPkt with vc := 4 }, .frameAck { tPkt with vc := 4 }, .heartbeat { tPkt with vc := 4 },
    .heartbeatTimer 64, .partnerSilenceTimeout 64, .rebind 64, .refillStart 64, .refillReq { tPkt with vc := 4 },
    .refillGrant { tPkt with vc := 4 }, .refillComplete { tPkt with vc := 4 }, .refillDone { tPkt with vc := 4 }, .ckptAck 64 0,
    .ckptAck 0 (2 ^ 32), .replayArm 64, .zestReport { tPkt with vc := 4 }, .zestVerdict { tPkt with vc := 4 }, .zestHoldTimeout 64,
    .damsonLoad 2048 none, .damsonPattern 512 none, .powerOn 16 0 none, .powerOn 0 256 none, .powerOn 0 0 (some { tFitting with variant := 4 }),
    .bringupStageDone (.stacks 4096), .fwChunkReport 544 0 false, .fwChunkReport 0 (2 ^ 16) false, .fwReportTimeout 544,
    .katDone (.adder 0) (2 ^ 32), .katDone (.engine 544 0) 0, .katTimeout 544, .coreReset 512 0, .coreReset 0 256, .clusterReset 32 0,
    .clusterReset 0 256, .partitionReset (2 ^ 32) 0, .partitionReset 0 256, .deviceWarmReset 256, .deviceColdReset 256, .forceAckTimeout 640,
    .fwStageStart 2048 none, .recoveryWrite { tMgmt with session := some 16 }, .recoveryCommit { tMgmt with session := some 16 },
    .stoneInfo { tMgmt with session := some 16 }, .stoneRead { tMgmt with session := some 16 }, .stoneRdIndexWrite 65536,
    .keyEnroll { tSpdmReq with session := some 16 }, .keyRevoke { tSpdmReq with session := some 16 },
    .setSigRequired { tSpdmReq with session := some 16 }, .raiseMinSvn { tSpdmReq with session := some 16 },
    .lcTransition { tSpdmReq with session := some 16 }, .getSealedDevid { tSpdmReq with session := some 16 },
    .getVersion { tSpdmReq with session := some 16 }, .getCapabilities { tSpdmReq with session := some 16 },
    .negotiateAlgorithms { tSpdmReq with session := some 16 }] (fun i => !i.wf) = true := by decide +kernel

theorem test_illformed_f : List.all (α := Instr)
   [.getDigests { tSpdmReq with session := some 16 }, .getCertificate { tSpdmReq with session := some 16 },
    .challenge { tSpdmReq with session := some 16 }, .getMeasurements { tSpdmReq with session := some 16 },
    .keyExchange { tSpdmReq with session := some 16 }, .finish { tSpdmReq with session := some 16 },
    .heartbeatSpdm { tSpdmReq with session := some 16 }, .keyUpdate { tSpdmReq with session := some 16 },
    .endSession { tSpdmReq with session := some 16 }, .chunkSend { tSpdmReq with session := some 16 },
    .chunkGet { tSpdmReq with session := some 16 }, .setEndpointId ⟨32, []⟩, .getEndpointId ⟨32, []⟩, .getMctpVersionSupport ⟨32, []⟩,
    .getMessageTypeSupport ⟨32, []⟩, .getVendorDefinedMessageSupport ⟨32, []⟩, .gettid ⟨32, []⟩, .settid ⟨32, []⟩, .getpldmversion ⟨32, []⟩,
    .getpldmtypes ⟨32, []⟩, .getpldmcommands ⟨32, []⟩, .getpdrrepositoryinfo ⟨32, []⟩, .getpdr ⟨32, []⟩, .getsensorreading ⟨32, []⟩,
    .getstatesensorreadings ⟨32, []⟩, .seteventreceiver ⟨32, []⟩, .eventmessagesupported ⟨32, []⟩, .eventmessagebuffersize ⟨32, []⟩,
    .pollforplatformeventmessage ⟨32, []⟩, .sensorSample 256 0, .sensorSample 0 (2 ^ 32), .opReq 4, .powerLimit (2 ^ 16),
    .paceMonitorRead [0] false, .powerWindowEnd (2 ^ 16), .railFaultAlert 32, .refclkLoss (.fabric 4), .rcRead .host 0x4000000 32,
    .rcRead (.core 512) 0 32, .rcRead .host 0 24, .csrHalfRead .host 0x4000000, .csrHalfRead (.core 512) 0, .csrWrite .host 0x4000000 32 0,
    .csrWrite .host 0 32 (2 ^ 32), .csrWrite (.core 512) 0 32 0, .csrWrite .host 0 24 0, .ctxAckTimer 8192, .imageReadTimeout 16384,
    .rebindFeedQueryTimeout 64, .computeDieLost 4] (fun i => !i.wf) = true := by decide +kernel

theorem test_illformed_operands :
    (List.all [{ tPkt with ptype := 256 }, { tPkt with detourDim := 4 }, { tPkt with len := 8192 }, { tPkt with dst := 65536 }, { tPkt with src := 65536 },
      { tPkt with job := 4096 }, { tPkt with ctx := 8192 }, { tPkt with tag := 16384 }, { tPkt with status := 256 }, { tPkt with epoch := 256 },
      { tPkt with step := 2 ^ 32 }, { tPkt with psn := 2 ^ 24 }, { tPkt with hops := 256 }, { tPkt with addr := 2 ^ 40 }, { tPkt with aux := 2 ^ 24 }]
      (fun p => !pktWf p)) = true ∧
    (List.all [{ tEmptyFlit with data := zeros 2047 }, { tEmptyFlit with trailer := zeros 9 }] (fun f => !flitWf f)) = true ∧
    (List.all [{ tMgmt with seq := 2 ^ 64 }, { tMgmt with params := zeros 4097 }, { tMgmt with route := .packet 65536 0 }, { tMgmt with route := .packet 0 16384 }] (fun r => !mgmtWf r)) = true ∧
    (List.all [{ tSpdmReq with seq := 2 ^ 64 }, { tSpdmReq with param1 := 256 }, { tSpdmReq with param2 := 256 }, { tSpdmReq with key := [0] }, { tSpdmReq with path := .packet 65536 0 },
      { tSpdmReq with path := .packet 0 16384 }] (fun r => !spdmWf r)) = true ∧
    (List.all [.linked ⟨2 ^ 64, 0, true, true, 0, 1, 0⟩ 1, .linked ⟨0, 65536, true, true, 0, 1, 0⟩ 1, .linked ⟨0, 0, true, true, 16, 1, 0⟩ 1,
      .linked ⟨0, 0, true, true, 0, 1, 65536⟩ 1] (fun r => !trainWf r)) = true ∧
    (List.all [.trimmed [0, 0, 0], .trimmed [0, 0, 0, 31]] (fun r => !stageWf r)) = true ∧
    (List.all [.engine 0 5, .unit 32 0, .unit 0 4, .adder 4] (fun u => !katUnitWf u)) = true ∧
    (List.all [{ tFitting with stepping := 256 }, { tFitting with serial := 2 ^ 64 }, { tFitting with lc := 2 }, { tFitting with uds := [] },
      { tFitting with fwKey := [] }, { tFitting with mfgKey := [] }, { tFitting with damsonKey := [] }] (fun f => !fittingWf f)) = true ∧
    (lineWf 0 64 = true ∧ lineWf 1 64 = false ∧ lineWf (2 ^ 64) 8 = false) := by decide +kernel

/-! ### Known answers -/

/-- The bytes of "123456789", and of "abc". -/
def tDigits : List Byte := [0x31, 0x32, 0x33, 0x34, 0x35, 0x36, 0x37, 0x38, 0x39]

/-- The published check values of CRC-32C, of CRC-64 and of CRC-32. -/
theorem test_crc : crc32c tDigits = 0xE3069283 ∧ crc64 tDigits = 0x6C40DF5F0B497347 ∧ crc32 tDigits = 0xCBF43926 := by decide +kernel

/-- FIPS 180-4, the digest of "abc". -/
theorem test_sha384 : sha384 [0x61, 0x62, 0x63] = toLE 48
    0xA725C834A1ECBA5823CCE7A12B078680ED5BFF435A608B1A63D1DE0EAB322C270750C69A693DA0B58B5EA3453F7500CB := by decide +kernel

/-- The published known answer of Philox-4x32-10 at key 0 and counter 0. -/
theorem test_philox : philox 0 0 0 0 0 = (0x6627E8D5, 0xE169C58D, 0xBC57AC4C, 0x9B00DBD8) := by decide +kernel

/-- The example under R274: a row in stack 1, the next in stack 2. -/
theorem test_stack_of : stackOf State.reset 0x1234567900 = 1 ∧ stackOf State.reset 0x1234567A00 = 2 := by decide

/-- The example under R335: 1 + 2^-24, then + 2^-23, then - 1 gives 0x3400_0000. -/
theorem test_tree_sum : (add32 (add32 (add32 0x3F800000 0x33800000).code 0x34000000).code 0xBF800000).code = 0x34000000 := by decide +kernel

/-- The example of spec/18: where registers lie. -/
theorem test_register_places : fieldsAt 0x29F00C = [(.tokenTimeout, 159, 0)] ∧ fieldsAt 0x225204 = [(.vfaultPc, 37, 0)] ∧
    fieldsAt 0x109004 = [(.remoteDrawTimeout, 9, 0)] ∧ fieldsAt 0x2090 = [(.present, 4, 0)] ∧ bufAt 0x605000 = some .window := by decide +kernel

/-- The example under R314: ports 1 and 9 UP at widths 4 and 2; a packet from 0x0012 to 0x0011 on context 0x0105 of job 0x02A1 goes toward - in dimension
0 and takes port 9. -/
theorem test_route_example :
    let s := wrs tReady [(.deviceId, 0, 0x12), (.dimSizeM1, 0, 0x1133), (.portState, 1, 2), (.portState, 9, 2), (.portWidth, 1, 4), (.portWidth, 9, 2)]
    let p : Pkt := { ptype := 1, dst := 0x11, src := 0x12, ctx := 0x105, job := 0x2A1 }
    (match nextHop s p none with
      | .go d minus q _ => (d, minus, portFor s d minus q)
      | _ => (9, false, 99)) = (0, true, 9) := by decide +kernel

/-- The example of spec/17: a window of 1,712 W above a limit of 1,600 W lowers the cap point to OP-nom. -/
theorem test_power_window : let t := windowEnd (wrs { tReady with railsUp := true } [(.powerLimit, 0, 1600), (.opReq, 0, 3), (.opEffective, 0, 3)]) 1712
    t.power.cap = 2 ∧ rd t .capActive = 1 ∧ rd t .opEffective = 2 := by decide +kernel

/-- A step takes the front command, and withFetchWord finds no command in a word: the table gives no row any bits. -/
theorem test_step : step { State.reset with pending := [.perstNRise, .thermTrip] } = .next { State.reset with pending := [.thermTrip] } ∧
    State.reset.withFetchWord 32 0xFFFFFFFF = State.reset := ⟨rfl, rfl⟩
end

section
/-!
The scope statements of the register file and of a step: a register reads what was written, the reset state, and the canonical forms that every step keeps.
-/
namespace Sys2Proof.Machine

/-! ### Counters (R13) -/

/-- A counter raised by one below its largest value reads one more, at its largest value it stays. -/
theorem rd_inc_same (s : State) (r : Reg) (i n : Nat) : rd (inc s r i n) r i = min (rd s r i + n) (regMax r) := by
  have hlt : min (rd s r i + n) (regMax r) < 2 ^ r.info.width :=
    lt_of_le_of_lt (Nat.min_le_right ..) (Nat.sub_lt (Nat.two_pow_pos _) Nat.one_pos)
  exact (rd_wr_same s r i _).trans (Nat.mod_eq_of_lt hlt)

theorem rd_inc_other (s : State) {r q : Reg} {i j : Nat} (n : Nat) (h : ¬ (q = r ∧ j = i)) : rd (inc s r i n) q j = rd s q j :=
  rd_wr_other s _ h

/-- Settles O8: the rules of wr, and a counter's write of the saturated sum. -/
theorem registerWriteRead : Obligations.RegisterWriteRead := by
  intro s r i v
  refine ⟨rd_wr_same s r i v, fun q j h => rd_wr_other s v h, wr_eq s r i v, fun hmax => ?_, fun q j h => rd_inc_other s 1 h, wr_eq s r i _⟩
  rw [rd_inc_same]
  split <;> omega

/-! ### The reset state (R12) -/

/-- Settles O3: no register is listed at reset, so each reads its Reset column. -/
theorem resetFields : Obligations.ResetFields :=
  ⟨fun _ _ => rfl, rfl, rfl, rfl⟩

/-- Settles O4: at reset neither memory nor the register file lists anything. -/
theorem resetIsCanonical : Obligations.ResetIsCanonical :=
  canon_reset

/-! ### One step -/

/-- What Kept says of the canonical forms. -/
theorem Kept.canon {a s : State} (h : Kept a s) (ha : Canon a) : Canon s := by
  obtain ⟨_, _, _, hmem, hregs⟩ := h
  exact ⟨hmem ha.1, hregs ha.2⟩

/-- Every command leaves the queue behind it, only adds to what has left the block and to the free values used, and keeps the canonical forms. -/
theorem kept_exec {c : Instr} {s t : State} (e : exec c s = .next t) : Kept s t := by
  have hs : Kept s s := .refl s
  cases c with
  | qimgStart vector => exact kept_execQimgStart hs e
  | qimgVerifyOnly vector => exact kept_execQimgVerifyOnly hs e
  | loadVerifyPassEnd src => exact kept_execLoadVerifyPassEnd hs e
  | loadFeedQueryTimeout => exact kept_execLoadFeedQueryTimeout hs e
  | loadApplyPassEnd src => exact kept_execLoadApplyPassEnd hs e
  | scalarInstruction core => exact kept_execScalarInstruction hs e
  | ecall core => exact kept_execEcall hs e
  | progDoneSet core => exact kept_execProgDoneSet hs e
  | tdIssue core => exact kept_execTdIssue hs e
  | tdFence core => exact kept_execTdFence hs e
  | tdResume core => exact kept_execTdResume hs e
  | tdStat core => exact kept_execTdStat hs e
  | tkRead core => exact kept_execTkRead hs e
  | tkSet core => exact kept_execTkSet hs e
  | tkAdd core => exact kept_execTkAdd hs e
  | tkWait core => exact kept_execTkWait hs e
  | tkWaitTimeout core => exact kept_execTkWaitTimeout hs e
  | nsRead core => exact kept_execNsRead hs e
  | copy core ctx => exact kept_execCopy hs e
  | gather core ctx => exact kept_execGather hs e
  | scatterAdd core ctx => exact kept_execScatterAdd hs e
  | matmul core ctx => exact kept_execMatmul hs e
  | vector core ctx => exact kept_execVector hs e
  | sync core ctx => exact kept_execSync hs e
  | tileWaitTimeout core ctx => exact kept_execTileWaitTimeout hs e
  | paramHoldTimeout core ctx => exact kept_execParamHoldTimeout hs e
  | probeHoldRelease index => exact kept_execProbeHoldRelease hs e
  | remoteExchangeTimeout tag => exact kept_execRemoteExchangeTimeout hs e
  | matmulBlock core ctx seq => exact kept_execMatmulBlock hs e
  | shadowDone core ctx seq => exact kept_execShadowDone hs e
  | sparseFallback core ctx seq => exact kept_execSparseFallback hs e
  | tileComplete core ctx seq => exact kept_execTileComplete hs e
  | tokenSignalApply index => exact kept_execTokenSignalApply hs e
  | c0Resume core => exact kept_execC0Resume hs e
  | c0Flush core => exact kept_execC0Flush hs e
  | c1Resume core => exact kept_execC1Resume hs e
  | c1Flush core => exact kept_execC1Flush hs e
  | c0CringTailWrite core tail => exact kept_execC0CringTailWrite hs e
  | c0CringConfigWrite core base log2 => exact kept_execC0CringConfigWrite hs e
  | predClear core => exact kept_execPredClear hs e
  | nop core => exact kept_execNop hs e
  | endProg core => exact kept_execEndProg hs e
  | sli core => exact kept_execSli hs e
  | saddi core => exact kept_execSaddi hs e
  | sadd core => exact kept_execSadd hs e
  | smul core => exact kept_execSmul hs e
  | sshli core => exact kept_execSshli hs e
  | sshri core => exact kept_execSshri hs e
  | sbnz core => exact kept_execSbnz hs e
  | sblt core => exact kept_execSblt hs e
  | sld core => exact kept_execSld hs e
  | scnt core => exact kept_execScnt hs e
  | svext core => exact kept_execSvext hs e
  | pwhile core => exact kept_execPwhile hs e
  | pand core => exact kept_execPand hs e
  | por core => exact kept_execPor hs e
  | pxor core => exact kept_execPxor hs e
  | pnot core => exact kept_execPnot hs e
  | vcmp core => exact kept_execVcmp hs e
  | vadd core => exact kept_execVadd hs e
  | vsub core => exact kept_execVsub hs e
  | vmul core => exact kept_execVmul hs e
  | vfma core => exact kept_execVfma hs e
  | vfnma core => exact kept_execVfnma hs e
  | vdiv core => exact kept_execVdiv hs e
  | vsqrt core => exact kept_execVsqrt hs e
  | vmin core => exact kept_execVmin hs e
  | vmax core => exact kept_execVmax hs e
  | vabs core => exact kept_execVabs hs e
  | vneg core => exact kept_execVneg hs e
  | vfmawl core => exact kept_execVfmawl hs e
  | vfmawh core => exact kept_execVfmawh hs e
  | vdot4 core => exact kept_execVdot4 hs e
  | vmov core => exact kept_execVmov hs e
  | vsel core => exact kept_execVsel hs e
  | vperm core => exact kept_execVperm hs e
  | vdups core => exact kept_execVdups hs e
  | viota core => exact kept_execViota hs e
  | viadd core => exact kept_execViadd hs e
  | visub core => exact kept_execVisub hs e
  | vimul core => exact kept_execVimul hs e
  | viand core => exact kept_execViand hs e
  | vior core => exact kept_execVior hs e
  | vixor core => exact kept_execVixor hs e
  | vishl core => exact kept_execVishl hs e
  | vishr core => exact kept_execVishr hs e
  | vcvt core => exact kept_execVcvt hs e
  | vcvtfi core => exact kept_execVcvtfi hs e
  | vcvtif core => exact kept_execVcvtif hs e
  | vrsum core => exact kept_execVrsum hs e
  | vrssq core => exact kept_execVrssq hs e
  | vrmv core => exact kept_execVrmv hs e
  | vmvmerge core => exact kept_execVmvmerge hs e
  | vsegsum core => exact kept_execVsegsum hs e
  | vrmaxi core => exact kept_execVrmaxi hs e
  | vrmini core => exact kept_execVrmini hs e
  | vsmrow core => exact kept_execVsmrow hs e
  | vsmexp core => exact kept_execVsmexp hs e
  | vsmsum core => exact kept_execVsmsum hs e
  | vexp2 core => exact kept_execVexp2 hs e
  | vlog2 core => exact kept_execVlog2 hs e
  | vrcp core => exact kept_execVrcp hs e
  | vrsqrt core => exact kept_execVrsqrt hs e
  | vtanh core => exact kept_execVtanh hs e
  | verf core => exact kept_execVerf hs e
  | vld core => exact kept_execVld hs e
  | vst core => exact kept_execVst hs e
  | vldb core => exact kept_execVldb hs e
  | vgather core => exact kept_execVgather hs e
  | vscatter core => exact kept_execVscatter hs e
  | vscatadd core => exact kept_execVscatadd hs e
  | vstc core => exact kept_execVstc hs e
  | pld core => exact kept_execPld hs e
  | pst core => exact kept_execPst hs e
  | vinstrBudgetExceeded core => exact kept_execVinstrBudgetExceeded hs e
  | sample queue => exact kept_execSample hs e
  | heldSampleAccept queue => exact kept_execHeldSampleAccept hs e
  | sampleCommit cluster block => exact kept_execSampleCommit hs e
  | release queue => exact kept_execRelease hs e
  | drawReq pkt => exact kept_execDrawReq hs e
  | remoteDrawTimeout tag => exact kept_execRemoteDrawTimeout hs e
  | qentryBadOp queue => exact kept_execQentryBadOp hs e
  | sort queue => exact kept_execSort hs e
  | sortComplete cluster => exact kept_execSortComplete hs e
  | fetch queue => exact kept_execFetch hs e
  | fetchComplete run => exact kept_execFetchComplete hs e
  | rowReq pkt => exact kept_execRowReq hs e
  | peerRowTimeout tag => exact kept_execPeerRowTimeout hs e
  | contrib pkt => exact kept_execContrib hs e
  | updateHoldTimeout index => exact kept_execUpdateHoldTimeout hs e
  | updateStepClose table step => exact kept_execUpdateStepClose hs e
  | updateCloseTimeout table => exact kept_execUpdateCloseTimeout hs e
  | migStart vector => exact kept_execMigStart hs e
  | migDrainDone => exact kept_execMigDrainDone hs e
  | migCopyDone => exact kept_execMigCopyDone hs e
  | migFenceHoldTimeout index => exact kept_execMigFenceHoldTimeout hs e
  | paramPrefetch core => exact kept_execParamPrefetch hs e
  | apply doorbell => exact kept_execApply hs e
  | openRegions doorbell => exact kept_execOpenRegions hs e
  | closeRegions doorbell => exact kept_execCloseRegions hs e
  | closeReadersDone job => exact kept_execCloseReadersDone hs e
  | applySliceStart core job => exact kept_execApplySliceStart hs e
  | applySliceCommit core => exact kept_execApplySliceCommit hs e
  | patrolScrub unit => exact kept_execPatrolScrub hs e
  | stackLost stack => exact kept_execStackLost hs e
  | wipeDone bad => exact kept_execWipeDone hs e
  | hdmRead addr len bar2 => exact kept_execHdmRead hs e
  | hdmWrite addr data enables poison bar2 => exact kept_execHdmWrite hs e
  | injectArm word => exact kept_execInjectArm hs e
  | trainingAttempt port => exact kept_execTrainingAttempt hs e
  | trainingEnd port result => exact kept_execTrainingEnd hs e
  | downPortRetry port => exact kept_execDownPortRetry hs e
  | linkLoss port cause => exact kept_execLinkLoss (y1 := cause) hs e
  | portRecordTimer port => exact kept_execPortRecordTimer hs e
  | flitReceive port flit => exact kept_execFlitReceive hs e
  | flitAckTimeout port => exact kept_execFlitAckTimeout hs e
  | flitAckTimer port => exact kept_execFlitAckTimer hs e
  | creditReturnTimer port => exact kept_execCreditReturnTimer hs e
  | linkCtrl port pkt => exact kept_execLinkCtrl hs e
  | ident port pkt => exact kept_execIdent hs e
  | packetTransit port pkt path => exact kept_execPacketTransit hs e
  | write pkt => exact kept_execWrite hs e
  | read pkt => exact kept_execRead hs e
  | probe pkt => exact kept_execProbe hs e
  | token pkt => exact kept_execToken hs e
  | qpost pkt => exact kept_execQpost hs e
  | resp pkt => exact kept_execResp hs e
  | ctxAck pkt => exact kept_execCtxAck hs e
  | ctxRetxTimeout pctx => exact kept_execCtxRetxTimeout hs e
  | peerOpen vector => exact kept_execPeerOpen hs e
  | peerClose vector => exact kept_execPeerClose hs e
  | ctxOpen pkt => exact kept_execCtxOpen hs e
  | ctxOpenAck pkt => exact kept_execCtxOpenAck hs e
  | ctxOpenResendTimeout pctx => exact kept_execCtxOpenResendTimeout hs e
  | peerCloseDrainDone pctx => exact kept_execPeerCloseDrainDone hs e
  | peerCloseTimeout pctx => exact kept_execPeerCloseTimeout hs e
  | ctxClose pkt => exact kept_execCtxClose hs e
  | tagQuarantineEnd tag => exact kept_execTagQuarantineEnd hs e
  | mboxStart vector => exact kept_execMboxStart hs e
  | mboxTimeout => exact kept_execMboxTimeout hs e
  | mgmtResponse pkt => exact kept_execMgmtResponse hs e
  | mgmtSessionIdleTimeout session => exact kept_execMgmtSessionIdleTimeout hs e
  | identify req => exact kept_execIdentify hs e
  | feedQuery req => exact kept_execFeedQuery hs e
  | spdm req => exact kept_execSpdm hs e
  | portReport req => exact kept_execPortReport hs e
  | setTorus req => exact kept_execSetTorus hs e
  | setId req => exact kept_execSetId hs e
  | imageLoad req => exact kept_execImageLoad hs e
  | reset req => exact kept_execReset hs e
  | portCtrlRetrain req => exact kept_execPortCtrlRetrain hs e
  | portCtrlDisable req => exact kept_execPortCtrlDisable hs e
  | portCtrlEnable req => exact kept_execPortCtrlEnable hs e
  | imageRead req => exact kept_execImageRead hs e
  | redPost core => exact kept_execRedPost hs e
  | redLeafRead cluster => exact kept_execRedLeafRead hs e
  | red pkt => exact kept_execRed hs e
  | fail pkt => exact kept_execFail hs e
  | nack pkt => exact kept_execNack hs e
  | marker pkt => exact kept_execMarker hs e
  | backupTimeout index => exact kept_execBackupTimeout hs e
  | redWaitTimeout index own => exact kept_execRedWaitTimeout hs e
  | epochSwStart word => exact kept_execEpochSwStart hs e
  | suspect pkt => exact kept_execSuspect hs e
  | suspectEntryTimer entry => exact kept_execSuspectEntryTimer hs e
  | suspectEntryExpiry entry => exact kept_execSuspectEntryExpiry hs e
  | susValidClear entry => exact kept_execSusValidClear hs e
  | queueEnable queue => exact kept_execQueueEnable hs e
  | queueDisable queue => exact kept_execQueueDisable hs e
  | submissionDoorbell queue value => exact kept_execSubmissionDoorbell hs e
  | completionDoorbell queue value => exact kept_execCompletionDoorbell hs e
  | ringFetch queue entry => exact kept_execRingFetch hs e
  | intHoldoffExpiry vector => exact kept_execIntHoldoffExpiry hs e
  | evqEnable word => exact kept_execEvqEnable hs e
  | evqHeadWrite value => exact kept_execEvqHeadWrite hs e
  | hdmDecoderCommit decoder base size ways skip lock => exact kept_execHdmDecoderCommit hs e
  | doeRequest inst object => exact kept_execDoeRequest hs e
  | doeAbort inst => exact kept_execDoeAbort (y0 := inst) hs e
  | cxlLinkUp cxl width speed => exact kept_execCxlLinkUp hs e
  | dlActiveLoss => exact kept_execDlActiveLoss hs e
  | perstNFall => exact kept_execPerstNFall hs e
  | perstNRise => exact kept_execPerstNRise hs e
  | completionTimeout target => exact kept_execCompletionTimeout hs e
  | cut slot => exact kept_execCut hs e
  | frameBegin pkt => exact kept_execFrameBegin hs e
  | frameEnd pkt => exact kept_execFrameEnd hs e
  | frameAck pkt => exact kept_execFrameAck hs e
  | heartbeat pkt => exact kept_execHeartbeat hs e
  | heartbeatTimer slot => exact kept_execHeartbeatTimer hs e
  | partnerSilenceTimeout slot => exact kept_execPartnerSilenceTimeout hs e
  | rebind slot => exact kept_execRebind hs e
  | refillStart slot => exact kept_execRefillStart hs e
  | refillReq pkt => exact kept_execRefillReq hs e
  | refillGrant pkt => exact kept_execRefillGrant hs e
  | refillComplete pkt => exact kept_execRefillComplete hs e
  | refillDone pkt => exact kept_execRefillDone hs e
  | ckptAck slot step => exact kept_execCkptAck hs e
  | replayArm slot => exact kept_execReplayArm hs e
  | zestReport pkt => exact kept_execZestReport hs e
  | zestVerdict pkt => exact kept_execZestVerdict hs e
  | zestHoldTimeout slot => exact kept_execZestHoldTimeout hs e
  | damsonLoad vector src => exact kept_execDamsonLoad hs e
  | damsonPattern core result => exact kept_execDamsonPattern hs e
  | powerOn feed smb fit => exact kept_execPowerOn hs e
  | bringupStageDone result => exact kept_execBringupStageDone hs e
  | fwChunkReport phys missing digestOk => exact kept_execFwChunkReport hs e
  | fwReportTimeout phys => exact kept_execFwReportTimeout hs e
  | katDone unit crc => exact kept_execKatDone hs e
  | katTimeout phys => exact kept_execKatTimeout hs e
  | coreReset target reason => exact kept_execCoreReset hs e
  | clusterReset target reason => exact kept_execClusterReset hs e
  | partitionReset target reason => exact kept_execPartitionReset hs e
  | deviceWarmReset reason => exact kept_execDeviceWarmReset hs e
  | deviceColdReset reason => exact kept_execDeviceColdReset hs e
  | quiesceDone => exact kept_execQuiesceDone hs e
  | quiesceTimeout => exact kept_execQuiesceTimeout hs e
  | forceAckTimeout block => exact kept_execForceAckTimeout hs e
  | boundaryDrainDone => exact kept_execBoundaryDrainDone hs e
  | sysRstNInput => exact kept_execSysRstNInput hs e
  | sysRstNStretchEnd => exact kept_execSysRstNStretchEnd hs e
  | pipWatchdog => exact kept_execPipWatchdog hs e
  | thermTrip => exact kept_execThermTrip hs e
  | pwrGoodFall => exact kept_execPwrGoodFall hs e
  | fwStageStart vector src => exact kept_execFwStageStart hs e
  | recoveryWrite req => exact kept_execRecoveryWrite hs e
  | recoveryCommit req => exact kept_execRecoveryCommit hs e
  | stoneInfo req => exact kept_execStoneInfo hs e
  | stoneRead req => exact kept_execStoneRead hs e
  | stoneRdIndexWrite index => exact kept_execStoneRdIndexWrite hs e
  | stoneRecordWrite => exact kept_execStoneRecordWrite hs e
  | keyEnroll req => exact kept_execKeyEnroll hs e
  | keyRevoke req => exact kept_execKeyRevoke hs e
  | setSigRequired req => exact kept_execSetSigRequired hs e
  | raiseMinSvn req => exact kept_execRaiseMinSvn hs e
  | lcTransition req => exact kept_execLcTransition hs e
  | getSealedDevid req => exact kept_execGetSealedDevid hs e
  | getVersion req => exact kept_execGetVersion hs e
  | getCapabilities req => exact kept_execGetCapabilities hs e
  | negotiateAlgorithms req => exact kept_execNegotiateAlgorithms hs e
  | getDigests req => exact kept_execGetDigests hs e
  | getCertificate req => exact kept_execGetCertificate hs e
  | challenge req => exact kept_execChallenge hs e
  | getMeasurements req => exact kept_execGetMeasurements hs e
  | keyExchange req => exact kept_execKeyExchange hs e
  | finish req => exact kept_execFinish hs e
  | heartbeatSpdm req => exact kept_execHeartbeatSpdm hs e
  | keyUpdate req => exact kept_execKeyUpdate hs e
  | endSession req => exact kept_execEndSession hs e
  | chunkSend req => exact kept_execChunkSend hs e
  | chunkGet req => exact kept_execChunkGet hs e
  | setEndpointId req => exact kept_execSetEndpointId hs e
  | getEndpointId req => exact kept_execGetEndpointId hs e
  | getMctpVersionSupport req => exact kept_execGetMctpVersionSupport hs e
  | getMessageTypeSupport req => exact kept_execGetMessageTypeSupport hs e
  | getVendorDefinedMessageSupport req => exact kept_execGetVendorDefinedMessageSupport hs e
  | gettid req => exact kept_execGettid hs e
  | settid req => exact kept_execSettid hs e
  | getpldmversion req => exact kept_execGetpldmversion hs e
  | getpldmtypes req => exact kept_execGetpldmtypes hs e
  | getpldmcommands req => exact kept_execGetpldmcommands hs e
  | getpdrrepositoryinfo req => exact kept_execGetpdrrepositoryinfo hs e
  | getpdr req => exact kept_execGetpdr hs e
  | getsensorreading req => exact kept_execGetsensorreading hs e
  | getstatesensorreadings req => exact kept_execGetstatesensorreadings hs e
  | seteventreceiver req => exact kept_execSeteventreceiver hs e
  | eventmessagesupported req => exact kept_execEventmessagesupported hs e
  | eventmessagebuffersize req => exact kept_execEventmessagebuffersize hs e
  | pollforplatformeventmessage req => exact kept_execPollforplatformeventmessage hs e
  | sensorSample sensor reading => exact kept_execSensorSample hs e
  | opReq value => exact kept_execOpReq hs e
  | powerLimit value => exact kept_execPowerLimit hs e
  | opMoveStep confirmed => exact kept_execOpMoveStep hs e
  | paceMonitorRead slack second => exact kept_execPaceMonitorRead hs e
  | powerWindowEnd watts => exact kept_execPowerWindowEnd hs e
  | railFaultAlert rail => exact kept_execRailFaultAlert hs e
  | refclkLoss clock => exact kept_execRefclkLoss hs e
  | rcRead reader offset width => exact kept_execRcRead hs e
  | csrHalfRead reader offset => exact kept_execCsrHalfRead hs e
  | csrWrite reader offset width value => exact kept_execCsrWrite hs e
  | ctxAckTimer pctx => exact kept_execCtxAckTimer hs e
  | imageReadTimeout tag => exact kept_execImageReadTimeout hs e
  | rebindFeedQueryTimeout slot => exact kept_execRebindFeedQueryTimeout hs e
  | computeDieLost die => exact kept_execComputeDieLost (y0 := die) hs e

/-- A step takes the front command and runs it with the rest of the queue; on an empty queue the clock advances and nothing else (R32). -/
theorem step_cases (s : State) :
    s.pending = [] ∧ step s = .next (idle s) ∨ ∃ c rest, s.pending = c :: rest ∧ step s = exec c { s with pending := rest } := by
  unfold step
  split
  next hp => exact .inl ⟨hp, rfl⟩
  next c rest hp => exact .inr ⟨c, rest, hp, rfl⟩

/-- Settles O5, by the front of the queue: an idle step touches neither memory nor registers, and a command's step is kept by kept_exec. -/
theorem stepKeepsCanon : Obligations.StepKeepsCanon := by
  intro s t hc e
  obtain ⟨-, hs⟩ | ⟨c, rest, -, hs⟩ := step_cases s
  · cases hs.symm.trans e
    exact hc
  · exact (kept_exec (hs.symm.trans e)).canon hc

end Sys2Proof.Machine
end

section
/-!
CSR space: which words are absent (R9, R505), which accesses get through (R368, R369), and what a read does (R506 to R508, R510).
-/
namespace Sys2Proof.Machine

/-! ### Words -/

/-- Where a field meets a word, it is among the word's fields. -/
theorem mem_fieldsAt {w i half : Nat} {r : Reg} (hr : r ∈ Reg.all) (hf : fieldAt (replica w).1 (replica w).2 r = some (i, half)) :
    (r, i, half) ∈ fieldsAt w :=
  List.mem_filterMap.2 ⟨r, hr, congrArg (Option.map (fun x => (r, x.1, x.2))) hf⟩

theorem csrAbsent_iff {s : State} {w : Nat} : csrAbsent s w = true ↔ inAbsentCore s w = true ∨ fieldsAt w = [] ∧ bufAt w = none := by
  simp [csrAbsent]

/-- An access counts as absent when each of its words does. -/
theorem accessAbsent_iff {s : State} {o w : Nat} :
    accessAbsent s o w = true ↔ csrAbsent s o = true ∧ (w = 64 → csrAbsent s (o + 4) = true) := by
  by_cases hw : w = 64 <;> simp [accessAbsent, hw]

theorem csrAligned_32 {o : Nat} (h : o % 4 = 0) : csrAligned o 32 = true := by
  simp [csrAligned, h]

theorem corePresent_wr (s : State) {r : Reg} (i v l : Nat) (h : r ≠ .present) : corePresent (wr s r i v) l = corePresent s l := by
  unfold corePresent
  rw [rd_wr_other s v fun e => h e.1.symm]

theorem inAbsentCore_wr (s : State) {r : Reg} (i v w : Nat) (h : r ≠ .present) : inAbsentCore (wr s r i v) w = inAbsentCore s w :=
  congrArg (fun b => decide _ && !b) (corePresent_wr s i v _ h)

/-- Counting an access to absent words makes no word absent or present. -/
theorem accessAbsent_inc_csrAbsentCnt (s : State) (o w : Nat) : accessAbsent (inc s .csrAbsentCnt) o w = accessAbsent s o w := by
  have hcore : ∀ u, inAbsentCore (inc s .csrAbsentCnt) u = inAbsentCore s u := fun u => inAbsentCore_wr s _ _ u Reg.noConfusion
  rw [Bool.eq_iff_iff]
  simp only [accessAbsent_iff, csrAbsent_iff, hcore]

/-! ### Accesses -/

section
variable {s : State} {o w : Nat} {go : State → State}

theorem csrAccess_host_unlinked (hl : hostLinked s = false) : csrAccess s .host o w go = s :=
  if_pos (by simp [hl])

/-- A linked host's access within CSR space. -/
theorem csrAccess_host_linked (hl : hostLinked s = true) (ho : o < 0x4000000) :
    csrAccess s .host o w go = if !csrAligned o w then aer s 20 else go (if accessAbsent s o w then inc s .csrAbsentCnt else s) :=
  if_neg (by simp [hl, ho])

theorem csrAccess_host_misaligned (hl : hostLinked s = true) (ho : o < 0x4000000) (ha : csrAligned o w = false) :
    csrAccess s .host o w go = aer s 20 :=
  (csrAccess_host_linked hl ho).trans (if_pos (by rw [ha, Bool.not_false]))

theorem csrAccess_host (hl : hostLinked s = true) (ho : o < 0x4000000) (ha : csrAligned o w = true) :
    csrAccess s .host o w go = go (if accessAbsent s o w then inc s .csrAbsentCnt else s) :=
  (csrAccess_host_linked hl ho).trans (if_neg (by simp [ha]))

theorem csrAccess_pip (hp : s.pwrGood = true) (hd : s.devReset = none) (ho : o < 0x4000000) (ha : csrAligned o w = true) :
    csrAccess s .pip o w go = go s :=
  if_pos (by simp [hp, hd, ho, ha])

theorem csrAccess_core {l : Nat} (hc : corePresent s l = true) (ha : csrAligned o w = true) (hlo : 0x200000 + 0x1000 * l ≤ o)
    (hhi : o < 0x201000 + 0x1000 * l) : csrAccess s (.core l) o w go = go s :=
  if_pos (by simp [hc, ha, hlo, hhi])

theorem csrAccess_core_outside {l : Nat} (h : o < 0x200000 + 0x1000 * l ∨ 0x201000 + 0x1000 * l ≤ o) : csrAccess s (.core l) o w go = s := by
  have hout : ¬ (0x200000 + 0x1000 * l ≤ o ∧ o < 0x201000 + 0x1000 * l) := by omega
  exact if_neg (by simp [hout])

end

/-! ### The value of a word -/

/-- No buffer's read takes a free value. -/
theorem readBuf_fst (s : State) (frz : Bool) (b : CsrBuf) : (readBuf s frz b).1 = s := by
  cases b <;> rfl

/-- A word reads as an absent core's zero, as its buffer, or as the sum of its fields' parts. -/
theorem peekWord_cases (s : State) (w : Nat) :
    inAbsentCore s w = true ∧ peekWord s w = (s, 0) ∨
    (∃ b, bufAt w = some b ∧ peekWord s w = readBuf s (frozen s w) b) ∨
    bufAt w = none ∧ peekWord s w = (s, ((fieldsAt w).map (fieldValue s (frozen s w))).sum) := by
  unfold peekWord
  split
  next hc => exact .inl ⟨hc, rfl⟩
  next =>
    split
    next b hb => exact .inr (.inl ⟨b, hb, rfl⟩)
    next hb => exact .inr (.inr ⟨hb, rfl⟩)

theorem peekWord_fst (s : State) (w : Nat) : (peekWord s w).1 = s := by
  obtain ⟨-, h⟩ | ⟨b, -, h⟩ | ⟨-, h⟩ := peekWord_cases s w <;> rw [h]
  exact readBuf_fst ..

/-- A word whose fields all read zero reads zero. -/
theorem peekWord_of_fieldValue_zero {s : State} {w : Nat} (hb : bufAt w = none) (hz : ∀ x ∈ fieldsAt w, fieldValue s (frozen s w) x = 0) :
    (peekWord s w).2 = 0 := by
  obtain ⟨-, h⟩ | ⟨b, hb', -⟩ | ⟨-, h⟩ := peekWord_cases s w
  · rw [h]
  · cases hb.symm.trans hb'
  · rw [h]
    exact List.sum_eq_zero (List.forall_mem_map.2 hz)

theorem peekWord_of_csrAbsent {s : State} {w : Nat} (h : csrAbsent s w = true) : (peekWord s w).2 = 0 := by
  obtain hc | ⟨hf, hb⟩ := csrAbsent_iff.1 h
  · exact congrArg Prod.snd (if_pos hc : peekWord s w = (s, 0))
  · exact peekWord_of_fieldValue_zero hb (by simp [hf])

/-- WO fields read zero (R11). -/
theorem fieldValue_wo {s : State} {frz : Bool} {x : Reg × Nat × Nat} (h : x.1.info.acc = .wo) : fieldValue s frz x = 0 :=
  if_pos h

/-! ### The effect of a read: RC fields are cleared (R11, R508) -/

/-- What a read does to one field of its word. -/
def clearField (s : State) (x : Reg × Nat × Nat) : State :=
  let u := if x.1.info.acc = .rc then wr s x.1 x.2.1 0 else s
  if x.1 = .satCnt then wr u .satFirstValid x.2.1 0 else u

theorem clearRc_cons (s : State) (x : Reg × Nat × Nat) (t : List (Reg × Nat × Nat)) : clearRc (x :: t) s = clearRc t (clearField s x) := rfl

/-- A field that is not RC stays; an RC field is given zero, SAT_CNT with SAT_FIRST_VALID (R233). -/
theorem clearField_cases (s : State) (x : Reg × Nat × Nat) :
    x.1.info.acc ≠ .rc ∧ clearField s x = s ∨
    x.1.info.acc = .rc ∧ (clearField s x = wr s x.1 x.2.1 0 ∨ clearField s x = wr (wr s x.1 x.2.1 0) .satFirstValid x.2.1 0) := by
  by_cases hrc : x.1.info.acc = .rc
  · refine .inr ⟨hrc, ?_⟩
    by_cases hsat : x.1 = .satCnt
    · exact .inr (by rw [clearField, if_pos hrc, if_pos hsat])
    · exact .inl (by rw [clearField, if_pos hrc, if_neg hsat])
  · have hsat : x.1 ≠ .satCnt := fun e => hrc (by rw [e]; rfl)
    exact .inl ⟨hrc, by rw [clearField, if_neg hrc, if_neg hsat]⟩

/-- Clearing changes the register file only: what does not depend on the registers stays. -/
theorem clearRc_frame {α : Type} (f : State → α) (hf : ∀ u rs, f { u with regs := rs } = f u) (l : List (Reg × Nat × Nat)) (s : State) :
    f (clearRc l s) = f s := by
  have hwr : ∀ u r i, f (wr u r i 0) = f u := fun u _ _ => hf u _
  induction l generalizing s with
  | nil => rfl
  | cons x t ih =>
    rw [clearRc_cons, ih]
    obtain ⟨-, h⟩ | ⟨-, h | h⟩ := clearField_cases s x <;> simp only [h, hwr]

/-- A list without an RC field clears nothing. -/
theorem clearRc_of_no_rc {l : List (Reg × Nat × Nat)} (s : State) (h : ∀ x ∈ l, x.1.info.acc ≠ .rc) : clearRc l s = s := by
  induction l with
  | nil => rfl
  | cons x t ih =>
    obtain ⟨hx, ht⟩ := List.forall_mem_cons.1 h
    obtain ⟨-, hs⟩ | ⟨hrc, -⟩ := clearField_cases s x
    · rw [clearRc_cons, hs, ih ht]
    · exact absurd hrc hx

/-- A field that is not in the list keeps its value. -/
theorem rd_clearRc_other {l : List (Reg × Nat × Nat)} (s : State) {q : Reg} {j : Nat} (h : ∀ x ∈ l, ¬ (x.1 = q ∧ x.2.1 = j))
    (hq : q ≠ .satFirstValid) : rd (clearRc l s) q j = rd s q j := by
  induction l generalizing s with
  | nil => rfl
  | cons x t ih =>
    obtain ⟨hx, ht⟩ := List.forall_mem_cons.1 h
    have hx' : ¬ (q = x.1 ∧ j = x.2.1) := fun e => hx ⟨e.1.symm, e.2.symm⟩
    have hv : ¬ (q = .satFirstValid ∧ j = x.2.1) := fun e => hq e.1
    rw [clearRc_cons, ih _ ht]
    obtain ⟨-, hs⟩ | ⟨-, hs | hs⟩ := clearField_cases s x <;> simp only [hs, rd_wr_other _ _ hx', rd_wr_other _ _ hv]

/-- Writing zero to any field leaves a zero where there is one. -/
theorem rd_wr_zero {s : State} {q : Reg} {j : Nat} (r : Reg) (i : Nat) (h : rd s q j = 0) : rd (wr s r i 0) q j = 0 := by
  by_cases e : q = r ∧ j = i
  · obtain ⟨rfl, rfl⟩ := e
    rw [rd_wr_same, Nat.zero_mod]
  · rw [rd_wr_other s 0 e, h]

/-- Clearing writes nothing but zeros, so what is zero stays so. -/
theorem rd_clearRc_zero {l : List (Reg × Nat × Nat)} {s : State} {q : Reg} {j : Nat} (h : rd s q j = 0) : rd (clearRc l s) q j = 0 := by
  induction l generalizing s with
  | nil => exact h
  | cons x t ih =>
    rw [clearRc_cons]
    apply ih
    obtain ⟨-, hs⟩ | ⟨-, hs | hs⟩ := clearField_cases s x <;> simp only [hs, rd_wr_zero, h]

/-- Every RC field of the list is zero afterwards. -/
theorem rd_clearRc_rc {l : List (Reg × Nat × Nat)} (s : State) {x : Reg × Nat × Nat} (hx : x ∈ l) (hrc : x.1.info.acc = .rc) :
    rd (clearRc l s) x.1 x.2.1 = 0 := by
  induction l generalizing s with
  | nil => cases hx
  | cons y t ih =>
    rw [clearRc_cons]
    rcases List.mem_cons.1 hx with rfl | hx
    · have hz : rd (wr s x.1 x.2.1 0) x.1 x.2.1 = 0 := by rw [rd_wr_same, Nat.zero_mod]
      apply rd_clearRc_zero
      obtain ⟨hne, -⟩ | ⟨-, hs | hs⟩ := clearField_cases s x
      · exact absurd hrc hne
      · rw [hs, hz]
      · rw [hs, rd_wr_zero _ _ hz]
    · exact ih _ hx

/-- A read has no effect, or clears the word's RC fields. -/
theorem readEffect_cases (s : State) (w : Nat) : readEffect s w = s ∨ readEffect s w = clearRc (fieldsAt w) s := by
  unfold readEffect
  split
  · exact .inl rfl
  · exact .inr rfl

theorem readEffect_of_live {s : State} {w : Nat} (hc : inAbsentCore s w = false) (hf : frozen s w = false) :
    readEffect s w = clearRc (fieldsAt w) s :=
  if_neg (by simp [hc, hf])

theorem readEffect_frame {α : Type} (f : State → α) (hf : ∀ u rs, f { u with regs := rs } = f u) (s : State) (w : Nat) :
    f (readEffect s w) = f s := by
  obtain h | h := readEffect_cases s w <;> rw [h]
  exact clearRc_frame f hf ..

theorem readEffect_of_no_rc (s : State) {w : Nat} (h : ∀ x ∈ fieldsAt w, x.1.info.acc ≠ .rc) : readEffect s w = s := by
  obtain hs | hs := readEffect_cases s w <;> rw [hs]
  exact clearRc_of_no_rc s h

theorem readEffect_of_csrAbsent {s : State} {w : Nat} (h : csrAbsent s w = true) : readEffect s w = s := by
  obtain hc | ⟨hf, -⟩ := csrAbsent_iff.1 h
  · exact if_pos (by simp [hc])
  · exact readEffect_of_no_rc s (by simp [hf])

/-! ### Reads of 32 and 64 bits (R507) -/

/-- The latches after a 32-bit read: a low half of a field that crosses its halves loads the reader's. -/
def latchesAfter (s : State) (rdr : Reader) (w : Nat) : Tbl (Nat × Nat) :=
  if w % 8 = 0 ∧ crossing w = true then Tbl.set s.latches (latchKey rdr) (w, (peekWord s (w + 4)).2) else s.latches

/-- What a reader's latch holds of the high half w. -/
def latchedHalf (s : State) (rdr : Reader) (w : Nat) : Option Nat :=
  ((Tbl.find s.latches (latchKey rdr)).filter (fun l => l.1 == w - 4)).map Prod.snd

/-- The value of a 32-bit read: a high half of a field that crosses its halves comes from the reader's latch where that holds it. -/
def readValue (s : State) (rdr : Reader) (w : Nat) : Nat :=
  if w % 8 ≠ 0 ∧ crossing (w - 4) = true then (latchedHalf s rdr w).getD (peekWord s w).2 else (peekWord s w).2

theorem readWord32_eq (s : State) (rdr : Reader) (w : Nat) :
    readWord32 s rdr w = (readEffect { s with latches := latchesAfter s rdr w } w, readValue s rdr w) := by
  by_cases h8 : w % 8 = 0
  · by_cases hx : crossing w = true <;> simp [readWord32, latchesAfter, readValue, peekWord_fst, h8, hx]
  · by_cases hx : crossing (w - 4) = true
    · cases hl : Tbl.find s.latches (latchKey rdr) with
      | none => simp [readWord32, latchesAfter, readValue, latchedHalf, peekWord_fst, h8, hx, hl]
      | some l => by_cases he : l.1 = w - 4 <;> simp [readWord32, latchesAfter, readValue, latchedHalf, peekWord_fst, Option.filter_some, h8, hx, hl, he]
    · simp [readWord32, latchesAfter, readValue, peekWord_fst, h8, hx]

/-- A low half of a field that crosses its halves loads the latch with the other half. -/
theorem latchesAfter_of_low (s : State) (rdr : Reader) {w : Nat} (h : w % 8 = 0) (hx : crossing w = true) :
    latchesAfter s rdr w = Tbl.set s.latches (latchKey rdr) (w, (peekWord s (w + 4)).2) :=
  if_pos ⟨h, hx⟩

theorem readValue_of_low (s : State) (rdr : Reader) {w : Nat} (h : w % 8 = 0) : readValue s rdr w = (peekWord s w).2 :=
  if_neg fun e => e.1 h

/-- A high half of a field that crosses its halves. -/
theorem readValue_of_high {s : State} {rdr : Reader} {w : Nat} (h : w % 8 ≠ 0) (hx : crossing (w - 4) = true) :
    readValue s rdr w = (latchedHalf s rdr w).getD (peekWord s w).2 :=
  if_pos ⟨h, hx⟩

theorem latchedHalf_eq_some {s : State} {rdr : Reader} {w v : Nat} (hv : Tbl.find s.latches (latchKey rdr) = some (w - 4, v)) :
    latchedHalf s rdr w = some v :=
  Option.map_eq_some_iff.2 ⟨_, Option.filter_eq_some_iff.2 ⟨hv, beq_self_eq_true _⟩, rfl⟩

theorem latchedHalf_eq_none {s : State} {rdr : Reader} {w : Nat} (hv : ∀ v, Tbl.find s.latches (latchKey rdr) ≠ some (w - 4, v)) :
    latchedHalf s rdr w = none :=
  Option.map_eq_none_iff.2 (Option.filter_eq_none_iff.2 fun l hl he => hv l.2 (hl.trans (congrArg (fun k => some (k, l.2)) (eq_of_beq he))))

/-- A reader without a latch gets the current value. -/
theorem readValue_of_no_latch {s : State} {rdr : Reader} {w : Nat} (hn : Tbl.find s.latches (latchKey rdr) = none) :
    readValue s rdr w = (peekWord s w).2 := by
  have hl : latchedHalf s rdr w = none := latchedHalf_eq_none fun v e => Option.some_ne_none _ (e.symm.trans hn)
  by_cases hx : w % 8 ≠ 0 ∧ crossing (w - 4) = true
  · rw [readValue_of_high hx.1 hx.2, hl, Option.getD_none]
  · exact if_neg hx

theorem readWord32_fst_of_live {s : State} {w : Nat} (rdr : Reader) (hc : inAbsentCore s w = false) (hf : frozen s w = false) :
    (readWord32 s rdr w).1 = clearRc (fieldsAt w) { s with latches := latchesAfter s rdr w } := by
  rw [readWord32_eq]
  exact readEffect_of_live hc hf

/-- A 32-bit read of an absent word gives zero and touches the latches alone. -/
theorem readWord32_of_csrAbsent {s : State} {rdr : Reader} {w : Nat} (h : csrAbsent s w = true)
    (hl : w % 8 = 0 ∨ Tbl.find s.latches (latchKey rdr) = none) : readWord32 s rdr w = ({ s with latches := latchesAfter s rdr w }, 0) := by
  have hval : readValue s rdr w = (peekWord s w).2 := by
    obtain h8 | hn := hl
    · exact readValue_of_low s rdr h8
    · exact readValue_of_no_latch hn
  rw [readWord32_eq, hval, peekWord_of_csrAbsent h]
  exact congrArg (·, 0) (readEffect_of_csrAbsent h)

theorem readWord64_of_csrAbsent {s : State} {w : Nat} (h0 : csrAbsent s w = true) (h4 : csrAbsent s (w + 4) = true) : readWord64 s w = (s, 0) := by
  simp only [readWord64, peekWord_fst, peekWord_of_csrAbsent h0, peekWord_of_csrAbsent h4, readEffect_of_csrAbsent h0, readEffect_of_csrAbsent h4,
    Nat.zero_mul, Nat.add_zero]

theorem readCsr_32 (s : State) (rdr : Reader) (o : Nat) : readCsr s rdr o 32 = readWord32 s rdr o := rfl

/-- A read of absent words gives zero and touches the latches alone. -/
theorem readCsr_of_accessAbsent {s : State} {rdr : Reader} {o w : Nat} (h : accessAbsent s o w = true)
    (hl : w = 64 ∨ o % 8 = 0 ∨ Tbl.find s.latches (latchKey rdr) = none) :
    ∃ ls, readCsr s rdr o w = ({ s with latches := ls }, 0) := by
  obtain ⟨h0, h4⟩ := accessAbsent_iff.1 h
  by_cases hw : w = 64
  · exact ⟨s.latches, (if_pos hw).trans (readWord64_of_csrAbsent h0 (h4 hw))⟩
  · exact ⟨latchesAfter s rdr o, (if_neg hw).trans (readWord32_of_csrAbsent h0 (hl.resolve_left hw))⟩

/-! ### RC_READ and CSR_HALF_READ -/

theorem exec_rcRead (s : State) (rdr : Reader) (o w : Nat) : exec (.rcRead rdr o w) s = .next (csrRead s rdr o w) := rfl

/-- CSR_HALF_READ is a read of 32 bits. -/
theorem exec_csrHalfRead (s : State) (rdr : Reader) (o : Nat) : exec (.csrHalfRead rdr o) s = .next (csrRead s rdr o 32) := rfl

/-- A host read of absent words returns zero and is counted (R505). -/
theorem csrRead_host_absent {s : State} {o w : Nat} (hl : hostLinked s = true) (ho : o < 0x4000000) (ha : csrAligned o w = true)
    (habs : accessAbsent s o w = true) (hlatch : w = 64 ∨ o % 8 = 0 ∨ Tbl.find s.latches 0 = none) :
    ∃ ls, csrRead s .host o w = emit { inc s .csrAbsentCnt with latches := ls } (.csrData .host 0) := by
  obtain ⟨ls, hr⟩ := readCsr_of_accessAbsent (rdr := .host) ((accessAbsent_inc_csrAbsentCnt s o w).trans habs) hlatch
  refine ⟨ls, (csrAccess_host hl ho ha).trans ?_⟩
  rw [if_pos habs, hr]

/-- A host read of a word that is there. -/
theorem csrRead_host_present {s : State} {o w : Nat} (hl : hostLinked s = true) (ho : o < 0x4000000) (ha : csrAligned o w = true)
    (hp : accessAbsent s o w = false) : csrRead s .host o w = emit (readCsr s .host o w).1 (.csrData .host (readCsr s .host o w).2) := by
  refine (csrAccess_host hl ho ha).trans ?_
  rw [hp]
  rfl

/-- A host read of 32 bits of a word that is there: what leaves the block, and the latches. -/
theorem csrRead_host_32 {s : State} {o : Nat} (hl : hostLinked s = true) (ho : o < 0x4000000) (h4 : o % 4 = 0) (hp : accessAbsent s o 32 = false) :
    (csrRead s .host o 32).out = s.out ++ [Output.csrData .host (readValue s .host o)] ∧ (csrRead s .host o 32).latches = latchesAfter s .host o := by
  rw [csrRead_host_present hl ho (csrAligned_32 h4) hp, readCsr_32, readWord32_eq]
  exact ⟨congrArg (· ++ _) (readEffect_frame State.out (fun _ _ => rfl) ..), readEffect_frame State.latches (fun _ _ => rfl) ..⟩

/-- Settles O59: the accesses of each reader by the rules of csrAccess; what a read changes and returns by those of readEffect and readWord32. -/
theorem csrReads : Obligations.CsrReads := by
  intro s o w
  refine ⟨fun hl ho ha => ⟨fun hp => ?_, fun habs hlatch => ?_⟩, fun hl ho ha => ?_, fun hl => ?_, fun hp hd ho ha => ?_,
    fun l ha => ⟨fun hc hlo hhi => ?_, fun hout => ?_⟩, fun r hrc => ?_, fun r hc hf hb => ⟨fun x hx hrc => ?_, fun q j hq hsat => ?_⟩,
    fun hb hwo => ?_, fun hl ho hp hb => ⟨fun h8 hx hro => ?_, fun h8 hx => ⟨fun v hv => ?_, fun hv => ?_⟩⟩⟩
  · rw [exec_rcRead, csrRead_host_present hl ho ha hp]
  · obtain ⟨ls, hr⟩ := csrRead_host_absent hl ho ha habs hlatch
    exact ⟨_, (exec_rcRead ..).trans (congrArg _ hr), rfl, rd_inc_same s .csrAbsentCnt 0 1, rfl⟩
  · exact congrArg _ (csrAccess_host_misaligned hl ho ha)
  · exact congrArg _ (csrAccess_host_unlinked hl)
  · exact congrArg _ (csrAccess_pip hp hd ho ha)
  · exact congrArg _ (csrAccess_core hc ha hlo hhi)
  · exact congrArg _ (csrAccess_core_outside hout)
  · rw [readWord32_eq, readEffect_of_no_rc _ hrc]
  · rw [readWord32_fst_of_live r hc hf]
    exact rd_clearRc_rc _ hx hrc
  · rw [readWord32_fst_of_live r hc hf]
    exact rd_clearRc_other _ hq hsat
  · exact peekWord_of_fieldValue_zero hb fun x hx => fieldValue_wo (hwo x hx)
  · obtain ⟨hout, hlat⟩ := csrRead_host_32 hl ho (by omega) hp
    refine ⟨_, exec_csrHalfRead s .host o, by rw [hout, readValue_of_low s .host h8], ?_⟩
    rw [hlat, latchesAfter_of_low s .host h8 hx]
    exact Tbl.find_set_same ..
  · obtain ⟨hout, -⟩ := csrRead_host_32 hl ho (by omega) hp
    exact ⟨_, exec_csrHalfRead s .host o, by rw [hout, readValue_of_high (by omega) hx, latchedHalf_eq_some hv, Option.getD_some]⟩
  · obtain ⟨hout, -⟩ := csrRead_host_32 hl ho (by omega) hp
    exact ⟨_, exec_csrHalfRead s .host o, by rw [hout, readValue_of_high (by omega) hx, latchedHalf_eq_none hv, Option.getD_none]⟩

end Sys2Proof.Machine
end

section
/-!
CSR space: what a write does to the RW fields of its words, and where it does nothing (R505, R506, R509).
-/
namespace Sys2Proof.Machine

/-! ### The words whose fields are taken together -/

/-- The word is no buffer's and none whose fields are taken together. -/
def plainFields (w : Nat) : Prop :=
  bufAt w = none ∧ w ≠ 0x3000010 ∧ ¬ (0x200000 ≤ w ∧ w < 0x400000 ∧ w % 0x1000 = 0x010)

theorem mem_all_of_mem_table13_9 {r : Reg} (h : r ∈ Reg.table13_9) : r ∈ Reg.all := by
  unfold Reg.all
  iterate 6 apply List.mem_append_left
  exact List.mem_append_right _ h

theorem mem_all_of_mem_table3_10 {r : Reg} (h : r ∈ Reg.table3_10) : r ∈ Reg.all := by
  unfold Reg.all
  iterate 23 apply List.mem_append_left
  exact List.mem_append_right _ h

/-- EVQ_CTRL holds fields (Table 13.9). -/
theorem fieldsAt_evqControl : fieldsAt 0x3000010 ≠ [] :=
  List.ne_nil_of_mem (mem_fieldsAt (i := 0) (half := 0) (mem_all_of_mem_table13_9 (r := .evqEnable) (by decide)) rfl)

theorem replica_cringConfig {w : Nat} (hlo : 0x200000 ≤ w) (hhi : w < 0x400000) (hw : w % 0x1000 = 0x010) :
    replica w = (0x200010, (w - 0x200000) / 0x1000) := by
  have hoff : (w - 0x200000) % 0x1000 = 0x010 := by omega
  have h6 : ¬ w < 0x7000 := by omega
  have h7 : ¬ w < 0x8000 := by omega
  have h1 : ¬ w < 0x120000 := by omega
  simp [replica, hlo, hhi, hoff, h6, h7, h1]

/-- The ring word of context 0 holds fields in every core's block (Table 3.10). -/
theorem fieldsAt_cringConfig {w : Nat} (hlo : 0x200000 ≤ w) (hhi : w < 0x400000) (hw : w % 0x1000 = 0x010) : fieldsAt w ≠ [] := by
  refine List.ne_nil_of_mem (mem_fieldsAt (i := (w - 0x200000) / 0x1000) (half := 0) (mem_all_of_mem_table3_10 (r := .c0CringBase) (by decide)) ?_)
  rw [replica_cringConfig hlo hhi hw]
  rfl

/-- A word without fields and without a buffer is plain: the words taken together hold fields. -/
theorem plainFields_of_reserved {w : Nat} (hf : fieldsAt w = []) (hb : bufAt w = none) : plainFields w :=
  ⟨hb, fun e => fieldsAt_evqControl (e ▸ hf), fun ⟨hlo, hhi, hw⟩ => fieldsAt_cringConfig hlo hhi hw hf⟩

/-! ### The two parts of a write -/

theorem writeRw_of_plainFields {s : State} {w : Nat} (v : Nat) (hp : plainFields w) :
    writeRw s w v = if inAbsentCore s w || frozen s w then s else putFields v (fieldsAt w) s := by
  obtain ⟨hb, hevq, hring⟩ := hp
  simp only [writeRw, hb, hevq, hring, if_false]

/-- A word has no action, or the actions of its fields. -/
theorem writeAct_cases (s : State) (w v : Nat) : writeAct s w v = s ∨ writeAct s w v = actAll v (fieldsAt w) s := by
  unfold writeAct
  split
  · exact .inl rfl
  · exact .inr rfl

/-- Fields that are not RW take nothing from a write. -/
theorem putFields_of_no_rw {l : List (Reg × Nat × Nat)} (s : State) (v : Nat) (h : ∀ x ∈ l, x.1.info.acc ≠ .rw) : putFields v l s = s := by
  induction l with
  | nil => rfl
  | cons x t ih =>
    obtain ⟨hx, ht⟩ := List.forall_mem_cons.1 h
    exact (congrArg (putFields v t) (if_neg hx)).trans (ih ht)

/-- Fields that are neither WO nor W1C start nothing. -/
theorem actAll_of_no_action {l : List (Reg × Nat × Nat)} (s : State) (v : Nat) (h : ∀ x ∈ l, ¬ (x.1.info.acc = .wo ∨ x.1.info.acc = .w1c)) :
    actAll v l s = s := by
  induction l with
  | nil => rfl
  | cons x t ih =>
    obtain ⟨hx, ht⟩ := List.forall_mem_cons.1 h
    exact (congrArg (actAll v t) (if_neg hx)).trans (ih ht)

theorem writeAct_of_no_action {s : State} {w : Nat} (v : Nat) (h : ∀ x ∈ fieldsAt w, ¬ (x.1.info.acc = .wo ∨ x.1.info.acc = .w1c)) :
    writeAct s w v = s := by
  obtain hs | hs := writeAct_cases s w v <;> rw [hs]
  exact actAll_of_no_action s v h

/-- A 32-bit write: the RW part of its word first, then the word's actions (R509). -/
theorem writeCsr_of_ne_64 {s : State} {o w : Nat} (v : Nat) (hw : w ≠ 64) :
    writeCsr s o w v = writeAct (writeRw s o (v % 2 ^ 32)) o (v % 2 ^ 32) :=
  if_neg hw

/-! ### Where a write does nothing -/

/-- A word that is absent ignores the RW part of a write. -/
theorem writeRw_of_csrAbsent {s : State} {w : Nat} (v : Nat) (h : csrAbsent s w = true) : writeRw s w v = s := by
  obtain hc | ⟨hf, hb⟩ := csrAbsent_iff.1 h
  · exact if_pos (by rw [hc, Bool.true_or])
  · rw [writeRw_of_plainFields v (plainFields_of_reserved hf hb), hf, putFields, ite_self]

/-- A word that is absent has no action. -/
theorem writeAct_of_csrAbsent {s : State} {w : Nat} (v : Nat) (h : csrAbsent s w = true) : writeAct s w v = s := by
  obtain hc | ⟨hf, -⟩ := csrAbsent_iff.1 h
  · exact if_pos (by rw [hc, Bool.true_or])
  · exact writeAct_of_no_action v (by simp [hf])

theorem writeCsr_of_accessAbsent {s : State} {o w : Nat} (v : Nat) (h : accessAbsent s o w = true) : writeCsr s o w v = s := by
  obtain ⟨h0, h4⟩ := accessAbsent_iff.1 h
  by_cases hw : w = 64
  · refine (if_pos hw).trans ?_
    rw [writeRw_of_csrAbsent _ h0, writeRw_of_csrAbsent _ (h4 hw), writeAct_of_csrAbsent _ h0, writeAct_of_csrAbsent _ (h4 hw)]
  · rw [writeCsr_of_ne_64 v hw, writeRw_of_csrAbsent _ h0, writeAct_of_csrAbsent _ h0]

/-- A word of RO and RC fields ignores a write (R11). -/
theorem writeCsr_of_readOnly (s : State) {o : Nat} (v : Nat) (hp : plainFields o)
    (h : ∀ x ∈ fieldsAt o, x.1.info.acc = .ro ∨ x.1.info.acc = .rc) : writeCsr s o 32 v = s := by
  have hrw : ∀ x ∈ fieldsAt o, x.1.info.acc ≠ .rw := fun x hx => by rcases h x hx with e | e <;> simp [e]
  have hact : ∀ x ∈ fieldsAt o, ¬ (x.1.info.acc = .wo ∨ x.1.info.acc = .w1c) := fun x hx => by rcases h x hx with e | e <;> simp [e]
  rw [writeCsr_of_ne_64 v (by decide), writeAct_of_no_action _ hact, writeRw_of_plainFields _ hp, putFields_of_no_rw s _ hrw, ite_self]

/-! ### A word of one RW field -/

/-- A field that fills its word takes the whole word written. -/
theorem mergeHalf_whole {r : Reg} (old w : Nat) (hl : r.info.lsb = 0) (hw : r.info.width = 32) : mergeHalf r 0 old w = w % 2 ^ 32 := by
  simp [mergeHalf, setBits, hl, hw, Nat.mod_one]

theorem putFields_single {s : State} {r : Reg} {i v : Nat} (hacc : r.info.acc = .rw) :
    putFields v [(r, i, 0)] s = putField s r i (mergeHalf r 0 (rd s r i) v) :=
  if_pos hacc

/-- A word of one RW field of 32 bits takes the value written. -/
theorem writeCsr_of_plainWord {s : State} {o i v : Nat} {r : Reg} (hw : plainWord o r i) (hp : plainFields o) (hc : inAbsentCore s o = false)
    (hf : frozen s o = false) (hv : v % 2 ^ 32 ≠ 0) : writeCsr s o 32 v = wr s r i (v % 2 ^ 32) := by
  obtain ⟨-, hfields, hacc, hlsb, hwidth, hput⟩ := hw
  have hact : ∀ x ∈ fieldsAt o, ¬ (x.1.info.acc = .wo ∨ x.1.info.acc = .w1c) := by simp [hfields, hacc]
  have hlive : ¬ (inAbsentCore s o || frozen s o) = true := by simp [hc, hf]
  rw [writeCsr_of_ne_64 v (by decide), writeAct_of_no_action _ hact, writeRw_of_plainFields _ hp, if_neg hlive, hfields, putFields_single hacc,
    mergeHalf_whole _ _ hlsb hwidth, Nat.mod_mod, hput s _ hv]

/-! ### CSR_WRITE -/

/-- CSR_WRITE is an access that writes. -/
theorem exec_csrWrite (s : State) (rdr : Reader) (o w v : Nat) :
    exec (.csrWrite rdr o w v) s = .next (csrAccess s rdr o w (fun s => writeCsr s o w v)) := rfl

/-- A host write of a word that is there. -/
theorem csrWrite_host_present {s : State} {o w : Nat} (v : Nat) (hl : hostLinked s = true) (ho : o < 0x4000000) (ha : csrAligned o w = true)
    (hp : accessAbsent s o w = false) : csrAccess s .host o w (fun s => writeCsr s o w v) = writeCsr s o w v := by
  refine (csrAccess_host hl ho ha).trans ?_
  rw [hp]
  rfl

/-- A host write of absent words is counted only (R505). -/
theorem csrWrite_host_absent {s : State} {o w : Nat} (v : Nat) (hl : hostLinked s = true) (ho : o < 0x4000000) (ha : csrAligned o w = true)
    (habs : accessAbsent s o w = true) : csrAccess s .host o w (fun s => writeCsr s o w v) = inc s .csrAbsentCnt := by
  refine (csrAccess_host hl ho ha).trans ?_
  rw [if_pos habs, writeCsr_of_accessAbsent v ((accessAbsent_inc_csrAbsentCnt s o w).trans habs)]

/-- Settles O60: the accesses of each reader by the rules of csrAccess; what a write does to a word by those of writeCsr. -/
theorem csrWrites : Obligations.CsrWrites := by
  intro s o w v
  refine ⟨fun hl ho => ⟨fun ha hp => ?_, fun ha habs => ?_, fun ha => ?_⟩, fun hl => ?_, fun hp hd ho ha => ?_,
    fun l ha => ⟨fun hc hlo hhi => ?_, fun hout => ?_⟩, rfl, fun hb hevq hring hro => ?_, fun r i hw hc hf hevq hring hv => ?_⟩
  · rw [exec_csrWrite, csrWrite_host_present v hl ho ha hp]
  · rw [exec_csrWrite, csrWrite_host_absent v hl ho ha habs]
  · rw [exec_csrWrite, csrAccess_host_misaligned hl ho ha]
  · rw [exec_csrWrite, csrAccess_host_unlinked hl]
  · rw [exec_csrWrite, csrAccess_pip hp hd ho ha]
  · rw [exec_csrWrite, csrAccess_core hc ha hlo hhi]
  · rw [exec_csrWrite, csrAccess_core_outside hout]
  · exact writeCsr_of_readOnly s v ⟨hb, hevq, hring⟩ hro
  · exact writeCsr_of_plainWord hw ⟨hw.1, hevq, hring⟩ hc hf hv

end Sys2Proof.Machine
end

section
/-!
The clock (R32): a step on an empty queue advances LOCAL_NS by one tick.
-/
namespace Sys2Proof.Machine

/-- A tick of the clock is 10 ns, and the rest of the state is as it was. -/
theorem idle_eq (s : State) : idle s = { s with localNs := s.localNs + 10 } := rfl

/-- Settles O2, by the cases of a step: on an empty queue it idles, and the other case asks for a front command. -/
theorem emptyQueueIdles : Obligations.EmptyQueueIdles := by
  intro s hempty
  obtain ⟨-, hidle⟩ | ⟨c, rest, hfront, -⟩ := step_cases s
  · rw [hidle, idle_eq]
  · exact absurd (hfront.symm.trans hempty) (List.cons_ne_nil c rest)

end Sys2Proof.Machine
end

section
/-!
A load of the image loader (R62 to R74): its start by the host, and what each of its passes does as it ends.
-/
namespace Sys2Proof.Machine

/-! ### The start of a load (R63, R64, R69) -/

theorem exec_qimgStart (s : State) (v : Nat) : exec (.qimgStart v) s = .next (startLoad s v false) := rfl

theorem exec_qimgVerifyOnly (s : State) (v : Nat) : exec (.qimgVerifyOnly v) s = .next (startLoad s v true) := rfl

/-- A load from the host reads nothing over the fabric. -/
theorem readImage_of_host (s : State) {x : LoadSt} (hw : x.who = .host) : readImage s x = s := by
  simp only [readImage, hw]

theorem acceptLoad_host (s : State) (len : Nat) (only : Bool) :
    acceptLoad s .host len only = setLoad (wr s .qimgBusy 0 1) ⟨.host, len, only, 2, [], [], [], [], none, 0⟩ := by
  unfold acceptLoad
  exact readImage_of_host _ rfl

section
variable {s u : State} {v : Nat} {only : Bool}

/-- A start while a load runs is counted (R69). -/
theorem startLoad_of_busy (hu : wrs s [(.qimgVerifyOnly, 0, b2n only), (.qimgVector, 0, v)] = u) (hb : rd u .qimgBusy = 1) :
    startLoad s v only = inc u .qimgBusyRejectCnt := by
  subst hu
  exact if_pos hb

/-- A start before bring-up has ended sets the fields of QIMG_CTRL alone (R63). -/
theorem startLoad_of_not_ready (hu : wrs s [(.qimgVerifyOnly, 0, b2n only), (.qimgVector, 0, v)] = u) (hb : rd u .qimgBusy ≠ 1)
    (hr : ready u = false) : startLoad s v only = u := by
  subst hu
  exact (if_neg hb).trans (if_pos (by rw [hr]; rfl))

/-- A start after bring-up, with no load running, is accepted (R64). -/
theorem startLoad_of_idle (hu : wrs s [(.qimgVerifyOnly, 0, b2n only), (.qimgVector, 0, v)] = u) (hb : rd u .qimgBusy ≠ 1)
    (hr : ready u = true) : startLoad s v only = acceptLoad u .host (rd u .qimgLen) only := by
  subst hu
  exact (if_neg hb).trans (if_neg (by rw [hr]; decide))

end

/-- Settles O9: the two commands are one start, and each clause is one of its three cases. -/
theorem loadStarts : Obligations.LoadStarts := by
  intro s v only
  have hexec : exec (if only then .qimgVerifyOnly v else .qimgStart v) s = .next (startLoad s v only) := by
    cases only
    · exact exec_qimgStart s v
    · exact exec_qimgVerifyOnly s v
  refine ⟨fun hb hr => ?_, fun hb => ?_, fun hb hr => ?_⟩
  · rw [hexec, startLoad_of_idle rfl hb hr, acceptLoad_host]
    rfl
  · rw [hexec, startLoad_of_busy rfl hb]
    rfl
  · rw [hexec, startLoad_of_not_ready rfl hb hr]
    rfl

/-! ### The passes of a load (R62, R64, R70 to R74) -/

theorem exec_loadVerifyPassEnd (s : State) (src : Option (List Byte)) :
    exec (.loadVerifyPassEnd src) s = .next (verifyPassEnd s src) := rfl

theorem exec_loadFeedQueryTimeout (s : State) : exec .loadFeedQueryTimeout s = .next (feedTimeout s) := rfl

theorem exec_loadApplyPassEnd (s : State) (src : Option (List Byte)) :
    exec (.loadApplyPassEnd src) s = .next (applyPassEnd s src) := rfl

/-- From the host a pass reads what the command gives, up to the load's length. -/
theorem passSource_of_host {x : LoadSt} (hw : x.who = .host) (src : Option (List Byte)) :
    passSource x src = some (src.map (·.take x.len)) := by
  simp only [passSource, hw]

section
variable {s : State} {x : LoadSt} {img : List Byte} {src : Option (List Byte)}

/-- The verify pass of a load whose targets another source has reset ends it (R71). -/
theorem verifyPassEnd_of_hit (hl : s.load = some x) (hs : x.step = 2) (hp : passSource x src = some (some img))
    (hh : Nat.land x.hit (loadTargets { x with img := img }) ≠ 0) :
    verifyPassEnd s src = endLoad s { x with img := img } interrupted := by
  simp only [verifyPassEnd, hl, if_neg (not_not.2 hs), hp, if_pos hh]

/-- The verify pass of an image that fails a check ends the load with what the check found (R62). -/
theorem verifyPassEnd_of_fail {f : Fail} (hl : s.load = some x) (hs : x.step = 2) (hp : passSource x src = some (some img))
    (hh : Nat.land x.hit (loadTargets { x with img := img }) = 0) (hv : verifyImage (loadEnv s) img x.len = some f) :
    verifyPassEnd s src = endLoad s { x with img := img } f := by
  simp only [verifyPassEnd, hl, if_neg (not_not.2 hs), hp, if_neg (not_not.2 hh), hv]

/-- The verify pass of an image that passes the checks and names no partner comes to the end of step 3 at once (R64). -/
theorem verifyPassEnd_of_no_query (hl : s.load = some x) (hs : x.step = 2) (hp : passSource x src = some (some img))
    (hh : Nat.land x.hit (loadTargets { x with img := img }) = 0) (hv : verifyImage (loadEnv s) img x.len = none)
    (hq : feedQueries s img = []) :
    verifyPassEnd s src = feedsDone (setLoad s { x with img := img, step := 3, asked := [], got := [] })
      { x with img := img, step := 3, asked := [], got := [] } := by
  simp only [verifyPassEnd, hl, if_neg (not_not.2 hs), hp, if_neg (not_not.2 hh), hv, hq, List.map_nil, List.dedup_nil, List.foldl_nil]

/-- With no partner asked and no answer held, step 3 finds no fault: a verify-only load ends, another goes on to its targets (R64, R74). -/
theorem feedsDone_of_no_feeds (s : State) (ha : x.asked = []) (hf : x.feeds = []) :
    feedsDone s x = if x.verifyOnly then endLoad s x ⟨0, .ok, noOff⟩ else beginTargets s x := by
  have hnone : lowestOff (x.feeds.map (fun f => orAt (!(f.2.2 == rd s .feedId && !sharedAllowed x.img f.2.1)) f.1)) = none := by
    rw [hf]
    rfl
  simp only [feedsDone, if_neg (not_not.2 ha), hnone]

/-- A query still unanswered at the time-out ends the load (check 19). -/
theorem feedTimeout_of_asked {o : Nat} (hl : s.load = some x) (hs : x.step = 3)
    (ho : lowestOff (x.asked.map (fun a => some a.1)) = some o) :
    feedTimeout s = endLoad s x ⟨0x13, .peerLost, o⟩ := by
  simp only [feedTimeout, hl, ho, if_pos hs]

/-- The apply pass of an unchanged image commits it (R72). -/
theorem applyPassEnd_of_match (hl : s.load = some x) (hs : x.step = 6) (hp : passSource x src = some (some img))
    (hd : imageDigest img (readHdr img) = (readHdr x.img).digest) (hh : readHdr img = readHdr x.img) :
    applyPassEnd s src = commitImage (setLoad s { x with step := 7 }) { x with img := img, step := 7 } := by
  have hsame : imageDigest img (readHdr img) = (readHdr x.img).digest ∧ readHdr img = readHdr x.img := ⟨hd, hh⟩
  simp only [applyPassEnd, hl, if_neg (not_not.2 hs), hp, if_pos hsame]

/-- The apply pass of an image whose digest or header has changed leaves the targets EMPTY (R70). -/
theorem applyPassEnd_of_changed (hl : s.load = some x) (hs : x.step = 6) (hp : passSource x src = some (some img))
    (hc : ¬ (imageDigest img (readHdr img) = (readHdr x.img).digest ∧ readHdr img = readHdr x.img)) :
    applyPassEnd s src = endLoad (emptyTargets s (loadTargets x)) x ⟨0x16, .checkMismatch, 0x30⟩ := by
  simp only [applyPassEnd, hl, if_neg (not_not.2 hs), hp, if_neg hc]

/-- The apply pass of a source that cannot be read leaves the targets EMPTY (R70). -/
theorem applyPassEnd_of_unreadable (hl : s.load = some x) (hs : x.step = 6) (hp : passSource x src = some none) :
    applyPassEnd s src = endLoad (emptyTargets s (loadTargets x)) x ⟨0x15, .uncorrectable, noOff⟩ := by
  simp only [applyPassEnd, sourceFailed, hl, if_neg (not_not.2 hs), hp, if_pos hs]

end

/-- Settles O10: each clause is one end of a pass, of the source as the host gave it. -/
theorem loadPasses : Obligations.LoadPasses := by
  intro s x b hl hw
  have hp : passSource x (some b) = some (some (b.take x.len)) := passSource_of_host hw (some b)
  refine ⟨fun hs hh => ?_, fun hh f hs hv => ?_, fun hh hs hv hq hf => ?_, fun o hs ho => ?_, fun hs hd he => ?_, fun hs hd => ?_, fun hs => ?_⟩
  · rw [exec_loadVerifyPassEnd, verifyPassEnd_of_hit hl hs hp hh]
  · rw [exec_loadVerifyPassEnd, verifyPassEnd_of_fail hl hs hp hh hv]
  · intro y
    rw [exec_loadVerifyPassEnd, verifyPassEnd_of_no_query hl hs hp hh hv hq]
    exact congrArg _ (feedsDone_of_no_feeds (x := y) _ rfl hf)
  · rw [exec_loadFeedQueryTimeout, feedTimeout_of_asked hl hs ho]
  · rw [exec_loadApplyPassEnd, applyPassEnd_of_match hl hs hp hd he]
  · rw [exec_loadApplyPassEnd, applyPassEnd_of_changed hl hs hp fun hsame => hd hsame.1]
  · rw [exec_loadApplyPassEnd, applyPassEnd_of_unreadable hl hs (passSource_of_host hw none)]

end Sys2Proof.Machine
end

section
/-!
The vector instruction set (R109 to R131): the elements of a written register, the step that every instruction shares, and how a program ends.
-/
namespace Sys2Proof.Machine

/-! ### Elements of a register (R116, R117) -/

/-- The list that packV folds into a number is that number's digits, the first lowest. -/
theorem foldr_digit {b : Nat} (hb : 0 < b) (xs : List Nat) (j : Nat) :
    xs.foldr (fun c a => c % b + a * b) 0 / b ^ j % b = xs.getD j 0 % b := by
  induction xs generalizing j with
  | nil => simp
  | cons c xs ih =>
    cases j with
    | zero => simp
    | succ j =>
      have hrest : ∀ a, (c % b + a * b) / b = a := fun a => by
        rw [Nat.add_mul_div_right _ _ hb, Nat.div_eq_of_lt (Nat.mod_lt c hb), Nat.zero_add]
      rw [List.foldr_cons, pow_succ', ← Nat.div_div_eq_div_mul, hrest, ih j, List.getD_cons_succ]

/-- A modulus that 2 ^ (i + k) divides keeps the k bits from bit i. -/
theorem mod_div_two_pow_mod {m i k : Nat} (x : Nat) (h : 2 ^ (i + k) ∣ m) : x % m / 2 ^ i % 2 ^ k = x / 2 ^ i % 2 ^ k := by
  obtain ⟨d, rfl⟩ := h
  rw [Nat.pow_add, Nat.mul_assoc, Nat.mod_mul_right_div_self, Nat.mod_mod_of_dvd _ (Nat.dvd_mul_right ..)]

/-- Element j of packed elements is the j-th of them, cut to its width. -/
theorem velt_packV {w j : Nat} (xs : List Nat) (h : 8 * w * j + 8 * w ≤ 4096) : velt (packV w xs) w j = xs.getD j 0 % 2 ^ (8 * w) := by
  change (BitVec.ofNat 4096 (xs.foldr _ 0)).toNat / _ % _ = _
  rw [BitVec.toNat_ofNat, mod_div_two_pow_mod _ (Nat.pow_dvd_pow 2 h), Nat.pow_mul 2 (8 * w) j, foldr_digit (Nat.two_pow_pos _)]

/-- An element is no wider than its bytes. -/
@[simp] theorem velt_mod (v : BitVec 4096) (w j : Nat) : velt v w j % 2 ^ (8 * w) = velt v w j :=
  Nat.mod_mod _ _

/-- A register of 4,096 bits holds each element j below 512 / w whole. -/
theorem elem_fits {w j : Nat} (hj : j < 512 / w) : 8 * w * j + 8 * w ≤ 4096 := by
  have hbytes : w * j + w ≤ 512 := (Nat.mul_le_mul_left w hj).trans (Nat.mul_div_le 512 w)
  rw [Nat.mul_assoc]
  omega

@[simp] theorem vreg_setV_same (e : VEng) (n : Nat) (v : BitVec 4096) : vreg (setV e n v) n = v :=
  Tbl.getD_put_same _ _ _ _

theorem vreg_setV_other (e : VEng) {n m : Nat} (v : BitVec 4096) (h : m ≠ n) : vreg (setV e n v) m = vreg e m :=
  Tbl.getD_put_other _ _ _ _ h

section
variable (e : VEng) (vd w : Nat) (act : Nat → Bool) (f : Nat → Elem)

/-- Each element that mapV leaves in the destination: the new code where it is active, the old one elsewhere. -/
theorem velt_mapV {j : Nat} (hj : j < 512 / w) :
    velt (vreg (mapV e vd w act f).1 vd) w j = if act j then (f j).code % 2 ^ (8 * w) else velt (vreg e vd) w j := by
  change velt (vreg (setV e vd (packV w _)) vd) w j = _
  rw [vreg_setV_same, velt_packV _ (elem_fits hj)]
  cases ha : act j <;> simp [hj, ha]

theorem vreg_mapV_other {n : Nat} (h : n ≠ vd) : vreg (mapV e vd w act f).1 n = vreg e n :=
  vreg_setV_other e _ h

theorem mapV_eq : (mapV e vd w act f).1 = { e with v := (mapV e vd w act f).1.v } := rfl

end

/-- Settles O27: the written register is the list of its elements packed, and a read of one gives it back. -/
theorem vectorLanesWritten : Obligations.VectorLanesWritten := by
  intro e vd w act f _
  exact ⟨fun j hj => velt_mapV e vd w act f hj, fun n hn => vreg_mapV_other e vd w act f hn, mapV_eq e vd w act f⟩

/-! ### The step of the vector engine (R109, R113, R118, R131) -/

@[simp] theorem coreSt_setCore_same (s : State) (l : Nat) (c : CoreSt) : coreSt (setCore s l c) l = c :=
  Tbl.getD_put_same _ _ _ _

@[simp] theorem veng_setVeng_same (s : State) (l : Nat) (e : VEng) : (coreSt (setVeng s l e) l).veng = e :=
  congrArg CoreSt.veng (coreSt_setCore_same s l _)

/-- An instruction without saturations and NaNs counts nothing. -/
@[simp] theorem vCountUp_zero (s : State) (l k seq : Nat) : vCountUp s l k seq 0 0 = s := by
  delta vCountUp
  cases flightTile s l k seq <;> rfl

/-- What the result r of an instruction read at pc makes of core l: its counts, then its engine or its fault. -/
def vSettle (l k seq pc opc : Nat) (r : VRes) : State :=
  let t := vCountUp r.s l k seq r.sat r.nan
  match r.fault with
  | some st => vFault t l k seq st pc opc
  | none => setVeng t l r.e

section
variable {l k seq pc opc : Nat} {r : VRes}

theorem vSettle_of_ok (h : r.fault = none) : vSettle l k seq pc opc r = setVeng (vCountUp r.s l k seq r.sat r.nan) l r.e := by
  cases r
  subst h
  rfl

theorem vSettle_of_fault {st : Status} (h : r.fault = some st) :
    vSettle l k seq pc opc r = vFault (vCountUp r.s l k seq r.sat r.nan) l k seq st pc opc := by
  cases r
  subst h
  rfl

theorem vSettle_bad (s : State) (e : VEng) (st : Status) : vSettle l k seq pc opc (VRes.bad s e st) = vFault s l k seq st pc opc := by
  rw [vSettle_of_fault rfl]
  exact congrArg (vFault · l k seq st pc opc) (vCountUp_zero s l k seq)

end

section
variable {s u : State} {l k seq w opc : Nat} {f : State → VEng → Nat → VRes}

/-- An engine that runs below its budget is not stopped. -/
theorem not_stopped {e : VEng} (hrun : e.run = true) (hcount : e.count < e.budget * 65536) :
    ¬ (e.run = false ∨ e.budget * 65536 ≤ e.count) := by
  rw [hrun, not_or]
  exact ⟨Bool.noConfusion, Nat.not_le.2 hcount⟩

/-- The step of an engine that stands before a word it can read: an unknown OPC faults whichever instruction is named, another instruction than the
one named leaves the state, and the one named has its effect. -/
theorem vstep_of_due (hd : vDue s l k seq w u) :
    vstep s l opc f =
      if vKnown (vOpc w) = false then vFault u l k seq .format (coreSt s l).veng.pc (vOpc w)
      else if vOpc w ≠ opc then s
      else vSettle l k seq (coreSt s l).veng.pc opc (f u (vAfter s l) w) := by
  obtain ⟨hjob, hrun, hcount, hwin, b, hread, rfl⟩ := hd
  delta vstep vAfter
  dsimp only
  rw [hjob]
  dsimp only
  rw [if_neg (not_stopped hrun hcount), if_neg (Nat.not_lt.2 hwin), hread]
  rfl

theorem vstep_of_unknown (hd : vDue s l k seq w u) (hk : vKnown (vOpc w) = false) :
    vstep s l opc f = vFault u l k seq .format (coreSt s l).veng.pc (vOpc w) := by
  rw [vstep_of_due hd, if_pos hk]

theorem vstep_of_opc (hd : vDue s l k seq w u) (hk : vKnown opc = true) (ho : vOpc w = opc) :
    vstep s l opc f = vSettle l k seq (coreSt s l).veng.pc opc (f u (vAfter s l) w) := by
  subst ho
  rw [vstep_of_due hd, if_neg (by rw [hk]; decide), if_neg (not_not.2 rfl)]

/-- A program whose next word lies past window A ends, before its budget, with FORMAT (R113). -/
theorem vstep_past_window (hjob : (coreSt s l).veng.job = some (k, seq)) (hrun : (coreSt s l).veng.run = true)
    (hcount : (coreSt s l).veng.count < (coreSt s l).veng.budget * 65536) (hwin : (coreSt s l).veng.winA.2 < (coreSt s l).veng.pc + 8) :
    vstep s l opc f = vFault (fresh s 8).1 l k seq .format (coreSt s l).veng.pc (fresh s 8).2 := by
  delta vstep
  dsimp only
  rw [hjob]
  dsimp only
  rw [if_neg (not_stopped hrun hcount), if_pos hwin]

end

section
variable {ok : Nat → Bool} {f : State → VEng → Nat → VRes} {w : Nat}

theorem vChecked_of_ok (s : State) (e : VEng) (h : ok w = true) : vChecked ok f s e w = f s e w := if_pos h

theorem vChecked_of_not_ok (s : State) (e : VEng) (h : ok w = false) : vChecked ok f s e w = VRes.bad s e .format :=
  if_neg (by rw [h]; decide)

end

/-- A command whose meaning is the checked step of a code of Table 4.4 executes that operation. -/
theorem vRuns_of_exec {c : Nat → Instr} {opc : Nat} {ok : Nat → Bool} {f : State → VEng → Nat → VRes} (hk : vKnown opc = true)
    (hc : ∀ l s, exec (c l) s = vInstr opc ok f l s) : vRuns c opc ok f := by
  intro s u l k seq w hd ho
  have hstep : exec (c l) s = .next (vSettle l k seq (coreSt s l).veng.pc opc (vChecked ok f u (vAfter s l) w)) :=
    (hc l s).trans (congrArg _ (vstep_of_opc hd hk ho))
  refine ⟨fun hok hf => ?_, fun st hok hf => ?_, fun hok => ?_⟩
  · rw [hstep, vChecked_of_ok _ _ hok, vSettle_of_ok hf]
  · rw [hstep, vChecked_of_ok _ _ hok, vSettle_of_fault hf]
  · rw [hstep, vChecked_of_not_ok _ _ hok, vSettle_bad]

/-! ### The operations of Table 4.4 -/

/-- Settles O22: each command is the checked step of its code (vRuns_of_exec). -/
theorem vectorScalarOps : Obligations.VectorScalarOps := by
  delta Obligations.VectorScalarOps
  and_intros
  all_goals
    apply vRuns_of_exec
    · rfl
    · intros; rfl

/-- Settles O23: each command is the checked step of its code (vRuns_of_exec). -/
theorem vectorPredicateAndIntegerOps : Obligations.VectorPredicateAndIntegerOps := by
  delta Obligations.VectorPredicateAndIntegerOps
  and_intros
  all_goals
    apply vRuns_of_exec
    · rfl
    · intros; rfl

/-- Settles O24: each command is the checked step of its code (vRuns_of_exec). -/
theorem vectorFloatOps : Obligations.VectorFloatOps := by
  delta Obligations.VectorFloatOps
  and_intros
  all_goals
    apply vRuns_of_exec
    · rfl
    · intros; rfl

/-- Settles O25: each command is the checked step of its code (vRuns_of_exec). -/
theorem vectorReductions : Obligations.VectorReductions := by
  delta Obligations.VectorReductions
  and_intros
  all_goals
    apply vRuns_of_exec
    · rfl
    · intros; rfl

/-- Settles O26: each command is the checked step of its code (vRuns_of_exec). -/
theorem vectorMemoryOps : Obligations.VectorMemoryOps := by
  delta Obligations.VectorMemoryOps
  and_intros
  all_goals
    apply vRuns_of_exec
    · rfl
    · intros; rfl

/-! ### The end of a program (R112, R113, R131) -/

theorem exec_nop (l : Nat) (s : State) :
    exec (.nop l) s = .next (vstep s l 0x00 (vChecked (fun w => sqOk w false false false false (sqImm w == 0)) opNop)) := rfl

theorem exec_endProg (l : Nat) (s : State) : exec (.endProg l) s = execEndProg l s := rfl

theorem exec_vinstrBudgetExceeded (l : Nat) (s : State) : exec (.vinstrBudgetExceeded l) s = execVinstrBudgetExceeded l s := rfl

section
variable {s u : State} {l k seq w : Nat}

/-- END, its word good, stops the engine and then ends the program. -/
theorem execEndProg_of_due (hd : vDue s l k seq w u) (ho : vOpc w = 1) (hok : sqOk w false false false false (sqImm w == 0) = true) :
    execEndProg l s = .next (vEnd (setVeng (vCountUp u l k seq 0 0) l { vAfter s l with run := false }) l) := by
  have hstep : vstep s l 0x01 (vChecked (fun w => sqOk w false false false false (sqImm w == 0)) (fun s e _ => VRes.just s { e with run := false })) =
      setVeng (vCountUp u l k seq 0 0) l { vAfter s l with run := false } := by
    rw [vstep_of_opc hd rfl ho, vChecked_of_ok _ _ hok]
    exact vSettle_of_ok rfl
  have hsame : (true && ((coreSt s l).veng.job == (coreSt s l).veng.job) && true) = true := by
    rw [beq_self_eq_true]
    rfl
  obtain ⟨_, hrun, _⟩ := hd
  delta execEndProg
  dsimp only
  rw [hstep, veng_setVeng_same, hrun]
  exact congrArg _ (if_pos hsame)

section
variable (hjob : (coreSt s l).veng.job = some (k, seq))
include hjob

/-- At the budget a further instruction ends the program (R113). -/
theorem execVinstrBudgetExceeded_at_budget (hrun : (coreSt s l).veng.run = true)
    (hb : (coreSt s l).veng.budget * 65536 ≤ (coreSt s l).veng.count) :
    execVinstrBudgetExceeded l s = .next (vFault s l k seq .timeout (coreSt s l).veng.pc (vOpc (vFetch s (coreSt s l).veng))) := by
  delta execVinstrBudgetExceeded
  dsimp only
  rw [hjob]
  exact congrArg _ (if_pos (by rw [hrun, decide_eq_true hb]; rfl))

theorem execVinstrBudgetExceeded_below_budget (hb : (coreSt s l).veng.count < (coreSt s l).veng.budget * 65536) :
    execVinstrBudgetExceeded l s = .next s := by
  delta execVinstrBudgetExceeded
  dsimp only
  rw [hjob]
  exact congrArg _ (if_neg (by rw [decide_eq_false (Nat.not_le.2 hb), Bool.and_false]; exact Bool.false_ne_true))

end

end

/-- Settles O28: each clause is one way in which the step, END or the budget ends the program. -/
theorem vectorProgramEnds : Obligations.VectorProgramEnds := by
  intro s l k seq hjob hrun
  refine ⟨fun w u hd ho hok => ?_, fun hb => ?_, fun hb => ⟨?_, fun hwin => ?_⟩, fun w u hd hk => ?_⟩
  · rw [exec_endProg, execEndProg_of_due hd ho hok]
  · rw [exec_vinstrBudgetExceeded, execVinstrBudgetExceeded_at_budget hjob hrun hb]
  · rw [exec_vinstrBudgetExceeded, execVinstrBudgetExceeded_below_budget hjob hb]
  · rw [exec_nop, vstep_past_window hjob hrun hb hwin]
  · rw [exec_nop, vstep_of_unknown hd hk]

end Sys2Proof.Machine
end

section
/-!
A MATMUL in flight: its next block on the array (R200, R214), its shadow checks (R215, R216) and its fall back to the dense engine (R210).
-/
namespace Sys2Proof.Machine

theorem exec_matmulBlock (s : State) (l k seq : Nat) : exec (.matmulBlock l k seq) s = .next (matmulBlock l k seq 65 s) := rfl

theorem exec_shadowDone (s : State) (l k seq : Nat) : exec (.shadowDone l k seq) s = .next (shadowDone s l k seq) := rfl

theorem exec_sparseFallback (s : State) (l k seq : Nat) : exec (.sparseFallback l k seq) s = .next (sparseFallback s l k seq) := rfl

section
variable {s : State} {l k seq j b : Nat} {m : MatRun} {f : FTile} {t : List Nat}

section
variable (hm : matOf s l k seq = some m) (hf : flightTile s l k seq = some f)
include hm hf

section
variable (n : Nat) (hj : ctxJob s l k = some j) (hw : m.waiting = false)
  (hidle : ((coreSt s l).veng.job == some (k, seq) && (coreSt s l).veng.run) = false)
include hj hw hidle

/-- A block whose shadow failed comes before the next one in order (R215). -/
theorem matmulBlock_of_redo (hr : m.redo = b :: t) :
    matmulBlock l k seq (n + 1) s = computeBlock s l j { m with redo := t } f.desc b := by
  unfold matmulBlock
  simp only [hm, hf, hj, hw, hidle, hr, Bool.or_self, Bool.false_eq_true, if_false]

/-- With no failed shadow to redo, the next block in order is computed unless it is predicted inactive (R200, R214). -/
theorem matmulBlock_of_unpredicted (hr : m.redo = []) (hn : m.next < blockCount f.desc)
    (hp : predicted s l { m with next := m.next + 1 } f.desc m.next = false) :
    matmulBlock l k seq (n + 1) s = computeBlock s l j { m with next := m.next + 1 } f.desc m.next := by
  simp only [hw, hr] at hp
  unfold matmulBlock
  simp only [hm, hf, hj, hw, hidle, hr, hp, if_neg (Nat.not_le.2 hn), Bool.or_self, Bool.false_eq_true, if_false]

end

/-- A shadow that passes skips its block (R215, R216). -/
theorem shadowDone_of_pass (hs : m.shadow = b :: t) (hp : shadowPass s f.desc b = true) :
    shadowDone s l k seq = skipBlock s l { m with shadow := t } f.desc b := by
  unfold shadowDone
  simp only [hm, hf, hs, if_pos hp]

/-- A shadow that fails is a miss, and its block waits for the array (R215). -/
theorem shadowDone_of_miss (hs : m.shadow = b :: t) (hp : shadowPass s f.desc b = false) :
    shadowDone s l k seq = setMat (inc s .predMissCnt l) l { m with shadow := t, redo := m.redo ++ [b] } := by
  unfold shadowDone
  simp only [hm, hf, hs, hp, Bool.false_eq_true, if_false]

/-- A waiting tile takes the dense engine when nothing but this tile holds it (R210). -/
theorem sparseFallback_of_free (hw : m.waiting = true)
    (hb : bit (enginesBusy (coreSt (setFlight s l k { f with stages := 0 }) l) ||| Tbl.getD s.engHold l 0) 3 = false) :
    sparseFallback s l k seq = setMat (setFlight s l k { f with stages := f.stages ||| 8 }) l { m with waiting := false } := by
  unfold sparseFallback
  simp only [hm, hf, hw, hb, Bool.true_eq_false, Bool.false_eq_true, or_self, if_false]

end

end

/-- Settles O20: each clause is one case of its command, MATMUL_BLOCK's on the first unit of its fuel. -/
theorem matmulProgress : Obligations.MatmulProgress := by
  intro s l k seq j m f hm hf hj
  refine ⟨fun b t hw hidle hr => ?_, fun hw hidle hr hn hp => ?_, fun b t hs hp => ?_, fun b t hs hp => ?_, fun hw hb => ?_⟩
  · rw [exec_matmulBlock, matmulBlock_of_redo hm hf 64 hj hw hidle hr]
  · rw [exec_matmulBlock, matmulBlock_of_unpredicted hm hf 64 hj hw hidle hr hn hp]
  · rw [exec_shadowDone, shadowDone_of_pass hm hf hs hp]
  · rw [exec_shadowDone, shadowDone_of_miss hm hf hs hp]
  · rw [exec_sparseFallback, sparseFallback_of_free hm hf hw hb]

end Sys2Proof.Machine
end
